-- ==== Sys2Proof/Word.lean ====
section
/-! DEFINITION. The word types of the machine and the reading of a field of a word (00 R5, R7). -/

namespace Sys2Proof

/-- A byte (Table 0-2). -/
abbrev Byte := BitVec 8
/-- A word: 32 bits (R7). -/
abbrev Word := BitVec 32
/-- A double: 64 bits (R7). -/
abbrev Double := BitVec 64
/-- A scalar register name s0..s63 (R16). -/
abbrev SReg := BitVec 6
/-- A vector register name v0..v2047 (R16). -/
abbrev VReg := BitVec 11
/-- A mask register name m0..m15 (R16). -/
abbrev MReg := BitVec 4

/-- The slice x[lo + len - 1 : lo] (R5). -/
abbrev slice {n : Nat} (x : BitVec n) (lo len : Nat) : BitVec len := x.extractLsb' lo len

/-- Bit i of x (R5). -/
abbrev bitAt {n : Nat} (x : BitVec n) (i : Nat) : Bool := x.getLsbD i

end Sys2Proof
end

