-- ==== Sys2Proof/Syntax.lean ====
section
/-! DEFINITION. The instructions: one constructor per row of the opcode table. Scalar and tile words carry their
fields, lane words carry the operands of one lane word, and the rows without an encoding (what the device, the host or
service software does at its own time) carry what names the occurrence. -/

namespace Sys2Proof

/-- An operand field of a lane word, read under its class (02 R40): a vector register, a scalar register, a mask, or
unused. -/
inductive Opnd where
  | vec (r : BitVec 11)
  | sca (r : BitVec 6)
  | msk (r : BitVec 4)
  | unused
  deriving DecidableEq, Repr, Inhabited

/-- The modifier word without its bit 16 (02 R42, Table 2-4). -/
structure LaneMod where
  /-- Element format or width; 0 is FMT.EF. -/
  ef : BitVec 4
  rnd : BitVec 3
  satm : BitVec 2
  scope : BitVec 3
  ord : BitVec 3
  arg : BitVec 16
  deriving DecidableEq, Repr, Inhabited

/-- A lane word without its opcode (02 R39, Table 2-3). -/
structure LaneForm where
  /-- The switch marker. -/
  s : BitVec 1
  /-- The mask field mk (02 R41). -/
  m : BitVec 4
  vd : Opnd
  va : Opnd
  vb : Opnd
  vc : Opnd
  mod : LaneMod
  deriving DecidableEq, Repr, Inhabited

/-- Which of a squad's or block's streams (02 R33). -/
inductive Stream where
  | scalar | lane | tile
  deriving DecidableEq, Repr, Inhabited

/-- A word that is no instruction (02 R61), with its bits. -/
inductive BadWord where
  | scalar (w : BitVec 32)
  | lane (w : BitVec 96)
  | tile (w : BitVec 64)
  deriving DecidableEq, Repr, Inhabited

/-- What Relay injects from: a posting channel, or compiled transfer t (13 R261, R264). -/
inductive InjectSource where
  | chan (c : Nat)
  | xfer (t : Nat)
  deriving DecidableEq, Repr, Inhabited

/-- What a page fetch was for (03 R80; 13 R278): a fault-swapped gang, or a request held at a reticle. -/
inductive FetchTarget where
  | gang (g : Nat)
  | request (ret req : Nat)
  deriving DecidableEq, Repr, Inhabited

/-- What a service-cluster core does to device memory (17 R327; 16 R366): read n bytes, write bytes, or repair the
aligned 32-byte unit with these bytes. -/
inductive ServiceAccess where
  | read (n : Nat)
  | write (data : List (BitVec 8))
  | repair (data : List (BitVec 8))
  deriving DecidableEq, Repr, Inhabited

/-- The reserved part of each reticle's bonded DRAM, as service software lays it out (01 R26; 16 R319; 17 R323, R324): offset
and length of the frame pool, of the spill areas, and of the snoop filter. [log 42] -/
structure Reserved where
  frames : Nat × Nat := (0, 0)
  spills : Nat × Nat := (0, 0)
  filter : Nat × Nat := (0, 0)
  deriving DecidableEq, Repr, Inhabited

/-- What service software gives a job at its creation (01 R21; 03 R69; 05 R115; 09 R193; 12 R252): its weight-store
allotments as (reticle, WSBASE, WSSIZE), its spill limits, its number of ranks, and, where the device has no gang yet, the
reserved areas of its reticles. -/
structure JobParams where
  job : BitVec 16
  asid : BitVec 16
  ws : List (Nat × Nat × Nat)
  sseg : Nat
  vseg : Nat
  ranks : Nat
  reserved : Reserved := {}
  deriving DecidableEq, Repr, Inhabited

/-- The instructions and events of the opcode table. -/
inductive Instr where
  /-- Scalar add of sa and sb, wrapped to 64 bits, into sd. (R119) -/
  | add (s : BitVec 1) (d : BitVec 6) (a : BitVec 6) (b : BitVec 6)
  /-- Scalar subtract, wrapped to 64 bits. (R119) -/
  | sub (s : BitVec 1) (d : BitVec 6) (a : BitVec 6) (b : BitVec 6)
  /-- Scalar multiply, low 64 bits. (R119) -/
  | mul (s : BitVec 1) (d : BitVec 6) (a : BitVec 6) (b : BitVec 6)
  /-- High 64 bits of the signed product. (R119) -/
  | mulh (s : BitVec 1) (d : BitVec 6) (a : BitVec 6) (b : BitVec 6)
  /-- High 64 bits of the unsigned product. (R119) -/
  | mulhu (s : BitVec 1) (d : BitVec 6) (a : BitVec 6) (b : BitVec 6)
  /-- Variable-latency signed division truncated toward zero. (R119) -/
  | div (s : BitVec 1) (d : BitVec 6) (a : BitVec 6) (b : BitVec 6)
  /-- Variable-latency unsigned division. (R119) -/
  | divu (s : BitVec 1) (d : BitVec 6) (a : BitVec 6) (b : BitVec 6)
  /-- Variable-latency signed remainder. (R119) -/
  | rem (s : BitVec 1) (d : BitVec 6) (a : BitVec 6) (b : BitVec 6)
  /-- Variable-latency unsigned remainder. (R119) -/
  | remu (s : BitVec 1) (d : BitVec 6) (a : BitVec 6) (b : BitVec 6)
  /-- Bitwise and of two scalars. (R119) -/
  | and (s : BitVec 1) (d : BitVec 6) (a : BitVec 6) (b : BitVec 6)
  /-- Bitwise or of two scalars. (R119) -/
  | or (s : BitVec 1) (d : BitVec 6) (a : BitVec 6) (b : BitVec 6)
  /-- Bitwise exclusive or of two scalars. (R119) -/
  | xor (s : BitVec 1) (d : BitVec 6) (a : BitVec 6) (b : BitVec 6)
  /-- Shift left by sb[5:0]. (R119) -/
  | shl (s : BitVec 1) (d : BitVec 6) (a : BitVec 6) (b : BitVec 6)
  /-- Logical shift right by sb[5:0]. (R119) -/
  | shr (s : BitVec 1) (d : BitVec 6) (a : BitVec 6) (b : BitVec 6)
  /-- Arithmetic shift right by sb[5:0]. (R119) -/
  | sar (s : BitVec 1) (d : BitVec 6) (a : BitVec 6) (b : BitVec 6)
  /-- Signed minimum. (R119) -/
  | min (s : BitVec 1) (d : BitVec 6) (a : BitVec 6) (b : BitVec 6)
  /-- Signed maximum. (R119) -/
  | max (s : BitVec 1) (d : BitVec 6) (a : BitVec 6) (b : BitVec 6)
  /-- Unsigned minimum. (R119) -/
  | minu (s : BitVec 1) (d : BitVec 6) (a : BitVec 6) (b : BitVec 6)
  /-- Unsigned maximum. (R119) -/
  | maxu (s : BitVec 1) (d : BitVec 6) (a : BitVec 6) (b : BitVec 6)
  /-- Set sd to 1 when sa is less than sb, signed. (R119) -/
  | slt (s : BitVec 1) (d : BitVec 6) (a : BitVec 6) (b : BitVec 6)
  /-- Set sd to 1 when sa is less than sb, unsigned. (R119) -/
  | sltu (s : BitVec 1) (d : BitVec 6) (a : BitVec 6) (b : BitVec 6)
  /-- Set sd to 1 when sa equals sb. (R119) -/
  | seq (s : BitVec 1) (d : BitVec 6) (a : BitVec 6) (b : BitVec 6)
  /-- Set sd to 1 when sa differs from sb. (R119) -/
  | sne (s : BitVec 1) (d : BitVec 6) (a : BitVec 6) (b : BitVec 6)
  /-- Count leading zero bits of sa. (R119) -/
  | clz (s : BitVec 1) (d : BitVec 6) (a : BitVec 6)
  /-- Count trailing zero bits of sa. (R119) -/
  | ctz (s : BitVec 1) (d : BitVec 6) (a : BitVec 6)
  /-- Count one bits of sa. (R119) -/
  | popc (s : BitVec 1) (d : BitVec 6) (a : BitVec 6)
  /-- sd := sa + sb. (R119) -/
  | lea0 (s : BitVec 1) (d : BitVec 6) (a : BitVec 6) (b : BitVec 6)
  /-- sd := sa + 2 × sb. (R119) -/
  | lea1 (s : BitVec 1) (d : BitVec 6) (a : BitVec 6) (b : BitVec 6)
  /-- sd := sa + 4 × sb. (R119) -/
  | lea2 (s : BitVec 1) (d : BitVec 6) (a : BitVec 6) (b : BitVec 6)
  /-- sd := sa + 8 × sb. (R119) -/
  | lea3 (s : BitVec 1) (d : BitVec 6) (a : BitVec 6) (b : BitVec 6)
  /-- Add a sign-extended 13-bit immediate. (R120) -/
  | addi (s : BitVec 1) (d : BitVec 6) (a : BitVec 6) (i : BitVec 13)
  /-- And with a sign-extended immediate. (R120) -/
  | andi (s : BitVec 1) (d : BitVec 6) (a : BitVec 6) (i : BitVec 13)
  /-- Or with a sign-extended immediate. (R120) -/
  | ori (s : BitVec 1) (d : BitVec 6) (a : BitVec 6) (i : BitVec 13)
  /-- Exclusive or with a sign-extended immediate. (R120) -/
  | xori (s : BitVec 1) (d : BitVec 6) (a : BitVec 6) (i : BitVec 13)
  /-- Shift left by an immediate count. (R120) -/
  | shli (s : BitVec 1) (d : BitVec 6) (a : BitVec 6) (i : BitVec 6)
  /-- Logical shift right by an immediate count. (R120) -/
  | shri (s : BitVec 1) (d : BitVec 6) (a : BitVec 6) (i : BitVec 6)
  /-- Arithmetic shift right by an immediate count. (R120) -/
  | sari (s : BitVec 1) (d : BitVec 6) (a : BitVec 6) (i : BitVec 6)
  /-- Signed compare with an immediate. (R120) -/
  | slti (s : BitVec 1) (d : BitVec 6) (a : BitVec 6) (i : BitVec 13)
  /-- Unsigned compare with a sign-extended immediate. (R120) -/
  | sltui (s : BitVec 1) (d : BitVec 6) (a : BitVec 6) (i : BitVec 13)
  /-- Multiply by a sign-extended immediate. (R120) -/
  | muli (s : BitVec 1) (d : BitVec 6) (a : BitVec 6) (i : BitVec 13)
  /-- Load a sign-extended 19-bit immediate. (R121) -/
  | lis (s : BitVec 1) (d : BitVec 6) (i : BitVec 19)
  /-- Load a sign-extended immediate shifted left by 13. (R121) -/
  | lui (s : BitVec 1) (d : BitVec 6) (i : BitVec 19)
  /-- Load PC plus an immediate shifted left by 13. (R121) -/
  | pcrel (s : BitVec 1) (d : BitVec 6) (i : BitVec 19)
  /-- Branch when sa is zero. (R123) -/
  | bEqz (s : BitVec 1) (a : BitVec 6) (o : BitVec 15)
  /-- Branch when sa is nonzero. (R123) -/
  | bNez (s : BitVec 1) (a : BitVec 6) (o : BitVec 15)
  /-- Branch when sa is negative. (R123) -/
  | bLtz (s : BitVec 1) (a : BitVec 6) (o : BitVec 15)
  /-- Branch when sa is not negative. (R123) -/
  | bGez (s : BitVec 1) (a : BitVec 6) (o : BitVec 15)
  /-- Branch when sa is positive. (R123) -/
  | bGtz (s : BitVec 1) (a : BitVec 6) (o : BitVec 15)
  /-- Branch when sa is not positive. (R123) -/
  | bLez (s : BitVec 1) (a : BitVec 6) (o : BitVec 15)
  /-- Branch when any bit of the mask is one. (R123) -/
  | bMany (s : BitVec 1) (m : BitVec 4) (o : BitVec 15)
  /-- Branch when every bit of the mask is zero. (R123) -/
  | bMnone (s : BitVec 1) (m : BitVec 4) (o : BitVec 15)
  /-- Branch when every bit of the mask is one. (R123) -/
  | bMall (s : BitVec 1) (m : BitVec 4) (o : BitVec 15)
  /-- Jump by a signed word offset. (R124) -/
  | jmp (s : BitVec 1) (o : BitVec 25)
  /-- Call a PC-relative target, slide the windows and write the link word. (R116) -/
  | call (s : BitVec 1) (v : BitVec 5) (w : BitVec 2) (o : BitVec 18)
  /-- Call the address in sa, slide the windows and write the link word. (R116) -/
  | callr (s : BitVec 1) (v : BitVec 5) (w : BitVec 2) (a : BitVec 6)
  /-- Jump to sa plus an immediate. (R124) -/
  | jr (s : BitVec 1) (a : BitVec 6) (i : BitVec 13)
  /-- Return through s15 and slide both windows back. (R118) -/
  | ret (s : BitVec 1)
  /-- Enqueue the next n lane words from the lane PC. (R47) -/
  | lane (s : BitVec 1) (n : BitVec 19)
  /-- Move the lane PC by a signed lane-word offset. (R125) -/
  | ljmp (s : BitVec 1) (o : BitVec 25)
  /-- Set the lane PC to sa plus an immediate. (R125) -/
  | ljr (s : BitVec 1) (a : BitVec 6) (i : BitVec 13)
  /-- Read the lane PC into sd. (R125) -/
  | lpcr (s : BitVec 1) (d : BitVec 6)
  /-- Write a mask register from sa[31:0]. (R127) -/
  | mset (s : BitVec 1) (n : BitVec 4) (a : BitVec 6)
  /-- Read a mask register into sd. (R127) -/
  | mget (s : BitVec 1) (d : BitVec 6) (n : BitVec 4)
  /-- Ordinary scalar load through the L1. (R199) -/
  | lds (s : BitVec 1) (d : BitVec 6) (a : BitVec 6) (w : BitVec 2) (i : BitVec 11)
  /-- Ordinary scalar store written through to the home. (R199) -/
  | sts (s : BitVec 1) (d : BitVec 6) (a : BitVec 6) (w : BitVec 2) (i : BitVec 11)
  /-- Scalar acquire load at a scope. (R199) -/
  | ldsa (s : BitVec 1) (d : BitVec 6) (a : BitVec 6) (w : BitVec 2) (p : BitVec 3) (i : BitVec 8)
  /-- Scalar release store at a scope. (R199) -/
  | stsl (s : BitVec 1) (d : BitVec 6) (a : BitVec 6) (w : BitVec 2) (p : BitVec 3) (i : BitVec 8)
  /-- Scalar atomic add at the home; sc receives the old value. (R200) -/
  | atomsAdd (s : BitVec 1) (a : BitVec 6) (b : BitVec 6) (c : BitVec 6) (w : BitVec 1)
  /-- Scalar atomic signed minimum. (R200) -/
  | atomsMin (s : BitVec 1) (a : BitVec 6) (b : BitVec 6) (c : BitVec 6) (w : BitVec 1)
  /-- Scalar atomic signed maximum. (R200) -/
  | atomsMax (s : BitVec 1) (a : BitVec 6) (b : BitVec 6) (c : BitVec 6) (w : BitVec 1)
  /-- Scalar atomic and. (R200) -/
  | atomsAnd (s : BitVec 1) (a : BitVec 6) (b : BitVec 6) (c : BitVec 6) (w : BitVec 1)
  /-- Scalar atomic or. (R200) -/
  | atomsOr (s : BitVec 1) (a : BitVec 6) (b : BitVec 6) (c : BitVec 6) (w : BitVec 1)
  /-- Scalar atomic exclusive or. (R200) -/
  | atomsXor (s : BitVec 1) (a : BitVec 6) (b : BitVec 6) (c : BitVec 6) (w : BitVec 1)
  /-- Scalar atomic exchange. (R200) -/
  | atomsExch (s : BitVec 1) (a : BitVec 6) (b : BitVec 6) (c : BitVec 6) (w : BitVec 1)
  /-- Scalar atomic compare-and-swap with sc as comparand. (R200) -/
  | atomsCas (s : BitVec 1) (a : BitVec 6) (b : BitVec 6) (c : BitVec 6) (w : BitVec 1)
  /-- Scalar atomic FP32 add, word width only. (R200) -/
  | atomsFadd (s : BitVec 1) (a : BitVec 6) (b : BitVec 6) (c : BitVec 6)
  /-- Scalar atomic magnitude maximum on bit patterns, word width only. (R200) -/
  | atomsFamax (s : BitVec 1) (a : BitVec 6) (b : BitVec 6) (c : BitVec 6)
  /-- Post a remote read of F flits into local memory. (R268) -/
  | xget (s : BitVec 1) (a : BitVec 6) (b : BitVec 6) (c : BitVec 6) (n : BitVec 7)
  /-- Post a remote write of F flits from local memory. (R268) -/
  | xput (s : BitVec 1) (a : BitVec 6) (b : BitVec 6) (c : BitVec 6) (n : BitVec 7)
  /-- Post elementwise remote atomics returning old values locally. (R270) -/
  | xamo (s : BitVec 1) (a : BitVec 6) (b : BitVec 6) (c : BitVec 6) (n : BitVec 7)
  /-- Post the poster's part of a collective described by a card. (R273) -/
  | xcoll (s : BitVec 1) (a : BitVec 6)
  /-- Post the poster's part of a transposing all-to-all. (R281) -/
  | xtxa (s : BitVec 1) (a : BitVec 6) (b : BitVec 6) (c : BitVec 6)
  /-- Post a multicast store to every member of an aperture. (R268) -/
  | xmst (s : BitVec 1) (a : BitVec 6) (b : BitVec 6) (n : BitVec 7)
  /-- Post a reducing load across the members of an aperture. (R272) -/
  | xmld (s : BitVec 1) (a : BitVec 6) (b : BitVec 6) (c : BitVec 6) (n : BitVec 7)
  /-- Set a channel's reserved response slots, unordered mode. (R263) -/
  | xchan (s : BitVec 1) (a : BitVec 6) (b : BitVec 6)
  /-- Set a channel's reserved response slots, ordered mode. (R263) -/
  | xchanOrd (s : BitVec 1) (a : BitVec 6) (b : BitVec 6)
  /-- Permanently undefined scalar word; raises an illegal instruction. (R64) -/
  | udf (n : BitVec 25)
  /-- No effect; with S set parks the squad. (R63) -/
  | nop (s : BitVec 1)
  /-- Declare the squad's step finished and park until the job's step advances. (R71) -/
  | sync (s : BitVec 1) (d : BitVec 6)
  /-- End the squad after its stores are acknowledged. (R107) -/
  | exit (s : BitVec 1)
  /-- Park on a completion token, letting the gang leave its cores. (R103) -/
  | yield (s : BitVec 1) (a : BitVec 6) (b : BitVec 6) (c : BitVec 6)
  /-- Enter the trap handler with cause 0x10. (R309) -/
  | trap (s : BitVec 1) (n : BitVec 18)
  /-- Send one service request per active lane and park until answered. (R329) -/
  | sysc (s : BitVec 1) (d : BitVec 6) (a : BitVec 6) (b : BitVec 6)
  /-- Return from the trap handler, popping the marker. (R310) -/
  | rett (s : BitVec 1)
  /-- Open an idempotent region and record its checkpoint. (R312) -/
  | ireg (s : BitVec 1)
  /-- Order the squad's accesses at a scope. (R217) -/
  | fence (s : BitVec 1) (p : BitVec 3) (o : BitVec 3)
  /-- Park until a token word reaches a value, then acquire. (R253) -/
  | waitseq (s : BitVec 1) (p : BitVec 3) (a : BitVec 6) (b : BitVec 6)
  /-- Read a control register into sd. (R128) -/
  | getx (s : BitVec 1) (d : BitVec 6) (n : BitVec 12)
  /-- Write a control register's RW fields from sa. (R128) -/
  | setx (s : BitVec 1) (a : BitVec 6) (n : BitVec 12)
  /-- Write FMT under a bit mask. (R130) -/
  | setf (s : BitVec 1) (a : BitVec 6) (b : BitVec 6)
  /-- Read FMT into sd. (R130) -/
  | getf (s : BitVec 1) (d : BitVec 6)
  /-- Arrive at a block barrier with a count. (R244) -/
  | bara (s : BitVec 1) (n : BitVec 4) (a : BitVec 6)
  /-- Wait at a block barrier. (R244) -/
  | barw (s : BitVec 1) (n : BitVec 4)
  /-- Arrive at and wait on a block barrier. (R244) -/
  | bars (s : BitVec 1) (n : BitVec 4) (a : BitVec 6)
  /-- Submit a chain of copy-engine cards. (R250) -/
  | enq (s : BitVec 1) (d : BitVec 6) (a : BitVec 6) (b : BitVec 6)
  /-- Place a job card on the own or a neighbouring reticle's queue. (R104) -/
  | post (s : BitVec 1) (d : BitVec 6) (a : BitVec 6) (b : BitVec 6)
  /-- Lane integer add with fitting. (R154) -/
  | vadd (f : LaneForm)
  /-- Lane integer subtract. (R154) -/
  | vsub (f : LaneForm)
  /-- Lane integer multiply. (R154) -/
  | vmul (f : LaneForm)
  /-- Lane integer multiply, high half. (R154) -/
  | vmulh (f : LaneForm)
  /-- Lane integer multiply-add with one fitting. (R154) -/
  | vmad (f : LaneForm)
  /-- Lane integer minimum. (R154) -/
  | vmin (f : LaneForm)
  /-- Lane integer maximum. (R154) -/
  | vmax (f : LaneForm)
  /-- Lane integer absolute value. (R154) -/
  | vabs (f : LaneForm)
  /-- Lane integer negate. (R154) -/
  | vneg (f : LaneForm)
  /-- Lane integer add, always clamping. (R154) -/
  | vadds (f : LaneForm)
  /-- Lane integer subtract, always clamping. (R154) -/
  | vsubs (f : LaneForm)
  /-- Lane leading-zero count. (R154) -/
  | vclz (f : LaneForm)
  /-- Lane one-bit count. (R154) -/
  | vpopc (f : LaneForm)
  /-- Lane bitwise and. (R155) -/
  | vand (f : LaneForm)
  /-- Lane bitwise or. (R155) -/
  | vor (f : LaneForm)
  /-- Lane bitwise exclusive or. (R155) -/
  | vxor (f : LaneForm)
  /-- Lane bitwise complement. (R155) -/
  | vnot (f : LaneForm)
  /-- Lane shift left. (R155) -/
  | vshl (f : LaneForm)
  /-- Lane logical shift right. (R155) -/
  | vshr (f : LaneForm)
  /-- Lane arithmetic shift right. (R155) -/
  | vsar (f : LaneForm)
  /-- Lane move. (R155) -/
  | vmov (f : LaneForm)
  /-- Broadcast lane k of va to the active lanes. (R155) -/
  | vbcast (f : LaneForm)
  /-- Select per lane by a mask. (R155) -/
  | vsel (f : LaneForm)
  /-- Write each lane's LANEID. (R155) -/
  | vlane (f : LaneForm)
  /-- Write a 32-bit immediate per FMT.EF. (R155) -/
  | vimm (s : BitVec 1) (mk : BitVec 4) (vd : BitVec 11) (imm : BitVec 32)
  /-- Integer compare equal into a mask. (R157) -/
  | vcmpEq (f : LaneForm)
  /-- Integer compare not equal into a mask. (R157) -/
  | vcmpNe (f : LaneForm)
  /-- Integer compare less than. (R157) -/
  | vcmpLt (f : LaneForm)
  /-- Integer compare less or equal. (R157) -/
  | vcmpLe (f : LaneForm)
  /-- Integer compare greater than. (R157) -/
  | vcmpGt (f : LaneForm)
  /-- Integer compare greater or equal. (R157) -/
  | vcmpGe (f : LaneForm)
  /-- Unsigned compare less than. (R157) -/
  | vcmpLtu (f : LaneForm)
  /-- Unsigned compare less or equal. (R157) -/
  | vcmpLeu (f : LaneForm)
  /-- Unsigned compare greater than. (R157) -/
  | vcmpGtu (f : LaneForm)
  /-- Unsigned compare greater or equal. (R157) -/
  | vcmpGeu (f : LaneForm)
  /-- Lane floating add, rounded once. (R159) -/
  | vfadd (f : LaneForm)
  /-- Lane floating subtract. (R159) -/
  | vfsub (f : LaneForm)
  /-- Lane floating multiply. (R159) -/
  | vfmul (f : LaneForm)
  /-- Lane fused multiply-add. (R159) -/
  | vfma (f : LaneForm)
  /-- Lane fused multiply-subtract. (R159) -/
  | vfms (f : LaneForm)
  /-- Lane fused negative multiply-add. (R159) -/
  | vfnma (f : LaneForm)
  /-- Lane floating minimum. (R159) -/
  | vfmin (f : LaneForm)
  /-- Lane floating maximum. (R159) -/
  | vfmax (f : LaneForm)
  /-- Clear the sign bit. (R159) -/
  | vfabs (f : LaneForm)
  /-- Invert the sign bit. (R159) -/
  | vfneg (f : LaneForm)
  /-- Write the class bit of each element. (R159) -/
  | vfclass (f : LaneForm)
  /-- Variable-latency floating divide. (R160) -/
  | vfdiv (f : LaneForm)
  /-- Variable-latency floating square root. (R160) -/
  | vfsqrt (f : LaneForm)
  /-- Variable-latency reciprocal. (R160) -/
  | vfrcp (f : LaneForm)
  /-- Variable-latency reciprocal square root. (R160) -/
  | vfrsq (f : LaneForm)
  /-- Variable-latency base-2 exponential. (R160) -/
  | vfexp2 (f : LaneForm)
  /-- Variable-latency base-2 logarithm. (R160) -/
  | vflog2 (f : LaneForm)
  /-- Variable-latency lane integer divide. (R160) -/
  | vdiv (f : LaneForm)
  /-- Variable-latency lane integer remainder. (R160) -/
  | vrem (f : LaneForm)
  /-- Floating compare equal into a mask. (R158) -/
  | vfcmpEq (f : LaneForm)
  /-- Floating compare not equal. (R158) -/
  | vfcmpNe (f : LaneForm)
  /-- Floating compare less than. (R158) -/
  | vfcmpLt (f : LaneForm)
  /-- Floating compare less or equal. (R158) -/
  | vfcmpLe (f : LaneForm)
  /-- Floating compare unordered. (R158) -/
  | vfcmpUnord (f : LaneForm)
  /-- Floating compare ordered. (R158) -/
  | vfcmpOrd (f : LaneForm)
  /-- Convert each active lane between formats. (R161) -/
  | vcvt (f : LaneForm)
  /-- Quantise the lanes into one BFP-n block of planes. (R163) -/
  | vbfpq (f : LaneForm)
  /-- Dequantise a BFP-n block of planes into the lanes. (R163) -/
  | vbfpd (f : LaneForm)
  /-- Narrow an element into a position of another register. (R162) -/
  | vpack (f : LaneForm)
  /-- Widen an element from a position. (R162) -/
  | vunpk (f : LaneForm)
  /-- Read va from the lane named by vb. (R164) -/
  | vshfl (f : LaneForm)
  /-- Rotate va across the lanes by k. (R164) -/
  | vrot (f : LaneForm)
  /-- Reduce the active lanes and write the total to each. (R165) -/
  | vred (f : LaneForm)
  /-- Inclusive scan over the active lanes. (R165) -/
  | vscan (f : LaneForm)
  /-- Vote over the active lanes of a mask into a scalar. (R170) -/
  | vote (f : LaneForm)
  /-- Gather the mask's active lanes as bits into a scalar. (R170) -/
  | ballotLane (f : LaneForm)
  /-- Gather LANEIDs relative to sb as bits into a scalar. (R170) -/
  | ballotId (f : LaneForm)
  /-- Mask and. (R169) -/
  | mand (f : LaneForm)
  /-- Mask or. (R169) -/
  | mor (f : LaneForm)
  /-- Mask exclusive or. (R169) -/
  | mxor (f : LaneForm)
  /-- Mask complement. (R169) -/
  | mnot (f : LaneForm)
  /-- Mask and-not. (R169) -/
  | mandn (f : LaneForm)
  /-- Count mask bits into a scalar. (R169) -/
  | mpopc (f : LaneForm)
  /-- Index of the lowest mask bit into a scalar. (R169) -/
  | mfirst (f : LaneForm)
  /-- Block-collective divergence: push a construct and place the taken lanes. (R175) -/
  | divb (f : LaneForm)
  /-- Switch the innermost construct to its other path. (R176) -/
  | elseb (f : LaneForm)
  /-- Close the innermost construct and restore lanes, m0 and FMT. (R176) -/
  | recv (f : LaneForm)
  /-- Fuse the block's active lanes permanently and retire empty squads. (R184) -/
  | regrp (f : LaneForm)
  /-- Lane load with per-lane addresses. (R202) -/
  | ld (f : LaneForm)
  /-- Strided lane load. (R202) -/
  | ldst (f : LaneForm)
  /-- Gather lane load. (R202) -/
  | ldg (f : LaneForm)
  /-- Load k consecutive vector registers from one region. (R204) -/
  | ldw (f : LaneForm)
  /-- Lane store with per-lane addresses. (R202) -/
  | st (f : LaneForm)
  /-- Strided lane store. (R202) -/
  | stst (f : LaneForm)
  /-- Scatter lane store. (R202) -/
  | stg (f : LaneForm)
  /-- Per-lane atomic add at the home. (R203) -/
  | atomAdd (f : LaneForm)
  /-- Per-lane atomic signed minimum. (R203) -/
  | atomMin (f : LaneForm)
  /-- Per-lane atomic signed maximum. (R203) -/
  | atomMax (f : LaneForm)
  /-- Per-lane atomic and. (R203) -/
  | atomAnd (f : LaneForm)
  /-- Per-lane atomic or. (R203) -/
  | atomOr (f : LaneForm)
  /-- Per-lane atomic exclusive or. (R203) -/
  | atomXor (f : LaneForm)
  /-- Per-lane atomic exchange. (R203) -/
  | atomExch (f : LaneForm)
  /-- Per-lane atomic compare-and-swap. (R203) -/
  | atomCas (f : LaneForm)
  /-- Per-lane atomic FP32 add. (R203) -/
  | atomFadd (f : LaneForm)
  /-- Per-lane atomic magnitude maximum. (R203) -/
  | atomFamax (f : LaneForm)
  /-- Prefetch lines into the block's L1, never faulting. (R205) -/
  | pref (f : LaneForm)
  /-- Permanently undefined lane word. (R64) -/
  | laneUdf (n : BitVec 32)
  /-- Set the Pacer's format state. (R231) -/
  | tfmt (s : BitVec 1) (ak : BitVec 3) (an : BitVec 4) (bk : BitVec 3) (bn : BitVec 4) (acct : BitVec 1) (ord : BitVec 1) (rm : BitVec 2) (ftz : BitVec 1)
  /-- Latch the A operand descriptor. (R232) -/
  | tdesa (s : BitVec 1) (tm : BitVec 4) (ts : BitVec 4) (tx : BitVec 4) (xs : BitVec 20)
  /-- Latch the B operand descriptor. (R232) -/
  | tdesb (s : BitVec 1) (tm : BitVec 4) (ts : BitVec 4) (tx : BitVec 4) (xs : BitVec 20)
  /-- Load a sign-extended 48-bit immediate into a tile address register. (R232) -/
  | tli (s : BitVec 1) (d : BitVec 4) (i : BitVec 48)
  /-- Load bits 63:48 of a tile address register. (R232) -/
  | tliH (s : BitVec 1) (d : BitVec 4) (i : BitVec 16)
  /-- Add to a tile address register. (R232) -/
  | tadd (s : BitVec 1) (d : BitVec 4) (a : BitVec 4) (b : BitVec 4) (ub : BitVec 1) (sh : BitVec 4) (i : BitVec 38)
  /-- Accumulate a 64×K by K×64 product panel by panel. (R235) -/
  | tmma (s : BitVec 1) (acc : BitVec 2) (kp : BitVec 16)
  /-- Joint 128×128 product across a four-block gang. (R238) -/
  | tmmaj (s : BitVec 1) (acc : BitVec 2) (kp : BitVec 16) (bar : BitVec 4) (cnt : BitVec 5)
  /-- Zero an accumulator and clear ASAT. (R242) -/
  | tzero (s : BitVec 1) (acc : BitVec 2)
  /-- Convert and write an accumulator to memory, with optional amax and clear. (R241) -/
  | tdrain (s : BitVec 1) (acc : BitVec 2) (tm : BitVec 4) (ts : BitVec 4) (tx : BitVec 4) (tw : BitVec 4) (amx : BitVec 1) (clr : BitVec 1) (ofm : BitVec 3) (n : BitVec 4) (rm : BitVec 2) (xs : BitVec 20)
  /-- Pacer waits at a block barrier. (R244) -/
  | tbarw (s : BitVec 1) (bar : BitVec 4)
  /-- Pacer arrives at a block barrier, counted later. (R244) -/
  | tbara (s : BitVec 1) (bar : BitVec 4) (cnt : BitVec 5)
  /-- Decrement a counter and branch the tile stream. (R233) -/
  | tloop (s : BitVec 1) (c : BitVec 4) (off : BitVec 24)
  /-- Wait for earlier tile work and make the Pacer idle. (R233) -/
  | tend (s : BitVec 1)
  /-- Tile no-operation. (R233) -/
  | tnop (s : BitVec 1)
  /-- Load an accumulator's raw words from memory. (R242) -/
  | tldc (s : BitVec 1) (acc : BitVec 2) (tm : BitVec 4) (ts : BitVec 4)
  /-- Store an accumulator's raw words to memory. (R242) -/
  | tstc (s : BitVec 1) (acc : BitVec 2) (tm : BitVec 4) (ts : BitVec 4)
  /-- A fetch meets uncorrectable data; the stream stops and the gang is swapped. (R367) -/
  | uncorrectableFetch (unit : Nat) (pa : Nat)
  /-- A pending tile, engine or carry-time fault is taken at a scalar word boundary. (R308) -/
  | asyncFaultTake (squad : Nat)
  /-- A scalar or lane word with a reserved major, minor or field value or a one in a must-be-zero bit raises an illegal instruction (0x01), and a reserved tile opcode raises a tile fault. (R61) -/
  | illegalInstruction (unit : Nat) (word : BadWord)
  /-- A fetch from a page without execute permission, from off-reticle code, or at a non-canonical or misaligned PC faults before any word decodes. (R34) -/
  | instructionFetchFault (unit : Nat) (stream : Stream) (cause : BitVec 8) (pc : BitVec 64)
  /-- When every resident gang has synced, stop, fence, decide steps and make PHASE odd. (R83) -/
  | computeToExchangeBoundary (dev : Nat) (ticks : Nat)
  /-- When job transfers and image moves end, fence, place and pre-empt, and make PHASE even. (R83) -/
  | exchangeToComputeBoundary (dev : Nat) (ticks : Nat)
  /-- COMPUTE_LIMIT ticks pass: issue stops, unsynced gangs are carried and the boundary runs. (R76) -/
  | computeLimitExpiry (dev : Nat) (ticks : Nat)
  /-- EXCHANGE_LIMIT ticks pass: unfinished job operations are abandoned. (R81) -/
  | exchangeLimitExpiry (dev : Nat)
  /-- The scheduler spills and fills core-local and pooled images during exchange. (R93) -/
  | imageSpillFill (gang : Nat)
  /-- A victim's registers drain from the shadow bank to its frame. (R321) -/
  | shadowBankDrain (core : Nat)
  /-- Relay injects a queued request once a reserved slot is free. (R264) -/
  | relayInject (ret : Nat) (job : Nat) (src : InjectSource) (queued : Nat)
  /-- A request arrives at its responder and is performed. (R265) -/
  | relayRequestArrival (ret : Nat) (req : Nat) (k : Option Nat)
  /-- A response is written at the requester and its slot is freed. (R265) -/
  | relayResponseArrival (ret : Nat) (req : Nat) (k : Option Nat) (cycles : Nat)
  /-- A lost or corrupted packet is retransmitted. (R257) -/
  | packetRetransmit (ret : Nat)
  /-- A posted job card arrives at the neighbour and is checked. (R104) -/
  | neighbourCardArrival (ret : Nat) (k : Nat)
  /-- A post takes its pins and is appended to its channel queue. (R267) -/
  | postAccept (squad : Nat) (k : Nat)
  /-- A submitted card enters its engine queue as an entry frees. (R250) -/
  | cardEnqueue (ret : Nat) (engine : Nat)
  /-- An engine starts a card whose dependences have completed and moves its data. (R246) -/
  | cardStart (ret : Nat) (engine : Nat) (n : Nat)
  /-- A card completes, drops its pins and writes its token. (R252) -/
  | cardComplete (ret : Nat) (engine : Nat)
  /-- Writing ESUBMIT submits a card chain for the job ESJOB names. (R370) -/
  | engineServiceSubmit (ret : Nat) (port : Nat) (value : BitVec 64)
  /-- Writing SDCMD starts a device-wide shoot-down. (R294) -/
  | shootdown (ret : Nat)
  /-- A reticle's acknowledgement reaches the counted tree; DONE sets when complete. (R294) -/
  | shootdownAck (ret : Nat) (node : Nat)
  /-- SDTIMEOUT expires and the silent device is fenced. (R295) -/
  | shootdownTimeout (ret : Nat)
  /-- Writing FCLR lifts a device's fence. (R295) -/
  | fenceClear (ret : Nat) (value : BitVec 64)
  /-- A divergence collective completes and its squads resume together. (R173) -/
  | divergenceCollectiveComplete (block : Nat)
  /-- A variable-latency tile instruction completes. (R229) -/
  | tileInstructionComplete (block : Nat)
  /-- An arrival counts once the party's earlier accesses are performed. (R243) -/
  | barrierArrivalCount (block : Nat) (k : Nat)
  /-- A variable-latency result is written or a store acknowledged. (R45) -/
  | variableResultWriteback (squad : Nat) (k : Nat) (cycles : Nat)
  /-- Uncorrectable data arrives late: roll back to the checkpoint or terminate. (R314) -/
  | lateFault (squad : Nat) (k : Nat)
  /-- The refresh counter moves a weight-store bank into or out of refresh. (R194) -/
  | wsRefreshWindow (dev : Nat)
  /-- A 1 ms power window ends and FDIV is adjusted. (R333) -/
  | powerWindowEnd (ret : Nat) (watts : Nat)
  /-- A core adopts a new FDIV when its matrix unit is idle. (R333) -/
  | fdivAdopt (core : Nat)
  /-- A supply sag stretches a column's cycles. (R334) -/
  | droopStretch (ret : Nat) (column : Nat) (cycles : Nat)
  /-- Writing SWCTL.CLR resets a Stopwatch's values. (R337) -/
  | stopwatchClear (ret : Nat) (u : Nat) (value : BitVec 64)
  /-- Writing SUBMIT checks a descriptor and queues or refuses it. (R91) -/
  | submit (ret : Nat) (port : Nat) (value : BitVec 64)
  /-- A host CXL.mem read of bonded DRAM. (R225) -/
  | hostMemRead (dev : Nat) (addr : Nat) (len : Nat)
  /-- A host CXL.mem write of bonded DRAM. (R225) -/
  | hostMemWrite (dev : Nat) (addr : Nat) (data : List (BitVec 8))
  /-- A host atomic on an owned line serialises with device atomics. (R226) -/
  | hostAtomic (dev : Nat) (addr : Nat) (old : List (BitVec 8)) (new : List (BitVec 8))
  /-- Writing RREPLY delivers RREPLYV as a SYSC request's reply. (R329) -/
  | syscReply (dev : Nat) (core : Nat) (value : BitVec 64)
  /-- Writing RTAIL frees ring space and releases stalled records. (R328) -/
  | reportRingTailWrite (dev : Nat) (value : BitVec 64)
  /-- Writing 1 to ACMD starts an attestation. (R331) -/
  | attestationStart (dev : Nat) (value : BitVec 64)
  /-- The signed report is written at ABUF and ADONE sets. (R331) -/
  | attestationComplete (dev : Nat)
  /-- Cold reset runs the measured boot steps. (R330) -/
  | coldReset (dev : Nat) (fail : Option Nat)
  /-- Warm reset discards all work, keeps memory and reruns boot. (R332) -/
  | warmReset (dev : Nat) (fail : Option Nat)
  /-- A write to a control register with no row of its own sets its fields. (R11) -/
  | registerWrite (dev : Nat) (off : Nat) (value : BitVec 64)
  /-- Service software completes the page fetch for a fault-swapped gang or a pending remote translation, making the gang ready to return or the request retriable. (R80) -/
  | pageFetchCompletion (target : FetchTarget)
  /-- After repairing a location, service software makes a rolled-back or fault-swapped gang ready to return. (R314) -/
  | makeGangReady (gang : Nat)
  /-- Service software terminates a gang by its own choice, for example with cause 0x12 after a rollback or an uncorrectable fetch. (R318) -/
  | serviceSoftwareTermination (gang : Nat) (cause : BitVec 8)
  /-- A service-cluster core reads or writes device memory, such as page tables, page contents and repairs, as a party at .dev and .sys. (R327) -/
  | serviceClusterMemoryAccess (dev : Nat) (pa : Nat) (access : ServiceAccess)
  /-- Service software creates a job on a device, setting JSTEP to 0, CSEQ to 1, the weight-store allotment, the spill limits and the rank count. (R69) -/
  | jobCreation (dev : Nat) (p : JobParams)
  /-- A reticle's Ultra Ethernet endpoint fails and is marked lost, so its external traffic reroutes through a neighbour's endpoint. (R258) -/
  | endpointLost (ret : Nat)
  /-- The column supply recovers above the droop threshold, the stretch ends, and Stopwatch source 8 captures its length. (R334) -/
  | droopStretchEnd (ret : Nat) (column : Nat)
  /-- A protection unit of SRAM, weight store or bonded DRAM comes to hold uncorrectable data. (R366) -/
  | uncorrectableData (addr : Nat)
  deriving DecidableEq, Repr, Inhabited

end Sys2Proof
end

