-- ==== Sys2Proof/WellFormed.lean ====
section
/-! DEFINITION. Which instructions are well formed: the operand classes, admitted modifier fields and field values of
02 R39 to R44, R54 and of each instruction's own rule, as far as the word alone decides them (16 R301). -/

namespace Sys2Proof

/-- Class of an operand field (02 R40; 07 R150). -/
inductive Cls where
  | vec | vs | sca | msk | unused
  deriving DecidableEq, Repr, Inhabited

/-- How a word reads EF (02 R43): as element format, as width, or not at all. -/
inductive EfUse where
  | elem | width | absent
  deriving DecidableEq, Repr, Inhabited

/-- Which ORD codes a word admits (09 R201): 000 alone, those of loads, of stores, or of atomics. -/
inductive OrdUse where
  | plain | loads | stores | atomics
  deriving DecidableEq, Repr, Inhabited

/-- The row of a lane opcode: operand classes, admitted EF codes (bit e for code e), the ARG bits in use, the orders,
and whether mk must be zero. -/
structure LaneShape where
  vd : Cls
  va : Cls
  vb : Cls
  vc : Cls
  efs : BitVec 16
  use : EfUse
  argMask : BitVec 16
  ord : OrdUse
  mkZero : Bool
  deriving DecidableEq, Repr, Inhabited

/-- Number of a lane opcode: 16 x major + minor; BALLOT.id, which shares BALLOT's minor, takes 0x1091. -/
abbrev LaneOp := Nat

/-- The shape of a lane opcode (02 Tables 2-5, 2-12; 07 Tables 7-1 to 7-9; 08 Tables 8-1, 8-3; 09 Table 9-5). va of VPACK and VUNPK
is a vector or a scalar, as their vb is: 07 R162 gives no class for it (log 48, DESIGN CHOICE). -/
def laneShape (op : LaneOp) : LaneShape :=
  match op with
  -- VADD, VSUB, VMUL, VMULH, VMIN, VMAX, VADDS, VSUBS, VDIV, VREM
  | 0x10 | 0x11 | 0x12 | 0x13 | 0x15 | 0x16 | 0x19 | 0x1a | 0x56 | 0x57 => ⟨.vec, .vs, .vs, .unused, 0x7e, .elem, 0x0, .plain, false⟩
  -- VMAD
  | 0x14 => ⟨.vec, .vs, .vs, .vs, 0x7e, .elem, 0x0, .plain, false⟩
  -- VABS, VNEG, VCLZ, VPOPC
  | 0x17 | 0x18 | 0x1b | 0x1c => ⟨.vec, .vs, .unused, .unused, 0x7e, .elem, 0x0, .plain, false⟩
  -- VAND, VOR, VXOR
  | 0x20 | 0x21 | 0x22 => ⟨.vec, .vs, .vs, .unused, 0x7fe, .elem, 0x0, .plain, false⟩
  -- VNOT, VMOV
  | 0x23 | 0x27 => ⟨.vec, .vs, .unused, .unused, 0x7fe, .elem, 0x0, .plain, false⟩
  -- VSHL, VSHR, VSAR
  | 0x24 | 0x25 | 0x26 => ⟨.vec, .vs, .vs, .unused, 0x47e, .elem, 0x0, .plain, false⟩
  -- VBCAST, VROT
  | 0x28 | 0x81 => ⟨.vec, .vec, .unused, .unused, 0x7fe, .elem, 0x1f, .plain, false⟩
  -- VSEL
  | 0x29 => ⟨.vec, .vs, .vs, .msk, 0x7fe, .elem, 0x0, .plain, false⟩
  -- VLANE
  | 0x2a => ⟨.vec, .unused, .unused, .unused, 0x0, .absent, 0x0, .plain, false⟩
  -- VCMP_EQ, VCMP_NE, VCMP_LT, VCMP_LE, VCMP_GT, VCMP_GE, VCMP_LTU, VCMP_LEU, VCMP_GTU, VCMP_GEU
  | 0x30 | 0x31 | 0x32 | 0x33 | 0x34 | 0x35 | 0x36 | 0x37 | 0x38 | 0x39 => ⟨.msk, .vs, .vs, .unused, 0x7e, .elem, 0x0, .plain, false⟩
  -- VFADD, VFSUB, VFMUL, VFMIN, VFMAX, VFDIV
  | 0x40 | 0x41 | 0x42 | 0x46 | 0x47 | 0x50 => ⟨.vec, .vs, .vs, .unused, 0x380, .elem, 0x0, .plain, false⟩
  -- VFMA, VFMS, VFNMA
  | 0x43 | 0x44 | 0x45 => ⟨.vec, .vs, .vs, .vs, 0x380, .elem, 0x0, .plain, false⟩
  -- VFABS, VFNEG, VFCLASS, VFSQRT, VFRCP, VFRSQ, VFEXP2, VFLOG2
  | 0x48 | 0x49 | 0x4a | 0x51 | 0x52 | 0x53 | 0x54 | 0x55 => ⟨.vec, .vs, .unused, .unused, 0x380, .elem, 0x0, .plain, false⟩
  -- VFCMP_EQ, VFCMP_NE, VFCMP_LT, VFCMP_LE, VFCMP_UNORD, VFCMP_ORD
  | 0x60 | 0x61 | 0x62 | 0x63 | 0x64 | 0x65 => ⟨.msk, .vs, .vs, .unused, 0x380, .elem, 0x0, .plain, false⟩
  -- VCVT
  | 0x70 => ⟨.vec, .vs, .unused, .unused, 0x3fe, .elem, 0xf, .plain, false⟩
  -- VBFPQ
  | 0x71 => ⟨.vec, .vs, .unused, .unused, 0x380, .elem, 0xf, .plain, false⟩
  -- VBFPD
  | 0x72 => ⟨.vec, .vec, .unused, .unused, 0x380, .elem, 0xf, .plain, false⟩
  -- VPACK
  | 0x73 => ⟨.vec, .vs, .vs, .unused, 0x1fe, .elem, 0x3, .plain, false⟩
  -- VUNPK
  | 0x74 => ⟨.vec, .vs, .unused, .unused, 0x1fe, .elem, 0x3, .plain, false⟩
  -- VSHFL
  | 0x80 => ⟨.vec, .vec, .vs, .unused, 0x7fe, .elem, 0x0, .plain, false⟩
  -- VRED, VSCAN
  | 0x82 | 0x83 => ⟨.vec, .vec, .unused, .unused, 0x3fe, .elem, 0x7, .plain, false⟩
  -- VOTE
  | 0x90 => ⟨.sca, .msk, .unused, .unused, 0x0, .absent, 0x7, .plain, false⟩
  -- BALLOT_LANE
  | 0x91 => ⟨.sca, .msk, .unused, .unused, 0x0, .absent, 0x1, .plain, false⟩
  -- BALLOT_ID
  | 0x1091 => ⟨.sca, .msk, .sca, .unused, 0x0, .absent, 0x1, .plain, false⟩
  -- MAND, MOR, MXOR, MANDN
  | 0x92 | 0x93 | 0x94 | 0x96 => ⟨.msk, .msk, .msk, .unused, 0x0, .absent, 0x0, .plain, true⟩
  -- MNOT
  | 0x95 => ⟨.msk, .msk, .unused, .unused, 0x0, .absent, 0x0, .plain, true⟩
  -- MPOPC, MFIRST
  | 0x97 | 0x98 => ⟨.sca, .msk, .unused, .unused, 0x0, .absent, 0x0, .plain, true⟩
  -- DIVB
  | 0xa0 => ⟨.unused, .msk, .unused, .unused, 0x0, .absent, 0xffff, .plain, true⟩
  -- ELSEB, RECV
  | 0xa1 | 0xa2 => ⟨.unused, .unused, .unused, .unused, 0x0, .absent, 0x0, .plain, true⟩
  -- REGRP
  | 0xa3 => ⟨.unused, .unused, .unused, .unused, 0x0, .absent, 0xffff, .plain, true⟩
  -- LD
  | 0x100 => ⟨.vec, .vs, .unused, .unused, 0x7e, .width, 0xffff, .loads, false⟩
  -- LDST
  | 0x101 => ⟨.vec, .sca, .sca, .unused, 0x7e, .width, 0xffff, .loads, false⟩
  -- LDG
  | 0x102 => ⟨.vec, .sca, .vec, .unused, 0x7e, .width, 0xffff, .loads, false⟩
  -- LDW
  | 0x103 => ⟨.vec, .sca, .unused, .unused, 0x8, .width, 0xffff, .plain, false⟩
  -- ST
  | 0x110 => ⟨.unused, .vs, .unused, .vs, 0x1e, .width, 0xffff, .stores, false⟩
  -- STST
  | 0x111 => ⟨.unused, .sca, .sca, .vs, 0x1e, .width, 0xffff, .stores, false⟩
  -- STG
  | 0x112 => ⟨.unused, .sca, .vec, .vs, 0x1e, .width, 0xffff, .stores, false⟩
  -- ATOM_ADD, ATOM_MIN, ATOM_MAX, ATOM_AND, ATOM_OR, ATOM_XOR, ATOM_EXCH
  | 0x120 | 0x121 | 0x122 | 0x123 | 0x124 | 0x125 | 0x126 => ⟨.vec, .vs, .unused, .vs, 0x18, .width, 0xffff, .atomics, false⟩
  -- ATOM_CAS
  | 0x127 => ⟨.vec, .vs, .vs, .vs, 0x18, .width, 0xffff, .atomics, false⟩
  -- ATOM_FADD, ATOM_FAMAX
  | 0x128 | 0x129 => ⟨.vec, .vs, .unused, .vs, 0x8, .width, 0xffff, .atomics, false⟩
  -- PREF
  | 0x130 => ⟨.unused, .vs, .unused, .unused, 0x1e, .width, 0xffff, .plain, false⟩
  | _ => ⟨.unused, .unused, .unused, .unused, 0, .absent, 0, .plain, true⟩

/-- The lane opcode and operands of a lane instruction; none for every other one, VIMM and UDF among them. -/
def Instr.lane? (i : Instr) : Option (LaneOp × LaneForm) :=
  match i with
  | .vadd f => some (0x10, f)
  | .vsub f => some (0x11, f)
  | .vmul f => some (0x12, f)
  | .vmulh f => some (0x13, f)
  | .vmad f => some (0x14, f)
  | .vmin f => some (0x15, f)
  | .vmax f => some (0x16, f)
  | .vabs f => some (0x17, f)
  | .vneg f => some (0x18, f)
  | .vadds f => some (0x19, f)
  | .vsubs f => some (0x1a, f)
  | .vclz f => some (0x1b, f)
  | .vpopc f => some (0x1c, f)
  | .vand f => some (0x20, f)
  | .vor f => some (0x21, f)
  | .vxor f => some (0x22, f)
  | .vnot f => some (0x23, f)
  | .vshl f => some (0x24, f)
  | .vshr f => some (0x25, f)
  | .vsar f => some (0x26, f)
  | .vmov f => some (0x27, f)
  | .vbcast f => some (0x28, f)
  | .vsel f => some (0x29, f)
  | .vlane f => some (0x2a, f)
  | .vcmpEq f => some (0x30, f)
  | .vcmpNe f => some (0x31, f)
  | .vcmpLt f => some (0x32, f)
  | .vcmpLe f => some (0x33, f)
  | .vcmpGt f => some (0x34, f)
  | .vcmpGe f => some (0x35, f)
  | .vcmpLtu f => some (0x36, f)
  | .vcmpLeu f => some (0x37, f)
  | .vcmpGtu f => some (0x38, f)
  | .vcmpGeu f => some (0x39, f)
  | .vfadd f => some (0x40, f)
  | .vfsub f => some (0x41, f)
  | .vfmul f => some (0x42, f)
  | .vfma f => some (0x43, f)
  | .vfms f => some (0x44, f)
  | .vfnma f => some (0x45, f)
  | .vfmin f => some (0x46, f)
  | .vfmax f => some (0x47, f)
  | .vfabs f => some (0x48, f)
  | .vfneg f => some (0x49, f)
  | .vfclass f => some (0x4a, f)
  | .vfdiv f => some (0x50, f)
  | .vfsqrt f => some (0x51, f)
  | .vfrcp f => some (0x52, f)
  | .vfrsq f => some (0x53, f)
  | .vfexp2 f => some (0x54, f)
  | .vflog2 f => some (0x55, f)
  | .vdiv f => some (0x56, f)
  | .vrem f => some (0x57, f)
  | .vfcmpEq f => some (0x60, f)
  | .vfcmpNe f => some (0x61, f)
  | .vfcmpLt f => some (0x62, f)
  | .vfcmpLe f => some (0x63, f)
  | .vfcmpUnord f => some (0x64, f)
  | .vfcmpOrd f => some (0x65, f)
  | .vcvt f => some (0x70, f)
  | .vbfpq f => some (0x71, f)
  | .vbfpd f => some (0x72, f)
  | .vpack f => some (0x73, f)
  | .vunpk f => some (0x74, f)
  | .vshfl f => some (0x80, f)
  | .vrot f => some (0x81, f)
  | .vred f => some (0x82, f)
  | .vscan f => some (0x83, f)
  | .vote f => some (0x90, f)
  | .ballotLane f => some (0x91, f)
  | .ballotId f => some (0x1091, f)
  | .mand f => some (0x92, f)
  | .mor f => some (0x93, f)
  | .mxor f => some (0x94, f)
  | .mnot f => some (0x95, f)
  | .mandn f => some (0x96, f)
  | .mpopc f => some (0x97, f)
  | .mfirst f => some (0x98, f)
  | .divb f => some (0xa0, f)
  | .elseb f => some (0xa1, f)
  | .recv f => some (0xa2, f)
  | .regrp f => some (0xa3, f)
  | .ld f => some (0x100, f)
  | .ldst f => some (0x101, f)
  | .ldg f => some (0x102, f)
  | .ldw f => some (0x103, f)
  | .st f => some (0x110, f)
  | .stst f => some (0x111, f)
  | .stg f => some (0x112, f)
  | .atomAdd f => some (0x120, f)
  | .atomMin f => some (0x121, f)
  | .atomMax f => some (0x122, f)
  | .atomAnd f => some (0x123, f)
  | .atomOr f => some (0x124, f)
  | .atomXor f => some (0x125, f)
  | .atomExch f => some (0x126, f)
  | .atomCas f => some (0x127, f)
  | .atomFadd f => some (0x128, f)
  | .atomFamax f => some (0x129, f)
  | .pref f => some (0x130, f)
  | _ => none

/-- EF codes of the integer element formats (Table 6-1). -/
def efInt (e : Nat) : Bool := 1 ≤ e && e ≤ 6
/-- EF codes of the floating-point formats (Table 6-2). -/
def efFloat (e : Nat) : Bool := 7 ≤ e && e ≤ 9
/-- Width in bits of an element format (Tables 6-1, 6-2). -/
def efBits (e : Nat) : Nat :=
  match e with
  | 1 | 4 => 8
  | 2 | 5 | 7 | 8 => 16
  | 10 => 64
  | _ => 32

/-- Whether the word's EF code, RND, SATM and ARG fit together under effective element format or width e: the parts of
each instruction's own rule that depend on the format (07 R154 to R166; 08 R169, R170, R173; 09 R204). RND and SATM not
admitted must be zero (07 R150). -/
def laneAdmits (op : LaneOp) (e : Nat) (m : LaneMod) : Bool :=
  let noRnd := m.rnd == 0
  let noSat := m.satm == 0
  let arg := m.arg.toNat
  match op with
  -- VADD VSUB VMUL VMAD VABS VNEG VDIV VREM: SATM
  | 0x10 | 0x11 | 0x12 | 0x14 | 0x17 | 0x18 | 0x56 | 0x57 => noRnd
  -- VFADD VFSUB VFMUL VFMA VFMS VFNMA, the floating long minors, VBFPD: RND
  | 0x40 | 0x41 | 0x42 | 0x43 | 0x44 | 0x45 | 0x50 | 0x51 | 0x52 | 0x53 | 0x54 | 0x55 => noSat
  | 0x72 => noSat && 2 ≤ arg && arg ≤ 8
  | 0x71 => noRnd && noSat && 2 ≤ arg && arg ≤ 8
  -- VCVT: ARG[3:0] is the source code (07 R161, Table 7-7)
  | 0x70 => 1 ≤ arg && arg ≤ 9 && (if efInt arg && efInt e then noRnd else noSat)
  -- VPACK, VUNPK: position p (07 R162)
  | 0x73 => (if efInt e then noRnd else noSat) && arg < 32 / efBits e
  | 0x74 => noRnd && noSat && arg < 32 / efBits e
  -- VRED, VSCAN (07 R165, Table 7-9)
  | 0x82 | 0x83 =>
    if arg == 0 then (if efInt e then noRnd else noSat)
    else noRnd && noSat && (arg ≤ 2 || (arg ≤ 5 && efInt e))
  -- VOTE, BALLOT (08 R170)
  | 0x90 => noRnd && noSat && arg ≤ 5
  | 0x91 => noRnd && noSat && arg == 0
  | 0x1091 => noRnd && noSat && arg == 1
  -- DIVB, REGRP (08 R173)
  | 0xA0 => noRnd && noSat && arg / 1024 ≤ 48 && (arg % 1024 != 0 || arg / 1024 == 0)
  | 0xA3 => noRnd && noSat && arg / 1024 ≤ 48
  | _ => noRnd && noSat

/-- Which of vd, va, vb, vc are 64-bit operands under effective format or width e (02 R39; 07 R155, R164; 09 R201,
R203). A shift's count is an operand of its format like any other (07 R151). A per-lane address in a vector is always a pair. -/
def lanePairs (op : LaneOp) (e : Nat) : Bool × Bool × Bool × Bool :=
  if 0x20 ≤ op ∧ op ≤ 0x29 then (e == 10, e == 10, e == 10, false)
  else if op = 0x80 ∨ op = 0x81 then (e == 10, e == 10, false, false)
  else if op = 0x100 then (e == 4, true, false, false)
  else if op = 0x101 ∨ op = 0x102 then (e == 4, false, false, false)
  else if op = 0x110 then (false, true, false, e == 4)
  else if op = 0x111 ∨ op = 0x112 then (false, false, false, e == 4)
  else if 0x120 ≤ op ∧ op ≤ 0x129 then (e == 4, true, e == 4, e == 4)
  else if op = 0x130 then (false, true, false, false)
  else (false, false, false, false)

/-- No odd vector register stands where a pair is named (02 R39). -/
def Opnd.evenIf (o : Opnd) (pair : Bool) : Bool :=
  match o with
  | .vec r => !pair || !(bitAt r 0)
  | _ => true

def LaneForm.pairsEven (f : LaneForm) (p : Bool × Bool × Bool × Bool) : Bool :=
  f.vd.evenIf p.1 && f.va.evenIf p.2.1 && f.vb.evenIf p.2.2.1 && f.vc.evenIf p.2.2.2

/-- An operand fits its class (02 R40). -/
def Opnd.fits (o : Opnd) (c : Cls) : Bool :=
  match o, c with
  | .vec _, .vec | .vec _, .vs | .sca _, .vs | .sca _, .sca | .msk _, .msk | .unused, .unused => true
  | _, _ => false

/-- ORD and SCOPE (09 R201; 07 R150; 08 R169, R173). -/
def ordOk (u : OrdUse) (m : LaneMod) : Bool :=
  m.scope != 7 &&
  (if m.ord == 0 then m.scope == 0 else
    match u with
    | .plain => false
    | .loads => m.ord == 1 || m.ord == 2
    | .stores => m.ord == 1 || m.ord == 3
    | .atomics => m.ord.toNat ≤ 4)

/-- Everything the format decides, under effective code e. -/
def laneFormatOk (op : LaneOp) (f : LaneForm) (e : Nat) : Bool :=
  bitAt (laneShape op).efs e && laneAdmits op e f.mod && f.pairsEven (lanePairs op e)

/-- A lane word is well formed as far as the word alone decides (16 R301): with EF = 0 some format must make it legal. -/
def laneWf (op : LaneOp) (f : LaneForm) : Bool :=
  let sh := laneShape op
  f.vd.fits sh.vd && f.va.fits sh.va && f.vb.fits sh.vb && f.vc.fits sh.vc &&
  (!sh.mkZero || f.m == 0) && (f.mod.arg &&& ~~~sh.argMask) == 0 && ordOk sh.ord f.mod &&
  f.mod.rnd != 1 && f.mod.rnd != 2 && f.mod.rnd != 3 && f.mod.satm != 3 &&
  (match sh.use with
   | .absent => f.mod.ef == 0 && laneAdmits op 0 f.mod
   | _ =>
     if f.mod.ef == 0 then (List.range 16).any (laneFormatOk op f)
     else laneFormatOk op f f.mod.ef.toNat)

/-- Scope codes 001..110 (02 R42; 09 R199; 10 R217; 12 R253). -/
abbrev scopeOk (p : BitVec 3) : Prop := 1 ≤ p.toNat ∧ p.toNat ≤ 6
/-- FENCE orders 010..100 (10 R217). -/
abbrev fenceOrdOk (o : BitVec 3) : Prop := 2 ≤ o.toNat ∧ o.toNat ≤ 4

/-- The instruction is one the encodings of the spec can hold. -/
def Instr.wf (i : Instr) : Bool :=
  match i.lane? with
  | some (op, f) => laneWf op f
  | none =>
    match i with
    | .lane _ n => 1 ≤ n.toNat && n.toNat ≤ 4096
    | .ldsa _ _ _ _ p _ => decide (scopeOk p)
    | .stsl _ _ _ _ p _ => decide (scopeOk p)
    | .waitseq _ p _ _ => decide (scopeOk p)
    | .fence _ p o => decide (scopeOk p ∧ fenceOrdOk o)
    | .tadd _ _ _ b ub sh _ => ub == 1 || (b == 0 && sh == 0)
    | .tdrain _ _ _ _ tx tw amx _ ofm n _ xs =>
      (ofm == 2 || (tx == 0 && n == 0 && xs == 0)) && (amx == 1 || tw == 0)
    | _ => true

end Sys2Proof
end

