-- ==== Sys2Proof/Decode.lean ====
section
/-! DEFINITION. The decoder, total on any word, refusing by name; and the encoder, written from the same encoding tables
(02 Tables 2-2, 2-3, 2-8 to 2-13; 11 Table 11-2). -/

namespace Sys2Proof

/-- Why a word is no instruction (02 R61). -/
inductive BadEncoding where
  | reservedMajor
  | reservedMinor
  | reservedField
  | mustBeZero
  deriving DecidableEq, Repr, Inhabited


/-- The constructor of a lane opcode (02 Table 2-12). -/
def laneCtor (op : LaneOp) : Option (LaneForm → Instr) :=
  match op with
  | 0x10 => some .vadd
  | 0x11 => some .vsub
  | 0x12 => some .vmul
  | 0x13 => some .vmulh
  | 0x14 => some .vmad
  | 0x15 => some .vmin
  | 0x16 => some .vmax
  | 0x17 => some .vabs
  | 0x18 => some .vneg
  | 0x19 => some .vadds
  | 0x1a => some .vsubs
  | 0x1b => some .vclz
  | 0x1c => some .vpopc
  | 0x20 => some .vand
  | 0x21 => some .vor
  | 0x22 => some .vxor
  | 0x23 => some .vnot
  | 0x24 => some .vshl
  | 0x25 => some .vshr
  | 0x26 => some .vsar
  | 0x27 => some .vmov
  | 0x28 => some .vbcast
  | 0x29 => some .vsel
  | 0x2a => some .vlane
  | 0x30 => some .vcmpEq
  | 0x31 => some .vcmpNe
  | 0x32 => some .vcmpLt
  | 0x33 => some .vcmpLe
  | 0x34 => some .vcmpGt
  | 0x35 => some .vcmpGe
  | 0x36 => some .vcmpLtu
  | 0x37 => some .vcmpLeu
  | 0x38 => some .vcmpGtu
  | 0x39 => some .vcmpGeu
  | 0x40 => some .vfadd
  | 0x41 => some .vfsub
  | 0x42 => some .vfmul
  | 0x43 => some .vfma
  | 0x44 => some .vfms
  | 0x45 => some .vfnma
  | 0x46 => some .vfmin
  | 0x47 => some .vfmax
  | 0x48 => some .vfabs
  | 0x49 => some .vfneg
  | 0x4a => some .vfclass
  | 0x50 => some .vfdiv
  | 0x51 => some .vfsqrt
  | 0x52 => some .vfrcp
  | 0x53 => some .vfrsq
  | 0x54 => some .vfexp2
  | 0x55 => some .vflog2
  | 0x56 => some .vdiv
  | 0x57 => some .vrem
  | 0x60 => some .vfcmpEq
  | 0x61 => some .vfcmpNe
  | 0x62 => some .vfcmpLt
  | 0x63 => some .vfcmpLe
  | 0x64 => some .vfcmpUnord
  | 0x65 => some .vfcmpOrd
  | 0x70 => some .vcvt
  | 0x71 => some .vbfpq
  | 0x72 => some .vbfpd
  | 0x73 => some .vpack
  | 0x74 => some .vunpk
  | 0x80 => some .vshfl
  | 0x81 => some .vrot
  | 0x82 => some .vred
  | 0x83 => some .vscan
  | 0x90 => some .vote
  | 0x91 => some .ballotLane
  | 0x1091 => some .ballotId
  | 0x92 => some .mand
  | 0x93 => some .mor
  | 0x94 => some .mxor
  | 0x95 => some .mnot
  | 0x96 => some .mandn
  | 0x97 => some .mpopc
  | 0x98 => some .mfirst
  | 0xa0 => some .divb
  | 0xa1 => some .elseb
  | 0xa2 => some .recv
  | 0xa3 => some .regrp
  | 0x100 => some .ld
  | 0x101 => some .ldst
  | 0x102 => some .ldg
  | 0x103 => some .ldw
  | 0x110 => some .st
  | 0x111 => some .stst
  | 0x112 => some .stg
  | 0x120 => some .atomAdd
  | 0x121 => some .atomMin
  | 0x122 => some .atomMax
  | 0x123 => some .atomAnd
  | 0x124 => some .atomOr
  | 0x125 => some .atomXor
  | 0x126 => some .atomExch
  | 0x127 => some .atomCas
  | 0x128 => some .atomFadd
  | 0x129 => some .atomFamax
  | 0x130 => some .pref
  | _ => none

/-- An operand field under its class, its kind bit and the kind bit its class asks of a scalar register (02 R40):
1 in majors 0x01..0x08 and 0x10..0x13, 0 in majors 0x09 and 0x0A. -/
def decodeOpnd (c : Cls) (scaKind kind : BitVec 1) (x : BitVec 11) : Option Opnd :=
  match c with
  | .vec => if kind = 0 then some (.vec x) else none
  | .vs => if kind = 0 then some (.vec x) else if slice x 6 5 = 0 then some (.sca (slice x 0 6)) else none
  | .sca => if kind = scaKind ∧ slice x 6 5 = 0 then some (.sca (slice x 0 6)) else none
  | .msk => if kind = 0 ∧ slice x 4 7 = 0 then some (.msk (slice x 0 4)) else none
  | .unused => if kind = 0 ∧ x = 0 then some .unused else none

/-- The kind bit and field of an operand. -/
def encodeOpnd (c : Cls) (scaKind : BitVec 1) (o : Opnd) : BitVec 1 × BitVec 11 :=
  match o with
  | .vec r => (0, r)
  | .sca r => (if c = .vs then 1 else scaKind, 0#5 ++ r)
  | .msk r => (0, 0#7 ++ r)
  | .unused => (0, 0)

/-- The kind bit a scalar-class field must hold (02 R40). -/
def scaKindOf (op : LaneOp) : BitVec 1 :=
  if op / 16 % 256 = 9 ∨ op / 16 % 256 = 10 then 0 else 1

/-- The modifier word of a lane word, bit 16 left out (02 R42). -/
def decodeMod (x : BitVec 32) : LaneMod :=
  ⟨slice x 28 4, slice x 25 3, slice x 23 2, slice x 20 3, slice x 17 3, slice x 0 16⟩

/-- The operands of a lane word of opcode op (02 Table 2-3). vd has no kind bit: its class decides it. -/
def decodeForm (op : LaneOp) (w : BitVec 96) : Option LaneForm :=
  let sh := laneShape op
  let k := scaKindOf op
  match decodeOpnd sh.vd 0 0 (slice w 65 11), decodeOpnd sh.va k (slice w 78 1) (slice w 54 11),
        decodeOpnd sh.vb k (slice w 77 1) (slice w 43 11), decodeOpnd sh.vc k (slice w 76 1) (slice w 32 11) with
  | some vd, some va, some vb, some vc =>
    some ⟨slice w 83 1, slice w 79 4, vd, va, vb, vc, decodeMod (slice w 0 32)⟩
  | _, _, _, _ => none

/-- The opcode number of a lane word: major in [95:88], minor in [87:84]; ARG[0] tells BALLOT.id from BALLOT.lane. -/
def laneOpOf (w : BitVec 96) : LaneOp :=
  let op := (slice w 84 12).toNat
  if op = 0x91 ∧ slice w 0 1 = 1 then 0x1091 else op

/-- A lane word (02 R39 to R43, R58, R61, R64). -/
def decodeLane (w : BitVec 96) : Except BadEncoding Instr :=
  if slice w 88 8 = 0xFF then
    if slice w 32 56 = 0 then .ok (.laneUdf (slice w 0 32)) else .error .mustBeZero
  else if slice w 84 12 = 0x02B then
    if slice w 76 3 = 0 ∧ slice w 32 33 = 0 then
      .ok (.vimm (slice w 83 1) (slice w 79 4) (slice w 65 11) (slice w 0 32))
    else .error .mustBeZero
  else
    match laneCtor (laneOpOf w) with
    | none => .error .reservedMinor
    | some c =>
      match decodeForm (laneOpOf w) w with
      | none => .error .mustBeZero
      | some f =>
        if slice w 16 1 = 0 then
          if laneWf (laneOpOf w) f = true then .ok (c f) else .error .reservedField
        else .error .mustBeZero

/-- The word of lane opcode op with these operands (02 Tables 2-3, 2-4). -/
def encodeForm (op : LaneOp) (f : LaneForm) : BitVec 96 :=
  let sh := laneShape op
  let k := scaKindOf op
  let d := encodeOpnd sh.vd 0 f.vd
  let a := encodeOpnd sh.va k f.va
  let b := encodeOpnd sh.vb k f.vb
  let c := encodeOpnd sh.vc k f.vc
  BitVec.ofNat 12 op ++ f.s ++ f.m ++ a.1 ++ b.1 ++ c.1 ++ d.2 ++ a.2 ++ b.2 ++ c.2 ++
    f.mod.ef ++ f.mod.rnd ++ f.mod.satm ++ f.mod.scope ++ f.mod.ord ++ 0#1 ++ f.mod.arg

/-- The word of VIMM (07 R155). -/
def encodeVimm (s : BitVec 1) (mk : BitVec 4) (vd : BitVec 11) (imm : BitVec 32) : BitVec 96 :=
  0x02B#12 ++ s ++ mk ++ 0#3 ++ vd ++ 0#33 ++ imm

/-- The word of a lane instruction. -/
def encodeLane (i : Instr) : Option (BitVec 96) :=
  match i with
  | .vimm s mk vd imm => some (encodeVimm s mk vd imm)
  | .laneUdf n => some (0xFF#8 ++ 0#56 ++ n)
  | _ =>
    match i.lane? with
    | none => none
    | some (op, f) => some (encodeForm op f)


/-- The SYS group, major 0x00 (02 Table 2-10). -/
def decodeSys (w : BitVec 32) : Except BadEncoding Instr :=
  match (slice w 0 7).toNat with
  | 0x0 => if slice w 7 18 = 0 then .ok (.nop (slice w 25 1)) else .error .mustBeZero
  | 0x1 => if slice w 7 12 = 0 then .ok (.sync (slice w 25 1) (slice w 19 6)) else .error .mustBeZero
  | 0x2 => if slice w 7 18 = 0 then .ok (.exit (slice w 25 1)) else .error .mustBeZero
  | 0x3 => .ok (.yield (slice w 25 1) (slice w 19 6) (slice w 13 6) (slice w 7 6))
  | 0x4 => .ok (.trap (slice w 25 1) (slice w 7 18))
  | 0x5 => .ok (.sysc (slice w 25 1) (slice w 19 6) (slice w 13 6) (slice w 7 6))
  | 0x6 => if slice w 7 18 = 0 then .ok (.rett (slice w 25 1)) else .error .mustBeZero
  | 0x7 => if slice w 7 18 = 0 then .ok (.ireg (slice w 25 1)) else .error .mustBeZero
  | 0x8 => if slice w 7 12 = 0 then if scopeOk (slice w 22 3) ∧ fenceOrdOk (slice w 19 3) then .ok (.fence (slice w 25 1) (slice w 22 3) (slice w 19 3)) else .error .reservedField else .error .mustBeZero
  | 0x9 => if slice w 19 3 = 0 then if scopeOk (slice w 22 3) then .ok (.waitseq (slice w 25 1) (slice w 22 3) (slice w 13 6) (slice w 7 6)) else .error .reservedField else .error .mustBeZero
  | 0xa => .ok (.getx (slice w 25 1) (slice w 19 6) (slice w 7 12))
  | 0xb => .ok (.setx (slice w 25 1) (slice w 19 6) (slice w 7 12))
  | 0xc => if slice w 7 6 = 0 then .ok (.setf (slice w 25 1) (slice w 19 6) (slice w 13 6)) else .error .mustBeZero
  | 0xd => if slice w 7 12 = 0 then .ok (.getf (slice w 25 1) (slice w 19 6)) else .error .mustBeZero
  | 0xe => if slice w 7 6 = 0 ∧ slice w 23 2 = 0 then .ok (.bara (slice w 25 1) (slice w 19 4) (slice w 13 6)) else .error .mustBeZero
  | 0xf => if slice w 7 12 = 0 ∧ slice w 23 2 = 0 then .ok (.barw (slice w 25 1) (slice w 19 4)) else .error .mustBeZero
  | 0x10 => if slice w 7 6 = 0 ∧ slice w 23 2 = 0 then .ok (.bars (slice w 25 1) (slice w 19 4) (slice w 13 6)) else .error .mustBeZero
  | 0x11 => .ok (.enq (slice w 25 1) (slice w 19 6) (slice w 13 6) (slice w 7 6))
  | 0x12 => .ok (.post (slice w 25 1) (slice w 19 6) (slice w 13 6) (slice w 7 6))
  | _ => .error .reservedMinor

/-- The ALU group, major 0x01 (02 Table 2-11). -/
def decodeAlu (w : BitVec 32) : Except BadEncoding Instr :=
  match (slice w 0 7).toNat with
  | 0 => .ok (.add (slice w 25 1) (slice w 19 6) (slice w 13 6) (slice w 7 6))
  | 1 => .ok (.sub (slice w 25 1) (slice w 19 6) (slice w 13 6) (slice w 7 6))
  | 2 => .ok (.mul (slice w 25 1) (slice w 19 6) (slice w 13 6) (slice w 7 6))
  | 3 => .ok (.mulh (slice w 25 1) (slice w 19 6) (slice w 13 6) (slice w 7 6))
  | 4 => .ok (.mulhu (slice w 25 1) (slice w 19 6) (slice w 13 6) (slice w 7 6))
  | 5 => .ok (.div (slice w 25 1) (slice w 19 6) (slice w 13 6) (slice w 7 6))
  | 6 => .ok (.divu (slice w 25 1) (slice w 19 6) (slice w 13 6) (slice w 7 6))
  | 7 => .ok (.rem (slice w 25 1) (slice w 19 6) (slice w 13 6) (slice w 7 6))
  | 8 => .ok (.remu (slice w 25 1) (slice w 19 6) (slice w 13 6) (slice w 7 6))
  | 9 => .ok (.and (slice w 25 1) (slice w 19 6) (slice w 13 6) (slice w 7 6))
  | 10 => .ok (.or (slice w 25 1) (slice w 19 6) (slice w 13 6) (slice w 7 6))
  | 11 => .ok (.xor (slice w 25 1) (slice w 19 6) (slice w 13 6) (slice w 7 6))
  | 12 => .ok (.shl (slice w 25 1) (slice w 19 6) (slice w 13 6) (slice w 7 6))
  | 13 => .ok (.shr (slice w 25 1) (slice w 19 6) (slice w 13 6) (slice w 7 6))
  | 14 => .ok (.sar (slice w 25 1) (slice w 19 6) (slice w 13 6) (slice w 7 6))
  | 15 => .ok (.min (slice w 25 1) (slice w 19 6) (slice w 13 6) (slice w 7 6))
  | 16 => .ok (.max (slice w 25 1) (slice w 19 6) (slice w 13 6) (slice w 7 6))
  | 17 => .ok (.minu (slice w 25 1) (slice w 19 6) (slice w 13 6) (slice w 7 6))
  | 18 => .ok (.maxu (slice w 25 1) (slice w 19 6) (slice w 13 6) (slice w 7 6))
  | 19 => .ok (.slt (slice w 25 1) (slice w 19 6) (slice w 13 6) (slice w 7 6))
  | 20 => .ok (.sltu (slice w 25 1) (slice w 19 6) (slice w 13 6) (slice w 7 6))
  | 21 => .ok (.seq (slice w 25 1) (slice w 19 6) (slice w 13 6) (slice w 7 6))
  | 22 => .ok (.sne (slice w 25 1) (slice w 19 6) (slice w 13 6) (slice w 7 6))
  | 23 => if slice w 7 6 = 0 then .ok (.clz (slice w 25 1) (slice w 19 6) (slice w 13 6)) else .error .mustBeZero
  | 24 => if slice w 7 6 = 0 then .ok (.ctz (slice w 25 1) (slice w 19 6) (slice w 13 6)) else .error .mustBeZero
  | 25 => if slice w 7 6 = 0 then .ok (.popc (slice w 25 1) (slice w 19 6) (slice w 13 6)) else .error .mustBeZero
  | 26 => .ok (.lea0 (slice w 25 1) (slice w 19 6) (slice w 13 6) (slice w 7 6))
  | 27 => .ok (.lea1 (slice w 25 1) (slice w 19 6) (slice w 13 6) (slice w 7 6))
  | 28 => .ok (.lea2 (slice w 25 1) (slice w 19 6) (slice w 13 6) (slice w 7 6))
  | 29 => .ok (.lea3 (slice w 25 1) (slice w 19 6) (slice w 13 6) (slice w 7 6))
  | _ => .error .reservedMinor

/-- B.cc, major 0x10 (02 R55, Table 2-9). -/
def decodeBranch (w : BitVec 32) : Except BadEncoding Instr :=
  match (slice w 21 4).toNat with
  | 0 => .ok (.bEqz (slice w 25 1) (slice w 15 6) (slice w 0 15))
  | 1 => .ok (.bNez (slice w 25 1) (slice w 15 6) (slice w 0 15))
  | 2 => .ok (.bLtz (slice w 25 1) (slice w 15 6) (slice w 0 15))
  | 3 => .ok (.bGez (slice w 25 1) (slice w 15 6) (slice w 0 15))
  | 4 => .ok (.bGtz (slice w 25 1) (slice w 15 6) (slice w 0 15))
  | 5 => .ok (.bLez (slice w 25 1) (slice w 15 6) (slice w 0 15))
  | 8 => if slice w 19 2 = 0 then .ok (.bMany (slice w 25 1) (slice w 15 4) (slice w 0 15)) else .error .mustBeZero
  | 9 => if slice w 19 2 = 0 then .ok (.bMnone (slice w 25 1) (slice w 15 4) (slice w 0 15)) else .error .mustBeZero
  | 10 => if slice w 19 2 = 0 then .ok (.bMall (slice w 25 1) (slice w 15 4) (slice w 0 15)) else .error .mustBeZero
  | _ => .error .reservedField

/-- ATOMS, major 0x24 (09 R200): op in minor[3:0], width in minor[5:4], minor[6] zero. -/
def decodeAtoms (w : BitVec 32) : Except BadEncoding Instr :=
  if slice w 6 1 = 0 ∧ slice w 5 1 = 1 then
  match (slice w 0 4).toNat with
  | 0 => .ok (.atomsAdd (slice w 25 1) (slice w 19 6) (slice w 13 6) (slice w 7 6) (slice w 4 1))
  | 1 => .ok (.atomsMin (slice w 25 1) (slice w 19 6) (slice w 13 6) (slice w 7 6) (slice w 4 1))
  | 2 => .ok (.atomsMax (slice w 25 1) (slice w 19 6) (slice w 13 6) (slice w 7 6) (slice w 4 1))
  | 3 => .ok (.atomsAnd (slice w 25 1) (slice w 19 6) (slice w 13 6) (slice w 7 6) (slice w 4 1))
  | 4 => .ok (.atomsOr (slice w 25 1) (slice w 19 6) (slice w 13 6) (slice w 7 6) (slice w 4 1))
  | 5 => .ok (.atomsXor (slice w 25 1) (slice w 19 6) (slice w 13 6) (slice w 7 6) (slice w 4 1))
  | 6 => .ok (.atomsExch (slice w 25 1) (slice w 19 6) (slice w 13 6) (slice w 7 6) (slice w 4 1))
  | 7 => .ok (.atomsCas (slice w 25 1) (slice w 19 6) (slice w 13 6) (slice w 7 6) (slice w 4 1))
  | 8 => if slice w 4 1 = 0 then .ok (.atomsFadd (slice w 25 1) (slice w 19 6) (slice w 13 6) (slice w 7 6)) else .error .reservedMinor
  | 9 => if slice w 4 1 = 0 then .ok (.atomsFamax (slice w 25 1) (slice w 19 6) (slice w 13 6) (slice w 7 6)) else .error .reservedMinor
  | _ => .error .reservedMinor
  else .error .reservedMinor

/-- A scalar word (02 R37, R38, Table 2-8). -/
def decodeScalar (w : BitVec 32) : Except BadEncoding Instr :=
  match (slice w 26 6).toNat with
  | 0x00 => decodeSys w
  | 0x01 => decodeAlu w
  | 0x10 => decodeBranch w
  | 0x24 => decodeAtoms w
  | 0x02 => .ok (.addi (slice w 25 1) (slice w 19 6) (slice w 13 6) (slice w 0 13))
  | 0x03 => .ok (.andi (slice w 25 1) (slice w 19 6) (slice w 13 6) (slice w 0 13))
  | 0x04 => .ok (.ori (slice w 25 1) (slice w 19 6) (slice w 13 6) (slice w 0 13))
  | 0x05 => .ok (.xori (slice w 25 1) (slice w 19 6) (slice w 13 6) (slice w 0 13))
  | 0x06 => if slice w 6 7 = 0 then .ok (.shli (slice w 25 1) (slice w 19 6) (slice w 13 6) (slice w 0 6)) else .error .mustBeZero
  | 0x07 => if slice w 6 7 = 0 then .ok (.shri (slice w 25 1) (slice w 19 6) (slice w 13 6) (slice w 0 6)) else .error .mustBeZero
  | 0x08 => if slice w 6 7 = 0 then .ok (.sari (slice w 25 1) (slice w 19 6) (slice w 13 6) (slice w 0 6)) else .error .mustBeZero
  | 0x09 => .ok (.slti (slice w 25 1) (slice w 19 6) (slice w 13 6) (slice w 0 13))
  | 0x0a => .ok (.sltui (slice w 25 1) (slice w 19 6) (slice w 13 6) (slice w 0 13))
  | 0x0b => .ok (.muli (slice w 25 1) (slice w 19 6) (slice w 13 6) (slice w 0 13))
  | 0x0c => .ok (.lis (slice w 25 1) (slice w 19 6) (slice w 0 19))
  | 0x0d => .ok (.lui (slice w 25 1) (slice w 19 6) (slice w 0 19))
  | 0x0e => .ok (.pcrel (slice w 25 1) (slice w 19 6) (slice w 0 19))
  | 0x11 => .ok (.jmp (slice w 25 1) (slice w 0 25))
  | 0x12 => .ok (.call (slice w 25 1) (slice w 20 5) (slice w 18 2) (slice w 0 18))
  | 0x13 => if slice w 0 12 = 0 then .ok (.callr (slice w 25 1) (slice w 20 5) (slice w 18 2) (slice w 12 6)) else .error .mustBeZero
  | 0x14 => if slice w 19 6 = 0 then .ok (.jr (slice w 25 1) (slice w 13 6) (slice w 0 13)) else .error .mustBeZero
  | 0x15 => if slice w 0 25 = 0 then .ok (.ret (slice w 25 1)) else .error .mustBeZero
  | 0x16 => if slice w 19 6 = 0 then if 1 ≤ (slice w 0 19).toNat ∧ (slice w 0 19).toNat ≤ 4096 then .ok (.lane (slice w 25 1) (slice w 0 19)) else .error .reservedField else .error .mustBeZero
  | 0x17 => .ok (.ljmp (slice w 25 1) (slice w 0 25))
  | 0x18 => if slice w 19 6 = 0 then .ok (.ljr (slice w 25 1) (slice w 13 6) (slice w 0 13)) else .error .mustBeZero
  | 0x19 => if slice w 0 19 = 0 then .ok (.lpcr (slice w 25 1) (slice w 19 6)) else .error .mustBeZero
  | 0x1a => if slice w 0 13 = 0 ∧ slice w 23 2 = 0 then .ok (.mset (slice w 25 1) (slice w 19 4) (slice w 13 6)) else .error .mustBeZero
  | 0x1b => if slice w 0 13 = 0 ∧ slice w 17 2 = 0 then .ok (.mget (slice w 25 1) (slice w 19 6) (slice w 13 4)) else .error .mustBeZero
  | 0x20 => .ok (.lds (slice w 25 1) (slice w 19 6) (slice w 13 6) (slice w 11 2) (slice w 0 11))
  | 0x21 => .ok (.sts (slice w 25 1) (slice w 19 6) (slice w 13 6) (slice w 11 2) (slice w 0 11))
  | 0x22 => if scopeOk (slice w 8 3) then .ok (.ldsa (slice w 25 1) (slice w 19 6) (slice w 13 6) (slice w 11 2) (slice w 8 3) (slice w 0 8)) else .error .reservedField
  | 0x23 => if scopeOk (slice w 8 3) then .ok (.stsl (slice w 25 1) (slice w 19 6) (slice w 13 6) (slice w 11 2) (slice w 8 3) (slice w 0 8)) else .error .reservedField
  | 0x28 => .ok (.xget (slice w 25 1) (slice w 19 6) (slice w 13 6) (slice w 7 6) (slice w 0 7))
  | 0x29 => .ok (.xput (slice w 25 1) (slice w 19 6) (slice w 13 6) (slice w 7 6) (slice w 0 7))
  | 0x2a => .ok (.xamo (slice w 25 1) (slice w 19 6) (slice w 13 6) (slice w 7 6) (slice w 0 7))
  | 0x2b => if slice w 0 19 = 0 then .ok (.xcoll (slice w 25 1) (slice w 19 6)) else .error .mustBeZero
  | 0x2c => if slice w 0 7 = 0 then .ok (.xtxa (slice w 25 1) (slice w 19 6) (slice w 13 6) (slice w 7 6)) else .error .mustBeZero
  | 0x2d => if slice w 7 6 = 0 then .ok (.xmst (slice w 25 1) (slice w 19 6) (slice w 13 6) (slice w 0 7)) else .error .mustBeZero
  | 0x2e => .ok (.xmld (slice w 25 1) (slice w 19 6) (slice w 13 6) (slice w 7 6) (slice w 0 7))
  | 0x2f => if slice w 1 12 = 0 then (if slice w 0 1 = 0 then .ok (.xchan (slice w 25 1) (slice w 19 6) (slice w 13 6)) else .ok (.xchanOrd (slice w 25 1) (slice w 19 6) (slice w 13 6))) else .error .mustBeZero
  | 0x3f => if slice w 25 1 = 0 then .ok (.udf (slice w 0 25)) else .error .mustBeZero
  | _ => .error .reservedMajor

/-- A tile word (02 R44; 11 R230, Table 11-2). -/
def decodeTile (w : BitVec 64) : Except BadEncoding Instr :=
  match (slice w 56 8).toNat with
  | 0x1 => if slice w 0 36 = 0 then .ok (.tfmt (slice w 55 1) (slice w 52 3) (slice w 48 4) (slice w 45 3) (slice w 41 4) (slice w 40 1) (slice w 39 1) (slice w 37 2) (slice w 36 1)) else .error .mustBeZero
  | 0x2 => if slice w 0 23 = 0 then .ok (.tdesa (slice w 55 1) (slice w 51 4) (slice w 47 4) (slice w 43 4) (slice w 23 20)) else .error .mustBeZero
  | 0x3 => if slice w 0 23 = 0 then .ok (.tdesb (slice w 55 1) (slice w 51 4) (slice w 47 4) (slice w 43 4) (slice w 23 20)) else .error .mustBeZero
  | 0x4 => if slice w 48 2 = 0 then (if slice w 50 1 = 0 then .ok (.tli (slice w 55 1) (slice w 51 4) (slice w 0 48)) else if slice w 16 32 = 0 then .ok (.tliH (slice w 55 1) (slice w 51 4) (slice w 0 16)) else .error .mustBeZero) else .error .mustBeZero
  | 0x5 => if (slice w 42 1 = 1 ∨ slice w 43 4 = 0 ∧ slice w 38 4 = 0) then .ok (.tadd (slice w 55 1) (slice w 51 4) (slice w 47 4) (slice w 43 4) (slice w 42 1) (slice w 38 4) (slice w 0 38)) else .error .mustBeZero
  | 0x6 => if slice w 0 37 = 0 then .ok (.tmma (slice w 55 1) (slice w 53 2) (slice w 37 16)) else .error .mustBeZero
  | 0x7 => if slice w 0 28 = 0 then .ok (.tmmaj (slice w 55 1) (slice w 53 2) (slice w 37 16) (slice w 33 4) (slice w 28 5)) else .error .mustBeZero
  | 0x8 => if slice w 0 53 = 0 then .ok (.tzero (slice w 55 1) (slice w 53 2)) else .error .mustBeZero
  | 0x9 => if slice w 0 6 = 0 ∧ (slice w 32 3 = 2 ∨ slice w 41 4 = 0 ∧ slice w 28 4 = 0 ∧ slice w 6 20 = 0) ∧ (slice w 36 1 = 1 ∨ slice w 37 4 = 0) then .ok (.tdrain (slice w 55 1) (slice w 53 2) (slice w 49 4) (slice w 45 4) (slice w 41 4) (slice w 37 4) (slice w 36 1) (slice w 35 1) (slice w 32 3) (slice w 28 4) (slice w 26 2) (slice w 6 20)) else .error .mustBeZero
  | 0xa => if slice w 0 51 = 0 then .ok (.tbarw (slice w 55 1) (slice w 51 4)) else .error .mustBeZero
  | 0xb => if slice w 0 46 = 0 then .ok (.tbara (slice w 55 1) (slice w 51 4) (slice w 46 5)) else .error .mustBeZero
  | 0xc => if slice w 24 27 = 0 then .ok (.tloop (slice w 55 1) (slice w 51 4) (slice w 0 24)) else .error .mustBeZero
  | 0xd => if slice w 0 55 = 0 then .ok (.tend (slice w 55 1)) else .error .mustBeZero
  | 0xf => if slice w 0 55 = 0 then .ok (.tnop (slice w 55 1)) else .error .mustBeZero
  | 0x10 => if slice w 0 45 = 0 then .ok (.tldc (slice w 55 1) (slice w 53 2) (slice w 49 4) (slice w 45 4)) else .error .mustBeZero
  | 0x11 => if slice w 0 45 = 0 then .ok (.tstc (slice w 55 1) (slice w 53 2) (slice w 49 4) (slice w 45 4)) else .error .mustBeZero
  | _ => .error .reservedMajor

/-- The word of a scalar instruction (02 Tables 2-2, 2-8 to 2-11). -/
def encodeScalar (i : Instr) : Option (BitVec 32) :=
  match i with
  | .add s d a b => some (0x1#6 ++ s ++ d ++ a ++ b ++ 0x0#7)
  | .sub s d a b => some (0x1#6 ++ s ++ d ++ a ++ b ++ 0x1#7)
  | .mul s d a b => some (0x1#6 ++ s ++ d ++ a ++ b ++ 0x2#7)
  | .mulh s d a b => some (0x1#6 ++ s ++ d ++ a ++ b ++ 0x3#7)
  | .mulhu s d a b => some (0x1#6 ++ s ++ d ++ a ++ b ++ 0x4#7)
  | .div s d a b => some (0x1#6 ++ s ++ d ++ a ++ b ++ 0x5#7)
  | .divu s d a b => some (0x1#6 ++ s ++ d ++ a ++ b ++ 0x6#7)
  | .rem s d a b => some (0x1#6 ++ s ++ d ++ a ++ b ++ 0x7#7)
  | .remu s d a b => some (0x1#6 ++ s ++ d ++ a ++ b ++ 0x8#7)
  | .and s d a b => some (0x1#6 ++ s ++ d ++ a ++ b ++ 0x9#7)
  | .or s d a b => some (0x1#6 ++ s ++ d ++ a ++ b ++ 0xa#7)
  | .xor s d a b => some (0x1#6 ++ s ++ d ++ a ++ b ++ 0xb#7)
  | .shl s d a b => some (0x1#6 ++ s ++ d ++ a ++ b ++ 0xc#7)
  | .shr s d a b => some (0x1#6 ++ s ++ d ++ a ++ b ++ 0xd#7)
  | .sar s d a b => some (0x1#6 ++ s ++ d ++ a ++ b ++ 0xe#7)
  | .min s d a b => some (0x1#6 ++ s ++ d ++ a ++ b ++ 0xf#7)
  | .max s d a b => some (0x1#6 ++ s ++ d ++ a ++ b ++ 0x10#7)
  | .minu s d a b => some (0x1#6 ++ s ++ d ++ a ++ b ++ 0x11#7)
  | .maxu s d a b => some (0x1#6 ++ s ++ d ++ a ++ b ++ 0x12#7)
  | .slt s d a b => some (0x1#6 ++ s ++ d ++ a ++ b ++ 0x13#7)
  | .sltu s d a b => some (0x1#6 ++ s ++ d ++ a ++ b ++ 0x14#7)
  | .seq s d a b => some (0x1#6 ++ s ++ d ++ a ++ b ++ 0x15#7)
  | .sne s d a b => some (0x1#6 ++ s ++ d ++ a ++ b ++ 0x16#7)
  | .clz s d a => some (0x1#6 ++ s ++ d ++ a ++ 0x17#13)
  | .ctz s d a => some (0x1#6 ++ s ++ d ++ a ++ 0x18#13)
  | .popc s d a => some (0x1#6 ++ s ++ d ++ a ++ 0x19#13)
  | .lea0 s d a b => some (0x1#6 ++ s ++ d ++ a ++ b ++ 0x1a#7)
  | .lea1 s d a b => some (0x1#6 ++ s ++ d ++ a ++ b ++ 0x1b#7)
  | .lea2 s d a b => some (0x1#6 ++ s ++ d ++ a ++ b ++ 0x1c#7)
  | .lea3 s d a b => some (0x1#6 ++ s ++ d ++ a ++ b ++ 0x1d#7)
  | .addi s d a i => some (0x2#6 ++ s ++ d ++ a ++ i)
  | .andi s d a i => some (0x3#6 ++ s ++ d ++ a ++ i)
  | .ori s d a i => some (0x4#6 ++ s ++ d ++ a ++ i)
  | .xori s d a i => some (0x5#6 ++ s ++ d ++ a ++ i)
  | .shli s d a i => some (0x6#6 ++ s ++ d ++ a ++ 0x0#7 ++ i)
  | .shri s d a i => some (0x7#6 ++ s ++ d ++ a ++ 0x0#7 ++ i)
  | .sari s d a i => some (0x8#6 ++ s ++ d ++ a ++ 0x0#7 ++ i)
  | .slti s d a i => some (0x9#6 ++ s ++ d ++ a ++ i)
  | .sltui s d a i => some (0xa#6 ++ s ++ d ++ a ++ i)
  | .muli s d a i => some (0xb#6 ++ s ++ d ++ a ++ i)
  | .lis s d i => some (0xc#6 ++ s ++ d ++ i)
  | .lui s d i => some (0xd#6 ++ s ++ d ++ i)
  | .pcrel s d i => some (0xe#6 ++ s ++ d ++ i)
  | .bEqz s a o => some (0x10#6 ++ s ++ 0x0#4 ++ a ++ o)
  | .bNez s a o => some (0x10#6 ++ s ++ 0x1#4 ++ a ++ o)
  | .bLtz s a o => some (0x10#6 ++ s ++ 0x2#4 ++ a ++ o)
  | .bGez s a o => some (0x10#6 ++ s ++ 0x3#4 ++ a ++ o)
  | .bGtz s a o => some (0x10#6 ++ s ++ 0x4#4 ++ a ++ o)
  | .bLez s a o => some (0x10#6 ++ s ++ 0x5#4 ++ a ++ o)
  | .bMany s m o => some (0x10#6 ++ s ++ 0x20#6 ++ m ++ o)
  | .bMnone s m o => some (0x10#6 ++ s ++ 0x24#6 ++ m ++ o)
  | .bMall s m o => some (0x10#6 ++ s ++ 0x28#6 ++ m ++ o)
  | .jmp s o => some (0x11#6 ++ s ++ o)
  | .call s v w o => some (0x12#6 ++ s ++ v ++ w ++ o)
  | .callr s v w a => some (0x13#6 ++ s ++ v ++ w ++ a ++ 0x0#12)
  | .jr s a i => some (0x14#6 ++ s ++ 0x0#6 ++ a ++ i)
  | .ret s => some (0x15#6 ++ s ++ 0x0#25)
  | .lane s n => some (0x16#6 ++ s ++ 0x0#6 ++ n)
  | .ljmp s o => some (0x17#6 ++ s ++ o)
  | .ljr s a i => some (0x18#6 ++ s ++ 0x0#6 ++ a ++ i)
  | .lpcr s d => some (0x19#6 ++ s ++ d ++ 0x0#19)
  | .mset s n a => some (0x1a#6 ++ s ++ 0x0#2 ++ n ++ a ++ 0x0#13)
  | .mget s d n => some (0x1b#6 ++ s ++ d ++ 0x0#2 ++ n ++ 0x0#13)
  | .lds s d a w i => some (0x20#6 ++ s ++ d ++ a ++ w ++ i)
  | .sts s d a w i => some (0x21#6 ++ s ++ d ++ a ++ w ++ i)
  | .ldsa s d a w p i => some (0x22#6 ++ s ++ d ++ a ++ w ++ p ++ i)
  | .stsl s d a w p i => some (0x23#6 ++ s ++ d ++ a ++ w ++ p ++ i)
  | .atomsAdd s a b c w => some (0x24#6 ++ s ++ a ++ b ++ c ++ 0x1#2 ++ w ++ 0x0#4)
  | .atomsMin s a b c w => some (0x24#6 ++ s ++ a ++ b ++ c ++ 0x1#2 ++ w ++ 0x1#4)
  | .atomsMax s a b c w => some (0x24#6 ++ s ++ a ++ b ++ c ++ 0x1#2 ++ w ++ 0x2#4)
  | .atomsAnd s a b c w => some (0x24#6 ++ s ++ a ++ b ++ c ++ 0x1#2 ++ w ++ 0x3#4)
  | .atomsOr s a b c w => some (0x24#6 ++ s ++ a ++ b ++ c ++ 0x1#2 ++ w ++ 0x4#4)
  | .atomsXor s a b c w => some (0x24#6 ++ s ++ a ++ b ++ c ++ 0x1#2 ++ w ++ 0x5#4)
  | .atomsExch s a b c w => some (0x24#6 ++ s ++ a ++ b ++ c ++ 0x1#2 ++ w ++ 0x6#4)
  | .atomsCas s a b c w => some (0x24#6 ++ s ++ a ++ b ++ c ++ 0x1#2 ++ w ++ 0x7#4)
  | .atomsFadd s a b c => some (0x24#6 ++ s ++ a ++ b ++ c ++ 0x28#7)
  | .atomsFamax s a b c => some (0x24#6 ++ s ++ a ++ b ++ c ++ 0x29#7)
  | .xget s a b c n => some (0x28#6 ++ s ++ a ++ b ++ c ++ n)
  | .xput s a b c n => some (0x29#6 ++ s ++ a ++ b ++ c ++ n)
  | .xamo s a b c n => some (0x2a#6 ++ s ++ a ++ b ++ c ++ n)
  | .xcoll s a => some (0x2b#6 ++ s ++ a ++ 0x0#19)
  | .xtxa s a b c => some (0x2c#6 ++ s ++ a ++ b ++ c ++ 0x0#7)
  | .xmst s a b n => some (0x2d#6 ++ s ++ a ++ b ++ 0x0#6 ++ n)
  | .xmld s a b c n => some (0x2e#6 ++ s ++ a ++ b ++ c ++ n)
  | .xchan s a b => some (0x2f#6 ++ s ++ a ++ b ++ 0x0#13)
  | .xchanOrd s a b => some (0x2f#6 ++ s ++ a ++ b ++ 0x1#13)
  | .udf n => some (0x7e#7 ++ n)
  | .nop s => some (0x0#6 ++ s ++ 0x0#25)
  | .sync s d => some (0x0#6 ++ s ++ d ++ 0x1#19)
  | .exit s => some (0x0#6 ++ s ++ 0x2#25)
  | .yield s a b c => some (0x0#6 ++ s ++ a ++ b ++ c ++ 0x3#7)
  | .trap s n => some (0x0#6 ++ s ++ n ++ 0x4#7)
  | .sysc s d a b => some (0x0#6 ++ s ++ d ++ a ++ b ++ 0x5#7)
  | .rett s => some (0x0#6 ++ s ++ 0x6#25)
  | .ireg s => some (0x0#6 ++ s ++ 0x7#25)
  | .fence s p o => some (0x0#6 ++ s ++ p ++ o ++ 0x8#19)
  | .waitseq s p a b => some (0x0#6 ++ s ++ p ++ 0x0#3 ++ a ++ b ++ 0x9#7)
  | .getx s d n => some (0x0#6 ++ s ++ d ++ n ++ 0xa#7)
  | .setx s a n => some (0x0#6 ++ s ++ a ++ n ++ 0xb#7)
  | .setf s a b => some (0x0#6 ++ s ++ a ++ b ++ 0xc#13)
  | .getf s d => some (0x0#6 ++ s ++ d ++ 0xd#19)
  | .bara s n a => some (0x0#6 ++ s ++ 0x0#2 ++ n ++ a ++ 0xe#13)
  | .barw s n => some (0x0#6 ++ s ++ 0x0#2 ++ n ++ 0xf#19)
  | .bars s n a => some (0x0#6 ++ s ++ 0x0#2 ++ n ++ a ++ 0x10#13)
  | .enq s d a b => some (0x0#6 ++ s ++ d ++ a ++ b ++ 0x11#7)
  | .post s d a b => some (0x0#6 ++ s ++ d ++ a ++ b ++ 0x12#7)
  | _ => none

/-- The word of a tile instruction (11 Table 11-2). -/
def encodeTile (i : Instr) : Option (BitVec 64) :=
  match i with
  | .tfmt s ak an bk bn acct ord rm ftz => some (0x1#8 ++ s ++ ak ++ an ++ bk ++ bn ++ acct ++ ord ++ rm ++ ftz ++ 0#36)
  | .tdesa s tm ts tx xs => some (0x2#8 ++ s ++ tm ++ ts ++ tx ++ xs ++ 0#23)
  | .tdesb s tm ts tx xs => some (0x3#8 ++ s ++ tm ++ ts ++ tx ++ xs ++ 0#23)
  | .tli s d i => some (0x4#8 ++ s ++ d ++ 0#1 ++ 0#2 ++ i)
  | .tliH s d i => some (0x4#8 ++ s ++ d ++ 1#1 ++ 0#2 ++ 0#32 ++ i)
  | .tadd s d a b ub sh i => some (0x5#8 ++ s ++ d ++ a ++ b ++ ub ++ sh ++ i)
  | .tmma s acc kp => some (0x6#8 ++ s ++ acc ++ kp ++ 0#37)
  | .tmmaj s acc kp bar cnt => some (0x7#8 ++ s ++ acc ++ kp ++ bar ++ cnt ++ 0#28)
  | .tzero s acc => some (0x8#8 ++ s ++ acc ++ 0#53)
  | .tdrain s acc tm ts tx tw amx clr ofm n rm xs => some (0x9#8 ++ s ++ acc ++ tm ++ ts ++ tx ++ tw ++ amx ++ clr ++ ofm ++ n ++ rm ++ xs ++ 0#6)
  | .tbarw s bar => some (0xa#8 ++ s ++ bar ++ 0#51)
  | .tbara s bar cnt => some (0xb#8 ++ s ++ bar ++ cnt ++ 0#46)
  | .tloop s c off => some (0xc#8 ++ s ++ c ++ 0#27 ++ off)
  | .tend s => some (0xd#8 ++ s ++ 0#55)
  | .tnop s => some (0xf#8 ++ s ++ 0#55)
  | .tldc s acc tm ts => some (0x10#8 ++ s ++ acc ++ tm ++ ts ++ 0#45)
  | .tstc s acc tm ts => some (0x11#8 ++ s ++ acc ++ tm ++ ts ++ 0#45)
  | _ => none

/-- The words of a well-formed instruction: 32, 96 or 64 bits by its stream; none for the rows without an encoding. -/
def encode (i : Instr) : Option ((n : Nat) × BitVec n) :=
  match encodeScalar i with
  | some w => some ⟨32, w⟩
  | none =>
    match encodeLane i with
    | some w => some ⟨96, w⟩
    | none =>
      match encodeTile i with
      | some w => some ⟨64, w⟩
      | none => none

/-- Little-endian value of bytes, the first at the lowest address (00 R6). -/
def leValue (bs : List Byte) : Nat :=
  match bs with
  | [] => 0
  | b :: rest => b.toNat + 256 * leValue rest

/-- The n bytes of a value, lowest first (00 R6). -/
def leBytes (n v : Nat) : List Byte :=
  match n with
  | 0 => []
  | k + 1 => BitVec.ofNat 8 v :: leBytes k (v / 256)

/-- Decode the bytes of one word of a stream, the byte at the lowest address first. -/
def decodeBytes (st : Stream) (bs : List Byte) : Except BadEncoding Instr :=
  match st with
  | .scalar => decodeScalar (BitVec.ofNat 32 (leValue bs))
  | .lane => decodeLane (BitVec.ofNat 96 (leValue bs))
  | .tile => decodeTile (BitVec.ofNat 64 (leValue bs))

/-- Bytes of a word of a stream (02 Table 2-1). -/
def Stream.bytes (st : Stream) : Nat :=
  match st with
  | .scalar => 4
  | .lane => 12
  | .tile => 8

/-- The stream whose words have nbits bits: 32 scalar, 64 tile, 96 lane. -/
def streamOfBits (nbits : Nat) : Stream :=
  if nbits ≤ 32 then .scalar else if nbits ≤ 64 then .tile else .lane

/-- The instruction the decoder reads from the opcode-table word w of nbits bits: its bytes laid out lowest first. -/
def decodeTableWord (nbits w : Nat) : Option Instr :=
  let st := streamOfBits nbits
  (decodeBytes st (leBytes st.bytes (w % 2 ^ nbits))).toOption

end Sys2Proof
end

