-- ==== Sys2Proof/Machine/Flags.lean ====
section
/-! DEFINITION. Number formats, fitting and rounding, and the flags each raises (06): integers as Int, floating-point
values as exact dyadic numbers that are rounded once. -/

namespace Sys2Proof.Machine

/-- A result and the flags it raised, in the bit order of FFLAGS: SAT, NV, DZ, OF, UF, NX (06 Table 6-10). -/
structure LaneRes where
  v : BitVec 64 := 0
  flags : BitVec 6 := 0
  deriving DecidableEq, Repr, Inhabited

abbrev flagNX : BitVec 6 := 1
abbrev flagUF : BitVec 6 := 2
abbrev flagOF : BitVec 6 := 4
abbrev flagDZ : BitVec 6 := 8
abbrev flagNV : BitVec 6 := 16
abbrev flagSAT : BitVec 6 := 32

-- Integers --------------------------------------------------------------------------------------------------------

/-- Signed integer formats (Table 6-1). -/
abbrev efSigned (e : Nat) : Bool := e ≤ 3

/-- Bits [w-1:0] as the format reads them. -/
def intRead (e : Nat) (v : BitVec 64) : Int :=
  let u := v.toNat % 2 ^ efBits e
  if efSigned e ∧ 2 ^ (efBits e - 1) ≤ u then (u : Int) - 2 ^ efBits e else u

/-- The w bits of an integer. -/
def wrapNat (w : Nat) (x : Int) : Nat := (x % (2 ^ w : Int)).toNat

def intMin (e : Nat) : Int := if efSigned e then -(2 ^ (efBits e - 1)) else 0
def intMax (e : Nat) : Int := if efSigned e then 2 ^ (efBits e - 1) - 1 else 2 ^ efBits e - 1

/-- An integer of format e as its lane register holds it: extended to 32 bits (R131). -/
def intWrite (e : Nat) (x : Int) : BitVec 64 :=
  BitVec.ofNat 64 (wrapNat 32 (intRead e (BitVec.ofNat 64 (wrapNat (efBits e) x))))

/-- fit: wrap, or clamp and set SAT (R132). -/
def fitInt (e : Nat) (sat : Bool) (x : Int) : LaneRes :=
  if sat then
    if x < intMin e then ⟨intWrite e (intMin e), flagSAT⟩
    else if intMax e < x then ⟨intWrite e (intMax e), flagSAT⟩
    else ⟨intWrite e x, 0⟩
  else ⟨intWrite e x, 0⟩

-- Floating-point formats -------------------------------------------------------------------------------------------

/-- Exponent bits, fraction bits, bias (Table 6-2). -/
structure FFmt where
  k : Nat
  p : Nat
  bias : Nat
  deriving DecidableEq, Repr, Inhabited

def fp32 : FFmt := ⟨8, 23, 127⟩
def fp16 : FFmt := ⟨5, 10, 15⟩
def bf16 : FFmt := ⟨8, 7, 127⟩

/-- Format of an EF code. -/
def ffmt (e : Nat) : FFmt := match e with | 7 => fp16 | 8 => bf16 | _ => fp32

def FFmt.signBit (f : FFmt) : Nat := 2 ^ (f.k + f.p)
def FFmt.nan (f : FFmt) : Nat := (2 ^ f.k - 1) * 2 ^ f.p + 2 ^ (f.p - 1)
def FFmt.inf (f : FFmt) : Nat := (2 ^ f.k - 1) * 2 ^ f.p
def FFmt.maxFinite (f : FFmt) : Nat := (2 ^ f.k - 1) * 2 ^ f.p - 1
/-- Exponent of the smallest normal number. -/
def FFmt.emin (f : FFmt) : Int := 1 - (f.bias : Int)

/-- A datum: (-1)^neg x mag x 2^e, an infinity, or a NaN. -/
inductive FVal where
  | num (neg : Bool) (mag : Nat) (e : Int)
  | inf (neg : Bool)
  | qnan
  | snan
  deriving DecidableEq, Repr, Inhabited

def FVal.isNan (x : FVal) : Bool := match x with | .qnan | .snan => true | _ => false
def FVal.neg (x : FVal) : FVal := match x with | .num s m e => .num (!s) m e | .inf s => .inf (!s) | y => y
def FVal.isZero (x : FVal) : Bool := match x with | .num _ 0 _ => true | _ => false

/-- Read a bit pattern (R133), a subnormal as a zero of its sign under flushing (R138). -/
def FFmt.read (f : FFmt) (ftz : Bool) (b : Nat) : FVal :=
  let neg := b / f.signBit % 2 = 1
  let ex := b / 2 ^ f.p % 2 ^ f.k
  let fr := b % 2 ^ f.p
  if ex = 2 ^ f.k - 1 then
    if fr = 0 then .inf neg else if 2 ^ (f.p - 1) ≤ fr then .qnan else .snan
  else if ex = 0 then .num neg (if ftz then 0 else fr) (f.emin - f.p)
  else .num neg (2 ^ f.p + fr) ((ex : Int) - f.bias - f.p)

/-- The bits of an operand as read: a flushed subnormal is the zero of its sign. -/
def FFmt.flushBits (f : FFmt) (ftz : Bool) (b : Nat) : Nat :=
  let c := b % (2 * f.signBit)
  if ftz ∧ c / 2 ^ f.p % 2 ^ f.k = 0 then c / f.signBit * f.signBit else c

/-- mag / 2^sh rounded to an integer under a mode (Table 6-3), and whether anything was lost. -/
def roundShift (mode : BitVec 2) (neg : Bool) (mag : Nat) (sh : Int) : Nat × Bool :=
  match sh with
  | .ofNat 0 => (mag, false)
  | .ofNat (n + 1) =>
    let q := mag / 2 ^ (n + 1)
    let r := mag % 2 ^ (n + 1)
    let up := if mode = 0 then decide (2 ^ n < r) || (r = 2 ^ n && q % 2 = 1)
      else if mode = 1 then false
      else if mode = 2 then neg && r ≠ 0
      else !neg && r ≠ 0
    ((if up then q + 1 else q), r ≠ 0)
  | .negSucc n => (mag * 2 ^ (n + 1), false)

/-- rnd of (-1)^neg x mag x 2^e (R135 to R138). -/
def FFmt.round (f : FFmt) (mode : BitVec 2) (ftz neg : Bool) (mag : Nat) (e : Int) : LaneRes :=
  let s := if neg then f.signBit else 0
  if mag = 0 then ⟨BitVec.ofNat 64 s, 0⟩
  else
    let L : Int := Nat.log2 mag
    let r := roundShift mode neg mag (L - f.p)
    let carry := r.1 = 2 ^ (f.p + 1)
    let E := L + e + (if carry then 1 else 0)
    if E < f.emin then
      if ftz then ⟨BitVec.ofNat 64 s, flagUF ||| flagNX⟩
      else
        let t := roundShift mode neg mag (f.emin - f.p - e)
        ⟨BitVec.ofNat 64 (s + t.1), if t.2 then flagUF ||| flagNX else 0⟩
    else if (f.bias : Int) < E then
      let big := mode = 0 || (mode = 2 && neg) || (mode = 3 && !neg)
      ⟨BitVec.ofNat 64 (s + (if big then f.inf else f.maxFinite)), flagOF ||| flagNX⟩
    else
      let m := if carry then 2 ^ f.p else r.1
      ⟨BitVec.ofNat 64 (s + (E + f.bias).toNat * 2 ^ f.p + (m - 2 ^ f.p)), if r.2 then flagNX else 0⟩

/-- A value rounded; a NaN gives the canonical NaN, a signalling one with NV (R134). -/
def FFmt.ofVal (f : FFmt) (mode : BitVec 2) (ftz : Bool) (x : FVal) : LaneRes :=
  match x with
  | .num s m e => f.round mode ftz s m e
  | .inf s => ⟨BitVec.ofNat 64 ((if s then f.signBit else 0) + f.inf), 0⟩
  | .qnan => ⟨BitVec.ofNat 64 f.nan, 0⟩
  | .snan => ⟨BitVec.ofNat 64 f.nan, flagNV⟩

def LaneRes.or (r : LaneRes) (fl : BitVec 6) : LaneRes := { r with flags := r.flags ||| fl }

/-- The invalid result. -/
def FFmt.invalid (f : FFmt) : LaneRes := ⟨BitVec.ofNat 64 f.nan, flagNV⟩

/-- Integer numerator of a number over 2^lo, lo at or below its exponent. -/
def FVal.scaled (x : FVal) (lo : Int) : Int :=
  match x with
  | .num s m e => let v : Int := m * 2 ^ (e - lo).toNat; if s then -v else v
  | _ => 0

/-- Least exponent of a list of numbers. -/
def minExp (xs : List FVal) : Int :=
  xs.foldl (fun a x => match x with | .num _ (_ + 1) e => min a e | _ => a) 0

/-- Exact sum of values (R137, R139): a NaN when some value is one or infinities of both signs meet; the flags it
raises. A zero sum keeps the common sign, else it is +0, or -0 under RDN. Where infinities of both signs stand beside a NaN
the spec does not say whether the addition (+inf) + (-inf) takes place: no flag is raised for it, a signalling NaN's
aside (log 44, DESIGN CHOICE). -/
def fsumVal (mode : BitVec 2) (xs : List FVal) : FVal × BitVec 6 :=
  let sn : BitVec 6 := if xs.contains .snan then flagNV else 0
  if xs.any FVal.isNan then (.qnan, sn)
  else if xs.contains (.inf false) then
    if xs.contains (.inf true) then (.qnan, flagNV) else (.inf false, 0)
  else if xs.contains (.inf true) then (.inf true, 0)
  else
    let lo := minExp xs
    let t : Int := (xs.map (fun x => x.scaled lo)).sum
    if t = 0 then
      let neg := fun (x : FVal) => match x with | .num s _ _ => s | _ => false
      let allZero := xs.all FVal.isZero
      if allZero ∧ xs.all neg then (.num true 0 0, 0)
      else if allZero ∧ !(xs.any neg) then (.num false 0 0, 0)
      else (.num (mode = 2) 0 0, 0)
    else (.num (t < 0) t.natAbs lo, 0)

/-- Exact product; 0 x infinity is invalid even beside a NaN addend (R139). -/
def fmulVal (a b : FVal) : FVal × BitVec 6 :=
  match a, b with
  | .num s m e, .num t n g => (.num (s != t) (m * n) (e + g), 0)
  | .inf s, .inf t => (.inf (s != t), 0)
  | .inf s, .num t n _ => if n = 0 then (.qnan, flagNV) else (.inf (s != t), 0)
  | .num s m _, .inf t => if m = 0 then (.qnan, flagNV) else (.inf (s != t), 0)
  | .snan, _ => (.qnan, flagNV)
  | _, .snan => (.qnan, flagNV)
  | _, _ => (.qnan, 0)

def FFmt.sum (f : FFmt) (mode : BitVec 2) (ftz : Bool) (xs : List FVal) : LaneRes :=
  let r := fsumVal mode xs
  (f.ofVal mode ftz r.1).or r.2

def FFmt.mul (f : FFmt) (mode : BitVec 2) (ftz : Bool) (a b : FVal) : LaneRes :=
  let r := fmulVal a b
  (f.ofVal mode ftz r.1).or r.2

/-- a x b + c with one rounding. -/
def FFmt.fma (f : FFmt) (mode : BitVec 2) (ftz : Bool) (a b c : FVal) : LaneRes :=
  let r := fmulVal a b
  (f.sum mode ftz [r.1, c]).or r.2

-- Minimum, maximum, comparison, class -------------------------------------------------------------------------------

/-- Order key of the bits of a value that is no NaN; both zeros have key 0. -/
def FFmt.key (f : FFmt) (b : Nat) : Int :=
  let m : Int := (b % f.signBit : Nat)
  if b / f.signBit % 2 = 1 then -m else m

/-- Lesser, -0 below +0. -/
def FFmt.lessZ (f : FFmt) (a b : Nat) : Bool :=
  f.key a < f.key b || (f.key a = f.key b && a / f.signBit % 2 = 1 && b / f.signBit % 2 = 0)

/-- VFMIN and VFMAX of two bit patterns (R159). -/
def FFmt.minMax (f : FFmt) (max ftz : Bool) (a b : Nat) : LaneRes :=
  let x := f.flushBits ftz a
  let y := f.flushBits ftz b
  match f.read ftz a, f.read ftz b with
  | .snan, _ => f.invalid
  | _, .snan => f.invalid
  | .qnan, .qnan => ⟨BitVec.ofNat 64 f.nan, 0⟩
  | .qnan, _ => ⟨BitVec.ofNat 64 y, 0⟩
  | _, .qnan => ⟨BitVec.ofNat 64 x, 0⟩
  | _, _ => ⟨BitVec.ofNat 64 (if f.lessZ x y = max then y else x), 0⟩

/-- The six VFCMP conditions (R158, Table 7-3): the bit and NV. -/
def FFmt.cmp (f : FFmt) (cc : Nat) (ftz : Bool) (a b : Nat) : LaneRes :=
  let x := f.read ftz a
  let y := f.read ftz b
  let s := x = .snan || y = .snan
  if x.isNan || y.isNan then
    let v : BitVec 64 := if cc = 1 ∨ cc = 4 then 1 else 0
    ⟨v, if s || cc = 2 || cc = 3 then flagNV else 0⟩
  else
    let p := f.key (f.flushBits ftz a)
    let q := f.key (f.flushBits ftz b)
    let t : Bool := match cc with
      | 0 => p = q
      | 1 => p ≠ q
      | 2 => p < q
      | 3 => p ≤ q
      | 4 => false
      | _ => true
    ⟨if t then 1 else 0, 0⟩

/-- VFCLASS (Table 7-5), without flushing. -/
def FFmt.classBits (f : FFmt) (b : Nat) : BitVec 64 :=
  let sub := b / 2 ^ f.p % 2 ^ f.k = 0
  match f.read false b with
  | .inf true => 0x1
  | .inf false => 0x80
  | .snan => 0x100
  | .qnan => 0x200
  | .num s m _ =>
    if m = 0 then (if s then 0x8 else 0x10)
    else if sub then (if s then 0x4 else 0x20)
    else (if s then 0x2 else 0x40)

-- Division, roots ---------------------------------------------------------------------------------------------------

/-- A positive quotient or root known to be q, with a nonzero rest when st: one more bit below the last. -/
def sticky (q : Nat) (st : Bool) : Nat := 2 * q + (if st then 1 else 0)

/-- VFDIV (R160). -/
def FFmt.div (f : FFmt) (mode : BitVec 2) (ftz : Bool) (a b : FVal) : LaneRes :=
  match a, b with
  | .snan, _ => f.invalid
  | _, .snan => f.invalid
  | .qnan, _ => f.ofVal mode ftz .qnan
  | _, .qnan => f.ofVal mode ftz .qnan
  | .inf _, .inf _ => f.invalid
  | .inf s, .num t _ _ => f.ofVal mode ftz (.inf (s != t))
  | .num s _ _, .inf t => f.ofVal mode ftz (.num (s != t) 0 0)
  | .num s m e, .num t n g =>
    if n = 0 then
      if m = 0 then f.invalid else (f.ofVal mode ftz (.inf (s != t))).or flagDZ
    else
      let w := f.p + 5 + Nat.log2 n
      f.round mode ftz (s != t) (sticky (m * 2 ^ w / n) (m * 2 ^ w % n ≠ 0)) (e - g - w - 1)

/-- Integer square root, k bits from the top. -/
def isqrt (n k r : Nat) : Nat :=
  match k with
  | 0 => r
  | j + 1 => if (r + 2 ^ j) * (r + 2 ^ j) ≤ n then isqrt n j (r + 2 ^ j) else isqrt n j r

def natSqrt (n : Nat) : Nat := isqrt n (Nat.log2 n / 2 + 1) 0

/-- VFSQRT (R160). -/
def FFmt.sqrt (f : FFmt) (mode : BitVec 2) (ftz : Bool) (a : FVal) : LaneRes :=
  match a with
  | .snan => f.invalid
  | .qnan => f.ofVal mode ftz .qnan
  | .inf s => if s then f.invalid else f.ofVal mode ftz (.inf false)
  | .num s m e =>
    if m = 0 then f.ofVal mode ftz (.num s 0 0)
    else if s then f.invalid
    else
      let w := 2 * (f.p + 4) + (e % 2).toNat
      let n := m * 2 ^ w
      let q := natSqrt n
      f.round mode ftz false (sticky q (q * q ≠ n)) ((e - w) / 2 - 1)

/-- VFRSQ (R160). -/
def FFmt.rsqrt (f : FFmt) (mode : BitVec 2) (ftz : Bool) (a : FVal) : LaneRes :=
  match a with
  | .snan => f.invalid
  | .qnan => f.ofVal mode ftz .qnan
  | .inf s => if s then f.invalid else f.ofVal mode ftz (.num false 0 0)
  | .num s m e =>
    if m = 0 then (f.ofVal mode ftz (.inf s)).or flagDZ
    else if s then f.invalid
    else
      let n := m * 2 ^ (e % 2).toNat
      let w := f.p + 6 + Nat.log2 n
      let q := natSqrt (2 ^ (2 * w) / n)
      f.round mode ftz false (sticky q (q * q * n ≠ 2 ^ (2 * w))) (-((e - e % 2) / 2) - w - 1)

-- Base-2 exponential and logarithm ----------------------------------------------------------------------------------

/-- Bits of the fixed-point fractions below; every inexact result of R160 lies further from a rounding boundary. -/
abbrev fixBits : Nat := 256

/-- Σ of z^(2j+1) / (2j+1) from term j on, n terms, z in fixed point and zz its square: the inverse hyperbolic tangent. -/
def atanhSum (n j z zz : Nat) : Nat :=
  match n with
  | 0 => 0
  | k + 1 => z / (2 * j + 1) + atanhSum k (j + 1) (z * zz / 2 ^ fixBits) zz

/-- ln((1 + z) / (1 - z)) in fixed point. -/
def lnRatio (z : Nat) : Nat := 2 * atanhSum 90 0 z (z * z / 2 ^ fixBits)

/-- ln 2 in fixed point. -/
def lnTwo : Nat := lnRatio (2 ^ fixBits / 3)

/-- Σ of t^j / j! from term j on, the present term given. -/
def expSum (n j t term : Nat) : Nat :=
  match n with
  | 0 => term
  | k + 1 => term + expSum k (j + 1) t (term * t / 2 ^ fixBits / (j + 1))

/-- VFEXP2 (R160). -/
def FFmt.exp2 (f : FFmt) (mode : BitVec 2) (ftz : Bool) (a : FVal) : LaneRes :=
  match a with
  | .snan => f.invalid
  | .qnan => f.ofVal mode ftz .qnan
  | .inf s => f.ofVal mode ftz (if s then .num false 0 0 else .inf false)
  | .num s m e =>
    let E := (Nat.log2 m : Int) + e
    if m = 0 then f.round mode ftz false 1 0
    else if 12 ≤ E then f.round mode ftz false 1 (if s then -4096 else 4096)
    else
      -- the argument over 2^lo, its floor and its fraction
      let x : Int := FVal.scaled (.num s m e) (min e 0)
      let d := (-(min e 0)).toNat
      let i := x / (2 ^ d : Int)
      let r := (x % (2 ^ d : Int)).toNat
      if r = 0 then f.round mode ftz false 1 i
      else f.round mode ftz false (sticky (expSum 80 0 (r * lnTwo / 2 ^ d) (2 ^ fixBits)) true) (i - fixBits - 1)

/-- VFLOG2 (R160). -/
def FFmt.log2 (f : FFmt) (mode : BitVec 2) (ftz : Bool) (a : FVal) : LaneRes :=
  match a with
  | .snan => f.invalid
  | .qnan => f.ofVal mode ftz .qnan
  | .inf s => if s then f.invalid else f.ofVal mode ftz (.inf false)
  | .num s m e =>
    if m = 0 then (f.ofVal mode ftz (.inf true)).or flagDZ
    else if s then f.invalid
    else
      let l := Nat.log2 m
      let E := (l : Int) + e
      if m = 2 ^ l then f.round mode ftz (E < 0) E.natAbs 0
      else
        let z := (m - 2 ^ l) * 2 ^ fixBits / (m + 2 ^ l)
        let t : Int := E * 2 ^ fixBits + (lnRatio z * 2 ^ fixBits / lnTwo : Nat)
        f.round mode ftz (t < 0) (sticky t.natAbs true) (-(fixBits : Int) - 1)

-- Conversions -------------------------------------------------------------------------------------------------------

/-- Float to integer format (R139, R161). -/
def floatToInt (e : Nat) (mode : BitVec 2) (x : FVal) : LaneRes :=
  match x with
  | .qnan | .snan => ⟨0, flagNV⟩
  | .inf s => ⟨intWrite e (if s then intMin e else intMax e), flagNV⟩
  | .num s m g =>
    let r := roundShift mode s m (-g)
    let v : Int := if s then -(r.1 : Int) else r.1
    if v < intMin e then ⟨intWrite e (intMin e), flagNV⟩
    else if intMax e < v then ⟨intWrite e (intMax e), flagNV⟩
    else ⟨intWrite e v, if r.2 then flagNX else 0⟩

/-- Integer to float (R139). -/
def FFmt.ofInt (f : FFmt) (mode : BitVec 2) (ftz : Bool) (x : Int) : LaneRes := f.round mode ftz (x < 0) x.natAbs 0

-- Block floating point ------------------------------------------------------------------------------------------------

/-- floor(log2 |x|) of a nonzero number. -/
def FVal.exp (x : FVal) : Option Int :=
  match x with
  | .num _ (m + 1) e => some ((Nat.log2 (m + 1) : Int) + e)
  | _ => none

/-- Greatest of the exponents present. -/
def maxExp (xs : List FVal) : Option Int :=
  xs.foldl (fun a x => match x.exp, a with
    | none, a => a
    | some e, none => some e
    | some e, some b => some (max e b)) none

/-- bfpq (R146) of values already flushed: E, the mantissas, the flags. -/
def bfpq (xs : List FVal) (n : Nat) : Nat × List Int × BitVec 6 :=
  let isInf := fun (x : FVal) => match x with | .inf _ => true | _ => false
  if xs.any (fun x => x.isNan || isInf x) then
    (255, xs.map (fun _ => 0), if xs.any (fun x => x = .snan || isInf x) then flagNV else 0)
  else
    match maxExp xs with
    | none => (0, xs.map (fun _ => 0), 0)
    | some a =>
      let E := max (a + 127) 1
      let one : FVal → Int × Bool := fun x => match x with
        | .num s m e =>
          let r := roundShift 0 s m (-(e + (n : Int) - 2 - (E - 127)))
          let lim : Nat := 2 ^ (n - 1) - 1
          let q : Nat := min r.1 lim
          ((if s then -(q : Int) else (q : Int)), r.2 || decide (lim < r.1))
        | _ => ((0 : Int), false)
      let ms := xs.map one
      let fl : BitVec 6 := if ms.any (·.2) then flagNX else 0
      (if ms.all (fun x => x.1 = 0) then 0 else E.toNat, ms.map (·.1), fl)

/-- Element of a BFP block (Table 6-7). -/
def bfpVal (E : Nat) (m : Int) (n : Nat) : FVal :=
  if E = 0 then .num false 0 0
  else if E = 255 then .qnan
  else .num (m < 0) m.natAbs ((E : Int) - 127 - ((n : Int) - 2))

/-- bfpd (R147). -/
def FFmt.bfpd (f : FFmt) (mode : BitVec 2) (ftz : Bool) (E : Nat) (m : Int) (n : Nat) : LaneRes :=
  f.ofVal mode ftz (bfpVal E m n)

/-- Sign-extend the low n bits of a number. -/
def sextNat (n v : Nat) : Int :=
  let u := v % 2 ^ n
  if 2 ^ (n - 1) ≤ u then (u : Int) - 2 ^ n else u

-- Read-modify-writes ------------------------------------------------------------------------------------------------

def signedOf (n : Nat) (v : Nat) : Int := sextNat (8 * n) v

/-- New memory value of an atomic of n bytes (09 Table 9-7). -/
def rmwValue (op n old v cmp : Nat) : Nat :=
  match op with
  | 0 => (old + v) % 2 ^ (8 * n)
  | 1 => if signedOf n v < signedOf n old then v else old
  | 2 => if signedOf n old < signedOf n v then v else old
  | 3 => old &&& v
  | 4 => old ||| v
  | 5 => old ^^^ v
  | 6 => v
  | 7 => if old = cmp then v else old
  | 8 => (fp32.sum 0 false [fp32.read false old, fp32.read false v]).v.toNat
  | _ => max (old % 2 ^ 31) (v % 2 ^ 31)

end Sys2Proof.Machine
end

