-- ==== Sys2Proof/Machine/Cells.lean ====
section
/-! DEFINITION. Sparse tables: a list of (key, value) pairs with strictly rising keys. Tab holds records, an absent key
is the record in its reset state; Cells holds words, no entry is zero and an absent key reads zero, so equal contents are
equal lists. -/

namespace Sys2Proof.Machine

/-- Records by key. -/
abbrev Tab (α : Type) := List (Nat × α)
/-- Words by key, zero where unlisted. -/
abbrev Cells (w : Nat) := List (Nat × BitVec w)

/-- The entry at key k, if listed. -/
def tabGet? {α : Type} (t : Tab α) (k : Nat) : Option α :=
  match t with
  | [] => none
  | (j, a) :: rest => if j = k then some a else tabGet? rest k

/-- The entry at key k, or d. -/
def tabGet {α : Type} (t : Tab α) (k : Nat) (d : α) : α := (tabGet? t k).getD d

/-- Write the entry at key k, keeping the keys rising. -/
def tabPut {α : Type} (t : Tab α) (k : Nat) (a : α) : Tab α :=
  match t with
  | [] => [(k, a)]
  | (j, b) :: rest =>
    if j = k then (k, a) :: rest
    else if k < j then (k, a) :: (j, b) :: rest
    else (j, b) :: tabPut rest k a

/-- Remove the entry at key k. -/
def tabDel {α : Type} (t : Tab α) (k : Nat) : Tab α :=
  match t with
  | [] => []
  | (j, b) :: rest => if j = k then rest else (j, b) :: tabDel rest k

/-- Apply f to every entry. -/
def tabMap {α : Type} (t : Tab α) (f : Nat → α → α) : Tab α := t.map (fun e => (e.1, f e.1 e.2))

/-- The word at key k. -/
def cellGet {w : Nat} (t : Cells w) (k : Nat) : BitVec w :=
  match t with
  | [] => 0
  | (j, a) :: rest => if j = k then a else cellGet rest k

/-- Write a word other than zero at key k, keeping the keys rising. -/
def cellIns {w : Nat} (t : Cells w) (k : Nat) (a : BitVec w) : Cells w :=
  match t with
  | [] => [(k, a)]
  | (j, b) :: rest =>
    if j = k then (k, a) :: rest
    else if k < j then (k, a) :: (j, b) :: rest
    else (j, b) :: cellIns rest k a

/-- Write the word at key k; writing zero removes the entry. -/
def cellPut {w : Nat} (t : Cells w) (k : Nat) (a : BitVec w) : Cells w :=
  if a = 0 then t.filter (fun e => e.1 != k) else cellIns t k a

/-- Write consecutive words from key k. -/
def cellPutList {w : Nat} (t : Cells w) (k : Nat) (as : List (BitVec w)) : Cells w :=
  match as with
  | [] => t
  | a :: rest => cellPutList (cellPut t k a) (k + 1) rest

/-- Remove the words at keys lo .. lo + n - 1. -/
def cellClear {w : Nat} (t : Cells w) (lo n : Nat) : Cells w :=
  t.filter (fun e => !(lo ≤ e.1 && e.1 < lo + n))

/-- Write every word of src, its keys raised by lo, after clearing n words there. -/
def cellPaste {w : Nat} (t : Cells w) (lo n : Nat) (src : Cells w) : Cells w :=
  src.foldl (fun acc e => cellPut acc (lo + e.1) e.2) (cellClear t lo n)

/-- The canonical form: keys strictly rising, no zero. -/
def cellsWf {w : Nat} (t : Cells w) : Bool :=
  match t with
  | [] => true
  | (k, a) :: rest => a != 0 && (match rest with | [] => true | (j, _) :: _ => decide (k < j)) && cellsWf rest

/-- Bring a list into canonical form, the earliest entry of a key counting. -/
def cellsCanon {w : Nat} (t : Cells w) : Cells w :=
  match t with
  | [] => []
  | (k, a) :: rest => cellPut (cellsCanon rest) k a

/-- The words at keys lo .. lo + n - 1, moved to start at key 0, in canonical form. -/
def cellTake {w : Nat} (t : Cells w) (lo n : Nat) : Cells w :=
  cellsCanon ((t.filter (fun e => lo ≤ e.1 && e.1 < lo + n)).map (fun e => (e.1 - lo, e.2)))

/-- Insertion into a list ordered by a rank, after entries of equal rank. -/
def insertRank {α : Type} (rank : α → Nat) (a : α) (l : List α) : List α :=
  match l with
  | [] => [a]
  | b :: rest => if rank a < rank b then a :: b :: rest else b :: insertRank rank a rest

/-- Stable sort by a rank, least first. -/
def sortRank {α : Type} (rank : α → Nat) (l : List α) : List α :=
  l.foldl (fun acc a => insertRank rank a acc) []

/-- The entry of a list at position k, or d. -/
def listAt {α : Type} (l : List α) (k : Nat) (d : α) : α := (l[k]?).getD d

/-- Remove the entry at position k. -/
def listDel {α : Type} (l : List α) (k : Nat) : List α := l.take k ++ l.drop (k + 1)

/-- Replace the entry at position k. -/
def listSet {α : Type} (l : List α) (k : Nat) (a : α) : List α := l.set k a

end Sys2Proof.Machine
end

