-- ==== Sys2Proof/Machine/State.lean ====
section
/-! DEFINITION. The state of the machine: plain data, every piece of state the spec gives, for any number of devices,
their reticles, the jobs, gangs, blocks and squads on them. Records stand in tables by key; a key that is not listed is
a record in its reset state. Keys: reticle 48 x device + reticle; core 128 x reticle key + CORE; job 65,536 x device +
job; field 65,536 x reticle key + job; block 4 x gang + BLKID; squad 64 x gang + 16 x BLKID + SQID. -/

namespace Sys2Proof.Machine

/-- Why the machine stops. -/
inductive Fault where
  /-- Raised by an access whose physical address lies where the spec lays out no storage: a home's offset at or beyond
  64 GiB (01 Table 1-1, 15 R290 check only the home). Safe: the spec gives no effect there. -/
  | noStorage
  deriving DecidableEq, Repr, Inhabited

/-- Why a step has no meaning. -/
inductive Refusal where
  /-- Raised by an arm of exec whose instruction has no meaning yet. Safe: nothing is claimed of it. -/
  | notModelled (mnemonic : String)
  deriving DecidableEq, Repr, Inhabited

/-- The trap registers (16 Table 16-1). -/
structure TrapRegs where
  tcause : BitVec 64 := 0
  tpc : BitVec 64 := 0
  tlpc : BitVec 64 := 0
  tlm : BitVec 32 := 0
  tval : BitVec 64 := 0
  tdst : BitVec 64 := 0
  thandler : BitVec 64 := 0
  tsave0 : BitVec 64 := 0
  tsave1 : BitVec 64 := 0
  tsave2 : BitVec 64 := 0
  tsave3 : BitVec 64 := 0
  deriving DecidableEq, Repr, Inhabited

/-- A tile fault as a trap's marker keeps it: its number among its Pacer's faults, its TLPC, and the RPR of a TMMA or TMMAJ that it
stopped part-way (11 R237, R240). -/
structure TileRet where
  num : Nat
  tlpc : BitVec 64
  part : Option (BitVec 32)
  deriving DecidableEq, Repr, Inhabited

/-- The trap marker of a squad in its handler (16 R305). -/
structure Marker where
  m0 : BitVec 32
  fmt : BitVec 14
  lcnt : BitVec 13
  lpc : BitVec 64
  wm : BitVec 32
  /-- Switch marker of the interrupted LANE (02 R47). -/
  ls : Bool
  tile : Option TileRet := none
  deriving DecidableEq, Repr, Inhabited

/-- An entry a handler pushed above its marker: an in-place construct of the one squad (08 R183; 16 R306). -/
structure HandlerEntry where
  e : BitVec 32
  f : BitVec 32
  fmt : BitVec 14
  els : Bool
  deriving DecidableEq, Repr, Inhabited

/-- The checkpoint of an idempotent region (16 R312). -/
structure Checkpoint where
  pc : BitVec 64
  lpc : BitVec 64
  masks : Cells 32
  fmt : BitVec 14
  fflags : BitVec 6
  chsel : BitVec 8
  deriving DecidableEq, Repr, Inhabited

/-- A trap about to be entered: what 16 R305 writes. -/
structure TrapInfo where
  cause : BitVec 8
  async : Bool := false
  rx : Bool := false
  lw : Bool := false
  tpc : BitVec 64 := 0
  tlpc : BitVec 64 := 0
  tlm : BitVec 32 := 0
  tval : BitVec 64 := 0
  tdst : BitVec 64 := 0
  lcnt : BitVec 13 := 0
  wm : BitVec 32 := 0
  ls : Bool := false
  tile : Option TileRet := none
  deriving DecidableEq, Repr, Inhabited

/-- Where a result goes: nowhere, a scalar register, a vector register's lane, or the lanes of a pair, each named by its
physical cell. -/
inductive Dst where
  | none
  | sreg (cell : Nat)
  | vreg (cell : Nat)
  | vpair (lo hi : Nat)
  deriving DecidableEq, Repr, Inhabited

/-- The order of an access (10 Table 10-1). -/
inductive AccOrd where
  | ordinary | relaxed | acquire | release | acqrel
  deriving DecidableEq, Repr, Inhabited

/-- A party of the memory order (00 R3): a squad, a block's Pacer, a card acting for a job, Relay acting for a job on a
reticle, a device's service cluster, the host. done and every are the model's own: done the signalled accesses of a device's
cards and tile instructions (03 R84), every all parties. -/
inductive Party where
  | squad (q : Nat)
  | pacer (b : Nat)
  | card (r id field : Nat)
  | member (field : Nat)
  | service (d : Nat)
  | host
  | done (d : Nat)
  | every
  deriving DecidableEq, Repr, Inhabited

/-- The bytes lo .. lo + n - 1 of the write with this serial, as something a party has seen (10 R211). -/
structure Seen where
  serial : Nat
  lo : Nat
  n : Nat
  deriving DecidableEq, Repr, Inhabited

/-- A release (10 R214): by whom, at which scope, and the writes that happen before it. -/
structure Head where
  party : Party
  scope : Nat
  seen : List Seen
  deriving DecidableEq, Repr, Inhabited

/-- A party that must see a write, where it reads any of the bytes lo .. lo + n - 1. -/
structure Mark where
  party : Party
  lo : Nat
  n : Nat
  deriving DecidableEq, Repr, Inhabited

/-- A write as the coherence order of its bytes holds it (10 R209): each byte's address and what stood there before, who made it,
whether it was a squad's store, the releases whose release sequence it belongs to (10 R213), who must see it, and the devices to
which an arrival has handed it (10 R215). -/
structure Write where
  serial : Nat
  old : List (Nat × Byte)
  by_ : Party
  store : Bool
  heads : List Head
  marks : List Mark
  sent : List Nat := []
  deriving DecidableEq, Repr, Inhabited

/-- A checked and translated element: its machine address, length, virtual address and whether a load may allocate an
L1 line for it. -/
structure Loc where
  addr : Nat
  len : Nat
  va : BitVec 64
  cached : Bool
  deriving DecidableEq, Repr, Inhabited

/-- A piece of address space a card or post translated at its submission (12 R251; 13 R267): virtual base, machine base,
length. -/
structure Seg where
  va : Nat
  addr : Nat
  len : Nat
  deriving DecidableEq, Repr, Inhabited

/-- A copy-engine card as accepted (12 Table 12-1), with its translations. -/
structure Card where
  seq : BitVec 64
  job : Nat
  /-- The squad that executed the ENQ and its gang's GANGID; none for an engine service port. -/
  squad : Option Nat
  gangid : Nat := 0
  port : Option Nat
  op : BitVec 4
  ndim : Nat
  esize : Nat
  scope : BitVec 3
  next : BitVec 64
  token : BitVec 64
  src : BitVec 64
  dst : BitVec 64
  fillv : BitVec 64
  /-- Non-empty read and write regions, (base, length). -/
  reads : List (Nat × Nat)
  writes : List (Nat × Nat)
  /-- Per dimension EXT, SSTR, DSTR. -/
  dims : List (Nat × BitVec 64 × BitVec 64)
  /-- Storage the read and the write regions resolve to. -/
  rsegs : List Seg
  wsegs : List Seg
  tokenAddr : Option Nat
  /-- Cause of the fault that writing its token word takes: a window word beyond its allotment or in the weight store
  (09 R187, R196). -/
  tokenFault : Option (BitVec 8) := none
  /-- Pinned physical pages of the regions, and of the token word. -/
  pins : List Nat
  tokenPin : Option Nat := none
  chain : Nat
  /-- Serial of the ENQ: the squad's accesses issued before it come first (10 R220). -/
  word : Nat
  /-- Card identifiers this card waits for: its chain predecessor and its dependence edges. -/
  after : List Nat
  engine : Nat
  entered : Bool
  running : Bool
  /-- Elements already moved. -/
  progress : Nat
  /-- Elements from progress on that have already moved (12 R248 leaves their order open). -/
  ahead : List Nat := []
  /-- Stopped by a fault, or abandoned with its chain. -/
  stopped : Bool
  /-- Complete or abandoned: its entry is free and its regions' pages unpinned, its token word is still to be written
  (12 R251). -/
  ended : Bool := false
  /-- A region lies off the reticle or in host memory. -/
  offReticle : Bool
  /-- Mailboxes whose word it has written, by reticle and entry (04 R105). -/
  hits : List (Nat × Nat)
  deriving DecidableEq, Repr, Inhabited

/-- What a post asks for (13 R268 to R273; 14 R281). Cards and maps are held as their doubles. -/
inductive PostKind where
  | get (loc rem : BitVec 64) (rank flits : Nat)
  | put (rem loc : BitVec 64) (rank flits : Nat)
  | amo (rem loc : BitVec 64) (rank op : Nat) (dbl : Bool) (flits : Nat)
  /-- rem is BASE + o of the aperture, group its FIRST, NRANKS and STRIDE. -/
  | mst (rem group loc : BitVec 64) (flits : Nat)
  | mld (loc rem group : BitVec 64) (op ef flits : Nat)
  | coll (card : List (BitVec 64))
  | txa (map : List (BitVec 64)) (src dst : BitVec 64)
  deriving DecidableEq, Repr, Inhabited

/-- An operation accepted into a channel, or a compiled transfer of the superstep in progress, and its progress. -/
structure Posted where
  id : Nat
  squad : Option Nat
  gang : Option Nat
  kind : PostKind
  segs : List Seg
  pins : List Nat
  /-- Position among the posts of its group (13 R274; 14 R284). -/
  seq : Nat := 0
  started : Bool := false
  /-- Requests injected so far, and those acknowledged. -/
  sent : Nat := 0
  acked : Nat := 0
  /-- Local data read when the part started, by offset. -/
  data : Cells 8 := []
  /-- Members whose contribution or piece has been taken in, with its bytes. -/
  got : List (Nat × Cells 8) := []
  /-- Destination flits already written. -/
  wrote : List Nat := []
  /-- Mailboxes whose word it has written, by reticle and entry (04 R105). -/
  hits : List (Nat × Nat) := []
  /-- SUB of the failure that ended it (13 Table 13-9). -/
  failed : Option (BitVec 8) := none
  deriving DecidableEq, Repr, Inhabited

/-- An operation that ended with a carry-time fault, to be delivered (03 R82): its squad and gang, compiled or posted, SUB
and channel. -/
structure Failure where
  squad : Option Nat
  gang : Option Nat
  compiled : Bool
  sub : BitVec 8
  chan : Nat
  deriving DecidableEq, Repr, Inhabited

/-- A gang descriptor (04 Table 4-1). -/
structure Desc where
  job : BitVec 16 := 0
  asid : BitVec 16 := 0
  prio : BitVec 4 := 0
  blocks : BitVec 2 := 0
  squads : BitVec 4 := 0
  vws : BitVec 5 := 0
  tiles : BitVec 3 := 0
  cores : BitVec 1 := 0
  hchk : BitVec 1 := 0
  fmt0 : BitVec 14 := 0
  loc : BitVec 5 := 0
  l1 : BitVec 5 := 0
  pool : BitVec 5 := 0
  gcount : BitVec 16 := 0
  sentry : BitVec 64 := 0
  lentry : BitVec 64 := 0
  tentry : BitVec 64 := 0
  args : BitVec 64 := 0
  xplan : BitVec 64 := 0
  cplt : BitVec 64 := 0
  deriving DecidableEq, Repr, Inhabited

/-- The kinds of outstanding variable-latency result (02 R45). -/
inductive OutKind where
  /-- A value known at issue. -/
  | value (dst : Dst) (v : BitVec 64)
  | load (loc : Loc) (signed : Bool) (dst : Dst)
  | store (loc : Loc) (v : BitVec 64)
  /-- A store that stands at its home, which has not acknowledged it yet: its write (10 R208). -/
  | ack (loc : Loc) (serial : Nat)
  | rmw (loc : Loc) (op : Nat) (v cmp : BitVec 64) (dst : Dst)
  | channel (chan slots : Nat) (ordered : Bool)
  /-- A post not yet accepted: its channel. -/
  | post (chan : Nat) (p : Posted)
  /-- A POST waiting for a free queue entry of the own reticle. -/
  | task (desc : Desc) (dst : Dst)
  /-- An ENQ whose chain is not wholly entered: the chain and the last sequence number. -/
  | chain (id : Nat) (last : BitVec 64) (dst : Dst)
  deriving DecidableEq, Repr, Inhabited

/-- An outstanding result: the serial of the word it belongs to, that word's scalar address, whether a region was open
at its issue, its order and scope, the FP flags of its word, and the Stopwatch source it is measured by; for a late fault
in a handler also the word's lane address, its lane and its TDST (16 R307). -/
structure Outst where
  word : Nat
  pc : BitVec 64
  region : Bool
  ord : AccOrd
  scope : Nat
  kind : OutKind
  flags : BitVec 6
  meter : Option Nat
  tlpc : BitVec 64 := 0
  lane : BitVec 32 := 0
  tdst : BitVec 64 := 0x1800
  /-- Of a strong access: the writes its squad had seen at its issue, and what its earlier accesses have seen since (10 R214, R215). -/
  seen : List Seen := []
  deriving DecidableEq, Repr, Inhabited

/-- A SYSC in progress (17 R329). -/
structure SyscRec where
  sd : BitVec 6
  /-- vA, the first of the four argument registers. -/
  a : BitVec 11
  service : BitVec 16
  count : Nat
  /-- Lanes whose request has no reply yet, with their 16 argument bytes. -/
  todo : List (Nat × BitVec 128)
  /-- The record number of the delivered request and its lane. -/
  waiting : Option (Nat × Nat)
  got : List (Nat × BitVec 64)
  since : BitVec 64
  deriving DecidableEq, Repr, Inhabited

/-- An ENQ that has passed its checks and waits for pins (12 R250). -/
structure EnqWait where
  s : BitVec 1
  sd : BitVec 6
  engine : Nat
  cards : List Card
  deriving DecidableEq, Repr, Inhabited

/-- What a squad is doing (02 R46; 16 Table 16-5 STATE). -/
inductive RunState where
  | running
  /-- Parked until no result is outstanding, then the word at PC issues. -/
  | parked
  /-- A trap waits for the outstanding results (02 R53; 16 R305). -/
  | trapping (t : TrapInfo)
  | sync (sd : BitVec 6) (since : BitVec 64)
  | yield (addr : Nat) (value : BitVec 64) (cont : BitVec 64)
  | sysc (r : SyscRec)
  | waitseq (addr : Nat) (value : BitVec 64) (scope : Nat)
  /-- Parked in BARW or BARS on a barrier. -/
  | barrier (b : Nat)
  /-- Arrived at a divergence word (08 R172). -/
  | diverge (w : BitVec 96)
  | enq (e : EnqWait)
  | exited
  | halted
  deriving DecidableEq, Repr, Inhabited

/-- A LANE in progress: words left to enqueue, and its own switch marker (02 R47). -/
structure LaneRun where
  left : Nat
  s : Bool
  deriving DecidableEq, Repr, Inhabited

/-- Replay of a stopped lane memory word (09 R206): its failing lanes and the mask of its first enqueue. -/
structure Replay where
  tlm : BitVec 32
  wm : BitVec 32
  deriving DecidableEq, Repr, Inhabited

/-- An asynchronous fault pending in a squad (16 R308). rank orders them: carry-time channel faults, then engine faults in
sequence order, then tile faults. -/
structure PendFault where
  rank : Nat
  /-- Taken only once the squad has resumed from SYNC or SYSC (03 R82). -/
  carry : Bool
  cause : BitVec 8
  tval : BitVec 64
  tdst : BitVec 64
  /-- Of a tile fault. -/
  tile : Option TileRet := none
  deriving DecidableEq, Repr, Inhabited

/-- A squad. -/
structure Squad where
  /-- s1..s15 at cells 1..15, windowed physical register p at cell 16 + p (05 R111, R112). -/
  sregs : Cells 64 := []
  /-- Physical vector register p, lane l at cell 32p + l (05 R114). -/
  vregs : Cells 32 := []
  masks : Cells 32 := []
  laneids : Cells 32 := []
  /-- Positions that hold a lane (08 R168, R184). -/
  lanes : BitVec 32 := 0xFFFFFFFF
  fmt : BitVec 14 := 0
  fflags : BitVec 6 := 0
  pc : BitVec 64 := 0
  lpc : BitVec 64 := 0
  lcnt : BitVec 13 := 0
  swb : Nat := 0
  vwb : Nat := 0
  rlo : Nat := 0
  /-- VWS, in registers. -/
  vws : Nat := 64
  chsel : BitVec 8 := 0
  trap : TrapRegs := {}
  handler : Option Marker := none
  seg : List HandlerEntry := []
  region : Option Checkpoint := none
  run : RunState := .running
  lane : Option LaneRun := none
  replay : Option Replay := none
  /-- Operands read at issue by a word that waits (02 R49). -/
  latch : Option (List (BitVec 64)) := none
  /-- PC of a barrier word whose wait a trap interrupted: a BARS there has already counted its arrival (11 R244). -/
  bars : Option (BitVec 64) := none
  out : List Outst := []
  faults : List PendFault := []
  /-- Slot of the core, 0..15 (04 R97). -/
  slot : Nat := 0
  /-- Retired by a REGRP: its slot is free from the next boundary (08 R184). -/
  fused : Bool := false
  /-- Stamp of the last choice in the scalar and lane streams, 0 for never; opportunities missed in a row (04 R100, R101). -/
  lastS : Nat := 0
  lastL : Nat := 0
  missS : Nat := 0
  missL : Nat := 0
  /-- Its last release FENCE at each scope, and what its relaxed strong reads have read from releases, each with the scope of
  the read (10 R214). -/
  fenced : List Head := []
  pend : List (Nat × Head) := []
  deriving DecidableEq, Repr, Inhabited

/-- The Pacer's format state (11 R231). -/
structure TileFormat where
  ak : BitVec 3 := 0
  an : BitVec 4 := 8
  bk : BitVec 3 := 0
  bn : BitVec 4 := 8
  acct : BitVec 1 := 0
  ord : BitVec 1 := 0
  rm : BitVec 2 := 0
  ftz : BitVec 1 := 0
  deriving DecidableEq, Repr, Inhabited

/-- A latched operand descriptor (11 R232). -/
structure Descr where
  m : BitVec 64 := 0
  s : BitVec 64 := 0
  x : BitVec 64 := 0
  xs : BitVec 64 := 0
  deriving DecidableEq, Repr, Inhabited

/-- Run state of a Pacer (11 Table 11-1). -/
inductive PacerRun where
  | running
  | idle
  /-- Held by a marker (02 R60). -/
  | held
  /-- Parked in TBARW, whose marker is s. -/
  | barrier (b : Nat) (s : BitVec 1)
  /-- In TEND. -/
  | ending
  /-- Stopped at a fault. -/
  | stopped
  deriving DecidableEq, Repr, Inhabited

/-- A tile instruction issued to the arrays or load pipes and not complete, with what it read at issue. -/
structure TileOp where
  instr : Instr
  word : BitVec 64
  pc : BitVec 64
  serial : Nat
  fmt : TileFormat
  da : Descr
  db : Descr
  /-- ta values read at issue: taM, taS, taX, taW. -/
  ta : List (BitVec 64)
  /-- Panel it starts at, and panels or steps done; the rows done of a word that works by rows, in any order (10 R219). -/
  start : Nat
  progress : Nat
  rows : List Nat := []
  /-- Its block's images were spilled while the arrays were in the middle of it: they take it up again in its turn (01 R24). -/
  paused : Bool := false
  /-- First A and B exponents this execution read (11 R236). -/
  expA : Option (BitVec 8)
  expB : Option (BitVec 8)
  deriving DecidableEq, Repr, Inhabited

/-- A tile fault that waits until a squad of the block is out of its handler (11 R239). -/
structure TileFault where
  tval : BitVec 64
  tlpc : BitVec 64
  tdst : BitVec 64
  num : Nat := 0
  part : Option (BitVec 32) := none
  deriving DecidableEq, Repr, Inhabited

/-- A block's Pacer (11 Table 11-1). -/
structure Pacer where
  tpc : BitVec 64 := 0
  ta : Cells 64 := []
  rpr : BitVec 32 := 0
  fmt : TileFormat := {}
  da : Descr := {}
  db : Descr := {}
  jseq : BitVec 32 := 0
  asat : BitVec 4 := 0
  run : PacerRun := .idle
  flight : List TileOp := []
  /-- Faults not yet delivered, oldest first, and those delivered whose handler has not returned (11 R239, R240). -/
  faults : List TileFault := []
  owed : Nat := 0
  /-- Faults so far; and the number of the last one whose word is to execute again, 0 for none (11 R240). -/
  met : Nat := 0
  again : Nat := 0
  /-- Stamp of the last service by the arrays (01 R24). -/
  served : Nat := 0
  deriving DecidableEq, Repr, Inhabited

/-- A block barrier (11 R243). -/
structure Barrier where
  cnt : Nat := 0
  exp : Nat := 0
  gen : Nat := 0
  /-- Generation of the Pacer's last counted arrival. -/
  pacerGen : Option Nat := none
  /-- What the arrivals counted in this generation release (10 R224). -/
  seen : List Seen := []
  deriving DecidableEq, Repr, Inhabited

/-- An arrival issued and not yet counted: party 0..15 is a squad, 16 the Pacer; serial is that of the word. -/
structure Arrival where
  party : Nat
  bar : Nat
  count : Nat
  serial : Nat
  word : BitVec 64
  deriving DecidableEq, Repr, Inhabited

/-- A lane held aside (08 R179): whose, its LANEID, its bits of m1..m15 and its registers. -/
structure HeldLane where
  sq : Nat
  l : Nat
  id : BitVec 32
  bits : BitVec 16
  regs : Cells 32
  deriving DecidableEq, Repr, Inhabited

/-- A participant's part of a construct (08 R171). -/
structure Part where
  sq : Nat
  e : BitVec 32
  f : BitVec 32
  fmt : BitVec 14
  deriving DecidableEq, Repr, Inhabited

/-- A collective entry of the reconvergence stack (08 R171), the innermost first. -/
structure Construct where
  parts : List Part
  l : Nat
  s : Nat
  els : Bool
  held : List HeldLane
  /-- Positions that held a lane before the construct moved any. -/
  lanes : List (Nat × BitVec 32)
  deriving DecidableEq, Repr, Inhabited

/-- An L1 line: 128 bytes by virtual line number, the machine line it was filled from (09 R189), and how many writes had been
performed then. -/
structure L1Line where
  vline : Nat
  pline : Nat
  bytes : Cells 8
  asof : Nat := 0
  /-- Its 32-byte units, 0 to 3, that hold uncorrectable data (16 R366). -/
  bad : List Nat := []
  deriving DecidableEq, Repr, Inhabited

/-- A block. -/
structure Block where
  pacer : Pacer := {}
  /-- acc a, row i, column c at cell 4,096a + 64i + c. -/
  accs : Cells 32 := []
  bars : Tab Barrier := []
  /-- ARR and AGEN: key 16 x party + barrier is listed when ARR = 1, with AGEN. -/
  arrived : Tab Nat := []
  /-- What a completed generation lets a party that arrived in it acquire, under the keys of arrived (10 R224). -/
  passed : Tab (List Seen) := []
  arrivals : List Arrival := []
  stack : List Construct := []
  l1 : List L1Line := []
  deriving DecidableEq, Repr, Inhabited

/-- Why a gang is away from its cores, and whether what it waits for from outside has come. -/
inductive Away where
  /-- A page fault (16 R317): the page fetch is complete. -/
  | swap (fetched : Bool)
  /-- A late fault or uncorrectable fetch (16 R314, R367): service software has made it ready. -/
  | repair (ready : Bool)
  | yield
  | preempt
  deriving DecidableEq, Repr, Inhabited

/-- Where a gang is. leaving: it left within this compute superstep, its resources still counted (04 R102). -/
inductive Place where
  | resident
  | leaving (why : Away)
  | away (why : Away)
  deriving DecidableEq, Repr, Inhabited

/-- What ended a gang: the report service software receives at its retirement (16 R318). -/
structure Ending where
  cause : BitVec 8
  blkid : Nat
  sqid : Nat
  addr : BitVec 64
  extra : List (BitVec 64)
  deriving DecidableEq, Repr, Inhabited

/-- A gang from its first placement until it retires. -/
structure Gang where
  ret : Nat := 0
  job : Nat := 0
  desc : Desc := {}
  launch : Nat := 0
  index : Nat := 0
  gangid : Nat := 0
  place : Place := .resident
  /-- What it must wait for as well: a page or a repair that it met while it left or was away (16 R314, R317). -/
  more : List Away := []
  /-- CORE of each block, in BLKID order. -/
  cores : List Nat := []
  placedAt : Nat := 0
  leftAt : Nat := 0
  residence : Nat := 0
  carried : Bool := false
  /-- Its termination (16 R318). -/
  term : Option Ending := none
  /-- Offsets in its reticle's bonded DRAM of its frame and of its squads' spill areas (16 R319; 05 R115). -/
  frame : Option Nat := none
  spill : Option Nat := none
  /-- Squads and blocks whose state without a given layout the host has overwritten in the frame (17 R323). -/
  overS : List Nat := []
  overB : List Nat := []
  /-- The host has overwritten its header. -/
  overH : Bool := false
  /-- Core-local and pooled images stand in the frame (16 R320). -/
  spilled : Bool := false
  /-- Blocks whose register context is not in the frame yet: it still drains from the shadow bank, or waits for outstanding
  results (16 R320; 02 R53). -/
  staged : List Nat := []
  /-- It was ready to return when the present plan was made (04 R93). -/
  planned : Bool := false
  deriving DecidableEq, Repr, Inhabited

/-- A launch entry of a priority queue (04 R92, R94, R95). -/
structure Entry where
  launch : Nat
  desc : Desc
  left : Nat
  next : Nat
  skips : Nat
  blocking : Bool
  /-- Places a gang in this plan or its step 4 (04 R95). -/
  placed : Bool
  /-- It stood in its queue when the present plan was made (04 R93). -/
  planned : Bool
  mbox : BitVec 64
  deriving DecidableEq, Repr, Inhabited

/-- A submission port (04 R91). -/
structure Port where
  done : Bool := true
  status : BitVec 8 := 0
  pending : Option Desc := none
  deriving DecidableEq, Repr, Inhabited

/-- A placement the plan decides: a returning gang, or the next gang of a launch, at these cores. -/
structure Placement where
  gang : Option Nat
  launch : Nat
  desc : Desc
  index : Nat
  mbox : BitVec 64
  cores : List Nat
  /-- Frame and spill area of a new gang (16 R319). -/
  frame : Option Nat := none
  spill : Option Nat := none
  deriving DecidableEq, Repr, Inhabited

/-- The plan of an exchange superstep (04 R93). -/
structure Plan where
  placements : List Placement
  victims : List Nat
  /-- SCTL.AGE as it stood when the plan was made (04 R110). -/
  age : BitVec 8 := 16
  deriving DecidableEq, Repr, Inhabited

/-- A mailbox entry (04 R105; 17 R326). -/
structure Mailbox where
  word : BitVec 64 := 0
  desc : BitVec 64 := 0
  pend : Bool := false
  busy : Bool := false
  launch : Option Nat := none
  deriving DecidableEq, Repr, Inhabited

/-- A job card on its way to a neighbour (04 R104): where to, its descriptor and address, the posting job, and whether its
carriage has begun. -/
structure CarriedCard where
  target : Nat
  desc : Desc
  addr : BitVec 64
  source : Nat
  moving : Bool
  /-- It has arrived and waits for a free queue entry. -/
  arrived : Bool
  deriving DecidableEq, Repr, Inhabited

/-- An engine service port (12 Table 12-4). -/
structure EnginePort where
  ctl : BitVec 64 := 0
  done : Bool := true
  refused : Bool := false
  value : BitVec 64 := 0
  /-- A chain that waits for pins or queue entries, with the engine it was submitted for. -/
  pending : List Card := []
  engine : Nat := 0
  chain : Option Nat := none
  deriving DecidableEq, Repr, Inhabited

/-- A leaf in a TLB (15 R292): asid none for a G leaf. -/
structure TlbEntry where
  asid : Option Nat
  /-- First virtual page and number of 4 KiB pages covered. -/
  vpn : Nat
  pages : Nat
  level : Nat
  pte : BitVec 64
  deriving DecidableEq, Repr, Inhabited

/-- A shoot-down in progress at its root (15 R294): the range, the reticles and devices still to acknowledge, and the leaves dropped
so far, with their reticles. -/
structure Shoot where
  sdva : BitVec 64
  ctl : BitVec 64
  waiting : List Nat
  leaves : List (Nat × TlbEntry) := []
  deriving DecidableEq, Repr, Inhabited

/-- Translation control block of a reticle (15 Table 15-4). -/
structure Tcb where
  atbase : BitVec 64 := 0
  sdva : BitVec 64 := 0
  sdctl : BitVec 64 := 0
  done : Bool := false
  fenced : Bool := false
  fdev : BitVec 16 := 0
  sdtimeout : BitVec 32 := 0x0000C350
  hotctl : BitVec 64 := 0
  hotbuf : BitVec 64 := 0
  /-- First-level misses seen by the sampler. -/
  misses : Nat := 0
  /-- Records in the hot-page ring since HOTBUF, LEN or HEAD was last written (15 R299). -/
  hotcount : Nat := 0
  shoot : Option Shoot := none
  deriving DecidableEq, Repr, Inhabited

/-- A request in flight (13 R264, R265). -/
structure Request where
  job : Nat
  chan : InjectSource
  op : Nat
  /-- Which request of the operation. -/
  part : Nat
  /-- Ranks it reaches over the external plane (13 R256). -/
  exts : List Nat
  /-- The far end's rank, for a request to one rank. -/
  rank : Nat
  /-- Held for a page that is not present at the far end of this rank (13 R278). -/
  waiting : Option Nat
  /-- Units still to perform at the far end, and to write at the requester. -/
  todo : List Nat
  back : List Nat
  data : Cells 8
  failed : Option (BitVec 8)
  /-- Its operation has ended: only its response is still to come (18 R337). -/
  orphan : Bool := false
  /-- Its response has come and is being written, flit by flit: it fails no more (13 R278). -/
  landing : Bool := false
  deriving DecidableEq, Repr, Inhabited

/-- A Stopwatch (18 R336, R337). -/
structure Stopwatch where
  sel : BitVec 8 := 0
  src : BitVec 4 := 0
  frz : Bool := false
  en : Bool := false
  min : BitVec 64 := 0xFFFFFFFFFFFFFFFF
  max : BitVec 64 := 0
  cnt : BitVec 64 := 0
  bins : Cells 64 := []
  deriving DecidableEq, Repr, Inhabited

/-- A reticle: scheduler, translation, engines, Relay, power and monitors. -/
structure Reticle where
  entries : List Entry := []
  age : BitVec 8 := 16
  minres : BitVec 8 := 4
  preen : Bool := true
  ports : Tab Port := []
  plan : Option Plan := none
  mailboxes : Tab Mailbox := []
  outgoing : List CarriedCard := []
  tcb : Tcb := {}
  /-- Page-lock table: pin count by physical 4 KiB page. -/
  pins : Tab Nat := []
  cards : Tab Card := []
  /-- Engine queues: card identifiers in queue order. -/
  queues : Tab (List Nat) := []
  eports : Tab EnginePort := []
  freeSlots : Nat := 4096
  requests : Tab Request := []
  lost : Bool := false
  /-- Lines tracked by the snoop filter, oldest first (17 R324). -/
  snoop : List Nat := []
  hdmbase : BitVec 64 := 0
  /-- The reserved part of its bonded DRAM (01 R26). -/
  reserved : Reserved := {}
  /-- Frames of gangs that are gone, by their offset: their bytes stay as they were (16 R319; 17 R332). -/
  oldFrames : List (Nat × Desc) := []
  thr : Bool := true
  plim : BitVec 10 := 625
  droop : BitVec 32 := 0
  pwr : BitVec 10 := 0
  fdiv : BitVec 5 := 16
  retx : BitVec 64 := 0
  reroute : BitVec 64 := 0
  watches : Tab Stopwatch := []
  /-- Cycles stretched so far in a column's present droop. -/
  stretch : Tab Nat := []
  deriving DecidableEq, Repr, Inhabited

/-- A channel of a job on a reticle (13 R262, R263). -/
structure Channel where
  posts : Nat := 0
  rsv : Nat := 0
  prsv : Nat := 0
  ordered : Bool := false
  queue : List Posted := []
  /-- Serial of the last XCHAN that completed on it. -/
  stamp : Nat := 0
  /-- Slots held by requests in flight. -/
  used : Nat := 0
  /-- Ordered channels: ranks whose plane is chosen in this exchange superstep, 1 for the external one (13 R256). -/
  planes : Tab Bool := []
  deriving DecidableEq, Repr, Inhabited

/-- A compiled transfer (13 Table 13-2). -/
structure Xfer where
  put : Bool
  rank : Nat
  bytes : Nat
  remote : BitVec 64
  local_ : BitVec 64
  deriving DecidableEq, Repr, Inhabited

/-- A member's part of a collective or transposing post, from its start until every member's is done (13 R274, R276; 14 R284
to R286): the operation, what it asks for, and whether all it must write is written, every request acknowledged, or it has
failed. -/
structure Begun where
  txa : Bool
  group : Nat
  number : Nat
  chan : Nat
  op : Nat
  kind : PostKind
  squad : Option Nat
  gang : Option Nat
  wrote : Bool := false
  acked : Bool := false
  failed : Bool := false
  deriving DecidableEq, Repr, Inhabited

/-- A job on a reticle. -/
structure Field where
  wsbase : Nat := 0
  wssize : Nat := 0
  cseq : BitVec 64 := 1
  /-- Whether the exchange plan has been read, and whether it was good (13 R260). -/
  planRead : Bool := false
  planBad : Option (BitVec 32) := none
  chans : Tab Channel := []
  xfers : List Xfer := []
  xferSlots : Nat := 0
  xferUsed : Nat := 0
  /-- The compiled transfers of the exchange superstep in progress. -/
  runs : List Posted := []
  /-- Operations that ended with a fault not yet delivered. -/
  failures : List Failure := []
  /-- Posts counted per group and member (13 R274), XCOLL and XTXA apart. -/
  colls : Tab Nat := []
  txas : Tab Nat := []
  begun : List Begun := []
  deriving DecidableEq, Repr, Inhabited

/-- A job on a device. -/
structure Job where
  asid : BitVec 16 := 0
  jstep : BitVec 64 := 0
  sseg : Nat := 0
  vseg : Nat := 0
  ranks : Nat := 0
  /-- Its step advanced at the last compute-to-exchange boundary. -/
  advanced : Bool := false
  deriving DecidableEq, Repr, Inhabited

/-- A core: its first-level TLB, its FDIV, and whether its shadow bank still drains. -/
structure Core where
  tlb : List TlbEntry := []
  fdiv : BitVec 5 := 16
  draining : Bool := false
  deriving DecidableEq, Repr, Inhabited

/-- A report held in the anchor reticle or about to be written (17 R328). -/
structure Report where
  kind : Nat
  ret : Nat
  job : Nat
  gang : Nat
  cause : BitVec 8
  blkid : Nat
  sqid : Nat
  addr : BitVec 64
  /-- Doubles the text names for the kind-specific bytes. -/
  extra : List (BitVec 64)
  /-- The squad whose SYSC request this record delivers, and its lane. -/
  request : Option (Nat × Nat)
  deriving DecidableEq, Repr, Inhabited

/-- The boot and trust block (17 Table 17-4). -/
structure Boot where
  err : Bool := false
  rready : Bool := false
  memready : Bool := false
  adone : Bool := false
  bstate : BitVec 4 := 0
  abuf : BitVec 64 := 0
  anonce : BitVec 256 := 0
  meas : Tab (BitVec 512) := []
  attesting : Bool := false
  attestations : Nat := 0
  boots : Nat := 0
  deriving DecidableEq, Repr, Inhabited

/-- A device. -/
structure Device where
  phase : BitVec 64 := 0
  climit : BitVec 32 := 0x000F4240
  xlimit : BitVec 32 := 0x00030D40
  /-- Limits of the superstep in progress. -/
  climitNow : BitVec 32 := 0x000F4240
  xlimitNow : BitVec 32 := 0x00030D40
  clim : Bool := false
  xlim : Bool := false
  carried : BitVec 16 := 0
  aband : BitVec 16 := 0
  jobsadv : BitVec 16 := 0
  /-- Operations abandoned since the last exchange-to-compute boundary. -/
  abandNow : Nat := 0
  /-- EXCHANGE_LIMIT has fired in this exchange superstep. -/
  limited : Bool := false
  /-- Refresh counter at its last window edge, in TCLK ticks, a multiple of 200 (09 R194). -/
  pos : BitVec 13 := 0
  /-- Ticks past that edge that a read of WSREF has shown. -/
  fine : Nat := 0
  rbase : BitVec 64 := 0
  rlen : BitVec 64 := 0
  rhead : BitVec 64 := 0
  rtail : BitVec 64 := 0
  rcore : BitVec 64 := 0
  rreplyv : Cells 64 := []
  interrupt : Bool := false
  held : List Report := []
  /-- SYSC requests delivered and not answered: record number to squad and lane. -/
  requests : Tab (Nat × Nat) := []
  boot : Boot := {}
  fenced : List Nat := []
  /-- Rank tables: job j, rank r at cell 4,096j + r; and the copy latched by Relay. -/
  ranks : Cells 64 := []
  latched : Cells 64 := []
  /-- Aperture tables: job j, entry a, double d at cell 1,024j + 4a + d. -/
  apertures : Cells 64 := []
  deriving DecidableEq, Repr, Inhabited

/-- What happens next: the model's own way to say which of the machine's parties moves. -/
inductive Turn where
  /-- A cluster of a core makes its scalar choice, or its lane choice. -/
  | issue (core cluster : Nat) (lane : Bool)
  /-- A block's Pacer issues. -/
  | pacer (block : Nat)
  /-- The arrays do one panel of a block's oldest tile instruction, or that one of the rows still to do (10 R219). -/
  | tileWork (block row : Nat)
  /-- A row of the opcode table that has no encoding. -/
  | event (i : Instr)
  /-- A cache drops a line or a leaf: L1 of a block, TLB of a core, TLB of a column. -/
  | dropLine (block k : Nat)
  | dropLeaf (core k : Nat)
  | dropColumn (column k : Nat)
  deriving DecidableEq, Repr, Inhabited

/-- The machine. -/
structure State where
  /-- The turns still to take, first first (the model's own). -/
  turns : List Turn := []
  /-- Counter the free values and stamps are taken from (the model's own). -/
  clock : Nat := 0
  /-- Key of the squad, or of the block, now acting (the model's own). -/
  actor : Nat := 0
  /-- Memory: bytes by machine address, in canonical form. -/
  mem : List Host.Cell := []
  /-- Memory as it stood when each device's superstep began: what a fetch of a word written since may still return
  (02 R35). -/
  code : List Host.Cell := []
  /-- The writes that some party may still read past, the newest first; how many there have been; and the acquire-release
  FENCEs in their order, the newest first (10 R209, R211, R218). -/
  hist : List Write := []
  writes : Nat := 0
  fences : List Head := []
  /-- Protection units that hold uncorrectable data: machine address div 32 (16 R366). -/
  bad : List Nat := []
  /-- Bytes of frames, by machine address, that have no given layout and hold what the host wrote there last (17 R323). -/
  wrote : List Nat := []
  devs : Tab Device := []
  rets : Tab Reticle := []
  jobs : Tab Job := []
  fields : Tab Field := []
  gangs : Tab Gang := []
  blocks : Tab Block := []
  squads : Tab Squad := []
  cores : Tab Core := []
  columns : Tab (List TlbEntry) := []
  /-- Collectives whose matched posts differ: job, group, number, and whether an XTXA (13 R276; 14 R286). -/
  mismatch : List (Nat × Nat × Nat × Bool) := []
  /-- Bytes the last host or service-cluster read returned, and whether they were poisoned. -/
  reply : List Byte := []
  poisoned : Bool := false
  /-- Set by an access to an address with no storage: the step that made it ends in the fault. -/
  stop : Option Fault := none
  deriving DecidableEq, Repr, Inhabited

/-- The machine right after reset: no device has any work, PHASE is 0 everywhere, memory lists nothing. -/
def State.reset : State := {}

end Sys2Proof.Machine
end

