-- ==== Sys2Proof/Config.lean ====
section
/-! DEFINITION. What one implementation fixes and the values the spec leaves open. Each free value is an opaque
constant: no proof can see what it is, so a statement holds whatever it is. -/

namespace Sys2Proof.Config

/-- The 64 bytes of measurement register MEASn (17 R331), by device, register and boot number: SHAKE256 of an object outside
the device, as it stood at that boot. [log 20] -/
opaque measurement : Nat → Nat → Nat → BitVec 512

/-- The device identity public key, 64 bytes, derived from a fused seed (17 R331). [log 20] -/
opaque publicKey : Nat → BitVec 512

/-- Byte i of the signature over an attestation report (17 R331): of device d's key, over the bytes signed, at attestation
number n. [log 20] -/
opaque signatureByte : Nat → List (BitVec 8) → Nat → Nat → BitVec 8

/-- The kind code of a report record (17 R328 names the kinds and gives no codes). The argument is the kind's place
in that list, 0..8. [log 21] -/
opaque reportKind : Nat → BitVec 16

/-- Byte i of the kind-specific bytes 24..63 of report record n of device d, from the kind and the doubles that the rules
say such a record carries (17 R328 gives no layout). [log 21] -/
opaque reportByte : Nat → List (BitVec 64) → Nat → Nat → Nat → BitVec 8

/-- Reserved bytes 3 and 11..15 of a report record (17 R328 does not give them). [log 21] -/
opaque reportPad : Nat → Nat → Nat → BitVec 8

/-- Which party moves at each count of the model's clock when no turn is listed: the parties run at speeds the spec does
not fix (04 R100; 13 R264; 17). [log 1] -/
opaque turn : Nat → Sys2Proof.Machine.Turn

/-- Whether a fetch at a count of the clock returns the word as it stood when the superstep began (02 R35). [log 5] -/
opaque fetchOld : Nat → Bool

/-- Which write a racing load reads, as the number of writes performed up to it, by the clock and the number of results
outstanding (10 R211); and whether a host or service-cluster access of this moment is one of its architecture's releases and
acquires (10 R225). [log 47] -/
opaque staleAt : Nat → Nat → Nat
opaque hostOrders : Nat → Bool

/-- The scope of the acquire FENCE that follows a relaxed strong read in its squad's program order, 0 for none, by the read's
word (10 R214 makes such a read an acquire). [log 47] -/
opaque fenceAhead : Nat → Nat

/-- The physical address that a report or TVAL gives of a unit of SRAM that no address names (16 R314, R366; 11 Table 11-5). [log 37] -/
opaque unitAddress : Nat → BitVec 64

/-- Whether the home acknowledges a store only after the store has taken its place there (10 R208). [log 47] -/
opaque ackLater : Nat → Bool

/-- Cycles a squad spent parked in BARW or BARS, as a Stopwatch measures them (18 Table 18-3). [log 6] -/
opaque parkLength : Nat → Nat

/-- DETAIL of a post's SUB 0x05 for an aperture that is not valid, by aperture number: Table 13-9 names a rank, and there is
none. [log 22] -/
opaque apertureDetail : Nat → BitVec 32

/-- Packets beyond the first that a rerouted external message of more than two flits is carried in (13 R258): the cut into
packets is not given. [log 23] -/
opaque packets : Nat → Nat

/-- Cycles of a load that a boundary drains, as a Stopwatch measures it (18 Table 18-3). [log 6] -/
opaque drainCycles : Nat → Nat

/-- The status of a SUBMIT whose descriptor meets uncorrectable data (04 R91 has no code for it). [log 18] -/
opaque badDescStatus : Nat → BitVec 8

/-- What a squad, a block and a snoop filter hold after the host has overwritten their stored form where the spec gives it no
layout (17 R323; 16 Tables 16-4, 16-5). [log 42] -/
opaque frameSquad : Nat → Sys2Proof.Machine.Squad
opaque frameBlock : Nat → Sys2Proof.Machine.Block
opaque frameFilter : Nat → List Nat
opaque frameGang : Nat → Sys2Proof.Machine.Gang
/-- The doubles such a form is made of, where only some of it is open. [log 42] -/
opaque frameWord : Nat → Nat → BitVec 64

/-- A byte of the reserved area that the spec gives no layout for, as the host reads it, by the clock and its address.
[log 42] -/
opaque frameByte : Nat → Nat → BitVec 8

/-- TCLK ticks the refresh counter has gone past its last window edge, at a count of the clock (09 R194): the model keeps the
edges alone. [log 28] -/
opaque refreshTicks : Nat → Nat

end Sys2Proof.Config
end

