-- ==== Sys2Proof/Machine/Records.lean ====
section
/-! DEFINITION. Keys, records and memory: the named operations everything else reads and writes the state by. -/

namespace Sys2Proof.Machine

/-- What a meaning answers. -/
abbrev Res := Host.Outcome State Fault Refusal

-- Keys ------------------------------------------------------------------------------------------------------------

/-- Reticle key of a global core key, and its device. -/
abbrev retOfCore (c : Nat) : Nat := c / 128
abbrev devOfRet (r : Nat) : Nat := r / 48
/-- Reticle number 0..47 (01 R17). -/
abbrev retNo (r : Nat) : Nat := r % 48
/-- The anchor reticle of a device is number 19 (01 R17). -/
abbrev anchorOf (d : Nat) : Nat := 48 * d + 19
abbrev jobKey (d j : Nat) : Nat := 65536 * d + j
abbrev fieldKey (r j : Nat) : Nat := 65536 * r + j
abbrev gangOfSquad (q : Nat) : Nat := q / 64
abbrev blkidOfSquad (q : Nat) : Nat := q / 16 % 4
abbrev sqidOf (q : Nat) : Nat := q % 16
abbrev blockOfSquad (q : Nat) : Nat := q / 16
abbrev gangOfBlock (b : Nat) : Nat := b / 4
abbrev squadKey (b q : Nat) : Nat := 16 * b + q

-- Records ---------------------------------------------------------------------------------------------------------

def State.dev (s : State) (d : Nat) : Device := tabGet s.devs d {}
def State.ret (s : State) (r : Nat) : Reticle := tabGet s.rets r {}
def State.job (s : State) (j : Nat) : Job := tabGet s.jobs j {}
def State.field (s : State) (f : Nat) : Field := tabGet s.fields f {}
def State.gang (s : State) (g : Nat) : Gang := tabGet s.gangs g {}
def State.block (s : State) (b : Nat) : Block := tabGet s.blocks b {}
def State.squad (s : State) (q : Nat) : Squad := tabGet s.squads q {}
def State.core (s : State) (c : Nat) : Core := tabGet s.cores c {}
def State.column (s : State) (c : Nat) : List TlbEntry := tabGet s.columns c []

def State.setDev (s : State) (d : Nat) (x : Device) : State := { s with devs := tabPut s.devs d x }
def State.setRet (s : State) (r : Nat) (x : Reticle) : State := { s with rets := tabPut s.rets r x }
def State.setJob (s : State) (j : Nat) (x : Job) : State := { s with jobs := tabPut s.jobs j x }
def State.setField (s : State) (f : Nat) (x : Field) : State := { s with fields := tabPut s.fields f x }
def State.setGang (s : State) (g : Nat) (x : Gang) : State := { s with gangs := tabPut s.gangs g x }
def State.setBlock (s : State) (b : Nat) (x : Block) : State := { s with blocks := tabPut s.blocks b x }
def State.setSquad (s : State) (q : Nat) (x : Squad) : State := { s with squads := tabPut s.squads q x }
def State.setCore (s : State) (c : Nat) (x : Core) : State := { s with cores := tabPut s.cores c x }
def State.setColumn (s : State) (c : Nat) (x : List TlbEntry) : State := { s with columns := tabPut s.columns c x }

/-- The squad that acts. -/
def State.sq (s : State) : Squad := s.squad s.actor
def State.setSq (s : State) (q : Squad) : State := s.setSquad s.actor q

/-- The gang, reticle, job and field of a squad. -/
def State.gangOf (s : State) (q : Nat) : Gang := s.gang (gangOfSquad q)
def State.retOf (s : State) (q : Nat) : Nat := (s.gangOf q).ret
def State.devOf (s : State) (q : Nat) : Nat := devOfRet (s.retOf q)
def State.jobOf (s : State) (q : Nat) : Nat := jobKey (s.devOf q) (s.gangOf q).job
def State.fieldOf (s : State) (q : Nat) : Nat := fieldKey (s.retOf q) (s.gangOf q).job
/-- Number of blocks of a gang: 1, 2 or 4 (04 R88). -/
def Desc.nblocks (d : Desc) : Nat := 2 ^ d.blocks.toNat
def Desc.nsquads (d : Desc) : Nat := d.squads.toNat + 1
def Desc.nvws (d : Desc) : Nat := 64 * (d.vws.toNat + 1)
/-- CORE of a block within its reticle, and its global core key. -/
def State.coreNo (s : State) (b : Nat) : Nat := listAt (s.gang (gangOfBlock b)).cores (b % 4) 0
def State.coreKeyOf (s : State) (b : Nat) : Nat := 128 * (s.gang (gangOfBlock b)).ret + s.coreNo b

/-- The squad keys of a block, and of a gang. -/
def State.squadsOf (s : State) (b : Nat) : List Nat :=
  (List.range (s.gang (gangOfBlock b)).desc.nsquads).map (squadKey b)
def State.blocksOf (s : State) (g : Nat) : List Nat := (List.range (s.gang g).desc.nblocks).map (4 * g + ·)
def State.gangSquads (s : State) (g : Nat) : List Nat := (s.blocksOf g).flatMap s.squadsOf

/-- A counter for stamps and serials. -/
def State.tick (s : State) : State := { s with clock := s.clock + 1 }

def Squad.exited (q : Squad) : Bool := q.run = .exited || q.run = .halted
def State.unexited (s : State) (b : Nat) : List Nat := (s.squadsOf b).filter (fun q => !(s.squad q).exited)

-- Memory ----------------------------------------------------------------------------------------------------------

/-- Machine address of physical address pa of device d. -/
abbrev physAddr (d pa : Nat) : Nat := d * 2 ^ 52 + pa
/-- Machine address of byte off of a reticle's weight store (09 R193). -/
abbrev wsAddr (r off : Nat) : Nat := 2 ^ 80 + r * 2 ^ 30 + off
/-- Machine address of byte off of a block's scratchpad (09 R188). -/
abbrev localAddr (b off : Nat) : Nat := 2 ^ 81 + b * 2 ^ 18 + off
/-- Machine address of byte off of the pooled slice under a block's core (09 R191). -/
abbrev poolAddr (b off : Nat) : Nat := 2 ^ 82 + b * 2 ^ 20 + off

/-- Home of a machine address that is physical (01 R17). -/
abbrev homeOf (a : Nat) : Nat := a / 2 ^ 46 % 64
abbrev isPhys (a : Nat) : Bool := a < 2 ^ 80

/-- A physical address whose home is a reticle lies in its 64 GiB (01 Table 1-1). -/
def hasStorage (a : Nat) : Bool := !(isPhys a) || homeOf a = 62 || (homeOf a < 48 && a % 2 ^ 46 < 2 ^ 36)

/-- The byte at a machine address; an unlisted one reads 0. -/
def State.byte (s : State) (a : Nat) : Byte := cellGet s.mem a

/-- The n bytes at a machine address, little-endian (00 R6). -/
def State.read (s : State) (a n : Nat) : Nat :=
  match n with
  | 0 => 0
  | k + 1 => (s.byte a).toNat + 256 * s.read (a + 1) k

def State.bytes (s : State) (a n : Nat) : List Byte := (List.range n).map (fun i => s.byte (a + i))

/-- Write bytes from a machine address. -/
def State.writeBytes (s : State) (a : Nat) (bs : List Byte) : State := { s with mem := cellPutList s.mem a bs }

/-- The n bytes of a number, lowest first. -/
def numBytes (n v : Nat) : List Byte :=
  match n with
  | 0 => []
  | k + 1 => BitVec.ofNat 8 v :: numBytes k (v / 256)

def State.write (s : State) (a n v : Nat) : State := s.writeBytes a (numBytes n v)

/-- Some byte lies in a unit that holds uncorrectable data (16 R366). -/
def State.isBad (s : State) (a n : Nat) : Bool := s.bad.any (fun u => decide (u * 32 < a + n) && decide (a < u * 32 + 32))

/-- Units of SRAM that no access names by an address, as machine addresses of the model's own (16 R366): cell i of block b's
accumulators, and cell i of squad q's vector registers. Byte o of block b's L1, line by line, is 2 ^ 120 + (3b + 2) 2 ^ 18 + o. -/
abbrev accUnit (b i : Nat) : Nat := 2 ^ 120 + 3 * b * 2 ^ 18 + 4 * i
abbrev vregUnit (q i : Nat) : Nat := 2 ^ 120 + (3 * q + 1) * 2 ^ 18 + 4 * i

/-- A unit comes to hold uncorrectable data. -/
def State.markUnit (s : State) (a : Nat) : State := if s.bad.contains (a / 32) then s else { s with bad := s.bad ++ [a / 32] }

/-- Uncorrectable units of n bytes from a come to be at b, or stand there as well (a copy). -/
def State.moveMarks (s : State) (a b n : Nat) (copy : Bool := false) : State :=
  let inside := fun (u : Nat) => decide (a ≤ u * 32) && decide (u * 32 < a + n)
  { s with bad := s.bad.filter (fun u => copy || !(inside u)) ++ (s.bad.filter inside).map (fun u => (u * 32 - a + b) / 32) }

/-- The home agent recalls the host's copy of a line before it performs a device access (10 R225; 17 R324). -/
def State.recall (s : State) (a : Nat) : State :=
  if isPhys a && homeOf a < 48 then
    let r := 48 * (a / 2 ^ 52) + homeOf a
    let x := s.ret r
    if x.snoop.contains (a / 64) then s.setRet r { x with snoop := x.snoop.filter (· != a / 64) } else s
  else s

/-- The recall of every line of n bytes from a machine address. -/
def State.recallRange (s : State) (a n : Nat) : State :=
  if isPhys a && homeOf a < 48 then
    let r := 48 * (a / 2 ^ 52) + homeOf a
    let x := s.ret r
    let cached := fun (l : Nat) => decide (a / 64 ≤ l) && decide (l ≤ (a + n - 1) / 64)
    if x.snoop.any cached then s.setRet r { x with snoop := x.snoop.filter (fun l => !(cached l)) } else s
  else s

/-- An access where there is no storage ends the step in the fault. -/
def State.checkStorage (s : State) (a : Nat) : State := if hasStorage a then s else { s with stop := some .noStorage }

/-- A write that covers whole 32-byte units clears them (16 R366). -/
def State.clearBad (s : State) (a n : Nat) : State :=
  { s with bad := s.bad.filter (fun u => !(decide (a ≤ u * 32) && decide (u * 32 + 32 ≤ a + n))) }

end Sys2Proof.Machine
end

