-- ==== Sys2Proof/Machine/Frames.lean ====
section
/-! DEFINITION. The reserved part of a reticle's bonded DRAM (01 R26): the spill areas of squads (05 R115 to R118), the frames
of gangs with their layout (16 R319, Tables 16-4 and 16-5), what is stored to a frame when a gang leaves its cores and read
back on its return (16 R317, R320). -/

namespace Sys2Proof.Machine

-- Words and bytes --------------------------------------------------------------------------------------------------

/-- Words at cells, as bytes: the word of cell i at bytes k x i .. k x i + k - 1, little-endian. -/
def cellsToBytes {w : Nat} (k : Nat) (t : Cells w) : Cells 8 :=
  t.foldl (fun acc e => cellPutList acc (k * e.1) (numBytes k e.2.toNat)) []

/-- Bytes as words of k bytes. -/
def bytesToCells (k w : Nat) (t : Cells 8) : Cells w :=
  t.foldl (fun acc e => cellPut acc (e.1 / k) (cellGet acc (e.1 / k) ||| BitVec.ofNat w (e.2.toNat * 2 ^ (8 * (e.1 % k))))) []

/-- Replace the n bytes from a machine address by the first n bytes of c. -/
def State.pasteMem (s : State) (a n : Nat) (c : Cells 8) : State :=
  let t := s.recallRange a n
  { t with mem := cellPaste t.mem a n (cellTake c 0 n) }

/-- n bytes from a machine address, moved to start at 0. -/
def State.takeMem (s : State) (a n : Nat) : Cells 8 := cellTake s.mem a n

/-- The first byte of the first protection unit in n bytes from a that holds uncorrectable data. -/
def State.badUnit (s : State) (a n : Nat) : Option Nat :=
  (s.bad.find? (fun u => decide (u * 32 < a + n) && decide (a < u * 32 + 32))).map (fun u => u * 32)

/-- Machine address of an offset in a reticle's bonded DRAM (01 Table 1-1). -/
def dramAddr (r off : Nat) : Nat := physAddr (devOfRet r) (retNo r * 2 ^ 46 + off)

-- Spill areas (05 R115) --------------------------------------------------------------------------------------------

/-- Bytes of one squad's spill area: its scalar part, then its vector part. -/
def Job.spillBytes (j : Job) : Nat := 128 * j.sseg + 8192 * j.vseg

/-- Where a squad's spill area starts. A gang that came to its cores by no placement has none in any reticle's DRAM: its
squads' areas then stand apart. -/
def State.spillOf (s : State) (q : Nat) : Nat :=
  let g := s.gangOf q
  match g.spill with
  | some o => dramAddr g.ret (o + (blkidOfSquad q * g.desc.nsquads + sqidOf q) * (s.job (s.jobOf q)).spillBytes)
  | none => 2 ^ 84 + q * 2 ^ 26

/-- Scalar segment n and vector segment n of a squad's spill area. -/
def State.scalarSpill (s : State) (q n : Nat) : Nat := s.spillOf q + 128 * n
def State.vectorSpill (s : State) (q n : Nat) : Nat := s.spillOf q + 128 * (s.job (s.jobOf q)).sseg + 8192 * n

/-- First cell of the physical segment that vector segment n occupies (05 R114). -/
def Squad.vsegCell (x : Squad) (n : Nat) : Nat := 32 * (64 * n % x.vws)
/-- First cell of the physical segment that scalar segment n occupies (05 R112). -/
def ssegCell (n : Nat) : Nat := 16 + n % 7 * 16

/-- spill_vector(n), fill_vector(n), spill_scalar(n), fill_scalar(n) (05 R116, R118). -/
def State.spillV (s : State) (q n : Nat) : State :=
  let x := s.squad q
  (s.pasteMem (s.vectorSpill q n) 8192 (cellsToBytes 4 (cellTake x.vregs (x.vsegCell n) 2048))).moveMarks (vregUnit q (x.vsegCell n))
    (s.vectorSpill q n) 8192 true
def State.fillV (s : State) (q n : Nat) : State :=
  let x := s.squad q
  s.setSquad q { x with vregs := cellPaste x.vregs (x.vsegCell n) 2048 (bytesToCells 4 32 (s.takeMem (s.vectorSpill q n) 8192)) }
def State.spillS (s : State) (q n : Nat) : State :=
  s.pasteMem (s.scalarSpill q n) 128 (cellsToBytes 8 (cellTake (s.squad q).sregs (ssegCell n) 16))
def State.fillS (s : State) (q n : Nat) : State :=
  let x := s.squad q
  s.setSquad q { x with sregs := cellPaste x.sregs (ssegCell n) 16 (bytesToCells 8 64 (s.takeMem (s.scalarSpill q n) 128)) }

-- Frames (16 R319) -------------------------------------------------------------------------------------------------

/-- BS and FS of R319. -/
def Desc.blockPart (d : Desc) : Nat :=
  81920 + d.nsquads * (4096 + 256 * d.nvws) + 16384 * (d.loc.toNat - d.l1.toNat) + 65536 * d.pool.toNat
def Desc.frameSize (d : Desc) : Nat := 4096 + d.nblocks * d.blockPart

/-- Machine address of a gang's frame. -/
def Gang.frameAt (g : Gang) (off : Nat) : Nat := dramAddr g.ret (off % 2 ^ 46)

/-- Places in the frame of a gang whose frame starts at address f (Table 16-4). -/
def Desc.blockAt (d : Desc) (f b : Nat) : Nat := f + 4096 + b * d.blockPart
def Desc.accsAt (d : Desc) (f b : Nat) : Nat := d.blockAt f b + 16384
def Desc.recordAt (d : Desc) (f b q : Nat) : Nat := d.blockAt f b + 81920 + q * (4096 + 256 * d.nvws)
def Desc.vregsAt (d : Desc) (f b q : Nat) : Nat := d.recordAt f b q + 4096
def Desc.heldAt (d : Desc) (f b q : Nat) : Nat := d.vregsAt f b q + 128 * d.nvws
def Desc.scratchAt (d : Desc) (f b : Nat) : Nat := d.recordAt f b d.nsquads
def Desc.poolAt (d : Desc) (f b : Nat) : Nat := d.scratchAt f b + 16384 * (d.loc.toNat - d.l1.toNat)
def Desc.scratchBytes (d : Desc) : Nat := 16384 * (d.loc.toNat - d.l1.toNat)
def Desc.poolBytes (d : Desc) : Nat := 65536 * d.pool.toNat

/-- The lowest place of n bytes in an area beside what is taken in it. -/
def firstFree (area : Nat × Nat) (used : List (Nat × Nat)) (n : Nat) : Option Nat :=
  let free := fun (o : Nat) => decide (area.1 ≤ o) && decide (o + n ≤ area.1 + area.2) &&
    !(used.any (fun u => decide (u.1 < o + n) && decide (o < u.1 + u.2)))
  ((area.1 :: used.map (fun u => u.1 + u.2)).filter free).foldl
    (fun best o => match best with | none => some o | some b => if o < b then some o else some b) none

/-- STATE of Table 16-5: the states it has no code for are shown as running. -/
def RunState.code (r : RunState) : Nat :=
  match r with
  | .sync _ _ | .sysc _ => 1
  | .yield _ _ _ => 2
  | .exited => 3
  | .halted => 4
  | .barrier _ => 5
  | .waitseq _ _ _ => 6
  | _ => 0

/-- The trap registers in Table 5-8 order, from offset 0x460 (Table 16-5). -/
def TrapRegs.doubles (t : TrapRegs) : List (BitVec 64) :=
  [t.tcause, t.tpc, t.tlpc, t.tlm.setWidth 64, t.tval, t.tdst, t.thandler, t.tsave0, t.tsave1, t.tsave2, t.tsave3]

/-- Doubles at an offset of a record. -/
def putDoubles (c : Cells 8) (off : Nat) (ds : List (BitVec 64)) : Cells 8 :=
  cellPutList c off (ds.flatMap (fun d => numBytes 8 d.toNat))

/-- The n bytes of a record from an offset, as a number. -/
def recordNum (c : Cells 8) (off n : Nat) : Nat :=
  match n with
  | 0 => 0
  | k + 1 => (cellGet c off).toNat + 256 * recordNum c (off + 1) k
def recordDouble (c : Cells 8) (off : Nat) : BitVec 64 := BitVec.ofNat 64 (recordNum c off 8)

-- Lanes held aside (08 R174, R179) ----------------------------------------------------------------------------------

abbrev lanes32 : List Nat := List.range 32

/-- Lanes of a set per participant, in squad and lane order. -/
def lanesOf (ps : List (Nat × BitVec 32)) : List (Nat × Nat) :=
  ps.flatMap (fun p => (lanes32.filter (fun l => bitAt p.2 l)).map (fun l => (p.1, l)))

/-- Positions 0, 1, … of the participants, in order. -/
def positionsOf (qs : List Nat) (k : Nat) : List (Nat × Nat) := (List.range k).map (fun i => (listAt qs (i / 32) 0, i % 32))

/-- Lanes on the path a construct is on, by participant: E and mN, or F. -/
def Construct.path (c : Construct) : List (Nat × BitVec 32) :=
  c.parts.map (fun p => (p.sq, if c.els then p.f else p.e &&& ~~~p.f))

/-- Lanes of the other path, those the present one holds aside. -/
def Construct.others (c : Construct) : List (Nat × BitVec 32) := c.parts.map (fun p => (p.sq, p.f))

def Construct.squads (c : Construct) : List Nat := c.parts.map (·.sq)

/-- Where the lane at a position of the innermost of these constructs' arrangement stood before any of them moved it: each one's
path stands packed at the first positions of its participants (08 R174). -/
def originOf (outer : List Construct) (x : Nat × Nat) : Nat × Nat :=
  outer.foldl (fun y c =>
    if c.l = 0 then y
    else
      let path := lanesOf c.path
      match path[(positionsOf c.squads path.length).findIdx (· = y)]? with
      | some z => z
      | none => y) x

/-- Every held-aside lane of a block, with its original squad and lane. -/
def heldLanes (st : List Construct) : List ((Nat × Nat) × HeldLane) :=
  match st with
  | [] => []
  | c :: outer => c.held.map (fun h => (originOf outer (h.sq, h.l), h)) ++ heldLanes outer

/-- A squad's held-aside lanes, by original lane (08 R179). -/
def heldOf (st : List Construct) (q : Nat) : List (Nat × HeldLane) :=
  ((heldLanes st).filter (fun h => h.1.1 = q)).map (fun h => (h.1.2, h.2))

/-- The double of a held-aside lane in HELD. -/
def HeldLane.double (h : HeldLane) : BitVec 64 := BitVec.ofNat 64 (h.id.toNat + 2 ^ 32 + h.bits.toNat / 2 * 2 ^ 33)

/-- LCNT as a frame records it: the words left of the LANE in progress (05 R126; 16 R367). -/
def Squad.leftOf (x : Squad) : BitVec 13 := match x.lane with | some r => BitVec.ofNat 13 r.left | none => x.lcnt

/-- The record of a squad (Table 16-5). WAIT has no given layout, and is kept in the machine's own tables (log 42). -/
def Squad.record (x : Squad) (held : List (Nat × HeldLane)) : Cells 8 :=
  let pos := x.rlo * 2 ^ 32 + x.swb * 2 ^ 16 + x.vwb
  let st := x.fmt.toNat * 2 ^ 50 + x.leftOf.toNat * 2 ^ 37 + x.chsel.toNat * 2 ^ 29 + x.fflags.toNat * 2 ^ 23 +
    x.run.code * 2 ^ 20 + (if x.handler.isSome then 2 ^ 19 else 0) + (if x.region.isSome then 2 ^ 18 else 0)
  let c0 := cellPaste (cellsToBytes 8 (x.sregs.map (fun e => (e.1 - 1, e.2)))) 0x400 64 (cellsToBytes 4 x.masks)
  let c1 := putDoubles c0 0x440 ([x.pc, x.lpc, BitVec.ofNat 64 pos, BitVec.ofNat 64 st] ++ x.trap.doubles)
  let c2 := match x.region with
    | some k => putDoubles (cellPaste (putDoubles c1 0x4C0 [k.pc, k.lpc]) 0x4D0 64 (cellsToBytes 4 k.masks)) 0x510
        [BitVec.ofNat 64 (k.fmt.toNat * 2 ^ 50 + k.fflags.toNat * 2 ^ 44 + k.chsel.toNat * 2 ^ 36)]
    | none => c1
  held.foldl (fun c h => putDoubles c (0x540 + 8 * h.1) [h.2.double]) c2

/-- The checkpoint as it stands in a record. -/
def recordCheckpoint (c : Cells 8) : Checkpoint :=
  let f := recordDouble c 0x510
  ⟨recordDouble c 0x4C0, recordDouble c 0x4C8, bytesToCells 4 32 (cellTake c 0x4D0 64), slice f 50 14, slice f 44 6, slice f 36 8⟩

/-- The state of a squad whose STATE the host has changed in its frame, or whose WAIT it has written: what Table 16-5 gives no place
for is free (17 R323; log 42). -/
def RunState.fromCode (clock code : Nat) : RunState :=
  let w := Config.frameWord clock
  match code with
  | 0 => .running
  | 1 => .sync ((w 0).setWidth 6) (w 1)
  | 2 => .yield (w 2).toNat (w 3) (w 4)
  | 3 => .exited
  | 4 => .halted
  | 5 => .barrier ((w 5).toNat % 16)
  | 6 => .waitseq (w 6).toNat (w 7) ((w 8).toNat % 6 + 1)
  | _ => (Config.frameSquad clock).run

/-- A squad with STATE 1 whose WAIT the host has written: in SYNC, or in SYSC with free requests and replies (17 R329). -/
def RunState.fromWait (clock : Nat) : RunState :=
  let w := Config.frameWord clock
  let some_ := fun (i k : Nat) => (lanes32.filter (fun l => (w i).getLsbD l)).map (fun l => (l, w (k + l)))
  if (w 19).getLsbD 0 then
    .sysc ⟨(w 0).setWidth 6, (w 20).setWidth 11, (w 21).setWidth 16, (w 22).toNat % 33,
      (some_ 23 32).map (fun e => (e.1, w (96 + e.1) ++ e.2)), none, some_ 24 64, w 1⟩
  else RunState.fromCode clock 1

/-- The run state keeps something in WAIT of its squad's record (Table 16-5; 17 R329). -/
def RunState.waitsInFrame (r : RunState) : Bool :=
  match r with
  | .sysc _ | .yield _ _ _ | .barrier _ | .waitseq _ _ _ => true
  | _ => false

/-- The marker of a squad that HND puts into a handler it was not in: block control's, free (log 42). -/
def freeMarker (clock : Nat) : Marker :=
  let w := Config.frameWord clock
  ⟨(w 9).setWidth 32, (w 10).setWidth 14, (w 11).setWidth 13, w 12, (w 13).setWidth 32, (w 14).getLsbD 0,
    (Config.frameSquad clock).handler.bind (·.tile)⟩

/-- A squad that polls a token word by its translation looks it up anew: WAITSEQ issues again (12 R253; 15 R294). -/
def RunState.pollAgain (r : RunState) : RunState :=
  match r with
  | .waitseq a _ _ => if a < 2 ^ 80 then .running else r
  | _ => r

/-- A squad with what a record of Table 16-5 holds; wait says that the host has written its WAIT. The reserved bits of TCAUSE and
THANDLER read as zero whatever the host has written there (00 R12). A WAITSEQ looks its word up anew: the frame keeps no translation. -/
def Squad.fromRecord (x : Squad) (wait : Bool) (clock : Nat) (c : Cells 8) : Squad :=
  let pos := recordDouble c 0x450
  let st := recordDouble c 0x458
  let d := fun (i : Nat) => recordDouble c (0x460 + 8 * i)
  let code := (slice st 20 3).toNat
  let kept := decide (code = x.run.code) && !(wait && x.run.waitsInFrame)
  let handler := bitAt st 19
  { x with
    sregs := (bytesToCells 8 64 (cellTake c 0 0x3F8)).map (fun e => (e.1 + 1, e.2))
    masks := bytesToCells 4 32 (cellTake c 0x400 64)
    pc := recordDouble c 0x440
    lpc := recordDouble c 0x448
    rlo := (slice pos 32 32).toNat
    swb := (slice pos 16 16).toNat
    vwb := (slice pos 0 16).toNat
    fmt := slice st 50 14
    lcnt := if x.lane.isSome then x.lcnt else slice st 37 13
    lane := x.lane.map (fun r => { r with left := (slice st 37 13).toNat })
    chsel := slice st 29 8
    fflags := slice st 23 6
    trap := ⟨d 0 &&& 0xE0FF, d 1, d 2, slice (d 3) 0 32, d 4, d 5, d 6 &&& ~~~3, d 7, d 8, d 9, d 10⟩
    run := if kept then x.run.pollAgain else if code = 1 ∧ wait then RunState.fromWait clock else RunState.fromCode clock code
    faults := if wait then (Config.frameSquad clock).faults else x.faults
    handler := if handler then some (x.handler.getD (freeMarker clock)) else none
    seg := if handler then x.seg else []
    region := if bitAt st 18 then some (recordCheckpoint c) else none }

/-- The vector registers in window order (Table 16-4): physical register p is v((p - 64 VWB) mod VWS). -/
def Squad.windowOrder (x : Squad) : Cells 32 :=
  x.vregs.foldl (fun acc e => cellPut acc (32 * ((e.1 / 32 + x.vws - 64 * x.vwb % x.vws) % x.vws) + e.1 % 32) e.2) []
def Squad.fromWindowOrder (x : Squad) (c : Cells 32) : Squad :=
  { x with vregs := c.foldl (fun acc e => cellPut acc (32 * ((64 * x.vwb + e.1 / 32) % x.vws) + e.1 % 32) e.2) [] }

/-- Uncorrectable units of squad q's vector registers go, in window order, to machine address f. -/
def State.stowMarks (s : State) (q f : Nat) : State :=
  let x := s.squad q
  if s.bad = [] then s else (List.range x.vws).foldl (fun t p => t.moveMarks (vregUnit q (32 * p)) (f + 128 * ((p + x.vws - 64 * x.vwb % x.vws) % x.vws)) 128) s

/-- The registers of held-aside lanes, register j of original lane l at 128j + 4l. -/
def heldRegs (hs : List (Nat × HeldLane)) : Cells 32 :=
  hs.foldl (fun acc h => h.2.regs.foldl (fun a e => cellPut a (32 * e.1 + h.1) e.2) acc) []

/-- The held-aside lane of original lane l as the record and its registers give it back, while bit 32 of its double is set. -/
def HeldLane.fromFrame (h : HeldLane) (l : Nat) (c : Cells 8) (regs : Cells 32) : Option HeldLane :=
  let d := recordDouble c (0x540 + 8 * l)
  if bitAt d 32 then
    some { h with id := slice d 0 32, bits := slice d 33 15 ++ 0#1,
                  regs := (regs.filter (fun e => e.1 % 32 = l)).map (fun e => (e.1 / 32, e.2)) }
  else none

-- Registers to the frame and back -----------------------------------------------------------------------------------

/-- The scheduler has written n bytes of a frame from machine address a that have no layout: what the host wrote there is gone. -/
def State.unwrite (s : State) (a n : Nat) : State :=
  { s with wrote := s.wrote.filter (fun k => !(decide (a ≤ k) && decide (k < a + n))) }

/-- The scheduler changes a gang's header: its frame state, or its report (16 R319). -/
def State.headerChanged (s : State) (g : Nat) : State :=
  let x := s.gang g
  match x.frame with
  | none => s
  | some o => s.unwrite (x.frameAt o) 4096

/-- Store the register context of one squad to its gang's frame at f. -/
def State.stowSquad (s : State) (f q : Nat) : State :=
  let d := (s.gangOf q).desc
  let x := s.squad q
  let hs := heldOf (s.block (blockOfSquad q)).stack q
  let b := blkidOfSquad q
  ((((s.pasteMem (d.recordAt f b (sqidOf q)) 4096 (x.record hs)).pasteMem (d.vregsAt f b (sqidOf q)) (128 * d.nvws)
    (cellsToBytes 4 x.windowOrder)).stowMarks q (d.vregsAt f b (sqidOf q))).pasteMem (d.heldAt f b (sqidOf q)) (128 * d.nvws) (cellsToBytes 4 (heldRegs hs))).unwrite
    (d.recordAt f b (sqidOf q) + 0x520) 32

/-- The held-aside lanes of squad q as its part of the frame gives them back. One whose HELD bit 32 the host has cleared is held no
longer; where it has set the bit of a lane that is not held, no construct holds it (log 42). -/
def fillHeld (st : List Construct) (q : Nat) (c : Cells 8) (regs : Cells 32) : List Construct :=
  match st with
  | [] => []
  | k :: outer =>
    { k with held := k.held.filterMap (fun h =>
        let o := originOf outer (h.sq, h.l)
        if o.1 = q then h.fromFrame o.2 c regs else some h) } :: fillHeld outer q c regs

/-- Read the register context of one squad back. -/
def State.fillSquad (s : State) (f q : Nat) : State :=
  let g := s.gangOf q
  let d := g.desc
  let b := blkidOfSquad q
  let c := s.takeMem (d.recordAt f b (sqidOf q)) 4096
  let x := (s.squad q).fromRecord (g.overS.contains q) s.clock c
  let z := x.fromWindowOrder (bytesToCells 4 32 (s.takeMem (d.vregsAt f b (sqidOf q)) (128 * d.nvws)))
  let k := s.block (blockOfSquad q)
  let regs := bytesToCells 4 32 (s.takeMem (d.heldAt f b (sqidOf q)) (128 * d.nvws))
  (s.setSquad q z).setBlock (blockOfSquad q) { k with stack := fillHeld k.stack q c regs }

/-- Store the register contexts of some of a gang's squads; the host's writes there are gone. -/
def State.stowSquads (s : State) (g : Nat) (qs : List Nat) : State :=
  let x := s.gang g
  match x.frame with
  | none => s
  | some o => (qs.foldl (fun t q => t.stowSquad (x.frameAt o) q) s).setGang g { x with overS := x.overS.filter (fun q => !(qs.contains q)) }

/-- Store the register context of a gang to its frame (16 R317). -/
def State.stowRegs (s : State) (g : Nat) : State :=
  let t := s.stowSquads g (s.gangSquads g)
  (t.setGang g { t.gang g with staged := [] }).headerChanged g

/-- The shadow bank of a core has given a block's register context to its gang's frame (16 R320). -/
def State.stowStaged (s : State) (g b : Nat) : State :=
  let t := s.stowSquads g (s.squadsOf b)
  t.setGang g { t.gang g with staged := (t.gang g).staged.filter (· ≠ b) }

/-- Read the register context of a gang back. -/
def State.fillRegs (s : State) (g : Nat) : State :=
  let x := s.gang g
  match x.frame with
  | none => s
  | some o => ((s.gangSquads g).foldl (fun t q => t.fillSquad (x.frameAt o) q) s).setGang g { x with overS := [] }

/-- Where the register context of a gang meets uncorrectable data: the squad and the address (16 R311). -/
def State.regsBad (s : State) (g : Nat) : Option (Nat × Nat) :=
  let x := s.gang g
  match x.frame with
  | none => none
  | some o => (s.gangSquads g).findSome? (fun q =>
      let d := x.desc
      (s.badUnit (d.recordAt (x.frameAt o) (blkidOfSquad q) (sqidOf q)) (4096 + 256 * d.nvws)).map (fun a => (q, a)))

-- Images to the frame and back ---------------------------------------------------------------------------------------

/-- Copy n bytes; the marks of uncorrectable units go with them. -/
def State.moveBytes (s : State) (from_ to_ n : Nat) : State :=
  (s.pasteMem to_ n (s.takeMem from_ n)).moveMarks from_ to_ n

/-- The arrays lay down the instruction that they are in the middle of. -/
def Pacer.layDown (p : Pacer) : Pacer := { p with flight := p.flight.map (fun o => { o with paused := true }) }

/-- Spill the images of one block: scratchpad, pooled slice, accumulators; the block's control has no given layout, and is
kept in the machine's own tables (log 42). The arrays lay down the instruction that they are in the middle of (01 R24). -/
def State.stowBlock (s0 : State) (d : Desc) (f b : Nat) : State :=
  let k := b % 4
  let y := s0.block b
  let s := (s0.setBlock b { y with pacer := y.pacer.layDown }).unwrite
    (d.blockAt f k) 16384
  let s1 := (s.pasteMem (d.accsAt f k) 65536 (cellsToBytes 4 (cellTake (s.block b).accs 0 16384))).moveMarks (accUnit b 0) (d.accsAt f k) 65536
  (s1.moveBytes (localAddr b 0) (d.scratchAt f k) d.scratchBytes).moveBytes (poolAddr b 0) (d.poolAt f k) d.poolBytes

/-- Fill the images of one block. -/
def State.fillBlock (s : State) (g : Gang) (f b : Nat) : State :=
  let d := g.desc
  let k := b % 4
  let s1 := (s.pasteMem (localAddr b 0) d.scratchBytes (s.takeMem (d.scratchAt f k) d.scratchBytes)).pasteMem (poolAddr b 0) d.poolBytes
    (s.takeMem (d.poolAt f k) d.poolBytes)
  let x := { s1.block b with accs := bytesToCells 4 32 (s.takeMem (d.accsAt f k) 65536) }
  let free := Config.frameBlock s.clock
  if g.overB.contains b then
    (s1.squadsOf b).foldl (fun t q => t.setSquad q { t.squad q with handler := (Config.frameSquad t.clock).handler, seg := (Config.frameSquad t.clock).seg })
      (s1.setBlock b { x with pacer := free.pacer, bars := free.bars, arrived := free.arrived, arrivals := free.arrivals, stack := free.stack })
  else s1.setBlock b x

/-- Spill a gang's images (16 R317, R320). -/
def State.stowImages (s : State) (g : Nat) : State :=
  let x := s.gang g
  let t := match x.frame with
    | none => s
    | some o => (s.blocksOf g).foldl (fun t b => t.stowBlock x.desc (x.frameAt o) b) s
  t.setGang g { x with spilled := true, overB := [] }

/-- Fill a gang's images. -/
def State.fillImages (s : State) (g : Nat) : State :=
  let x := s.gang g
  let t := match x.frame with
    | none => s
    | some o => (s.blocksOf g).foldl (fun t b => t.fillBlock x (x.frameAt o) b) s
  t.setGang g { x with spilled := false, overB := [] }

/-- Where the images of a gang meet uncorrectable data. -/
def State.imagesBad (s : State) (g : Nat) : Option Nat :=
  let x := s.gang g
  match x.frame with
  | none => none
  | some o => (s.blocksOf g).findSome? (fun b =>
      let d := x.desc
      match s.badUnit (d.accsAt (x.frameAt o) (b % 4)) 65536 with
      | some a => some a
      | none => s.badUnit (d.scratchAt (x.frameAt o) (b % 4)) (d.scratchBytes + d.poolBytes))

/-- The report of a termination that the host has overwritten in the header. -/
def Ending.overwritten (clock : Nat) (e : Ending) : Ending :=
  let w := Config.frameWord clock
  { e with cause := (w 15).setWidth 8, blkid := (w 16).toNat % 4, sqid := (w 17).toNat % 16, addr := w 18 }

/-- Where a gang that is away stands, and whether its images do, as the frame state of a header that the host has overwritten says. -/
def Gang.restate (clock : Nat) (x : Gang) : Gang :=
  let y := Config.frameGang clock
  match x.place, y.place with
  | .away _, .away w => { x with place := .away w, more := y.more, spilled := y.spilled }
  | _, _ => x

/-- A gang as a header that the host has overwritten gives it back. -/
def Gang.overwritten (clock : Nat) (x : Gang) : Gang :=
  let y := Config.frameGang clock
  { x with desc := y.desc, gangid := y.gangid, index := y.index, overH := false }

-- The host in the reserved area (17 R323) ------------------------------------------------------------------------------

/-- A byte of a frame, by its offset: the spec lays out (Tables 16-4, 16-5) all but the header, block control, and WAIT in a squad
record. -/
inductive FramePart where
  | laidOut
  | header
  | control (b : Nat)
  | squad (b q : Nat)
  deriving DecidableEq, Repr, Inhabited

def Desc.framePart (d : Desc) (off : Nat) : FramePart :=
  if off < 4096 then .header
  else
    let b := (off - 4096) / d.blockPart
    let o := (off - 4096) % d.blockPart
    if o < 16384 then .control b
    else if o < 81920 ∨ 81920 + d.nsquads * (4096 + 256 * d.nvws) ≤ o then .laidOut
    else
      let q := (o - 81920) / (4096 + 256 * d.nvws)
      let i := (o - 81920) % (4096 + 256 * d.nvws)
      if 0x520 ≤ i ∧ i < 0x540 then .squad b q else .laidOut

/-- The frame of a reticle's gang that holds an offset of its DRAM: the gang, and the offset in the frame. -/
def State.frameHolding (s : State) (r off : Nat) : Option (Nat × Nat) :=
  s.gangs.findSome? (fun e =>
    match e.2.frame with
    | some o => if e.2.ret = r ∧ o ≤ off ∧ off < o + e.2.desc.frameSize then some (e.1, off - o) else none
    | none => none)

/-- A gang is gone, and its frame with it: what the frame held stays where it is. -/
def State.leaveFrame (s : State) (g : Nat) : State :=
  let x := s.gang g
  match x.frame with
  | none => s
  | some o =>
    let y := s.ret x.ret
    let rest := y.oldFrames.filter (fun e => decide (e.1 + e.2.frameSize ≤ o) || decide (o + x.desc.frameSize ≤ e.1))
    s.setRet x.ret { y with oldFrames := (o, x.desc) :: rest }

/-- Whether the spec gives no layout for the byte at an offset of a reticle's DRAM: in the frame pool, but what a frame lays out, also
one whose gang is gone, or in the snoop filter's storage. -/
def State.unlaid (s : State) (r off : Nat) : Bool :=
  let z := (s.ret r).reserved
  let inside := fun (x : Nat × Nat) => decide (x.1 ≤ off) && decide (off < x.1 + x.2)
  inside z.filter ||
  (match s.frameHolding r off with
   | some (g, o) => decide ((s.gang g).desc.framePart o ≠ .laidOut)
   | none =>
     match (s.ret r).oldFrames.find? (fun e => decide (e.1 ≤ off) && decide (off < e.1 + e.2.frameSize)) with
     | some e => decide (e.2.framePart (off - e.1) ≠ .laidOut)
     | none => inside z.frames)

/-- What a host write of one byte into the reserved area does beside storing it: the snoop filter's state becomes one the spec
does not give, and so does what a frame holds without a given layout while its gang is off its cores. Such a byte of a frame
reads back as written until the scheduler writes it. -/
def State.hostOver (s0 : State) (r off : Nat) : State :=
  let x := s0.ret r
  let z := x.reserved.filter
  let a := dramAddr r off
  let filter : Bool := decide (z.1 ≤ off) && decide (off < z.1 + z.2)
  let s := if s0.unlaid r off && !filter && !(s0.wrote.contains a) then { s0 with wrote := a :: s0.wrote } else s0
  let s1 := if filter then s.setRet r { x with snoop := (Config.frameFilter s.clock).take (2 ^ 22) } else s
  match s1.frameHolding r off with
  | none => s1
  | some (g, o) =>
    let y := s1.gang g
    if y.place = .resident then s1
    else
      match y.desc.framePart o with
      | .header => s1.setGang g { y.restate s1.clock with overH := true, term := y.term.map (Ending.overwritten s1.clock) }
      | .control b => s1.setGang g { y with overB := (4 * g + b) :: y.overB }
      | .squad b q => s1.setGang g { y with overS := squadKey (4 * g + b) q :: y.overS }
      | .laidOut => s1

end Sys2Proof.Machine
end

