-- ==== Sys2Proof/Machine/Ops.lean ====
section
/-! DEFINITION. The named operations over the state: the stop of a squad at a marker, reports, termination, fault swap, taking
an exception (16 R305) and the return from one (16 R310). -/

namespace Sys2Proof.Machine

-- Reports, termination, leaving the cores -----------------------------------------------------------------------

/-- Bytes of a report record (17 R328). The kind code and what the text gives no place for are free values. -/
def reportBytes (d n : Nat) (r : Report) : List Byte :=
  numBytes 2 (Config.reportKind r.kind).toNat ++ [BitVec.ofNat 8 r.ret, Config.reportPad d n 3] ++
  numBytes 2 r.job ++ numBytes 2 r.gang ++ [r.cause, BitVec.ofNat 8 r.blkid, BitVec.ofNat 8 r.sqid] ++
  (List.range 5).map (fun i => Config.reportPad d n (11 + i)) ++ numBytes 8 r.addr.toNat ++
  (List.range 40).map (fun i => Config.reportByte r.kind r.extra d n (24 + i))

/-- Records of the ring: RLEN is legal in 4..20 (17 R328). -/
def Device.ringSize (x : Device) : Nat := if 4 ≤ x.rlen.toNat ∧ x.rlen.toNat ≤ 20 then 2 ^ x.rlen.toNat else 0

/-- Write the record into the ring and advance RHEAD; core RCORE is interrupted when RHEAD moves away from RTAIL. -/
def State.putReport (s : State) (d : Nat) (r : Report) : State :=
  let x := s.dev d
  let n := x.rhead.toNat
  let at_ := physAddr d (x.rbase.toNat % 2 ^ 52 + 64 * (n % x.ringSize))
  let s1 := (s.recallRange at_ 64).writeBytes at_ (reportBytes d n r)
  let reqs := match r.request with | some p => tabPut x.requests n p | none => x.requests
  let s2 := s1.setDev d { x with rhead := x.rhead + 1, interrupt := x.interrupt || x.rhead = x.rtail, requests := reqs }
  match r.request with
  | none => s2
  | some (q, l) =>
    let y := s2.squad q
    match y.run with
    | .sysc c => s2.setSquad q { y with run := .sysc { c with waiting := some (n, l) } }
    | _ => s2

/-- A report goes into the ring, or is held in the anchor reticle while the ring is full (17 R328). -/
def State.report (s : State) (d : Nat) (r : Report) : State :=
  let x := s.dev d
  if x.held = [] ∧ (x.rhead - x.rtail).toNat < x.ringSize then s.putReport d r
  else s.setDev d { x with held := x.held ++ [r] }

/-- A record of this kind is held back by a full ring: its source stalls (17 R328). -/
def State.heldBack (s : State) (d kind : Nat) (p : Report → Bool) : Bool := (s.dev d).held.any (fun x => decide (x.kind = kind) && p x)

/-- Places of the kinds in the list of 17 R328. -/
abbrev kindPageFetch : Nat := 0
abbrev kindLateFault : Nat := 1
abbrev kindBadFetch : Nat := 2
abbrev kindTermination : Nat := 3
abbrev kindCardFault : Nat := 4
abbrev kindCplt : Nat := 5
abbrev kindFence : Nat := 6
abbrev kindRefusedCard : Nat := 7
abbrev kindSysc : Nat := 8

/-- A report about gang g, or about one of its squads. -/
def State.gangReport (s : State) (g kind : Nat) (cause : BitVec 8) (blk sq : Nat) (addr : BitVec 64)
    (extra : List (BitVec 64)) : State :=
  let x := s.gang g
  s.report (devOfRet x.ret) ⟨kind, retNo x.ret, x.job, x.gangid, cause, blk, sq, addr, extra, none⟩

/-- Terminate a gang (16 R318): it issues nothing further, its frame holds its state as it stands, and it retires at the next
boundary, which sends the report. -/
def State.terminate (s : State) (g : Nat) (cause : BitVec 8) (blk sq : Nat) (addr : BitVec 64)
    (extra : List (BitVec 64)) : State :=
  let x := s.gang g
  if x.term.isSome then s
  else
    let s1 := s.setGang g { x with term := some ⟨cause, blk, sq, addr, extra⟩ }
    let s2 := match x.place with | .away _ => s1 | _ => s1.stowRegs g
    if x.spilled then s2.headerChanged g else (s2.stowImages g).headerChanged g

/-- The gang stops being resident within a compute superstep (04 R102). Its register context goes to its frame at once
(16 R317), where no result is outstanding any more (02 R53); else at the boundary. One that is leaving, or gone, waits for this
page or repair as well (16 R314, R317). -/
def State.leave (s : State) (g : Nat) (why : Away) : State :=
  let x := s.gang g
  match x.place with
  | .resident =>
    let t := s.setGang g { x with place := .leaving why, leftAt := s.clock, carried := false, staged := s.blocksOf g }
    (if (t.gangSquads g).all (fun q => (t.squad q).out = []) then t.stowRegs g else t).tick
  | .leaving w => if [Away.swap false, .repair false].contains why && !((w :: x.more).contains why) then s.setGang g { x with more := x.more ++ [why] } else s
  | .away w => if [Away.swap false, .repair false].contains why && !((w :: x.more).contains why) then s.setGang g { x with more := x.more ++ [why] } else s

-- Stopping at markers, taking an exception, returning from one ------------------------------------------------------

/-- Park until no result is outstanding (02 R46). -/
def Squad.park (q : Squad) : Squad := if q.out = [] then { q with run := .running } else { q with run := .parked }

/-- Entries of the reconvergence stack in use in a block: collective ones, markers and handlers' own (16 R306). -/
def State.entriesInUse (s : State) (b : Nat) : Nat :=
  (s.block b).stack.length +
  ((s.squadsOf b).map (fun q => match (s.squad q).handler with
    | some _ => 1 + (s.squad q).seg.length
    | none => 0)).sum

/-- TCAUSE as trap entry writes it (16 Table 16-1). -/
def TrapInfo.tcause (t : TrapInfo) : BitVec 64 :=
  BitVec.ofNat 64 (t.cause.toNat + (if t.rx then 2 ^ 13 else 0) + (if t.lw then 2 ^ 14 else 0) +
    (if t.async then 2 ^ 15 else 0))

/-- A double fault halts the squad and terminates its gang; the first trap's registers stay (16 R307). -/
def State.doubleFault (s : State) (q : Nat) (t : TrapInfo) : State :=
  let x := s.squad q
  (s.setSquad q { x with run := .halted, lane := none, latch := none }).terminate (gangOfSquad q) 0x13
    (blkidOfSquad q) (sqidOf q) (BitVec.ofNat 64 t.cause.toNat)
    [t.tpc, t.tlpc, t.tlm.setWidth 64, t.tdst]

/-- Trap entry proper (16 R305), once no result of the squad is outstanding. -/
def State.trapEntry (s : State) (q : Nat) (t : TrapInfo) : State :=
  let x := s.squad q
  if x.handler.isSome then s.doubleFault q t
  else if x.trap.thandler = 0 then
    (s.setSquad q { x with run := .halted, lane := none, latch := none }).terminate (gangOfSquad q) t.cause
      (blkidOfSquad q) (sqidOf q) t.tval [t.tpc, t.tlpc, t.tlm.setWidth 64, t.tdst]
  else if s.entriesInUse (blockOfSquad q) = 32 then s.doubleFault q t
  else
    s.setSquad q { x with
      region := none
      handler := some ⟨cellGet x.masks 0, x.fmt, t.lcnt, x.lpc, t.wm, t.ls, t.tile⟩
      seg := []
      lcnt := t.lcnt
      trap := { x.trap with tcause := t.tcause, tpc := t.tpc, tlpc := t.tlpc, tlm := t.tlm, tval := t.tval, tdst := t.tdst }
      masks := cellPut x.masks 0 t.wm
      fmt := x.fmt &&& 0x3E0F#14
      pc := x.trap.thandler
      lane := none
      replay := none
      latch := none
      run := .running }

/-- Take a trap: at once, or after the wait of 02 R53. -/
def State.raise (s : State) (q : Nat) (t : TrapInfo) : State :=
  let x0 := s.squad q
  let x := match x0.run with | .barrier _ => { x0 with bars := some x0.pc } | _ => x0
  if x.out = [] then (s.setSquad q x).trapEntry q t else s.setSquad q { x with run := .trapping t, latch := none }

/-- TDST of a destination: KIND and REG, PAIR for a 64-bit pair (16 R303). -/
def tdstScalar (r : BitVec 6) : BitVec 64 := r.setWidth 64
def tdstVector (r : BitVec 11) (pair : Bool) : BitVec 64 := r.setWidth 64 + 0x800 + (if pair then 0x2000 else 0)
def tdstMask (r : BitVec 4) : BitVec 64 := r.setWidth 64 + 0x1000
def tdstNone : BitVec 64 := 0x1800

/-- RX by cause, for the traps a word raises (16 Table 16-2). -/
def rxOf (cause : BitVec 8) : Bool :=
  cause = 0x03 || cause = 0x04 || cause = 0x06 || cause = 0x07 || cause = 0x0A || cause = 0x0D || cause = 0x14

/-- The trap of the scalar word at PC. -/
def Squad.scalarTrap (x : Squad) (cause : BitVec 8) (tval tdst : BitVec 64) : TrapInfo :=
  { cause := cause, rx := rxOf cause, tpc := x.pc, tlpc := x.lpc, tval := tval, tdst := tdst,
    wm := cellGet x.masks 0 }

/-- The acting squad's scalar word traps. -/
def State.trapS (s : State) (cause : BitVec 8) (tval tdst : BitVec 64) : State :=
  s.raise s.actor (s.sq.scalarTrap cause tval tdst)

/-- Mask a lane word runs under: m0, and mk when it is not 0 (02 R41); a replayed word the lanes of TLM under its first mask
(09 R206; 16 R310). -/
def Squad.active (x : Squad) (mk : BitVec 4) : BitVec 32 :=
  match x.replay with
  | some r => r.tlm &&& r.wm
  | none => if mk = 0 then cellGet x.masks 0 else cellGet x.masks 0 &&& cellGet x.masks mk.toNat

/-- The mask the word read at its first enqueue (09 R206). -/
def Squad.wm (x : Squad) (mk : BitVec 4) : BitVec 32 :=
  match x.replay with
  | some r => r.wm
  | none => x.active mk

def LaneRun.count (l : Option LaneRun) : BitVec 13 := match l with | some r => BitVec.ofNat 13 r.left | none => 0

def LaneRun.marker (l : Option LaneRun) : Bool := match l with | some r => r.s | none => false

/-- The trap of the lane word at the lane PC (02 R61; 05 R126). -/
def Squad.laneTrap (x : Squad) (mk : BitVec 4) (cause : BitVec 8) (tlm : BitVec 32) (tval tdst : BitVec 64) : TrapInfo :=
  { cause := cause, rx := rxOf cause, lw := true, tpc := x.pc, tlpc := x.lpc, tlm := tlm, tval := tval, tdst := tdst,
    lcnt := LaneRun.count x.lane, wm := x.wm mk, ls := LaneRun.marker x.lane }

def State.trapL (s : State) (mk : BitVec 4) (cause : BitVec 8) (tlm : BitVec 32) (tval tdst : BitVec 64) : State :=
  s.raise s.actor (s.sq.laneTrap mk cause tlm tval tdst)

/-- The squad after the last outstanding result has been written (02 R46): a trap that waited is entered. -/
def State.settle (s : State) (q : Nat) : State :=
  let x := s.squad q
  if x.out = [] then
    match x.run with
    | .parked => s.setSquad q { x with run := .running }
    | .trapping t => s.trapEntry q t
    | _ => s
  else s

/-- End the open idempotent region (16 R312). -/
def Squad.endRegion (x : Squad) : Squad := { x with region := none }

/-- The scalar word is done: PC moves on, and S parks the squad (02 R46). -/
def Squad.advance (x : Squad) (s : BitVec 1) : Squad :=
  let y := { x with pc := x.pc + 4, latch := none }
  if s = 1 then y.park else y

/-- LCNT once no LANE of the squad's own is interrupted or in progress: 0, but in a handler the count of the LANE its trap
interrupted (05 R126). -/
def Squad.idleLcnt (x : Squad) : BitVec 13 := if x.handler.isSome then x.lcnt else 0

/-- The lane word at the lane PC is enqueued (02 R47): the lane PC moves on; after the last word of the LANE the scalar
stream goes on, and S of the LANE parks the squad, as S of the word does. -/
def Squad.laneAdvance (x : Squad) (s : Bool) : Squad :=
  match x.lane with
  | none => { x with lpc := x.lpc + 12, replay := none, latch := none }
  | some r =>
    let y := { x with lpc := x.lpc + 12, replay := none, latch := none }
    if r.left ≤ 1 then
      let z := { y with lane := none, lcnt := x.idleLcnt, pc := x.pc + 4 }
      if s || r.s then z.park else z
    else
      let z := { y with lane := some { r with left := r.left - 1 } }
      if s then z.park else z

/-- Start or resume enqueuing n lane words (02 R47; 16 R310); with none left the scalar stream goes on. -/
def Squad.enqueueLanes (x : Squad) (n : Nat) (s : Bool) : Squad :=
  if n = 0 then (let y := { x with pc := x.pc + 4, lane := none, lcnt := x.idleLcnt }; if s then y.park else y)
  else { x with lane := some ⟨n, s⟩ }

/-- Where the Pacer is to start as the handler of fault f returns with TLPC (11 R240). With the fault's own TLPC the faulting word
executes again, a TMMA or TMMAJ from the RPR it stopped with; a later fault's word that is to execute again stands earlier in the
stream and comes first. With another TLPC, there, and RPR is 0. -/
def Pacer.aim (p : Pacer) (tlpc : BitVec 64) (f : TileRet) : Pacer :=
  if tlpc ≠ f.tlpc then { p with tpc := tlpc, rpr := 0, again := 0 }
  else if f.num < p.again then p
  else { p with tpc := tlpc, rpr := f.part.getD p.rpr, again := f.num }

/-- Restart the Pacer after a tile fault (11 R240). One that has another fault to deliver, or one delivered whose handler has not
returned, stays stopped. -/
def Pacer.restart (p : Pacer) (tlpc : BitVec 64) (f : Option TileRet) : Pacer :=
  match p.run with
  | .stopped =>
    let y := p.aim tlpc (f.getD ⟨0, p.tpc, none⟩)
    let z := { y with owed := y.owed - 1 }
    if z.owed = 0 ∧ z.faults = [] then { z with run := .running, again := 0 } else z
  | _ => p

/-- Return from a handler (16 R310), the segment having no entry above the marker m. A lane memory word is executed for the
lanes of TLM alone; the replay is dropped when the word at TLPC proves to be no such word, and with it a LANE that has no
word left (State.decoded). -/
def State.trapReturn (s : State) (q : Nat) (m : Marker) : State :=
  let x0 := s.squad q
  let t := x0.trap
  let x := { x0 with handler := none, seg := [], masks := cellPut x0.masks 0 m.m0, fmt := m.fmt, lcnt := 0,
                     latch := none, replay := none, lane := none, run := .running,
                     bars := if x0.bars = some t.tpc then x0.bars else none }
  let rx := bitAt t.tcause 13
  if bitAt t.tcause 15 then
    let s1 := s.setSquad q { x with lpc := m.lpc, pc := t.tpc }
    if slice t.tcause 0 8 = 0x0C then
      let b := blockOfSquad q
      let y := s1.block b
      s1.setBlock b { y with pacer := y.pacer.restart t.tlpc m.tile }
    else s1
  else if bitAt t.tcause 14 = false then
    s.setSquad q { x with lpc := m.lpc, pc := t.tpc + (if rx then 0 else 4) }
  else if rx then
    let y := { x with lpc := t.tlpc, pc := t.tpc }
    s.setSquad q (if t.tlm ≠ 0 then { y with lane := some ⟨m.lcnt.toNat, m.ls⟩, replay := some ⟨t.tlm, m.wm⟩ }
      else y.enqueueLanes m.lcnt.toNat m.ls)
  else
    s.setSquad q ({ x with lpc := t.tlpc + 12, pc := t.tpc }.enqueueLanes (m.lcnt.toNat - 1) m.ls)

-- Stopwatches ----------------------------------------------------------------------------------------------------

/-- Histogram bin of a value (18 R337). -/
def swBin (v : Nat) : Nat := if v = 0 then 0 else if v < 2 ^ 30 then Nat.log2 v + 1 else 31

/-- 64-bit saturating increment. -/
def satInc (x : BitVec 64) : BitVec 64 := if x = 0xFFFFFFFFFFFFFFFF then x else x + 1

/-- One capture (18 R337). -/
def Stopwatch.capture (w : Stopwatch) (v : Nat) : Stopwatch :=
  if w.en && !w.frz then
    { w with
      min := if v < w.min.toNat then BitVec.ofNat 64 v else w.min
      max := if w.max.toNat < v then BitVec.ofNat 64 v else w.max
      cnt := satInc w.cnt
      bins := cellPut w.bins (swBin v) (satInc (cellGet w.bins (swBin v))) }
  else w

/-- An event of quantity src at core or channel sel of a reticle is captured by the Stopwatches that measure it. SEL
counts for SRC 0..3, 7 and 9 alone. -/
def State.capture (s : State) (r src sel v : Nat) : State :=
  let x := s.ret r
  s.setRet r { x with watches := x.watches.map (fun e =>
    if e.2.src.toNat = src ∧ (src = 4 ∨ src = 5 ∨ src = 6 ∨ src = 8 ∨ e.2.sel.toNat = sel) then (e.1, e.2.capture v) else e) }

end Sys2Proof.Machine
end

