-- ==== Sys2Proof/Machine/Order.lean ====
section
/-! DEFINITION. The memory order (10 R208 to R225) over the scopes of 00 R3: which parties share a scope, the coherence order of
each byte, which of its writes a read may return, and how releases, acquires and fences pass on what a party must see. -/

namespace Sys2Proof.Machine

-- Scopes (00 R3) ---------------------------------------------------------------------------------------------------

/-- The instance of a level that a party lies in: scope codes 1 .sq, 2 .blk, 3 .gang, 4 .fld, 5 .dev, 6 .sys. Field scope is the
same job on the same reticle, device scope the same wafer. -/
def State.levelOf (s : State) (p : Party) (scope : Nat) : Option Nat :=
  let ofSquad := fun (q : Nat) => match scope with
    | 1 => some q | 2 => some (blockOfSquad q) | 3 => some (gangOfSquad q) | 4 => some (s.fieldOf q)
    | 5 => some (s.devOf q) | 6 => some 0 | _ => none
  let ofField := fun (f : Nat) => match scope with
    | 4 => some f | 5 => some (devOfRet (f / 65536)) | 6 => some 0 | _ => none
  match p with
  | .squad q => ofSquad q
  | .pacer b => if scope = 1 then none else ofSquad (16 * b)
  | .card _ _ f => ofField f
  | .member f => ofField f
  | .service d => match scope with | 5 => some d | 6 => some 0 | _ => none
  | .host => if scope = 6 then some 0 else none
  | _ => none

/-- Two parties share a scope: both lie in the same instance of that level. -/
def State.shares (s : State) (p q : Party) (scope : Nat) : Bool :=
  p = q || ((s.levelOf p scope).isSome && s.levelOf p scope = s.levelOf q scope)

/-- Two strong accesses are scope-inclusive: each one's scope includes the other's party (10 R212). -/
def State.inclusive (s : State) (p : Party) (ps : Nat) (q : Party) (qs : Nat) : Bool := s.shares p q ps && s.shares p q qs

-- The coherence order (10 R209) ------------------------------------------------------------------------------------

def State.setHist (s : State) (h : List Write) : State := { s with hist := h }

/-- The write has one of the bytes a .. a + n - 1. -/
def Write.overlaps (e : Write) (a n : Nat) : Bool := e.old.any (fun b => a ≤ b.1 && b.1 < a + n)

/-- A mark over every byte of the write. -/
def Write.whole (e : Write) (p : Party) : List Mark := e.old.map (fun b => ⟨p, b.1, 1⟩)

/-- A write of the bytes at addresses as, among the n bytes from machine address a, takes its place in the coherence order; its
party has seen it. -/
def State.recordAt (s : State) (p : Party) (store : Bool) (heads : List Head) (a n : Nat) (as : List Nat) : State :=
  { s with writes := s.writes + 1,
           hist := ⟨s.writes + 1, as.map (fun i => (i, s.byte i)), p, store, heads, [⟨p, a, n⟩], []⟩ :: s.hist }

/-- A write of n bytes at machine address a. -/
def State.record (s : State) (p : Party) (store : Bool) (heads : List Head) (a n : Nat) : State :=
  s.recordAt p store heads a n ((List.range n).map (a + ·))

/-- The byte at a that a reader finds, v the newest: the writes it does not see are undone. With it the write it reads. -/
def seenByte (see : Write → Bool) (a : Nat) (v : Byte) (h : List Write) : Byte × Option Write :=
  match h with
  | [] => (v, none)
  | e :: rest =>
    match tabGet? e.old a with
    | some old => if see e then (v, some e) else seenByte see a old rest
    | none => seenByte see a v rest

/-- The n bytes from a that such a reader finds, little-endian. -/
def State.readSeen (s : State) (see : Write → Bool) (a n : Nat) : Nat :=
  match n with
  | 0 => 0
  | k + 1 => (seenByte see a (s.byte a) s.hist).1.toNat + 256 * s.readSeen see (a + 1) k

/-- The writes it reads them from. -/
def State.readFrom (s : State) (see : Write → Bool) (a n : Nat) : List Write :=
  (List.range n).filterMap (fun i => (seenByte see (a + i) (s.byte (a + i)) s.hist).2)

/-- Every write: what a read at the home finds that is not free to be stale. -/
abbrev seesAll : Write → Bool := fun _ => true

-- What a party has seen (10 R211, R215) ------------------------------------------------------------------------------

/-- The writes that parties have seen, or one party. -/
def State.seenIf (s : State) (f : Party → Bool) : List Seen :=
  s.hist.flatMap (fun e => (e.marks.filter (fun m => f m.party)).map (fun m => ⟨e.serial, m.lo, m.n⟩))
def State.seenBy (s : State) (p : Party) : List Seen := s.seenIf (fun q => q = p)

/-- The release that the party's next write makes, of n bytes at a: it passes on what the party has seen, and itself (10 R214,
R215). -/
def State.headOf (s : State) (p : Party) (scope a n : Nat) : Head := ⟨p, scope, s.seenBy p ++ [⟨s.writes + 1, a, n⟩]⟩

/-- A mark, once. -/
def addMark (ms : List Mark) (m : Mark) : List Mark := if ms.contains m then ms else ms ++ [m]

/-- A party has seen these too. -/
def State.learn (s : State) (p : Party) (ks : List Seen) : State :=
  s.setHist (s.hist.map (fun e =>
    { e with marks := ((ks.filter (fun k => k.serial = e.serial)).map (fun k => (⟨p, k.lo, k.n⟩ : Mark))).foldl addMark e.marks }))

/-- What party p has done and seen happens before what q does from now on. -/
def State.sync (s : State) (p q : Party) : State := s.learn q (s.seenBy p)

/-- Each of these parties releases and acquires among them (08 R181; 10 R224). -/
def State.syncAll (s : State) (ps : List Party) : State :=
  let ks := ps.flatMap s.seenBy
  ps.foldl (fun t p => t.learn p ks) s

/-- A party reads n bytes from a: it reads nothing older of them afterwards (10 R209, R211 (c)). -/
def State.observe (s : State) (p : Party) (see : Write → Bool) (a n : Nat) : State :=
  if s.hist = [] then s else s.learn p ((s.readFrom see a n).map (fun e => ⟨e.serial, a, n⟩))

/-- The same of several ranges (address, bytes) at their homes. -/
def State.observeAll (s : State) (p : Party) (as : List (Nat × Nat)) : State :=
  if s.hist = [] then s else as.foldl (fun t a => t.observe p seesAll a.1 a.2) s

/-- The releases a read of these bytes reads from (10 R213, R214). -/
def State.headsAt (s : State) (see : Write → Bool) (a n : Nat) : List Head :=
  ((s.readFrom see a n).flatMap (·.heads)).foldl (fun hs h => if hs.contains h then hs else hs ++ [h]) []

/-- Party p acquires at a scope what it reads from these releases (10 R214). -/
def State.acquire (s : State) (p : Party) (scope : Nat) (hs : List Head) : State :=
  hs.foldl (fun t h => if t.inclusive h.party h.scope p scope then t.learn p h.seen else t) s

/-- An arrival hands what a party has seen to device d: its next boundary passes it on (10 R215). -/
def State.handOff (s : State) (p : Party) (d : Nat) : State :=
  s.setHist (s.hist.map (fun e =>
    if e.marks.any (fun m => m.party = p) && !(e.sent.contains d) then { e with sent := e.sent ++ [d] } else e))

/-- A squad's store that its home has not acknowledged yet: it is not performed at any scope (10 R208). -/
def State.unacked (s : State) (e : Write) : Bool :=
  match e.by_ with
  | .squad p => (s.squad p).out.any (fun o => match o.kind with | .ack _ n => n = e.serial | _ => false)
  | _ => false

/-- Which writes a squad's load of n bytes at a must see: those it has seen, the stores of its own block (09 R190), and for a
strong load those performed of the parties it shares the scope with (10 R208). -/
def State.mustSee (s : State) (q : Nat) (strong : Bool) (scope a n : Nat) (e : Write) : Bool :=
  e.marks.any (fun m => (m.party = .squad q || m.party = .every) && m.lo < a + n && a < m.lo + m.n) ||
  (match e.by_ with | .squad p => e.store && blockOfSquad p = blockOfSquad q | _ => false) ||
  (strong && s.shares e.by_ (.squad q) scope && !(s.unacked e))

/-- Every write to these bytes is one that the squad's load must see: the load returns what stands there. -/
def State.current (s : State) (q : Nat) (strong : Bool) (scope a n : Nat) : Bool :=
  s.hist.all (fun e => !(e.overlaps a n) || s.mustSee q strong scope a n e)

/-- Party p has read the doubleword at a as a strong acquire at a scope (12 R253; 04 R103). -/
def State.acquireWord (s : State) (p : Party) (scope a : Nat) : State :=
  let t := s.observe p seesAll a 8
  t.acquire p scope (t.headsAt seesAll a 8)

-- Boundaries (03 R84, R85) -------------------------------------------------------------------------------------------

/-- Oldest first, the writes that everyone has seen need no record. -/
def trimSeen (h : List Write) : List Write :=
  (h.reverse.dropWhile (fun e => e.old.all (fun b => e.marks.any (fun m => m.party = .every && m.lo ≤ b.1 && b.1 < m.lo + m.n)))).reverse

/-- A boundary of device d: what its squads, Relay and signalled cards and tile instructions have seen, and what an arrival has
handed over, everyone has (03 R84); host and service-cluster accesses and unsignalled ones gain nothing (R85). The squads of a job that
does not participate in the superstep are ordered too, of which R84 says nothing (log 47, DESIGN CHOICE). -/
def State.orderBoundary (s : State) (d : Nat) : State :=
  let ours : Party → Bool := fun p => match p with
    | .squad q => s.devOf q = d
    | .member f => devOfRet (f / 65536) = d
    | .done e => e = d
    | .every => true
    | _ => false
  let all := fun (e : Write) =>
    let ms := (if e.sent.contains d then e.whole .every else []) ++
      ((e.marks.filter (fun m => ours m.party)).map (fun m => (⟨.every, m.lo, m.n⟩ : Mark)))
    { e with marks := ms.foldl addMark (e.marks.filter (fun m => !(ours m.party))),
             sent := e.sent.filter (· ≠ d) }
  let h := trimSeen (s.hist.map all)
  let keep := fun (x : Head) => { x with seen := x.seen.filter (fun k => h.any (fun e => e.serial = k.serial)) }
  { s with hist := h, fences := (s.fences.map keep).filter (fun x => !(x.seen.isEmpty)) }

-- Writes by the device's parties and the host -------------------------------------------------------------------------

/-- A device write of n bytes performed at the home: its party, whether it is a squad's store, and its releases. -/
def State.homeWrite (s : State) (p : Party) (store : Bool) (heads : List Head) (a n v : Nat) : State :=
  (((s.checkStorage a).recall a).record p store heads a n).write a n v

/-- A write that is neither strong nor a squad's. -/
def State.devWrite (s : State) (p : Party) (a n v : Nat) : State := s.homeWrite p false [] a n v

/-- A read-modify-write continues the release sequence it reads from (10 R213). -/
def State.devRmw (s : State) (p : Party) (a n v : Nat) : State := s.homeWrite p false (s.headsAt seesAll a n) a n v

/-- A write by flits of an engine, Relay or a tile instruction: unit by unit clears what it covers. -/
def State.flitWrite (s : State) (p : Party) (a : Nat) (bs : List Byte) : State :=
  ((((s.checkStorage a).recall a).record p false [] a bs.length).writeBytes a bs).clearBad a bs.length

/-- Elements (address, bytes, value) of a card, Relay operation or tile instruction: those of one aligned 32-byte flit are one write
(10 R210). -/
def State.writeElems (s : State) (p : Party) (ws : List (Nat × Nat × Nat)) : State :=
  let bytes := ws.flatMap (fun w => (List.range w.2.1).map (w.1 + ·))
  let t := ((ws.map (fun w => w.1 / 32)).eraseDups).foldl (fun t f =>
    t.recordAt p false [] (32 * f) 32 (bytes.filter (fun a => a / 32 = f)).eraseDups) s
  ws.foldl (fun t w => ((t.checkStorage w.1).recall w.1).write w.1 w.2.1 w.2.2) t

/-- A write by the host or the service cluster, a release at .sys where it is one of its architecture's (10 R225). -/
def State.outsideWrite (s : State) (p : Party) (a : Nat) (bs : List Byte) : State :=
  (s.record p false (if Config.hostOrders s.clock then [s.headOf p 6 a bs.length] else []) a bs.length).writeBytes a bs

/-- A read by it: an acquire at .sys where it is one. -/
def State.outsideRead (s : State) (p : Party) (a n : Nat) : State :=
  let t := s.observe p seesAll a n
  if Config.hostOrders s.clock then t.acquire p 6 (t.headsAt seesAll a n) else t

-- The squads' FENCEs (10 R217, R218) -----------------------------------------------------------------------------------

/-- A release FENCE: the squad's strong writes after it are releases (10 R214). -/
def State.fenceRelease (s : State) (q scope : Nat) : State :=
  let x := s.squad q
  s.setSquad q { x with fenced := ⟨.squad q, scope, []⟩ :: x.fenced.filter (fun h => h.scope ≠ scope) }

/-- An acquire FENCE: what the squad's relaxed strong reads before it have read from releases, where the read itself did not take
it (10 R214; log 47). -/
def State.fenceAcquire (s : State) (q scope : Nat) : State :=
  (s.squad q).pend.foldl (fun t h =>
    if t.shares h.2.party (.squad q) scope then t.acquire (.squad q) h.1 [h.2] else t) s

/-- An acquire-release FENCE takes its place in their order (10 R218). -/
def State.fenceOrder (s : State) (q scope : Nat) : State :=
  let t := s.acquire (.squad q) scope s.fences
  { t with fences := ⟨.squad q, scope, t.seenBy (.squad q)⟩ :: t.fences }

/-- The releases a squad's write k makes: its own, and for a strong write those that the release FENCEs before it make of it. Each
passes on every access before the write in program order, and the write itself (10 R214, R215). -/
def Squad.releasesOf (x : Squad) (q : Nat) (o : Outst) (k : Seen) : List Head :=
  if o.ord = .ordinary then []
  else
    let by_ := fun (scope : Nat) => (⟨.squad q, scope, o.seen ++ [k]⟩ : Head)
    (if o.ord = .release || o.ord = .acqrel then [by_ o.scope] else []) ++ x.fenced.map (fun h => by_ (min h.scope o.scope))

/-- A performed access of the squad gave it these: each of its later words that may release passes them on too (10 R215). -/
def State.passOn (s : State) (q word : Nat) (ks : List Seen) : State :=
  if ks = [] then s
  else
    let x := s.squad q
    s.setSquad q { x with out := x.out.map (fun e => if word < e.word ∧ e.ord ≠ .ordinary then { e with seen := e.seen ++ ks } else e) }

/-- The scope of the acquire FENCE that follows a relaxed strong read, 0 for none: the read counts as an acquire by what the squad
does later, which the step cannot know, so the answer is a free value (10 R214; log 47). -/
def Outst.ahead (o : Outst) : Nat :=
  match o.ord with
  | .relaxed => Config.fenceAhead o.word
  | .release => Config.fenceAhead o.word
  | _ => 0

/-- What a squad's strong read takes from the releases it reads from (10 R214): at once when it is an acquire, or relaxed with an
acquire FENCE ahead, and otherwise with its next acquire FENCE (log 47). -/
def State.takeHeads (s : State) (q : Nat) (o : Outst) (hs : List Head) : State :=
  match o.ord with
  | .acquire => s.acquire (.squad q) o.scope hs
  | .acqrel => s.acquire (.squad q) o.scope hs
  | .ordinary => s
  | _ =>
    let t := s.acquire (.squad q) o.scope (hs.filter (fun h => s.shares h.party (.squad q) o.ahead))
    let x := t.squad q
    let new := (hs.map (fun h => (o.scope, h))).filter (fun h => !(x.pend.contains h))
    if new = [] then t else t.setSquad q { x with pend := x.pend ++ new }

end Sys2Proof.Machine
end

