-- ==== Sys2Proof/Machine/Translate.lean ====
section
/-! DEFINITION. Addresses: canonical form, windows and their allotments (09 R185 to R187, R198), translation (15 R287 to
R293), the two levels of TLB, and the block's L1 (09 R189, R190). -/

namespace Sys2Proof.Machine

/-- Kind of a translation (15 R290). -/
inductive Kind where
  | read | write | exec
  deriving DecidableEq, Repr, Inhabited

/-- Outcome of an address check: the machine address and whether an L1 line may hold it; a cause; page not present, with
what the report carries (15 R291); or a walk that reads uncorrectable data at a machine address (16 R366). -/
inductive Acc where
  | ok (addr : Nat) (cached : Bool)
  | bad (cause : BitVec 8)
  | absent (walk : Bool) (level entry : Nat)
  | corrupt (addr : Nat)
  deriving DecidableEq, Repr, Inhabited

/-- Who translates: device, reticle number, address space, core when it has a first-level TLB, and whether the phase
check applies (15 R290). -/
structure Walker where
  dev : Nat
  ret : Nat
  asid : Nat
  core : Option Nat
  strict : Bool
  deriving DecidableEq, Repr, Inhabited

/-- Sign-extended from bit 56 (09 R185). -/
def canonical (va : BitVec 64) : Bool := slice va 57 7 = (if bitAt va 56 then 0x7F#7 else 0#7)

/-- Window number of an address, bits [56:48]. -/
abbrev winOf (va : BitVec 64) : BitVec 9 := slice va 48 9
abbrev winLocal : BitVec 9 := 0x0FF
abbrev winPool : BitVec 9 := 0x0FE
abbrev winWs : BitVec 9 := 0x0FD
abbrev winMcast : BitVec 9 := 0x0FC
def inWindow (va : BitVec 64) : Bool := winOf va = winLocal || winOf va = winPool || winOf va = winWs || winOf va = winMcast

/-- Page size of a SIZE code: number of 4 KiB pages and leaf level (15 Table 15-2). -/
def pageSize (code : Nat) : Option (Nat × Nat) :=
  match code with
  | 0 => some (1, 0) | 1 => some (4, 0) | 2 => some (16, 0) | 3 => some (64, 0) | 4 => some (256, 0)
  | 5 => some (512, 1) | 6 => some (1024, 1) | 7 => some (4096, 1) | 8 => some (16384, 1) | 9 => some (65536, 1)
  | 10 => some (262144, 2) | 11 => some (4194304, 2)
  | _ => none

/-- Where a walk ends. -/
inductive WalkEnd where
  | leaf (level entry : Nat) (pte : BitVec 64)
  | bad (cause : BitVec 8)
  | absent (walk : Bool) (level entry : Nat)
  | corrupt (addr : Nat)
  deriving DecidableEq, Repr, Inhabited

/-- The loop of 15 R290 from level L at table t, on reticle r of device d. -/
def walkFrom (s : State) (d r : Nat) (va : BitVec 64) (L t : Nat) : WalkEnd :=
  let entry := t + 8 * (va.toNat / 2 ^ (12 + 9 * L) % 512)
  if homeOf t ≠ r then .absent true L entry
  else if s.isBad (physAddr d entry) 8 then .corrupt (physAddr d entry)
  else
    let pte := BitVec.ofNat 64 (s.read (physAddr d entry) 8)
    if bitAt pte 0 = false then (if bitAt pte 11 then .bad 0x06 else .absent false L entry)
    else if bitAt pte 1 = false then .leaf L entry pte
    else
      match L with
      | 0 => .bad 0x06
      | k + 1 => walkFrom s d r va k ((slice pte 12 40).toNat * 4096)

/-- The walk from the ASID table (15 R287, R290). -/
def walk (s : State) (w : Walker) (va : BitVec 64) : WalkEnd :=
  let at_ := (s.ret (48 * w.dev + w.ret)).tcb.atbase.toNat + 8 * w.asid
  let e := BitVec.ofNat 64 (s.read (physAddr w.dev at_) 8)
  if s.isBad (physAddr w.dev at_) 8 then .corrupt (physAddr w.dev at_)
  else if bitAt e 63 = false then .absent false 4 at_
  else walkFrom s w.dev w.ret va 4 ((slice e 12 40).toNat * 4096)

/-- A leaf is legal: its SIZE is of its level, its PA aligned, its reserved bits zero (15 R290). -/
def leafPages (level : Nat) (pte : BitVec 64) : Option Nat :=
  match pageSize (slice pte 60 4).toNat with
  | some (pages, l) =>
    if l = level ∧ (slice pte 12 40).toNat % pages = 0 ∧ slice pte 52 8 = 0 ∧ bitAt pte 10 = false then some pages else none
  | none => none

def TlbEntry.hits (e : TlbEntry) (asid vpn : Nat) (kind : Kind) : Bool :=
  (e.asid = none || e.asid = some asid) && e.vpn ≤ vpn && vpn < e.vpn + e.pages &&
  !(kind = .write && !(bitAt e.pte 7))

/-- Enter a leaf; an older one of the same pages gives way, and so does the oldest when the TLB is full (15 R292). -/
def tlbFill (t : List TlbEntry) (cap : Nat) (e : TlbEntry) : List TlbEntry :=
  (e :: t.filter (fun x => !(x.asid = e.asid && x.vpn = e.vpn && x.pages = e.pages))).take cap

/-- Column key of a core key. -/
abbrev columnOf (c : Nat) : Nat := c / 4

/-- The last checks of a translation and its result (15 R290). -/
def finishTranslate (w : Walker) (kind : Kind) (va : BitVec 64) (pages : Nat) (pte : BitVec 64) : Acc :=
  let pa := (slice pte 12 40).toNat * 4096 + va.toNat % (pages * 4096)
  let h := homeOf pa
  if (48 ≤ h ∧ h ≤ 61) ∨ h = 63 then .bad 0x06
  else if w.strict ∧ h ≠ w.ret then .bad 0x03
  else if (kind = .read ∧ bitAt pte 2 = false) ∨ (kind = .write ∧ bitAt pte 3 = false) ∨
      (kind = .exec ∧ bitAt pte 4 = false) then .bad 0x06
  else if kind = .write ∧ bitAt pte 9 then .bad 0x07
  else .ok (physAddr w.dev pa) (bitAt pte 5)

/-- A sampled first-level miss writes a record to the hot-page ring (15 R299, Table 15-3). OVF sets when the ring was full, so
that the record takes the place of another (log 24). -/
def State.sampleMiss (s : State) (w : Walker) (kind : Kind) (va : BitVec 64) (home : Nat) : State :=
  let r := 48 * w.dev + w.ret
  let x := s.ret r
  let n := x.tcb.misses + 1
  let s1 := s.setRet r { x with tcb := { x.tcb with misses := n } }
  let len := (slice x.tcb.hotctl 50 6).toNat
  if bitAt x.tcb.hotctl 63 ∧ n % 2 ^ (slice x.tcb.hotctl 56 6).toNat = 0 then
    let head := (slice x.tcb.hotctl 0 20).toNat
    let rec0 := (if kind = .write then 2 ^ 63 else 0) + va.toNat / 4096 % 2 ^ 45
    let rec1 := w.asid * 2 ^ 48 + home * 256 + (match w.core with | some c => c % 128 | none => 0)
    let base := physAddr w.dev ((slice x.tcb.hotbuf 4 48).toNat * 16 + 16 * (head % 2 ^ len))
    let s2 := ((s1.recallRange base 16).write base 8 rec0).write (base + 8) 8 rec1
    let h2 := (head + 1) % 2 ^ len % 2 ^ 20
    let y := s2.ret r
    let full : Bool := 2 ^ len ≤ x.tcb.hotcount
    let ovf := if full then 0x4000000000000000#64 else 0
    s2.setRet r { y with tcb := { y.tcb with
      hotctl := (y.tcb.hotctl &&& 0xFFFFFFFFFFF00000#64) ||| BitVec.ofNat 64 h2 ||| ovf
      hotcount := if full then x.tcb.hotcount else x.tcb.hotcount + 1 } }
  else s1

/-- translate(va, kind) (15 R290), with the state after it: TLB entries, A and D, hot-page samples. -/
def State.translate (s : State) (w : Walker) (kind : Kind) (va : BitVec 64) : State × Acc :=
  let vpn := va.toNat / 4096 % 2 ^ 45
  let first : Option TlbEntry := match w.core with | some c => (s.core c).tlb.find? (fun (e : TlbEntry) => e.hits w.asid vpn kind) | none => none
  match first with
  | some e => (s, finishTranslate w kind va e.pages e.pte)
  | none =>
    let col : Option TlbEntry := match w.core with | some c => (s.column (columnOf c)).find? (fun (e : TlbEntry) => e.hits w.asid vpn kind) | none => none
    match col, w.core with
    | some e, some c =>
      let x := s.core c
      let s1 := s.setCore c { x with tlb := tlbFill x.tlb 1024 e }
      (s1.sampleMiss w kind va ((slice e.pte 46 6).toNat), finishTranslate w kind va e.pages e.pte)
    | _, _ =>
      match walk s w va with
      | .bad c => ((if w.core.isSome then s.sampleMiss w kind va 0x3F else s), .bad c)
      | .absent wk l e => ((if w.core.isSome then s.sampleMiss w kind va 0x3F else s), .absent wk l e)
      | .corrupt a => ((if w.core.isSome then s.sampleMiss w kind va 0x3F else s), .corrupt a)
      | .leaf level entry pte =>
        match leafPages level pte with
        | none => ((if w.core.isSome then s.sampleMiss w kind va 0x3F else s), .bad 0x06)
        | some pages =>
          let pte2 := pte ||| 0x40#64 ||| (if kind = .write then 0x80#64 else 0)
          let s1 := if pte2 = pte then s else (s.recall (physAddr w.dev entry)).write (physAddr w.dev entry) 8 pte2.toNat
          let e : TlbEntry := ⟨if bitAt pte 8 then none else some w.asid, vpn / pages * pages, pages, level, pte2⟩
          let s2 := match w.core with
            | some c =>
              let x := s1.core c
              let s' := s1.setCore c { x with tlb := tlbFill x.tlb 1024 e }
              let s'' := s'.setColumn (columnOf c) (tlbFill (s'.column (columnOf c)) 16384 e)
              s''.sampleMiss w kind va ((slice pte2 46 6).toNat)
            | none => s1
          (s2, finishTranslate w kind va pages pte2)

/-- The walker of a block's squads and Pacer. -/
def State.walkerOf (s : State) (b : Nat) : Walker :=
  let g := s.gang (gangOfBlock b)
  ⟨devOfRet g.ret, retNo g.ret, g.desc.asid.toNat, some (s.coreKeyOf b), true⟩

/-- The walker of the engines and Relay for a gang's own cards and posts: its address space, no first-level TLB, no phase
check (15 R290). -/
def State.gangWalker (s : State) (g : Nat) : Walker :=
  let x := s.gang g
  ⟨devOfRet x.ret, retNo x.ret, x.desc.asid.toNat, none, false⟩

/-- The walker of what a job has on reticle r apart from a gang's own: an engine service port's cards, compiled transfers,
requests that arrive for it. -/
def State.jobWalker (s : State) (r j : Nat) : Walker :=
  ⟨devOfRet r, retNo r, (s.job (jobKey (devOfRet r) j)).asid.toNat, none, false⟩

/-- Window checks of 09 Table 9-2 for n bytes, and the storage they resolve to (09 R186, R187, R191, R193). write asks
for the phase check a write to the weight store fails (09 R196). -/
def State.windowOf (s : State) (b : Nat) (va : BitVec 64) (n : Nat) (write : Bool) : Acc :=
  let g := s.gang (gangOfBlock b)
  let o := (slice va 0 48).toNat
  if winOf va = winLocal then
    if o + n ≤ 16384 * (g.desc.loc.toNat - g.desc.l1.toNat) then .ok (localAddr b o) false else .bad 0x06
  else if winOf va = winPool then
    if o / 2 ^ 22 = 0 ∧ o / 2 ^ 20 < g.desc.nblocks ∧ o % 2 ^ 20 + n ≤ 65536 * g.desc.pool.toNat then
      .ok (poolAddr (4 * gangOfBlock b + o / 2 ^ 20) (o % 2 ^ 20)) false
    else .bad 0x06
  else if winOf va = winWs then
    let f := s.field (fieldKey g.ret g.job)
    if o + n ≤ 2 ^ 24 * f.wssize ∧ 2 ^ 24 * f.wsbase + o + n ≤ 2 ^ 30 then
      (if write then .bad 0x03 else .ok (wsAddr g.ret (2 ^ 24 * f.wsbase + o)) false)
    else .bad 0x06
  else .bad 0x06

/-- The checks of 09 R198 for one element access of a block's squad or Pacer, in their order. -/
def State.access (s : State) (b : Nat) (kind : Kind) (va : BitVec 64) (n : Nat) : State × Acc :=
  if canonical va = false then (s, .bad 0x06)
  else if va.toNat % n ≠ 0 then (s, .bad 0x04)
  else if inWindow va then (s, if kind = .exec then .bad 0x06 else s.windowOf b va n (kind = .write))
  else s.translate (s.walkerOf b) kind va

-- The block's L1 ---------------------------------------------------------------------------------------------------

/-- The L1 line that holds n bytes at va. -/
def Block.line? (x : Block) (va : BitVec 64) : Option L1Line := x.l1.find? (fun l => l.vline = va.toNat / 128)

/-- n bytes of a line. -/
def L1Line.read (l : L1Line) (off n : Nat) : Nat :=
  match n with
  | 0 => 0
  | k + 1 => (cellGet l.bytes off).toNat + 256 * l.read (off + 1) k

/-- Some of the n bytes at off of a line lie in a unit of it that holds uncorrectable data (16 R366). -/
def L1Line.isBad (l : L1Line) (off n : Nat) : Bool := l.bad.any (fun u => decide (u * 32 < off + n) && decide (off < u * 32 + 32))

/-- Invalidate the whole L1 of a block (09 R190). -/
def State.dropL1 (s : State) (b : Nat) : State :=
  let x := s.block b
  if x.l1 = [] then s else s.setBlock b { x with l1 := [] }

/-- The writes that stand in a line of a block's L1: those performed before it was filled, and the block's own stores. -/
def L1Line.sees (l : L1Line) (b : Nat) (e : Write) : Bool :=
  e.serial ≤ l.asof || (match e.by_ with | .squad p => e.store && blockOfSquad p = b | _ => false)

/-- A line holds every write to these bytes that the squad's ordinary load of them must see: the load may hit it (10 R209,
R211). -/
def State.lineHolds (s : State) (q : Nat) (l : L1Line) (a n : Nat) : Bool :=
  s.hist.all (fun e => !(e.overlaps a n) || l.sees (blockOfSquad q) e || !(s.mustSee q false 0 a n e))

/-- The line of the block's L1 that an ordinary load of the squad hits, if any. -/
def State.hitLine (s : State) (q : Nat) (va : BitVec 64) (n : Nat) : Option L1Line :=
  match (s.block (blockOfSquad q)).line? va with
  | some l => if s.lineHolds q l (l.pline * 128 + va.toNat % 128) n then some l else none
  | none => none

/-- A store to the machine page of addr under va drops the synonym lines of the page (15 R293). -/
def State.dropSynonyms (s : State) (b addr : Nat) (va : BitVec 64) : State :=
  let x := s.block b
  let syn := fun (l : L1Line) => l.pline / 32 = addr / 4096 && l.vline / 32 ≠ va.toNat / 4096
  if x.l1.any syn then s.setBlock b { x with l1 := x.l1.filter (fun l => !(syn l)) } else s

/-- Lines the L1 part of the block's allotment holds (09 R188, R189). -/
def State.l1Lines (s : State) (b : Nat) : Nat := (s.gang (gangOfBlock b)).desc.l1.toNat * 128

/-- An ordinary load that missed brings its line in, if the block has an L1 (09 R188, R189). A line that holds uncorrectable
data is not kept, so that every read of those bytes meets it (16 R366). -/
def State.fillL1 (s : State) (b : Nat) (loc : Loc) : State :=
  if loc.cached ∧ s.l1Lines b ≠ 0 ∧ s.isBad (loc.addr / 128 * 128) 128 = false then
    let x := s.block b
    let l : L1Line := ⟨loc.va.toNat / 128, loc.addr / 128, cellTake s.mem (loc.addr / 128 * 128) 128, s.writes, []⟩
    s.setBlock b { x with l1 := (l :: x.l1.filter (fun m => m.vline ≠ l.vline)).take (s.l1Lines b) }
  else s

/-- A store performed at its home updates the block's line of its address (09 R189). -/
def State.updateL1 (s : State) (b : Nat) (loc : Loc) (v : Nat) : State :=
  let x := s.block b
  if x.l1.any (fun l => l.pline = loc.addr / 128) then
    s.setBlock b { x with l1 := x.l1.map (fun l =>
      if l.pline = loc.addr / 128 then { l with bytes := cellPutList l.bytes (loc.addr % 128) (numBytes loc.len v) } else l) }
  else s

end Sys2Proof.Machine
end

