-- ==== Sys2Proof/Machine/Operands.lean ====
section
/-! DEFINITION. Registers through their windows (05 R111 to R114), operands of lane words (02 R40; 07 R151), the checks a
lane word makes at enqueue (16 R301), the waits of words that need every result written, and the hazard check (02 R52). -/

namespace Sys2Proof

/-- FMT fields (06 Table 6-9). -/
abbrev fmtEF (f : BitVec 14) : BitVec 4 := slice f 10 4
abbrev fmtACC (f : BitVec 14) : Bool := bitAt f 9
abbrev fmtTE (f : BitVec 14) : BitVec 5 := slice f 4 5
abbrev fmtSAT (f : BitVec 14) : Bool := bitAt f 3
abbrev fmtFTZ (f : BitVec 14) : Bool := bitAt f 2
abbrev fmtRM (f : BitVec 14) : BitVec 2 := slice f 0 2

/-- Register number of an operand field. -/
def Opnd.vreg (o : Opnd) : Nat := match o with | .vec r => r.toNat | _ => 0
def Opnd.sreg (o : Opnd) : BitVec 6 := match o with | .sca r => r | _ => 0
def Opnd.mreg (o : Opnd) : BitVec 4 := match o with | .msk r => r | _ => 0

/-- Registers a vector operand names: one, or the k of LDW's vd. -/
def Opnd.tooHigh (o : Opnd) (vws extra : Nat) : Option Nat :=
  match o with
  | .vec r => if vws ≤ r.toNat then some r.toNat else if vws ≤ r.toNat + extra then some (r.toNat + extra) else none
  | _ => none

/-- First register index at or beyond VWS, in the order vd, va, vb, vc (02 R39). -/
def LaneForm.badIndex (f : LaneForm) (op : LaneOp) (vws : Nat) : Option Nat :=
  let k := if op = 0x103 then f.mod.arg.toNat / 4096 else 0
  match f.vd.tooHigh vws k with
  | some r => some r
  | none => match f.va.tooHigh vws 0 with
    | some r => some r
    | none => match f.vb.tooHigh vws 0 with
      | some r => some r
      | none => f.vc.tooHigh vws 0

/-- Effective EF code of a word (02 R43). -/
def laneEf (op : LaneOp) (f : LaneForm) (fmt : BitVec 14) : Nat :=
  match (laneShape op).use with
  | .absent => 0
  | _ => if f.mod.ef = 0 then (fmtEF fmt).toNat else f.mod.ef.toNat

/-- Scalar registers a scalar word reads and writes (02 Table 2-2; each instruction's own rule), as the hazard check counts them. A word that
writes its register after its own wait (the sd of SYNC and SYSC) counts as a second write with no parking between, and the vector
arguments that SYSC reads once it has waited are not counted: 02 R51, R52 do not say whether the word's own park lies between (log 11,
DESIGN CHOICE). -/
def Instr.scalarRegs (i : Instr) : List (BitVec 6) × List (BitVec 6) :=
  match i with
  | .add _ d a b | .sub _ d a b | .mul _ d a b | .mulh _ d a b | .mulhu _ d a b | .div _ d a b | .divu _ d a b
  | .rem _ d a b | .remu _ d a b | .and _ d a b | .or _ d a b | .xor _ d a b | .shl _ d a b | .shr _ d a b
  | .sar _ d a b | .min _ d a b | .max _ d a b | .minu _ d a b | .maxu _ d a b | .slt _ d a b | .sltu _ d a b
  | .seq _ d a b | .sne _ d a b | .lea0 _ d a b | .lea1 _ d a b | .lea2 _ d a b | .lea3 _ d a b
  | .enq _ d a b | .post _ d a b | .sysc _ d a b => ([a, b], [d])
  | .clz _ d a | .ctz _ d a | .popc _ d a | .addi _ d a _ | .andi _ d a _ | .ori _ d a _ | .xori _ d a _
  | .shli _ d a _ | .shri _ d a _ | .sari _ d a _ | .slti _ d a _ | .sltui _ d a _ | .muli _ d a _
  | .lds _ d a _ _ | .ldsa _ d a _ _ _ => ([a], [d])
  | .lis _ d _ | .lui _ d _ | .pcrel _ d _ | .lpcr _ d | .mget _ d _ | .sync _ d | .getx _ d _ | .getf _ d => ([], [d])
  | .bEqz _ a _ | .bNez _ a _ | .bLtz _ a _ | .bGez _ a _ | .bGtz _ a _ | .bLez _ a _ | .jr _ a _ | .ljr _ a _
  | .mset _ _ a | .setx _ a _ | .bara _ _ a | .bars _ _ a | .xcoll _ a => ([a], [])
  | .call _ _ _ _ => ([], [15])
  | .callr _ _ _ a => ([a], [15])
  | .ret _ => ([15], [])
  | .sts _ d a _ _ | .stsl _ d a _ _ _ => ([a, d], [])
  | .atomsAdd _ a b c _ | .atomsMin _ a b c _ | .atomsMax _ a b c _ | .atomsAnd _ a b c _ | .atomsOr _ a b c _
  | .atomsXor _ a b c _ | .atomsExch _ a b c _ | .atomsCas _ a b c _ | .atomsFadd _ a b c
  | .atomsFamax _ a b c => ([a, b, c], [c])
  | .xget _ a b c _ | .xput _ a b c _ | .xamo _ a b c _ | .xtxa _ a b c | .xmld _ a b c _ | .yield _ a b c => ([a, b, c], [])
  | .xmst _ a b _ | .xchan _ a b | .xchanOrd _ a b | .setf _ a b | .waitseq _ _ a b => ([a, b], [])
  | _ => ([], [])

def Opnd.sregs (o : Opnd) : List (BitVec 6) := match o with | .sca r => [r] | _ => []
def Opnd.vregs (o : Opnd) (pair : Bool) : List Nat :=
  match o with | .vec r => if pair then [r.toNat, r.toNat + 1] else [r.toNat] | _ => []

/-- Scalar sources and destinations, vector sources and destinations of a word. VPACK reads vb; a store reads vc; ATOM
reads vb and vc; LDW writes k registers. -/
def Instr.regs (i : Instr) (fmt : BitVec 14) : List (BitVec 6) × List (BitVec 6) × List Nat × List Nat :=
  match i.lane? with
  | some (op, f) =>
    let p := lanePairs op (laneEf op f fmt)
    let vd := if op = 0x103 then (List.range (f.mod.arg.toNat / 4096 + 1)).map (f.vd.vreg + ·) else f.vd.vregs p.1
    (f.va.sregs ++ f.vb.sregs ++ f.vc.sregs, f.vd.sregs,
     f.va.vregs p.2.1 ++ f.vb.vregs p.2.2.1 ++ f.vc.vregs p.2.2.2, vd)
  | none =>
    match i with
    | .vimm _ _ vd _ => ([], [], [], if fmtEF fmt = 10 then [vd.toNat, vd.toNat + 1] else [vd.toNat])
    | _ => (i.scalarRegs.1, i.scalarRegs.2, [], [])

end Sys2Proof

namespace Sys2Proof.Machine

-- Scalar, vector and mask registers ------------------------------------------------------------------------------

/-- Cell of scalar register r: global s1..s15, or windowed (05 R111, R112). -/
def Squad.scell (x : Squad) (r : BitVec 6) : Nat :=
  if r.toNat < 16 then r.toNat else 16 + (x.swb + (r.toNat - 16) / 16) % 7 * 16 + (r.toNat - 16) % 16

/-- s0 reads zero (05 R111). -/
def Squad.readS (x : Squad) (r : BitVec 6) : BitVec 64 := if r = 0 then 0 else cellGet x.sregs (x.scell r)

/-- A write to s0 is discarded (02 R38). -/
def Squad.writeS (x : Squad) (r : BitVec 6) (v : BitVec 64) : Squad :=
  if r = 0 then x else { x with sregs := cellPut x.sregs (x.scell r) v }

/-- Cell of vector register r, lane l (05 R114). -/
def Squad.vcell (x : Squad) (r l : Nat) : Nat := 32 * ((64 * x.vwb + r) % x.vws) + l

def Squad.readV (x : Squad) (r l : Nat) : BitVec 32 := cellGet x.vregs (x.vcell r l)
def Squad.writeV (x : Squad) (r l : Nat) (v : BitVec 32) : Squad := { x with vregs := cellPut x.vregs (x.vcell r l) v }
/-- The even-odd pair r, r + 1 (02 R39; 06 R131). -/
def Squad.readVP (x : Squad) (r l : Nat) : BitVec 64 := x.readV (r + 1) l ++ x.readV r l
def Squad.readM (x : Squad) (m : BitVec 4) : BitVec 32 := cellGet x.masks m.toNat
def Squad.writeM (x : Squad) (m : BitVec 4) (v : BitVec 32) : Squad := { x with masks := cellPut x.masks m.toNat v }

/-- The destination cell of a scalar register: none for s0. -/
def Squad.dstS (x : Squad) (r : BitVec 6) : Dst := if r = 0 then .none else .sreg (x.scell r)
def Squad.dstV (x : Squad) (r l : Nat) (pair : Bool) : Dst :=
  if pair then .vpair (x.vcell r l) (x.vcell (r + 1) l) else .vreg (x.vcell r l)

/-- Write a result to its destination. -/
def Squad.put (x : Squad) (d : Dst) (v : BitVec 64) : Squad :=
  match d with
  | .none => x
  | .sreg c => { x with sregs := cellPut x.sregs c v }
  | .vreg c => { x with vregs := cellPut x.vregs c (slice v 0 32) }
  | .vpair lo hi => { x with vregs := cellPut (cellPut x.vregs lo (slice v 0 32)) hi (slice v 32 32) }

-- Lane operands ---------------------------------------------------------------------------------------------------

/-- Raw bits an operand supplies to lane l: the pair and all 64 scalar bits for a 64-bit format, 32 bits otherwise
(02 R40; 07 R151). -/
def Squad.opnd (x : Squad) (o : Opnd) (l : Nat) (wide : Bool) : BitVec 64 :=
  match o with
  | .vec r => if wide then x.readVP r.toNat l else (x.readV r.toNat l).setWidth 64
  | .sca r => if wide then x.readS r else (slice (x.readS r) 0 32).setWidth 64
  | _ => 0

/-- Rounding mode of a word: RND when it names one, else FMT.RM (06 R135; 02 Table 2-4). -/
def roundMode (m : LaneMod) (f : BitVec 14) : BitVec 2 := if m.rnd = 0 then fmtRM f else slice m.rnd 0 2
/-- Saturation of a word: SATM, else FMT.SAT (06 R132). -/
def saturates (m : LaneMod) (f : BitVec 14) : Bool := if m.satm = 0 then fmtSAT f else m.satm = 2

/-- TDST of a lane word (16 R303). -/
def laneTdst (op : LaneOp) (f : LaneForm) (e : Nat) : BitVec 64 :=
  match f.vd with
  | .vec r => tdstVector r (lanePairs op e).1
  | .sca r => tdstScalar r
  | .msk r => tdstMask r
  | .unused => tdstNone

/-- TVAL of an illegal lane word: bits [95:48] (02 R61). -/
def badLaneTval (w : BitVec 96) : BitVec 64 := (slice w 48 48).setWidth 64

/-- What the effective EF code decides of a lane word is legal (02 R43; 16 R301). -/
def formatStands (f : LaneForm) (op : LaneOp) (fmt : BitVec 14) : Bool :=
  (laneShape op).use = EfUse.absent || laneFormatOk op f (laneEf op f fmt)

/-- VIMM with FMT.EF as it stands is legal: an element format, and an even register for a pair (07 R155; 02 R39, R43). -/
def vimmOk (fmt : BitVec 14) (vd : BitVec 11) : Bool :=
  let e := (fmtEF fmt).toNat
  !(e = 0 ∨ 10 < e ∨ (e = 10 ∧ bitAt vd 0))

/-- The enqueue checks of a decoded lane word (16 R301): register indices, then what depends on FMT.EF; then k with the
effective EF code. A trap instead of k when one fails. -/
def State.laneIssue (s : State) (op : LaneOp) (f : LaneForm) (k : Squad → Nat → Res) : Res :=
  let x := s.sq
  let e := laneEf op f x.fmt
  match f.badIndex op x.vws with
  | some r => .next (s.trapL f.m 0x02 0 (BitVec.ofNat 64 r) (laneTdst op f e))
  | none =>
    if formatStands f op x.fmt = false then
      .next (s.trapL f.m 0x01 0 (badLaneTval (encodeForm op f)) (laneTdst op f e))
    else k x e

/-- While a TE bit is 1 the words of majors 0x04..0x08 act as if S were set (06 R143). -/
def laneMarker (op : LaneOp) (f : LaneForm) (x : Squad) : Bool :=
  f.s = 1 || (0x40 ≤ op && op < 0x90 && fmtTE x.fmt ≠ 0)

/-- Active lanes that raise an enabled flag (06 R142). -/
def trapLanes (act : BitVec 32) (te : BitVec 5) (res : List LaneRes) : BitVec 32 :=
  BitVec.ofNat 32 ((lanes32.map (fun l =>
    if bitAt act l ∧ slice (listAt res l {}).flags 0 5 &&& te ≠ 0 then 2 ^ l else 0)).sum)

/-- OR of the flags of the lanes of a mask. -/
def orFlags (mask : BitVec 32) (res : List LaneRes) : BitVec 6 :=
  lanes32.foldl (fun a l => if bitAt mask l then a ||| (listAt res l {}).flags else a) 0

/-- Write the lanes of a mask to vector register r. -/
def Squad.writeLanes (x : Squad) (mask : BitVec 32) (r : Nat) (pair : Bool) (res : List LaneRes) : Squad :=
  lanes32.foldl (fun y l => if bitAt mask l then y.put (y.dstV r l pair) (listAt res l {}).v else y) x

/-- The end of a fixed-latency lane word that writes a vector (07 R151, R152; 06 R140, R142): write the lanes that take
no trap, merge their flags, then trap or go on. whole says that all active lanes trap together. -/
def State.laneFinish (s : State) (op : LaneOp) (f : LaneForm) (e : Nat) (whole : Bool) (res : List LaneRes) : State :=
  let x := s.sq
  let act := x.active f.m
  let t0 := trapLanes act (fmtTE x.fmt) res
  let t := if whole ∧ t0 ≠ 0 then act else t0
  let ok := act &&& ~~~t
  let y := x.writeLanes ok f.vd.vreg (lanePairs op e).1 res
  let z := { y with fflags := y.fflags ||| orFlags ok res }
  if t = 0 then s.setSq (z.laneAdvance (laneMarker op f x))
  else (s.setSq z).trapL f.m 0x08 t ((slice (orFlags t res) 0 5).setWidth 64) (laneTdst op f e)

/-- The end of a compare (07 R156, R158): bit l of the mask for each active lane that takes no trap, 0 for inactive ones,
unchanged where a lane traps. -/
def State.maskFinish (s : State) (op : LaneOp) (f : LaneForm) (e : Nat) (res : List LaneRes) : State :=
  let x := s.sq
  let act := x.active f.m
  let t := trapLanes act (fmtTE x.fmt) res
  let ok := act &&& ~~~t
  let bits := BitVec.ofNat 32 ((lanes32.map (fun l => if (listAt res l {}).v = 1 then 2 ^ l else 0)).sum)
  let y := x.writeM f.vd.mreg ((bits &&& ok) ||| (x.readM f.vd.mreg &&& t))
  let z := { y with fflags := y.fflags ||| orFlags ok res }
  if t = 0 then s.setSq (z.laneAdvance (laneMarker op f x))
  else (s.setSq z).raise s.actor
    (x.laneTrap f.m 0x08 t ((slice (orFlags t res) 0 5).setWidth 64) (laneTdst op f e))

-- Words that wait ---------------------------------------------------------------------------------------------------

/-- The values a word read at its issue: those it has kept through a wait, or what it reads now (02 R49). -/
def Squad.atIssue (x : Squad) (now : List (BitVec 64)) : List (BitVec 64) := match x.latch with | some l => l | none => now

/-- A word that waits until no result of the squad is outstanding, with the values it read at issue (02 R46, R49); then k
with them. -/
def State.drainedWith (s : State) (now : List (BitVec 64)) (k : List (BitVec 64) → State → Res) : Res :=
  let x := s.sq
  if x.out = [] then k (x.atIssue now) (s.setSq { x with latch := none })
  else .next (s.setSq { x with latch := some (x.atIssue now), run := .parked })

/-- The same with the values of scalar source registers. -/
def State.drained (s : State) (srcs : List (BitVec 6)) (k : List (BitVec 64) → State → Res) : Res :=
  s.drainedWith (srcs.map s.sq.readS) k

/-- A word that ends an open region first waits as a drained word does; with no region open it goes on at once (16 R313).
The region ends with the word's own effect: a fault swap of the word leaves it open (16 R312). -/
def State.waitRegion (s : State) (now : List (BitVec 64)) (k : List (BitVec 64) → State → Res) : Res :=
  let x := s.sq
  if x.region.isSome then s.drainedWith now k else k (x.atIssue now) (s.setSq { x with latch := none })

/-- Such a word with scalar source registers, whose region ends at once: it has no check that can swap its gang out. -/
def State.endingRegion (s : State) (srcs : List (BitVec 6)) (k : List (BitVec 64) → State → Res) : Res :=
  s.waitRegion (srcs.map s.sq.readS) (fun vs t => k vs (t.setSq t.sq.endRegion))

/-- The open region of the acting squad ends (16 R312). -/
def State.regionEnds (s : State) : State := s.setSq s.sq.endRegion

/-- The i-th of the values a waiting word read. -/
abbrev argAt (vs : List (BitVec 64)) (i : Nat) : BitVec 64 := listAt vs i 0

-- Outstanding results ---------------------------------------------------------------------------------------------

/-- The destination of an outstanding result. -/
def OutKind.dst (k : OutKind) : Dst :=
  match k with
  | .value d _ => d
  | .load _ _ d => d
  | .rmw _ _ _ _ d => d
  | .task _ d => d
  | .chain _ _ d => d
  | _ => .none

/-- A pair is two registers, each decided on its own (02 R50): the value of a pair is two results. -/
def OutKind.halves (k : OutKind) : List OutKind :=
  match k with
  | .value (.vpair lo hi) v => [.value (.vreg lo) (v &&& 0xFFFFFFFF), .value (.vreg hi) (v >>> 32)]
  | _ => [k]

/-- The lane a destination is in, as a mask; 0 for one that is in none. -/
def Dst.lane (d : Dst) : BitVec 32 :=
  match d with | .vreg c => BitVec.ofNat 32 (2 ^ (c % 32)) | .vpair c _ => BitVec.ofNat 32 (2 ^ (c % 32)) | _ => 0

/-- The acting squad's word leaves these results outstanding. -/
def State.issue (s : State) (ord : AccOrd) (scope : Nat) (flags : BitVec 6) (ks : List (OutKind × Option Nat))
    (tdst : BitVec 64 := tdstNone) : State :=
  let x := s.sq
  let seen := if ord = .ordinary then [] else s.seenBy (.squad s.actor)
  let one := fun (m : Option Nat) (k : OutKind) =>
    (⟨s.clock, x.pc, x.region.isSome, ord, scope, k, flags, m, x.lpc, k.dst.lane, tdst, seen⟩ : Outst)
  (s.setSq { x with out := x.out ++ ks.flatMap (fun k => k.1.halves.map (one k.2)) }).tick

/-- The acting squad's scalar word has one value outstanding for sd (02 R45). -/
def State.issueValue (s : State) (sd : BitVec 6) (v : BitVec 64) : State :=
  s.issue .ordinary 0 0 [(.value (s.sq.dstS sd) v, none)]

/-- The acting squad's scalar word is done. -/
def State.done (s : State) (m : BitVec 1) : State := s.setSq (s.sq.advance m)

-- Hazard check ----------------------------------------------------------------------------------------------------

/-- A destination overlaps a cell. -/
def Dst.hitsS (d : Dst) (c : Nat) : Bool := match d with | .sreg k => k = c | _ => false
def Dst.hitsV (d : Dst) (c : Nat) : Bool :=
  match d with | .vreg k => k = c | .vpair lo hi => lo = c || hi = c | _ => false

def Squad.pendingS (x : Squad) (r : BitVec 6) : Bool := r ≠ 0 && x.out.any (fun o => o.kind.dst.hitsS (x.scell r))
def Squad.pendingV (x : Squad) (r : Nat) : Bool :=
  lanes32.any (fun l => x.out.any (fun o => o.kind.dst.hitsV (x.vcell r l)))

/-- The hazard a checked gang's word meets (02 R52): TVAL, reads before writes, scalar before vector, lowest field first. -/
def hazard? (i : Instr) (x : Squad) : Option (BitVec 64) :=
  let r := i.regs x.fmt
  let tv := fun (code cls n : Nat) => BitVec.ofNat 64 (code * 2 ^ 56 + cls * 2 ^ 11 + n)
  match r.1.find? x.pendingS with
  | some a => some (tv 1 0 a.toNat)
  | none => match r.2.2.1.find? x.pendingV with
    | some v => some (tv 1 1 v)
    | none => match r.2.1.find? x.pendingS with
      | some a => some (tv 2 0 a.toNat)
      | none => (r.2.2.2.find? x.pendingV).map (fun v => tv 2 1 v)

end Sys2Proof.Machine
end

