-- ==== Sys2Proof/Machine/Pipeline.lean ====
section
/-! DEFINITION. Outstanding results (02 R45, R46, R50, R51): when each may be performed (10 R207 to R211), what performing
it does, the drain of 02 R53, late faults (16 R314, R316) and the deadlock rule of barriers (11 R245). -/

namespace Sys2Proof.Machine

-- When a result may be performed ---------------------------------------------------------------------------------

/-- The place an access touches. -/
def OutKind.loc? (k : OutKind) : Option Loc :=
  match k with
  | .load l _ _ => some l
  | .store l _ => some l
  | .ack l _ => some l
  | .rmw l _ _ _ _ => some l
  | _ => none

def Loc.overlaps (a b : Loc) : Bool := a.addr < b.addr + b.len && b.addr < a.addr + a.len

def AccOrd.acquires (o : AccOrd) : Bool := o = .acquire || o = .acqrel
def AccOrd.releases (o : AccOrd) : Bool := o = .release || o = .acqrel

abbrev isWs (a : Nat) : Bool := decide (2 ^ 80 ≤ a) && decide (a < 2 ^ 81)

/-- Device of a weight-store address. -/
def State.wsDev (s : State) (a : Nat) : Device := s.dev (devOfRet ((a - 2 ^ 80) / 2 ^ 30))

/-- A read of the weight store stalls until the repair map is loaded (17 R332). -/
def State.wsLocked (s : State) (a : Nat) : Bool := isWs a && !(s.wsDev a).boot.rready

/-- A read of the weight store stalls while its bank refreshes (09 R194). -/
def State.wsRefreshing (s : State) (a : Nat) : Bool :=
  let b := a % 2 ^ 30 / 2 ^ 26
  isWs a && decide (400 * b ≤ (s.wsDev a).pos.toNat) && decide ((s.wsDev a).pos.toNat ≤ 400 * b + 199)

/-- Whether performing the result needs data that is there and correct. -/
def Outst.reads (o : Outst) : Option Loc :=
  match o.kind with
  | .load l _ _ => some l
  | .rmw l _ _ _ _ => some l
  | _ => none

/-- An outstanding access counts as an acquire: it is one, or a relaxed read with an acquire FENCE ahead (10 R214). -/
def Outst.acquires (o : Outst) : Bool := o.ord.acquires || (o.reads.isSome && o.ahead ≠ 0)

/-- An outstanding access of a squad counts as a release: it is one, or a strong write behind a release FENCE (10 R214). -/
def Squad.releases (x : Squad) (o : Outst) : Bool :=
  o.ord.releases || (x.fenced ≠ [] && o.ord ≠ .ordinary && (match o.kind with | .load _ _ _ => false | _ => true))

/-- An access waits for the squad's earlier accesses to its bytes (R209), for earlier acquires (R207), and, when it is a
release, for every earlier access; the lanes of one word wait for one another only on common bytes (R216). -/
def Squad.waitsFor (x : Squad) (o e : Outst) : Bool :=
  match o.kind.loc?, e.kind.loc? with
  | some a, some b => a.overlaps b || (o.word ≠ e.word && (e.acquires || x.releases o))
  | _, _ => false

/-- Result k of a squad may be performed, refresh windows aside. Posts, tasks and ENQ chains complete by their own
events. -/
def State.orderAllows (s : State) (q k : Nat) : Bool :=
  let x := s.squad q
  match x.out[k]? with
  | none => false
  | some o =>
    match o.kind with
    | .post _ _ => false
    | .task _ _ => false
    | .chain _ _ _ => false
    | .value _ _ => true
    | .channel _ _ _ => true
    | _ => !((x.out.take k).any (x.waitsFor o)) &&
        (match o.reads with | some l => !(s.wsLocked l.addr) | none => true)

def State.canPerform (s : State) (q k : Nat) : Bool :=
  s.orderAllows q k &&
  (match (s.squad q).out[k]? with
   | some o => (match o.reads with | some l => !(s.wsRefreshing l.addr) | none => true)
   | none => false)

-- Performing -----------------------------------------------------------------------------------------------------

/-- Value a load writes: extended to 32 bits in a lane, zero-extended in a scalar register (06 R131; 09 R199). -/
def loadValue (n : Nat) (signed : Bool) (v : Nat) : BitVec 64 :=
  if signed then BitVec.ofNat 64 (wrapNat 32 (sextNat (8 * n) v)) else BitVec.ofNat 64 v

/-- What a store leaves of the block's L1 (09 R189, R190 (d)): no synonym of its page, and the lines that hold its bytes
updated. -/
def State.storeL1 (s : State) (b : Nat) (l : Loc) (v : Nat) : State :=
  if isPhys l.addr then (s.dropSynonyms b l.addr l.va).updateL1 b l v else s

/-- Which writes a squad's load sees as it is performed: a strong one as 10 R208 binds it, and any up to a point that the spec
leaves open where it races (10 R211). -/
def State.sees (s : State) (q : Nat) (o : Outst) (l : Loc) (e : Write) : Bool :=
  s.mustSee q (o.ord ≠ .ordinary) o.scope l.addr l.len e || e.serial ≤ Config.staleAt s.clock (s.squad q).out.length

/-- The line a load that was issued as an L1 hit hits now. -/
def State.hitNow (s : State) (q : Nat) (o : Outst) (l : Loc) : Option L1Line :=
  if o.ord = .ordinary ∧ o.meter = some 0 then (s.hitLine q l.va l.len).filter (fun m => m.pline = l.addr / 128) else none

/-- Result k reads uncorrectable data (16 R311): of the line that it hits, or of its home. -/
def State.readsBad (s : State) (q k : Nat) : Bool :=
  match (s.squad q).out[k]? with
  | some o => (match o.reads with
      | some l => (match s.hitNow q o l with | some m => m.isBad (l.addr % 128) l.len | none => s.isBad l.addr l.len)
      | none => false)
  | none => false

/-- Stopwatch source of a load by the store it reaches (18 Table 18-3). -/
def meterOf (a : Nat) : Nat := if isPhys a then 3 else if a < 2 ^ 81 then 2 else if a < 2 ^ 82 then 0 else 1

/-- The source a result is measured by: a load issued as an L1 hit that finds its line gone reaches the home. -/
def State.source (s : State) (q : Nat) (o : Outst) (src : Nat) : Nat :=
  match o.kind with
  | .load l _ _ => if src = 0 ∧ (s.hitNow q o l).isNone then meterOf l.addr else src
  | _ => src

/-- A load's value reaches its destination; the two registers of a pair are written apart (02 R50), measured as what the load reached (18 R337). -/
def State.deliver (s : State) (q : Nat) (o : Outst) (d : Dst) (v : BitVec 64) : State :=
  let x := s.squad q
  match d with
  | .vpair _ _ =>
    s.setSquad q { x with out := x.out ++ (OutKind.value d v).halves.map (fun k =>
      { o with kind := k, ord := .ordinary, meter := o.meter.map (s.source q o) }) }
  | _ => s.setSquad q (x.put d v)

/-- Channel state after an XCHAN completes (13 R263): the values of the one whose check came last. -/
def Channel.complete (c : Channel) (serial slots : Nat) (ordered : Bool) : Channel :=
  if c.stamp ≤ serial then { c with rsv := slots, ordered := ordered, stamp := serial } else c

/-- An XCHAN completes. -/
def State.completeChan (s : State) (q : Nat) (o : Outst) : State :=
  match o.kind with
  | .channel c n ord =>
    let f := s.fieldOf q
    let x := s.field f
    s.setField f { x with chans := tabPut x.chans c ((tabGet x.chans c {}).complete o.word n ord) }
  | _ => s

/-- A store whose write has this serial waits for its home's acknowledgement, among its squad's results in issue order. -/
def State.awaitAck (s : State) (q : Nat) (o : Outst) (l : Loc) (serial : Nat) : State :=
  let x := s.squad q
  let before := fun (e : Outst) => decide (e.word ≤ o.word)
  s.setSquad q { x with out := x.out.takeWhile before ++ { o with kind := .ack l serial } :: x.out.dropWhile before }

/-- Perform one result, already taken out of the squad's list. A word read-modify-write's old value is zero-extended into its
scalar register (09 R200 does not say; log 9). A result writes its register here, whatever was written to it since its word issued: where
a later word of fixed latency has written it meanwhile, at its own issue, the earlier word's value stays. 02 R51 leaves either of the
two (log 8, DESIGN CHOICE). -/
def State.performKind (s : State) (q : Nat) (o : Outst) : State :=
  let b := blockOfSquad q
  match o.kind with
  | .value d v => s.setSquad q ((s.squad q).put d v)
  | .load l sg d =>
    match s.hitNow q o l with
    | some m =>
      (s.observe (.squad q) (m.sees b) l.addr l.len).deliver q o d (loadValue l.len sg (m.read (l.addr % 128) l.len))
    | none =>
      let see := s.sees q o l
      let s0 := (s.checkStorage l.addr).recall l.addr
      let s1 := (s0.observe (.squad q) see l.addr l.len).takeHeads q o (s0.headsAt see l.addr l.len)
      let s2 := s1.deliver q o d (loadValue l.len sg (s0.readSeen see l.addr l.len))
      if o.ord = .ordinary then s2.fillL1 b l else s2
  | .store l v =>
    let n := v.toNat % 2 ^ (8 * l.len)
    let t := (s.homeWrite (.squad q) true ((s.squad q).releasesOf q o ⟨s.writes + 1, l.addr, l.len⟩) l.addr l.len n).storeL1 b l n
    if Config.ackLater s.clock then t.awaitAck q o l (s.writes + 1) else t
  | .rmw l op v c d =>
    let old := s.read l.addr l.len
    let new := rmwValue op l.len old (v.toNat % 2 ^ (8 * l.len)) (c.toNat % 2 ^ (8 * l.len))
    let hs := s.headsAt seesAll l.addr l.len
    let s0 := s.homeWrite (.squad q) false (hs ++ (s.squad q).releasesOf q o ⟨s.writes + 1, l.addr, l.len⟩) l.addr l.len new
    let s1 := (if isPhys l.addr then s0.dropSynonyms b l.addr l.va else s0).takeHeads q o hs
    s1.deliver q o d (BitVec.ofNat 64 old)
  | .channel _ _ _ => s.completeChan q o
  | _ => s

/-- Write result k (02 R45): its effect; with the last of its word the word's flags (06 R140) and its Stopwatch value; the
L1 of an acquire at .gang or wider (09 R190); then the squad unparks when nothing is outstanding (02 R46). -/
def State.perform (s : State) (q k cycles : Nat) : State :=
  match (s.squad q).out[k]? with
  | none => s
  | some o =>
    let x := s.squad q
    let s0 := (s.setSquad q { x with out := listDel x.out k }).performKind q o
    let s1 := s0.passOn q o.word ((s0.seenBy (.squad q)).filter (fun e => !((s.seenBy (.squad q)).contains e)))
    let y := s1.squad q
    let last := !(y.out.any (fun e => e.word = o.word))
    let s2 := if last then s1.setSquad q { y with fflags := y.fflags ||| o.flags } else s1
    let s3 := if o.ord.acquires && 3 ≤ o.scope then s2.dropL1 (blockOfSquad q) else s2
    let s4 := match o.meter with
      | some src => if last then s3.capture (s3.retOf q) (s.source q o src) (s3.coreNo (blockOfSquad q)) cycles else s3
      | none => s3
    s4.settle q

-- Late faults ----------------------------------------------------------------------------------------------------

/-- Late fault of a word that read uncorrectable data at machine address a (16 R314, R316, R307). open says that a region
was open when the word issued; w gives the word's TPC, TLPC, TLM and TDST. The squad's outstanding results are discarded, but an
XCHAN that has passed its check completes: RSV becomes PRSV, and the pool stays as the check left it (13 R263; log 48, DESIGN
CHOICE). -/
def State.lateFault (s0 : State) (q : Nat) (opened : Bool) (w : TrapInfo) (a : Nat) : State :=
  let x := s0.squad q
  let s := x.out.foldl (fun t o => t.completeChan q o) s0
  let g := gangOfSquad q
  let pa := if a < 2 ^ 120 then BitVec.ofNat 64 (a % 2 ^ 52) else Config.unitAddress a
  let clean := { x with out := [], latch := none, lane := none, replay := none, lcnt := 0 }
  if x.handler.isSome then
    s.doubleFault q { w with cause := 0x12, tval := pa }
  else
    match opened, x.region with
    | true, some c =>
      let y := { clean with pc := c.pc, lpc := c.lpc, masks := c.masks, fmt := c.fmt, fflags := c.fflags,
                            chsel := c.chsel, run := .running }
      let s1 := (s.setSquad q y).gangReport g kindLateFault 0x12 (blkidOfSquad q) (sqidOf q) pa []
      s1.leave g (.repair false)
    | _, _ => (s.setSquad q { clean with run := .halted }).terminate g 0x12 (blkidOfSquad q) (sqidOf q) pa [w.tpc]

/-- Result k meets uncorrectable data. -/
def State.lateFaultAt (s : State) (q k : Nat) : State :=
  match (s.squad q).out[k]? with
  | some o => (match o.reads with
      | some l => s.lateFault q o.region { cause := 0x12, tpc := o.pc, tlpc := o.tlpc, tlm := o.lane, tdst := o.tdst } l.addr
      | none => s)
  | none => s

/-- The late fault of the acting squad's own scalar or lane word at its issue, where a check of it reads uncorrectable data (16
R366). -/
def State.lateScalar (s : State) (tdst : BitVec 64) (a : Nat) : State :=
  let x := s.sq
  s.lateFault s.actor x.region.isSome { cause := 0x12, tpc := x.pc, tlpc := x.lpc, tdst := tdst } a
def State.lateLane (s : State) (tlm : BitVec 32) (tdst : BitVec 64) (a : Nat) : State :=
  let x := s.sq
  s.lateFault s.actor x.region.isSome { cause := 0x12, tpc := x.pc, tlpc := x.lpc, tlm := tlm, tdst := tdst } a

/-- The refresh window of a bank of the weight store closes on a device: its counter stands at the window's end (09 R194). -/
def State.passWindow (s : State) (a : Nat) : State :=
  let d := devOfRet ((a - 2 ^ 80) / 2 ^ 30)
  s.setDev d { s.dev d with pos := BitVec.ofNat 13 (400 * (a % 2 ^ 30 / 2 ^ 26) + 200), fine := 0 }

/-- A read of a bank in its window stalls until the window closes (09 R194). -/
def State.stallWindow (s : State) (q k : Nat) : State :=
  match (s.squad q).out[k]?.bind Outst.reads with
  | some l => if s.wsRefreshing l.addr then s.passWindow l.addr else s
  | none => s

/-- Write the first result that may be written, or take its late fault. -/
def State.performFirst (s : State) (q : Nat) (ks : List Nat) : State :=
  match ks with
  | [] => s
  | k :: rest =>
    if s.orderAllows q k then
      let t := s.stallWindow q k
      if t.readsBad q k then t.lateFaultAt q k else t.perform q k (Config.drainCycles t.clock)
    else s.performFirst q rest

/-- Write a squad's results until none may be written (02 R53; 03 R83 step 2); the wait outlasts every refresh window that a read
meets, and the squad's Stopwatch sees a length that the model does not have (log 6). -/
def State.drainSquad (s : State) (q n : Nat) : State :=
  match n with
  | 0 => s
  | k + 1 => (s.performFirst q (List.range (s.squad q).out.length)).drainSquad q k

def State.drain (s : State) (q : Nat) : State := s.drainSquad q (3 * (s.squad q).out.length)

-- Element accesses -------------------------------------------------------------------------------------------------

/-- What the checks of an element access leave: the result it makes outstanding, a cause, or page not present. -/
inductive Elem where
  | ok (k : OutKind) (meter : Option Nat)
  | bad (cause : BitVec 8)
  | absent (walk : Bool) (level entry : Nat)
  | corrupt (addr : Nat)
  deriving DecidableEq, Repr, Inhabited

/-- An L1 hit may return the line's bytes at once unless the squad has its own access to them, or an acquire, outstanding
(10 R207, R209). -/
def Squad.mayHit (x : Squad) (l : Loc) : Bool :=
  !(x.out.any (fun o => o.acquires || (match o.kind.loc? with | some m => m.overlaps l | none => false)))

/-- Check an element load, and what it leaves outstanding. A load that hits in the L1 is not translated (09 R189); it passes
by a line older than what its squad must see of those bytes (10 R209, R211). -/
def State.loadElem (s : State) (q : Nat) (ord : AccOrd) (va : BitVec 64) (n : Nat) (signed : Bool) (d : Dst) :
    State × Elem :=
  let b := blockOfSquad q
  let hit : Option L1Line :=
    if ord = .ordinary ∧ canonical va ∧ va.toNat % n = 0 ∧ inWindow va = false then s.hitLine q va n else none
  match hit with
  | some line =>
    let l : Loc := ⟨line.pline * 128 + va.toNat % 128, n, va, true⟩
    if (s.squad q).mayHit l ∧ line.isBad (va.toNat % 128) n = false then
      (s.observe (.squad q) (line.sees b) l.addr n, .ok (.value d (loadValue n signed (line.read (va.toNat % 128) n))) (some 0))
    else (s, .ok (.load l signed d) (some 0))
  | none =>
    match s.access b .read va n with
    | (s1, .ok a c) => (s1, .ok (.load ⟨a, n, va, c⟩ signed d) (some (meterOf a)))
    | (s1, .bad c) => (s1, .bad c)
    | (s1, .absent w l e) => (s1, .absent w l e)
    | (s1, .corrupt a) => (s1, .corrupt a)

/-- Check an element store or read-modify-write. -/
def State.writeElem (s : State) (q : Nat) (va : BitVec 64) (n : Nat) (k : Loc → OutKind) : State × Elem :=
  match s.access (blockOfSquad q) .write va n with
  | (s1, .ok a c) => (s1, .ok (k ⟨a, n, va, c⟩) none)
  | (s1, .bad c) => (s1, .bad c)
  | (s1, .absent w l e) => (s1, .absent w l e)
  | (s1, .corrupt a) => (s1, .corrupt a)

/-- Page not present (15 R291; 16 R317): the report with WALK, level and entry address, and the fault swap. -/
def State.pageFault (s : State) (q : Nat) (va : BitVec 64) (walk : Bool) (level entry : Nat) : State :=
  (s.gangReport (gangOfSquad q) kindPageFetch 0x05 (blkidOfSquad q) (sqidOf q) va
    [if walk then 1 else 0, BitVec.ofNat 64 level, BitVec.ofNat 64 entry]).leave (gangOfSquad q) (.swap false)

end Sys2Proof.Machine
end

