-- ==== Sys2Proof/Machine/Scalar.lean ====
section
/-! DEFINITION. The scalar stream's own words (05): integer operations, constants, branches and jumps, the window slides of
CALL, CALLR and RET, the lane-stream controls, the mask moves, the control registers and FMT; NOP and UDF (02 R63, R64). -/

namespace Sys2Proof.Machine

/-- The word a scalar instruction was decoded from, as TVAL carries it (02 R61). -/
def scalarTval (i : Instr) : BitVec 64 := match encodeScalar i with | some w => w.setWidth 64 | none => 0

/-- An illegal scalar word traps (02 R61). -/
def State.illegal (t : State) (i : Instr) (tdst : BitVec 64) : Res := .next (t.trapS 0x01 (scalarTval i) tdst)

-- Integer operations (05 R119 to R121) ----------------------------------------------------------------------------

/-- A fixed-latency word writes v to sd. -/
def State.result (t : State) (m : BitVec 1) (d : BitVec 6) (v : BitVec 64) : Res :=
  .next (t.setSq ((t.sq.writeS d v).advance m))

/-- A variable-latency word leaves v outstanding for sd. -/
def State.resultLater (t : State) (m : BitVec 1) (d : BitVec 6) (v : BitVec 64) : Res := .next ((t.issueValue d v).done m)

def aluMulh (a b : BitVec 64) : BitVec 64 := BitVec.ofInt 64 (a.toInt * b.toInt / 2 ^ 64)
def aluMulhu (a b : BitVec 64) : BitVec 64 := BitVec.ofNat 64 (a.toNat * b.toNat / 2 ^ 64)
def aluDiv (a b : BitVec 64) : BitVec 64 := if b = 0 then -1 else BitVec.ofInt 64 (a.toInt.tdiv b.toInt)
def aluDivu (a b : BitVec 64) : BitVec 64 := if b = 0 then -1 else BitVec.ofNat 64 (a.toNat / b.toNat)
def aluRem (a b : BitVec 64) : BitVec 64 := if b = 0 then a else BitVec.ofInt 64 (a.toInt.tmod b.toInt)
def aluRemu (a b : BitVec 64) : BitVec 64 := if b = 0 then a else BitVec.ofNat 64 (a.toNat % b.toNat)
def aluShl (a b : BitVec 64) : BitVec 64 := a <<< (b.toNat % 64)
def aluShr (a b : BitVec 64) : BitVec 64 := a >>> (b.toNat % 64)
def aluSar (a b : BitVec 64) : BitVec 64 := a.sshiftRight (b.toNat % 64)
def aluSet (p : Bool) : BitVec 64 := if p then 1 else 0

/-- Leading zeros of the low n bits. -/
def clzNat (n : Nat) (v : Nat) : Nat := if v % 2 ^ n = 0 then n else n - 1 - Nat.log2 (v % 2 ^ n)
/-- Trailing zeros of n bits. -/
def ctzNat (n : Nat) (v : Nat) : Nat := match n with | 0 => 0 | k + 1 => if v % 2 = 1 then 0 else 1 + ctzNat k (v / 2)
/-- One bits of the low n bits. -/
def popcNat (n : Nat) (v : Nat) : Nat := match n with | 0 => 0 | k + 1 => v % 2 + popcNat k (v / 2)

/-- imm13 sign-extended (05 R120). -/
abbrev imm13 (i : BitVec 13) : BitVec 64 := i.signExtend 64

def execAdd (m : BitVec 1) (d a b : BitVec 6) (t : State) : Res := t.result m d (t.sq.readS a + t.sq.readS b)
def execSub (m : BitVec 1) (d a b : BitVec 6) (t : State) : Res := t.result m d (t.sq.readS a - t.sq.readS b)
def execMul (m : BitVec 1) (d a b : BitVec 6) (t : State) : Res := t.result m d (t.sq.readS a * t.sq.readS b)
def execMulh (m : BitVec 1) (d a b : BitVec 6) (t : State) : Res := t.result m d (aluMulh (t.sq.readS a) (t.sq.readS b))
def execMulhu (m : BitVec 1) (d a b : BitVec 6) (t : State) : Res := t.result m d (aluMulhu (t.sq.readS a) (t.sq.readS b))
def execDiv (m : BitVec 1) (d a b : BitVec 6) (t : State) : Res := t.resultLater m d (aluDiv (t.sq.readS a) (t.sq.readS b))
def execDivu (m : BitVec 1) (d a b : BitVec 6) (t : State) : Res := t.resultLater m d (aluDivu (t.sq.readS a) (t.sq.readS b))
def execRem (m : BitVec 1) (d a b : BitVec 6) (t : State) : Res := t.resultLater m d (aluRem (t.sq.readS a) (t.sq.readS b))
def execRemu (m : BitVec 1) (d a b : BitVec 6) (t : State) : Res := t.resultLater m d (aluRemu (t.sq.readS a) (t.sq.readS b))
def execAnd (m : BitVec 1) (d a b : BitVec 6) (t : State) : Res := t.result m d (t.sq.readS a &&& t.sq.readS b)
def execOr (m : BitVec 1) (d a b : BitVec 6) (t : State) : Res := t.result m d (t.sq.readS a ||| t.sq.readS b)
def execXor (m : BitVec 1) (d a b : BitVec 6) (t : State) : Res := t.result m d (t.sq.readS a ^^^ t.sq.readS b)
def execShl (m : BitVec 1) (d a b : BitVec 6) (t : State) : Res := t.result m d (aluShl (t.sq.readS a) (t.sq.readS b))
def execShr (m : BitVec 1) (d a b : BitVec 6) (t : State) : Res := t.result m d (aluShr (t.sq.readS a) (t.sq.readS b))
def execSar (m : BitVec 1) (d a b : BitVec 6) (t : State) : Res := t.result m d (aluSar (t.sq.readS a) (t.sq.readS b))

def aluMin (a b : BitVec 64) : BitVec 64 := if b.slt a then b else a
def aluMax (a b : BitVec 64) : BitVec 64 := if a.slt b then b else a
def aluMinu (a b : BitVec 64) : BitVec 64 := if b < a then b else a
def aluMaxu (a b : BitVec 64) : BitVec 64 := if a < b then b else a

def execMin (m : BitVec 1) (d a b : BitVec 6) (t : State) : Res := t.result m d (aluMin (t.sq.readS a) (t.sq.readS b))
def execMax (m : BitVec 1) (d a b : BitVec 6) (t : State) : Res := t.result m d (aluMax (t.sq.readS a) (t.sq.readS b))
def execMinu (m : BitVec 1) (d a b : BitVec 6) (t : State) : Res := t.result m d (aluMinu (t.sq.readS a) (t.sq.readS b))
def execMaxu (m : BitVec 1) (d a b : BitVec 6) (t : State) : Res := t.result m d (aluMaxu (t.sq.readS a) (t.sq.readS b))
def execSlt (m : BitVec 1) (d a b : BitVec 6) (t : State) : Res := t.result m d (aluSet ((t.sq.readS a).slt (t.sq.readS b)))
def execSltu (m : BitVec 1) (d a b : BitVec 6) (t : State) : Res := t.result m d (aluSet (t.sq.readS a < t.sq.readS b))
def execSeq (m : BitVec 1) (d a b : BitVec 6) (t : State) : Res := t.result m d (aluSet (t.sq.readS a = t.sq.readS b))
def execSne (m : BitVec 1) (d a b : BitVec 6) (t : State) : Res := t.result m d (aluSet (t.sq.readS a ≠ t.sq.readS b))
def execClz (m : BitVec 1) (d a : BitVec 6) (t : State) : Res := t.result m d (BitVec.ofNat 64 (clzNat 64 (t.sq.readS a).toNat))
def execCtz (m : BitVec 1) (d a : BitVec 6) (t : State) : Res := t.result m d (BitVec.ofNat 64 (ctzNat 64 (t.sq.readS a).toNat))
def execPopc (m : BitVec 1) (d a : BitVec 6) (t : State) : Res := t.result m d (BitVec.ofNat 64 (popcNat 64 (t.sq.readS a).toNat))
/-- LEA.k: sa + sb x 2^k. -/
def aluLea (k : Nat) (a b : BitVec 64) : BitVec 64 := a + (b <<< k)
def execLea0 (m : BitVec 1) (d a b : BitVec 6) (t : State) : Res := t.result m d (aluLea 0 (t.sq.readS a) (t.sq.readS b))
def execLea1 (m : BitVec 1) (d a b : BitVec 6) (t : State) : Res := t.result m d (aluLea 1 (t.sq.readS a) (t.sq.readS b))
def execLea2 (m : BitVec 1) (d a b : BitVec 6) (t : State) : Res := t.result m d (aluLea 2 (t.sq.readS a) (t.sq.readS b))
def execLea3 (m : BitVec 1) (d a b : BitVec 6) (t : State) : Res := t.result m d (aluLea 3 (t.sq.readS a) (t.sq.readS b))

def execAddi (m : BitVec 1) (d a : BitVec 6) (i : BitVec 13) (t : State) : Res := t.result m d (t.sq.readS a + imm13 i)
def execAndi (m : BitVec 1) (d a : BitVec 6) (i : BitVec 13) (t : State) : Res := t.result m d (t.sq.readS a &&& imm13 i)
def execOri (m : BitVec 1) (d a : BitVec 6) (i : BitVec 13) (t : State) : Res := t.result m d (t.sq.readS a ||| imm13 i)
def execXori (m : BitVec 1) (d a : BitVec 6) (i : BitVec 13) (t : State) : Res := t.result m d (t.sq.readS a ^^^ imm13 i)
def execShli (m : BitVec 1) (d a i : BitVec 6) (t : State) : Res := t.result m d (aluShl (t.sq.readS a) (i.setWidth 64))
def execShri (m : BitVec 1) (d a i : BitVec 6) (t : State) : Res := t.result m d (aluShr (t.sq.readS a) (i.setWidth 64))
def execSari (m : BitVec 1) (d a i : BitVec 6) (t : State) : Res := t.result m d (aluSar (t.sq.readS a) (i.setWidth 64))
def execSlti (m : BitVec 1) (d a : BitVec 6) (i : BitVec 13) (t : State) : Res := t.result m d (aluSet ((t.sq.readS a).slt (imm13 i)))
def execSltui (m : BitVec 1) (d a : BitVec 6) (i : BitVec 13) (t : State) : Res := t.result m d (aluSet (t.sq.readS a < imm13 i))
def execMuli (m : BitVec 1) (d a : BitVec 6) (i : BitVec 13) (t : State) : Res := t.result m d (t.sq.readS a * imm13 i)

def execLis (m : BitVec 1) (d : BitVec 6) (i : BitVec 19) (t : State) : Res := t.result m d (i.signExtend 64)
def execLui (m : BitVec 1) (d : BitVec 6) (i : BitVec 19) (t : State) : Res := t.result m d (i.signExtend 64 <<< 13)
def execPcrel (m : BitVec 1) (d : BitVec 6) (i : BitVec 19) (t : State) : Res := t.result m d (t.sq.pc + (i.signExtend 64 <<< 13))

-- Branches and jumps (05 R123, R124) --------------------------------------------------------------------------------

/-- The scalar word goes to an address; S parks the squad. -/
def Squad.goto (x : Squad) (m : BitVec 1) (pc : BitVec 64) : Squad :=
  let y := { x with pc := pc, latch := none }
  if m = 1 then y.park else y

/-- Address of a target that counts words from the branch itself (02 R38). -/
def Squad.rel {n : Nat} (x : Squad) (o : BitVec n) : BitVec 64 := x.pc + (o.signExtend 64 <<< 2)

def State.branch (t : State) (m : BitVec 1) (taken : Bool) (o : BitVec 15) : Res :=
  .next (t.setSq (if taken then t.sq.goto m (t.sq.rel o) else t.sq.advance m))

def execBEqz (m : BitVec 1) (a : BitVec 6) (o : BitVec 15) (t : State) : Res := t.branch m (t.sq.readS a = 0) o
def execBNez (m : BitVec 1) (a : BitVec 6) (o : BitVec 15) (t : State) : Res := t.branch m (t.sq.readS a ≠ 0) o
def execBLtz (m : BitVec 1) (a : BitVec 6) (o : BitVec 15) (t : State) : Res := t.branch m ((t.sq.readS a).slt 0) o
def execBGez (m : BitVec 1) (a : BitVec 6) (o : BitVec 15) (t : State) : Res := t.branch m (!(t.sq.readS a).slt 0) o
def execBGtz (m : BitVec 1) (a : BitVec 6) (o : BitVec 15) (t : State) : Res := t.branch m ((0#64).slt (t.sq.readS a)) o
def execBLez (m : BitVec 1) (a : BitVec 6) (o : BitVec 15) (t : State) : Res := t.branch m (!(0#64).slt (t.sq.readS a)) o
def execBMany (m : BitVec 1) (k : BitVec 4) (o : BitVec 15) (t : State) : Res := t.branch m (t.sq.readM k ≠ 0) o
def execBMnone (m : BitVec 1) (k : BitVec 4) (o : BitVec 15) (t : State) : Res := t.branch m (t.sq.readM k = 0) o
def execBMall (m : BitVec 1) (k : BitVec 4) (o : BitVec 15) (t : State) : Res := t.branch m (t.sq.readM k = 0xFFFFFFFF) o
def execJmp (m : BitVec 1) (o : BitVec 25) (t : State) : Res := .next (t.setSq (t.sq.goto m (t.sq.rel o)))

/-- A PC is a multiple of 4 (02 R33). -/
abbrev misaligned4 (a : BitVec 64) : Bool := slice a 0 2 ≠ 0

def execJr (m : BitVec 1) (a : BitVec 6) (i : BitVec 13) (t : State) : Res :=
  let tgt := t.sq.readS a + imm13 i
  if misaligned4 tgt then .next (t.trapS 0x04 tgt tdstNone) else .next (t.setSq (t.sq.goto m tgt))

-- Window slides (05 R111 to R118) -----------------------------------------------------------------------------------

def Squad.zeroV (x : Squad) (n : Nat) : Squad := { x with vregs := cellClear x.vregs (x.vsegCell n) 2048 }
def Squad.zeroS (x : Squad) (n : Nat) : Squad := { x with sregs := cellClear x.sregs (ssegCell n) 16 }

/-- lo, lo + 1, .. hi - 1. -/
def upto (lo hi : Nat) : List Nat := (List.range (hi - lo)).map (lo + ·)

/-- The slide of CALL and CALLR once its checks have passed and its wait is over (05 R116). -/
def Squad.slideUp (x : Squad) (k j : Nat) : Squad :=
  let top := x.swb + 2
  let swb := x.swb + j
  let vwb := x.vwb + k
  let rlo := if 7 < swb + 3 - x.rlo then swb + 3 - 7 else x.rlo
  let x3 := { x with swb := swb, vwb := vwb, rlo := rlo }
  let x4 := (upto (max (top + 1) swb) (swb + 3)).foldl Squad.zeroS x3
  (upto (vwb + x.vws / 64 - k) (vwb + x.vws / 64)).foldl Squad.zeroV x4

/-- The segments that this slide spills to the squad's area, vector segments first. -/
def State.spillUp (s : State) (q k j : Nat) : State :=
  let x := s.squad q
  let s1 := (upto x.vwb (x.vwb + k)).foldl (fun t n => t.spillV q n) s
  (upto x.rlo (x.slideUp k j).rlo).foldl (fun t n => t.spillS q n) s1

/-- The link word (05 R117). -/
def linkWord (k j : Nat) (pc : BitVec 64) : BitVec 64 := BitVec.ofNat 64 (k * 2 ^ 59 + j * 2 ^ 57 + (pc + 4).toNat % 2 ^ 57)

/-- CALL and CALLR to a target (05 R116): the checks, the wait, the end of the region, the slide, s15 and PC. -/
def State.call (t : State) (m : BitVec 1) (v : BitVec 5) (w : BitVec 2) (srcs : List (BitVec 6))
    (target : List (BitVec 64) → BitVec 64) : Res :=
  let x := t.sq
  let k := v.toNat
  let j := w.toNat
  let now := match x.latch with | some l => l | none => srcs.map x.readS
  let job := t.job (t.jobOf t.actor)
  let link := tdstScalar 15
  if misaligned4 (target now) then .next (t.trapS 0x04 (target now) link)
  else if x.vws < 64 * k then .next (t.trapS 0x02 (BitVec.ofNat 64 (64 * k)) link)
  else if job.vseg < x.vwb + k then .next (t.trapS 0x14 (BitVec.ofNat 64 (0x0200000000000000 + (x.vwb + k))) link)
  else if job.sseg < x.swb + j then .next (t.trapS 0x14 (BitVec.ofNat 64 (0x0100000000000000 + (x.swb + j))) link)
  else
    let go := fun (vs : List (BitVec 64)) (u : State) =>
      let w := u.spillUp u.actor k j
      let y := w.sq
      let z := (y.endRegion.slideUp k j).writeS 15 (linkWord k j y.pc)
      Host.Outcome.next (w.setSq (z.goto m (target vs)))
    if 0 < k ∨ 7 < x.swb + j + 3 - x.rlo then t.drained srcs go else t.endingRegion srcs go

def execCall (m : BitVec 1) (v : BitVec 5) (w : BitVec 2) (o : BitVec 18) (t : State) : Res :=
  t.call m v w [] (fun _ => t.sq.rel o)
def execCallr (m : BitVec 1) (v : BitVec 5) (w : BitVec 2) (a : BitVec 6) (t : State) : Res :=
  t.call m v w [a] (fun vs => argAt vs 0)

/-- The slide of RET (05 R118). -/
def Squad.slideDown (x : Squad) (k j : Nat) : Squad :=
  { x with vwb := x.vwb - k, swb := x.swb - j, rlo := min x.rlo (x.swb - j) }

/-- The segments that this slide fills from the squad's area, vector segments first. -/
def State.fillDown (s : State) (q k j : Nat) : State :=
  let x := s.squad q
  let s1 := (upto (x.vwb - k) x.vwb).foldl (fun t n => t.fillV q n) s
  (upto (x.swb - j) x.rlo).foldl (fun t n => t.fillS q n) s1

/-- The first of those segments that meets uncorrectable data (16 R311). -/
def State.fillBad (s : State) (q k j : Nat) : Option Nat :=
  let x := s.squad q
  match (upto (x.vwb - k) x.vwb).findSome? (fun n => s.badUnit (s.vectorSpill q n) 8192) with
  | some a => some a
  | none => (upto (x.swb - j) x.rlo).findSome? (fun n => s.badUnit (s.scalarSpill q n) 128)

/-- RET (R118). A fill that meets uncorrectable data is a late fault of the RET (16 R311): VWB, SWB and RLO then stand as they did
before it, which the spec does not say (log 48, DESIGN CHOICE). -/
def execRet (m : BitVec 1) (t : State) : Res :=
  let x := t.sq
  let link := match x.latch with | some l => argAt l 0 | none => x.readS 15
  let k := (slice link 59 5).toNat
  let j := (slice link 57 2).toNat
  if x.vwb < k ∨ x.swb < j ∨ x.vws < 64 * k then
    .next (t.trapS 0x14 (BitVec.ofNat 64 (0x0300000000000000 + (slice link 57 7).toNat)) tdstNone)
  else
    let tgt : BitVec 64 := (slice link 2 55 ++ 0#2).signExtend 64
    let go := fun (_ : List (BitVec 64)) (u : State) =>
      match u.fillBad u.actor k j with
      | some a => Host.Outcome.next (u.lateScalar tdstNone a)
      | none =>
        let w := u.fillDown u.actor k j
        Host.Outcome.next (w.setSq ((w.sq.endRegion.slideDown k j).goto m tgt))
    if 0 < k ∨ x.swb - j < x.rlo then t.drained [15] go else t.waitRegion [x.readS 15] go

-- Lane-stream control (05 R125) -------------------------------------------------------------------------------------

def execLane (m : BitVec 1) (n : BitVec 19) (t : State) : Res :=
  .next (t.setSq ({ t.sq with latch := none }.enqueueLanes n.toNat (m = 1)))
def execLjmp (m : BitVec 1) (o : BitVec 25) (t : State) : Res :=
  .next (t.setSq ({ t.sq with lpc := t.sq.lpc + 12 * o.signExtend 64 }.advance m))
def execLjr (m : BitVec 1) (a : BitVec 6) (i : BitVec 13) (t : State) : Res :=
  let tgt := t.sq.readS a + imm13 i
  if misaligned4 tgt then .next (t.trapS 0x04 tgt tdstNone) else .next (t.setSq ({ t.sq with lpc := tgt }.advance m))
def execLpcr (m : BitVec 1) (d : BitVec 6) (t : State) : Res := t.result m d t.sq.lpc

-- Masks and FMT (05 R127, R130) ------------------------------------------------------------------------------------

def execMset (m : BitVec 1) (n : BitVec 4) (a : BitVec 6) (t : State) : Res :=
  .next (t.setSq ((t.sq.writeM n (slice (t.sq.readS a) 0 32)).advance m))
def execMget (m : BitVec 1) (d : BitVec 6) (n : BitVec 4) (t : State) : Res := t.result m d ((t.sq.readM n).setWidth 64)
def execSetf (m : BitVec 1) (a b : BitVec 6) (t : State) : Res :=
  let x := t.sq
  let v := slice (x.readS a) 0 14
  let k := slice (x.readS b) 0 14
  .next (t.setSq ({ x with fmt := (x.fmt &&& ~~~k) ||| (v &&& k) }.advance m))
def execGetf (m : BitVec 1) (d : BitVec 6) (t : State) : Res := t.result m d (t.sq.fmt.setWidth 64)

-- Control registers (05 R128, R129) --------------------------------------------------------------------------------

/-- CHFREE of the selected channel (13 Table 13-4); all zeros when the plan does not declare it. -/
def Channel.free (c : Channel) : BitVec 64 :=
  if c.posts = 0 then 0
  else BitVec.ofNat 64 ((if c.ordered then 2 ^ 41 else 0) + (c.posts - c.queue.length) * 2 ^ 32 + c.rsv * 2 ^ 16 +
    (c.rsv - c.used))

/-- WSREF (09 Table 9-3). BUSY is 1 whenever POS lies in its bank's window, so it reads 1 at POS 0 after reset, where the table's reset column
has 0: its effect is taken before that (log 28, DESIGN CHOICE). -/
def wsref (f : Field) (pos : Nat) : BitVec 64 :=
  BitVec.ofNat 64 (f.wssize * 2 ^ 40 + f.wsbase * 2 ^ 32 + (if pos % 400 < 200 then 2 ^ 17 else 0) + pos / 400 * 2 ^ 13 + pos)

/-- Ticks the refresh counter shows past its last window edge: between two edges a free value that never goes back (09 R194). -/
def State.refreshFine (t : State) (d : Nat) : Nat := max (t.dev d).fine (Config.refreshTicks t.clock % 200)

/-- The value of a control register (05 Table 5-8); none for a number that is not listed. -/
def State.control (t : State) (n : BitVec 12) : Option (BitVec 64) :=
  let x := t.sq
  let g := t.gangOf t.actor
  let c := t.coreNo (blockOfSquad t.actor)
  let nat := fun (v : Nat) => some (BitVec.ofNat 64 v)
  match n.toNat with
  | 0x000 => some (t.dev (t.devOf t.actor)).phase
  | 0x001 => some (t.job (t.jobOf t.actor)).jstep
  | 0x002 => nat (sqidOf t.actor)
  | 0x003 => nat (blkidOfSquad t.actor)
  | 0x004 => nat g.gangid
  | 0x005 => nat c
  | 0x006 => nat (c / 4)
  | 0x007 => nat (retNo g.ret)
  | 0x008 => nat (devOfRet g.ret)
  | 0x009 => nat g.job
  | 0x00A => some (g.desc.asid.setWidth 64)
  | 0x010 => nat x.swb
  | 0x011 => nat x.vwb
  | 0x012 => nat x.vws
  | 0x013 => nat ((t.job (t.jobOf t.actor)).vseg * 2 ^ 32 + (t.job (t.jobOf t.actor)).sseg)
  | 0x014 => some (x.lcnt.setWidth 64)
  | 0x015 => some (x.fflags.setWidth 64)
  | 0x016 => some (wsref (t.field (t.fieldOf t.actor)) ((t.dev (t.devOf t.actor)).pos.toNat + t.refreshFine (t.devOf t.actor)))
  | 0x020 => some (x.chsel.setWidth 64)
  | 0x021 => some (tabGet (t.field (t.fieldOf t.actor)).chans x.chsel.toNat {}).free
  | 0x030 => some x.trap.tcause
  | 0x031 => some x.trap.tpc
  | 0x032 => some x.trap.tlpc
  | 0x033 => some (x.trap.tlm.setWidth 64)
  | 0x034 => some x.trap.tval
  | 0x035 => some x.trap.tdst
  | 0x036 => some x.trap.thandler
  | 0x038 => some x.trap.tsave0
  | 0x039 => some x.trap.tsave1
  | 0x03A => some x.trap.tsave2
  | 0x03B => some x.trap.tsave3
  | _ => none

/-- Write the bits of a mask. -/
def mergeBits (old new mask : BitVec 64) : BitVec 64 := (old &&& ~~~mask) ||| (new &&& mask)

/-- SETX writes the RW fields (05 R128); none for a register that has none. -/
def Squad.setControl (x : Squad) (n : BitVec 12) (v : BitVec 64) : Option Squad :=
  match n.toNat with
  | 0x015 => some { x with fflags := slice v 0 6 }
  | 0x020 => some { x with chsel := slice v 0 8 }
  | 0x030 => some { x with trap := { x.trap with tcause := mergeBits x.trap.tcause v 0xE0FF } }
  | 0x031 => some { x with trap := { x.trap with tpc := v } }
  | 0x032 => some { x with trap := { x.trap with tlpc := v } }
  | 0x033 => some { x with trap := { x.trap with tlm := slice v 0 32 } }
  | 0x034 => some { x with trap := { x.trap with tval := v } }
  | 0x035 => some { x with trap := { x.trap with tdst := mergeBits x.trap.tdst v 0x3FFF } }
  | 0x036 => some { x with trap := { x.trap with thandler := mergeBits x.trap.thandler v 0xFFFFFFFFFFFFFFFC } }
  | 0x038 => some { x with trap := { x.trap with tsave0 := v } }
  | 0x039 => some { x with trap := { x.trap with tsave1 := v } }
  | 0x03A => some { x with trap := { x.trap with tsave2 := v } }
  | 0x03B => some { x with trap := { x.trap with tsave3 := v } }
  | _ => none

/-- A read of WSREF is remembered, so that the next one shows no earlier tick. -/
def State.noteRead (t : State) (n : BitVec 12) : State :=
  if n = 0x016 then
    let d := t.devOf t.actor
    t.setDev d { t.dev d with fine := t.refreshFine d }
  else t

def execGetx (m : BitVec 1) (d : BitVec 6) (n : BitVec 12) (t : State) : Res :=
  match t.control n with
  | some v => (t.noteRead n).result m d v
  | none => t.illegal (.getx m d n) (tdstScalar d)

def execSetx (m : BitVec 1) (a : BitVec 6) (n : BitVec 12) (t : State) : Res :=
  match t.sq.setControl n (t.sq.readS a) with
  | some y => .next (t.setSq (y.advance m))
  | none => t.illegal (.setx m a n) tdstNone

-- NOP and UDF (02 R63, R64) -----------------------------------------------------------------------------------------

def execNop (m : BitVec 1) (t : State) : Res := .next (t.done m)
def execUdf (n : BitVec 25) (t : State) : Res := t.illegal (.udf n) tdstNone
def execLaneUdf (n : BitVec 32) (t : State) : Res :=
  .next (t.trapL 0 0x01 0 (badLaneTval (0xFF#8 ++ 0#56 ++ n)) tdstNone)

end Sys2Proof.Machine
end

