-- ==== Sys2Proof/Machine/Memory.lean ====
section
/-! DEFINITION. Scalar and lane memory instructions (09 R199 to R206), FENCE (10 R217). -/

namespace Sys2Proof.Machine

-- Scalar memory (09 R199, R200) -----------------------------------------------------------------------------------

/-- Width in bytes of an SM word. -/
abbrev smBytes (w : BitVec 2) : Nat := 2 ^ w.toNat

/-- One checked element of the acting squad's scalar word: the result it leaves outstanding, its trap, or the fault swap. -/
def State.finishElemS (m : BitVec 1) (ord : AccOrd) (scope : Nat) (va tdst : BitVec 64) (r : State × Elem) : Res :=
  match r with
  | (t, .ok k meter) => .next ((t.issue ord scope 0 [(k, meter)] tdst).done m)
  | (t, .bad c) => .next (t.trapS c va tdst)
  | (t, .absent w l e) => .next (t.pageFault t.actor va w l e)
  | (t, .corrupt a) => .next (t.lateScalar tdst a)

def State.scalarLoad (t : State) (m : BitVec 1) (ord : AccOrd) (scope : Nat) (d : BitVec 6) (va : BitVec 64) (n : Nat) : Res :=
  State.finishElemS m ord scope va (tdstScalar d) (t.loadElem t.actor ord va n false (t.sq.dstS d))

def State.scalarStore (t : State) (m : BitVec 1) (ord : AccOrd) (scope : Nat) (d : BitVec 6) (va : BitVec 64) (n : Nat) : Res :=
  State.finishElemS m ord scope va tdstNone (t.writeElem t.actor va n (fun l => .store l (t.sq.readS d)))

/-- sa + sext(imm) x width. -/
def Squad.smAddr {k : Nat} (x : Squad) (a : BitVec 6) (w : BitVec 2) (i : BitVec k) : BitVec 64 :=
  x.readS a + (i.signExtend 64 <<< w.toNat)

def execLds (m : BitVec 1) (d a : BitVec 6) (w : BitVec 2) (i : BitVec 11) (t : State) : Res :=
  t.scalarLoad m .ordinary 0 d (t.sq.smAddr a w i) (smBytes w)
def execSts (m : BitVec 1) (d a : BitVec 6) (w : BitVec 2) (i : BitVec 11) (t : State) : Res :=
  t.scalarStore m .ordinary 0 d (t.sq.smAddr a w i) (smBytes w)
def execLdsa (m : BitVec 1) (d a : BitVec 6) (w : BitVec 2) (p : BitVec 3) (i : BitVec 8) (t : State) : Res :=
  t.scalarLoad m .acquire p.toNat d (t.sq.smAddr a w i) (smBytes w)
def execStsl (m : BitVec 1) (d a : BitVec 6) (w : BitVec 2) (p : BitVec 3) (i : BitVec 8) (t : State) : Res :=
  t.scalarStore m .release p.toNat d (t.sq.smAddr a w i) (smBytes w)

/-- The region ends with an element access that passes its checks (16 R312). -/
def endsOnOk (r : State × Elem) : State × Elem :=
  match r with
  | (t, .ok k meter) => (t.regionEnds, .ok k meter)
  | (t, e) => (t, e)

/-- ATOMS (09 R200): sa the address, sb the operand, sc the comparand and the destination; relaxed strong. It ends an
open region (16 R312), and waits first (R313). -/
def State.atoms (t : State) (m : BitVec 1) (op n : Nat) (a b c : BitVec 6) : Res :=
  t.waitRegion ([a, b, c].map t.sq.readS) (fun vs u =>
    State.finishElemS m .relaxed 6 (argAt vs 0) (tdstScalar c)
      (endsOnOk (u.writeElem u.actor (argAt vs 0) n (fun l => .rmw l op (argAt vs 1) (argAt vs 2) (u.sq.dstS c)))))

/-- Bytes of the width bit of ATOMS: word or double. -/
abbrev atomsBytes (w : BitVec 1) : Nat := if w = 0 then 4 else 8

def execAtomsAdd (m : BitVec 1) (a b c : BitVec 6) (w : BitVec 1) (t : State) : Res := t.atoms m 0 (atomsBytes w) a b c
def execAtomsMin (m : BitVec 1) (a b c : BitVec 6) (w : BitVec 1) (t : State) : Res := t.atoms m 1 (atomsBytes w) a b c
def execAtomsMax (m : BitVec 1) (a b c : BitVec 6) (w : BitVec 1) (t : State) : Res := t.atoms m 2 (atomsBytes w) a b c
def execAtomsAnd (m : BitVec 1) (a b c : BitVec 6) (w : BitVec 1) (t : State) : Res := t.atoms m 3 (atomsBytes w) a b c
def execAtomsOr (m : BitVec 1) (a b c : BitVec 6) (w : BitVec 1) (t : State) : Res := t.atoms m 4 (atomsBytes w) a b c
def execAtomsXor (m : BitVec 1) (a b c : BitVec 6) (w : BitVec 1) (t : State) : Res := t.atoms m 5 (atomsBytes w) a b c
def execAtomsExch (m : BitVec 1) (a b c : BitVec 6) (w : BitVec 1) (t : State) : Res := t.atoms m 6 (atomsBytes w) a b c
def execAtomsCas (m : BitVec 1) (a b c : BitVec 6) (w : BitVec 1) (t : State) : Res := t.atoms m 7 (atomsBytes w) a b c
def execAtomsFadd (m : BitVec 1) (a b c : BitVec 6) (t : State) : Res := t.atoms m 8 4 a b c
def execAtomsFamax (m : BitVec 1) (a b c : BitVec 6) (t : State) : Res := t.atoms m 9 4 a b c

-- Lane memory (09 R201 to R206) -----------------------------------------------------------------------------------

/-- Bytes and sign extension of a width code (Table 2-5). -/
def widthBytes (e : Nat) : Nat := match e with | 1 | 5 => 1 | 2 | 6 => 2 | 4 => 8 | _ => 4
abbrev widthSigned (e : Nat) : Bool := e = 5 || e = 6

/-- Order of an ORD code, and the scope its SCOPE code names (09 R201). -/
def ordOf (o : BitVec 3) : AccOrd :=
  match o.toNat with | 1 => .relaxed | 2 => .acquire | 3 => .release | 4 => .acqrel | _ => .ordinary
def scopeOf (p : BitVec 3) : Nat := if p = 0 then 1 else p.toNat

/-- Order of a lane memory word: every ATOM is strong (10 R207). -/
def laneOrd (op : LaneOp) (f : LaneForm) : AccOrd :=
  match ordOf f.mod.ord with
  | .ordinary => if 0x120 ≤ op ∧ op < 0x130 then .relaxed else .ordinary
  | o => o

/-- Address of lane l, by the word's form (09 R201): per-lane, strided, gather. -/
def Squad.laneAddr (x : Squad) (op : LaneOp) (f : LaneForm) (l : Nat) : BitVec 64 :=
  let d := f.mod.arg.signExtend 64
  match op % 16 with
  | 1 => if op < 0x120 then x.readS f.va.sreg + BitVec.ofNat 64 l * x.readS f.vb.sreg + d else x.opnd f.va l true + d
  | 2 =>
    if op < 0x120 then x.readS f.va.sreg + (x.readV f.vb.vreg l).signExtend 64 + d else x.opnd f.va l true + d
  | _ => x.opnd f.va l true + d

/-- A failing lane; one whose walk reads uncorrectable data has cause 0x12 and the machine address as its entry. -/
structure LaneFail where
  lane : Nat
  va : BitVec 64
  cause : BitVec 8
  walk : Bool
  level : Nat
  entry : Nat
  deriving DecidableEq, Repr, Inhabited

/-- Check the elements of a lane word in order (09 R202), collecting what they leave outstanding and the failing lanes. -/
def State.checkElems (t : State) (es : List (Nat × BitVec 64 × (State → State × Elem))) (ks : List (Nat × OutKind × Option Nat))
    (fs : List LaneFail) : State × List (Nat × OutKind × Option Nat) × List LaneFail :=
  match es with
  | [] => (t, ks, fs)
  | (l, va, g) :: rest =>
    match g t with
    | (u, .ok k meter) => u.checkElems rest (ks ++ [(l, k, meter)]) fs
    | (u, .bad c) => u.checkElems rest ks (fs ++ [⟨l, va, c, false, 0, 0⟩])
    | (u, .absent w lv e) => u.checkElems rest ks (fs ++ [⟨l, va, 0x05, w, lv, e⟩])
    | (u, .corrupt a) => u.checkElems rest ks (fs ++ [⟨l, va, 0x12, false, 0, a⟩])

/-- Lanes of a list of failures. -/
def failMask (fs : List LaneFail) : BitVec 32 := fs.foldl (fun a f => a ||| BitVec.ofNat 32 (2 ^ f.lane)) 0

/-- A partial fault (09 R206): the handler's trap by the lowest failing lane whose cause is not 0x05, or the fault swap,
after which the word runs again for the failing lanes; a lane whose walk met uncorrectable data makes it a late fault. Of an LDW's
lane whose registers fail differently the first that fails with a cause other than 0x05 gives cause and address (09 R204 does not say;
log 11, DESIGN CHOICE). -/
def State.partialFault (t : State) (mk : BitVec 4) (tdst : BitVec 64) (fs : List LaneFail) : State :=
  match fs.find? (fun f => f.cause ≠ 0x05) with
  | some f =>
    match fs.find? (fun f => f.cause = 0x12) with
    | some c => t.lateLane (failMask (fs.filter (fun f => f.cause = 0x12))) tdst c.entry
    | none => t.trapL mk f.cause (failMask fs) f.va tdst
  | none =>
    match fs with
    | [] => t
    | f :: _ =>
      let x := t.sq
      (t.setSq { x with replay := some ⟨failMask fs, x.wm mk⟩ }).pageFault t.actor f.va f.walk f.level f.entry

/-- A lane memory word over its elements, in ascending lane order, after the checks of its registers; a lane that fails in one
element has none of its elements performed (09 R202, R204). ends: the word ends an open region, unless it performs nothing: all its
lanes fail, or one meets the late fault that discards what the word has outstanding (16 R312, R314). -/
def State.laneMemory (t : State) (op : LaneOp) (f : LaneForm) (e : Nat) (ends : Bool)
    (es : List (Nat × BitVec 64 × (State → State × Elem))) : Res :=
  match t.checkElems es [] [] with
  | (u, ks, fs) =>
    let pass := ks.filter (fun k => !(fs.any (fun x => x.lane = k.1)))
    let acts := fs = [] ∨ (pass ≠ [] ∧ fs.all (fun x => decide (x.cause ≠ 0x12)))
    let u1 := if ends ∧ acts then u.regionEnds else u
    let w := u1.issue (laneOrd op f) (scopeOf f.mod.scope) 0 (pass.map (·.2)) (laneTdst op f e)
    if fs = [] then .next (w.setSq (w.sq.laneAdvance (f.s = 1)))
    else .next (w.partialFault f.m (laneTdst op f e) fs)

/-- Active lanes, ascending. -/
def activeLanes (act : BitVec 32) : List Nat := lanes32.filter (fun l => bitAt act l)

def State.laneLoad (t : State) (op : LaneOp) (f : LaneForm) : Res :=
  t.laneIssue op f (fun x e =>
    t.laneMemory op f e false ((activeLanes (x.active f.m)).map (fun l =>
      let va := x.laneAddr op f l
      (l, va, fun u => u.loadElem u.actor (ordOf f.mod.ord) va (widthBytes e) (widthSigned e) (x.dstV f.vd.vreg l (e = 4))))))

def State.laneStore (t : State) (op : LaneOp) (f : LaneForm) : Res :=
  t.laneIssue op f (fun x e =>
    t.laneMemory op f e false ((activeLanes (x.active f.m)).map (fun l =>
      let va := x.laneAddr op f l
      (l, va, fun u => u.writeElem u.actor va (widthBytes e) (fun loc => .store loc (x.opnd f.vc l (e = 4)))))))

/-- ATOM (09 R203); it ends an open region, and waits first (16 R312, R313), with the addresses, comparands and operands of its
lanes as they stood at its enqueue (02 R49). -/
def State.laneAtom (t : State) (op : LaneOp) (f : LaneForm) : Res :=
  t.laneIssue op f (fun x0 e =>
    let ls := activeLanes (x0.active f.m)
    t.waitRegion (ls.flatMap (fun l => [x0.laneAddr op f l, x0.opnd f.vc l (e = 4), x0.opnd f.vb l (e = 4)])) (fun vs u0 =>
      u0.laneMemory op f e true (((List.range ls.length).zip ls).map (fun l =>
        let va := argAt vs (3 * l.1)
        (l.2, va, fun u => u.writeElem u.actor va (widthBytes e)
          (fun loc => .rmw loc (op % 16) (argAt vs (3 * l.1 + 1)) (argAt vs (3 * l.1 + 2)) (u0.sq.dstV f.vd.vreg l.2 (e = 4))))))))

def execLd (f : LaneForm) (t : State) : Res := t.laneLoad 0x100 f
def execLdst (f : LaneForm) (t : State) : Res := t.laneLoad 0x101 f
def execLdg (f : LaneForm) (t : State) : Res := t.laneLoad 0x102 f

/-- LDW (09 R204): k registers, each lane of each a word. -/
def execLdw (f : LaneForm) (t : State) : Res :=
  t.laneIssue 0x103 f (fun x e =>
    let k := f.mod.arg.toNat / 4096 + 1
    let base := x.readS f.va.sreg + ((slice f.mod.arg 0 12).signExtend 64 <<< 7)
    t.laneMemory 0x103 f e false ((activeLanes (x.active f.m)).flatMap (fun l => (List.range k).map (fun j =>
      let va := base + BitVec.ofNat 64 (128 * j + 4 * l)
      (l, va, fun u => u.loadElem u.actor .ordinary va 4 false (x.dstV (f.vd.vreg + j) l false))))))

def execSt (f : LaneForm) (t : State) : Res := t.laneStore 0x110 f
def execStst (f : LaneForm) (t : State) : Res := t.laneStore 0x111 f
def execStg (f : LaneForm) (t : State) : Res := t.laneStore 0x112 f

def execAtomAdd (f : LaneForm) (t : State) : Res := t.laneAtom 0x120 f
def execAtomMin (f : LaneForm) (t : State) : Res := t.laneAtom 0x121 f
def execAtomMax (f : LaneForm) (t : State) : Res := t.laneAtom 0x122 f
def execAtomAnd (f : LaneForm) (t : State) : Res := t.laneAtom 0x123 f
def execAtomOr (f : LaneForm) (t : State) : Res := t.laneAtom 0x124 f
def execAtomXor (f : LaneForm) (t : State) : Res := t.laneAtom 0x125 f
def execAtomExch (f : LaneForm) (t : State) : Res := t.laneAtom 0x126 f
def execAtomCas (f : LaneForm) (t : State) : Res := t.laneAtom 0x127 f
def execAtomFadd (f : LaneForm) (t : State) : Res := t.laneAtom 0x128 f
def execAtomFamax (f : LaneForm) (t : State) : Res := t.laneAtom 0x129 f

/-- Bring the line of one prefetched address in; a lane that fails a check is dropped. Neither memory nor a register changes, the
A bit of a leaf included (09 R205). -/
def State.prefetch (t : State) (va : BitVec 64) (n : Nat) : State :=
  let b := blockOfSquad t.actor
  if inWindow va then t
  else match (t.access b .read va n).2 with
    | .ok a c => if (t.block b).line? va = none then t.fillL1 b ⟨a, n, va, c⟩ else t
    | _ => t

def execPref (f : LaneForm) (t : State) : Res :=
  t.laneIssue 0x130 f (fun x e =>
    let u := (activeLanes (x.active f.m)).foldl (fun s l => s.prefetch (x.laneAddr 0x130 f l) (widthBytes e)) t
    .next (u.setSq (u.sq.laneAdvance (f.s = 1))))

-- FENCE (10 R217) ---------------------------------------------------------------------------------------------------

/-- FENCE waits until no result of the squad is outstanding. An acquire takes what the squad's relaxed reads have read from
releases (R214), and at .gang or wider invalidates the block's L1; an acquire-release enters the fence order (R218); a release
makes the squad's strong writes after it releases (R214). -/
def execFence (_m : BitVec 1) (p o : BitVec 3) (t : State) : Res :=
  t.drained [] (fun _ u =>
    let q := u.actor
    let v := if o = 2 ∨ o = 4 then u.fenceAcquire q p.toNat else u
    let w := if o = 4 then v.fenceOrder q p.toNat else v
    let x := if o = 3 ∨ o = 4 then w.fenceRelease q p.toNat else w
    .next ((if (o = 2 ∨ o = 4) ∧ 3 ≤ p.toNat then x.dropL1 (blockOfSquad q) else x).done 1))

end Sys2Proof.Machine
end

