-- ==== Sys2Proof/Machine/Lanes.lean ====
section
/-! DEFINITION. Lane majors 0x01 to 0x08: integer, logic, compare, floating-point, long, conversion and cross-lane words
(07), and the mask and vote words of major 0x09 (08 R169, R170). -/

namespace Sys2Proof.Machine

-- Shared --------------------------------------------------------------------------------------------------------------

/-- Results of the active lanes; an inactive lane computes nothing. -/
def activeRes (act : BitVec 32) (g : Nat → LaneRes) : List LaneRes := lanes32.map (fun l => if bitAt act l then g l else {})

/-- An elementwise fixed-latency word (07 R151). -/
def State.laneWord (t : State) (op : LaneOp) (f : LaneForm) (g : Squad → Nat → Nat → LaneRes) : Res :=
  t.laneIssue op f (fun x e => .next (t.laneFinish op f e false (activeRes (x.active f.m) (g x e))))

/-- A compare (07 R156). -/
def State.laneCompare (t : State) (op : LaneOp) (f : LaneForm) (g : Squad → Nat → Nat → LaneRes) : Res :=
  t.laneIssue op f (fun x e => .next (t.maskFinish op f e (activeRes (x.active f.m) (g x e))))

/-- A long word (07 R160): its lanes are outstanding results and its flags come with the last; while a TE bit is 1 it is
decided at once (06 R143). -/
def State.laneLong (t : State) (op : LaneOp) (f : LaneForm) (g : Squad → Nat → Nat → LaneRes) : Res :=
  t.laneIssue op f (fun x e =>
    let act := x.active f.m
    let res := activeRes act (g x e)
    if fmtTE x.fmt ≠ 0 then .next (t.laneFinish op f e false res)
    else
      let ks := (activeLanes act).map (fun l => (OutKind.value (x.dstV f.vd.vreg l false) (listAt res l {}).v, (none : Option Nat)))
      let u := t.issue .ordinary 0 (orFlags act res) ks
      .next (u.setSq (u.sq.laneAdvance (f.s = 1))))

/-- A word that raises its flags over the whole squad (07 R152): every active lane carries them all. -/
def State.laneWhole (t : State) (op : LaneOp) (f : LaneForm) (e : Nat) (res : List LaneRes) (fl : BitVec 6) : State :=
  t.laneFinish op f e true (res.map (fun r => { r with flags := fl }))

-- Integer arithmetic, major 0x01 (07 R154) --------------------------------------------------------------------------

/-- Operands of lane l as integers of format e. -/
def Squad.intA (x : Squad) (f : LaneForm) (e l : Nat) : Int := intRead e (x.opnd f.va l false)
def Squad.intB (x : Squad) (f : LaneForm) (e l : Nat) : Int := intRead e (x.opnd f.vb l false)
def Squad.intC (x : Squad) (f : LaneForm) (e l : Nat) : Int := intRead e (x.opnd f.vc l false)

/-- fit under the word's SATM. -/
def Squad.fit (x : Squad) (f : LaneForm) (e : Nat) (v : Int) : LaneRes := fitInt e (saturates f.mod x.fmt) v

/-- A result already in range. -/
def intRes (e : Nat) (v : Int) : LaneRes := ⟨intWrite e v, 0⟩

def execVadd (f : LaneForm) (t : State) : Res :=
  t.laneWord 0x10 f (fun x e l => x.fit f e (x.intA f e l + x.intB f e l))
def execVsub (f : LaneForm) (t : State) : Res :=
  t.laneWord 0x11 f (fun x e l => x.fit f e (x.intA f e l - x.intB f e l))
def execVmul (f : LaneForm) (t : State) : Res :=
  t.laneWord 0x12 f (fun x e l => x.fit f e (x.intA f e l * x.intB f e l))
def execVmulh (f : LaneForm) (t : State) : Res :=
  t.laneWord 0x13 f (fun x e l => intRes e (x.intA f e l * x.intB f e l / 2 ^ efBits e))
def execVmad (f : LaneForm) (t : State) : Res :=
  t.laneWord 0x14 f (fun x e l => x.fit f e (x.intA f e l * x.intB f e l + x.intC f e l))
def execVmin (f : LaneForm) (t : State) : Res :=
  t.laneWord 0x15 f (fun x e l => intRes e (min (x.intA f e l) (x.intB f e l)))
def execVmax (f : LaneForm) (t : State) : Res :=
  t.laneWord 0x16 f (fun x e l => intRes e (max (x.intA f e l) (x.intB f e l)))
def execVabs (f : LaneForm) (t : State) : Res :=
  t.laneWord 0x17 f (fun x e l => x.fit f e (x.intA f e l).natAbs)
def execVneg (f : LaneForm) (t : State) : Res :=
  t.laneWord 0x18 f (fun x e l => x.fit f e (-(x.intA f e l)))
def execVadds (f : LaneForm) (t : State) : Res :=
  t.laneWord 0x19 f (fun x e l => fitInt e true (x.intA f e l + x.intB f e l))
def execVsubs (f : LaneForm) (t : State) : Res :=
  t.laneWord 0x1a f (fun x e l => fitInt e true (x.intA f e l - x.intB f e l))
def execVclz (f : LaneForm) (t : State) : Res :=
  t.laneWord 0x1b f (fun x e l => intRes e (clzNat (efBits e) (x.opnd f.va l false).toNat))
def execVpopc (f : LaneForm) (t : State) : Res :=
  t.laneWord 0x1c f (fun x e l => intRes e (popcNat (efBits e) (x.opnd f.va l false).toNat))

-- Logic and moves, major 0x02 (07 R155) -----------------------------------------------------------------------------

/-- Raw operands: the pair for .b64, all 32 bits otherwise. -/
def Squad.rawA (x : Squad) (f : LaneForm) (e l : Nat) : BitVec 64 := x.opnd f.va l (e = 10)
def Squad.rawB (x : Squad) (f : LaneForm) (e l : Nat) : BitVec 64 := x.opnd f.vb l (e = 10)

/-- The shifts act on bits [w-1:0], by the count b[7:0], and extend the result. -/
def laneShift (kind e : Nat) (a : BitVec 64) (count : Nat) : LaneRes :=
  let w := efBits e
  let u := a.toNat % 2 ^ w
  let r := match kind with
    | 0 => wrapNat w (if w ≤ count then 0 else (u * 2 ^ count : Nat))
    | 1 => if w ≤ count then 0 else u / 2 ^ count
    | _ => wrapNat w (sextNat w u / 2 ^ (min count w))
  if e = 10 then ⟨BitVec.ofNat 64 r, 0⟩ else intRes e r

/-- b[7:0] read as unsigned. -/
def Squad.count (x : Squad) (f : LaneForm) (e l : Nat) : Nat := (x.rawB f e l).toNat % 256

def bits (v : BitVec 64) : LaneRes := ⟨v, 0⟩

def execVand (f : LaneForm) (t : State) : Res :=
  t.laneWord 0x20 f (fun x e l => bits (x.rawA f e l &&& x.rawB f e l))
def execVor (f : LaneForm) (t : State) : Res :=
  t.laneWord 0x21 f (fun x e l => bits (x.rawA f e l ||| x.rawB f e l))
def execVxor (f : LaneForm) (t : State) : Res :=
  t.laneWord 0x22 f (fun x e l => bits (x.rawA f e l ^^^ x.rawB f e l))
def execVnot (f : LaneForm) (t : State) : Res :=
  t.laneWord 0x23 f (fun x e l => bits (~~~(x.rawA f e l)))
def execVshl (f : LaneForm) (t : State) : Res :=
  t.laneWord 0x24 f (fun x e l => laneShift 0 e (x.rawA f e l) (x.count f e l))
def execVshr (f : LaneForm) (t : State) : Res :=
  t.laneWord 0x25 f (fun x e l => laneShift 1 e (x.rawA f e l) (x.count f e l))
def execVsar (f : LaneForm) (t : State) : Res :=
  t.laneWord 0x26 f (fun x e l => laneShift 2 e (x.rawA f e l) (x.count f e l))
def execVmov (f : LaneForm) (t : State) : Res :=
  t.laneWord 0x27 f (fun x e l => bits (x.rawA f e l))
def execVbcast (f : LaneForm) (t : State) : Res :=
  t.laneWord 0x28 f (fun x e _ => bits (x.rawA f e (f.mod.arg.toNat % 32)))
def execVsel (f : LaneForm) (t : State) : Res :=
  t.laneWord 0x29 f (fun x e l => bits (if bitAt (x.readM f.vc.mreg) l then x.rawA f e l else x.rawB f e l))
def execVlane (f : LaneForm) (t : State) : Res :=
  t.laneWord 0x2a f (fun x _ l => bits ((cellGet x.laneids l).setWidth 64))

/-- VIMM: imm32 as FMT.EF has it. It has no modifier word; for the register checks and the write it goes as VMOV. -/
def execVimm (m : BitVec 1) (mk : BitVec 4) (vd : BitVec 11) (imm : BitVec 32) (t : State) : Res :=
  let x := t.sq
  let e := (fmtEF x.fmt).toNat
  let f : LaneForm := ⟨m, mk, .vec vd, .unused, .unused, .unused, ⟨fmtEF x.fmt, 0, 0, 0, 0, 0⟩⟩
  let tdst := tdstVector vd (e = 10)
  if x.vws ≤ vd.toNat then .next (t.trapL mk 0x02 0 (vd.setWidth 64) tdst)
  else if vimmOk x.fmt vd = false then
    .next (t.trapL mk 0x01 0 (badLaneTval (encodeVimm m mk vd imm)) tdst)
  else
    let v : BitVec 64 :=
      if e = 10 then imm.signExtend 64
      else if efInt e then intWrite e (intRead e (imm.setWidth 64))
      else BitVec.ofNat 64 (imm.toNat % 2 ^ efBits e)
    .next (t.laneFinish 0x27 f e false (activeRes (x.active mk) (fun _ => bits v)))

-- Compares, majors 0x03 and 0x06 (07 R156 to R158) ----------------------------------------------------------------------

def truth (p : Bool) : LaneRes := ⟨if p then 1 else 0, 0⟩

/-- a[w-1:0] as unsigned. -/
def Squad.unsA (x : Squad) (f : LaneForm) (e l : Nat) : Nat := (x.opnd f.va l false).toNat % 2 ^ efBits e
def Squad.unsB (x : Squad) (f : LaneForm) (e l : Nat) : Nat := (x.opnd f.vb l false).toNat % 2 ^ efBits e

def execVcmpEq (f : LaneForm) (t : State) : Res :=
  t.laneCompare 0x30 f (fun x e l => truth (x.intA f e l = x.intB f e l))
def execVcmpNe (f : LaneForm) (t : State) : Res :=
  t.laneCompare 0x31 f (fun x e l => truth (x.intA f e l ≠ x.intB f e l))
def execVcmpLt (f : LaneForm) (t : State) : Res :=
  t.laneCompare 0x32 f (fun x e l => truth (x.intA f e l < x.intB f e l))
def execVcmpLe (f : LaneForm) (t : State) : Res :=
  t.laneCompare 0x33 f (fun x e l => truth (x.intA f e l ≤ x.intB f e l))
def execVcmpGt (f : LaneForm) (t : State) : Res :=
  t.laneCompare 0x34 f (fun x e l => truth (x.intB f e l < x.intA f e l))
def execVcmpGe (f : LaneForm) (t : State) : Res :=
  t.laneCompare 0x35 f (fun x e l => truth (x.intB f e l ≤ x.intA f e l))
def execVcmpLtu (f : LaneForm) (t : State) : Res :=
  t.laneCompare 0x36 f (fun x e l => truth (x.unsA f e l < x.unsB f e l))
def execVcmpLeu (f : LaneForm) (t : State) : Res :=
  t.laneCompare 0x37 f (fun x e l => truth (x.unsA f e l ≤ x.unsB f e l))
def execVcmpGtu (f : LaneForm) (t : State) : Res :=
  t.laneCompare 0x38 f (fun x e l => truth (x.unsB f e l < x.unsA f e l))
def execVcmpGeu (f : LaneForm) (t : State) : Res :=
  t.laneCompare 0x39 f (fun x e l => truth (x.unsB f e l ≤ x.unsA f e l))

/-- Operand bits of a floating-point word in lane l, and the flush setting. -/
def Squad.fbits (x : Squad) (o : Opnd) (e l : Nat) : Nat := (x.opnd o l false).toNat % 2 ^ efBits e
def Squad.ftz (x : Squad) : Bool := fmtFTZ x.fmt
/-- An operand read under R133 and R138. -/
def Squad.fval (x : Squad) (o : Opnd) (e l : Nat) : FVal := (ffmt e).read x.ftz (x.fbits o e l)
/-- Rounding mode of the word. -/
def Squad.mode (x : Squad) (f : LaneForm) : BitVec 2 := roundMode f.mod x.fmt

def execVfcmpEq (f : LaneForm) (t : State) : Res :=
  t.laneCompare 0x60 f (fun x e l => (ffmt e).cmp 0 x.ftz (x.fbits f.va e l) (x.fbits f.vb e l))
def execVfcmpNe (f : LaneForm) (t : State) : Res :=
  t.laneCompare 0x61 f (fun x e l => (ffmt e).cmp 1 x.ftz (x.fbits f.va e l) (x.fbits f.vb e l))
def execVfcmpLt (f : LaneForm) (t : State) : Res :=
  t.laneCompare 0x62 f (fun x e l => (ffmt e).cmp 2 x.ftz (x.fbits f.va e l) (x.fbits f.vb e l))
def execVfcmpLe (f : LaneForm) (t : State) : Res :=
  t.laneCompare 0x63 f (fun x e l => (ffmt e).cmp 3 x.ftz (x.fbits f.va e l) (x.fbits f.vb e l))
def execVfcmpUnord (f : LaneForm) (t : State) : Res :=
  t.laneCompare 0x64 f (fun x e l => (ffmt e).cmp 4 x.ftz (x.fbits f.va e l) (x.fbits f.vb e l))
def execVfcmpOrd (f : LaneForm) (t : State) : Res :=
  t.laneCompare 0x65 f (fun x e l => (ffmt e).cmp 5 x.ftz (x.fbits f.va e l) (x.fbits f.vb e l))

-- Floating-point arithmetic, major 0x04 (07 R159) -----------------------------------------------------------------------

/-- A sign-bit operation: the result bits, NV for a signalling NaN. -/
def signOp (e : Nat) (b r : Nat) : LaneRes := ⟨BitVec.ofNat 64 r, if (ffmt e).read false b = .snan then flagNV else 0⟩

def execVfadd (f : LaneForm) (t : State) : Res :=
  t.laneWord 0x40 f (fun x e l => (ffmt e).sum (x.mode f) x.ftz [x.fval f.va e l, x.fval f.vb e l])
def execVfsub (f : LaneForm) (t : State) : Res :=
  t.laneWord 0x41 f (fun x e l => (ffmt e).sum (x.mode f) x.ftz [x.fval f.va e l, (x.fval f.vb e l).neg])
def execVfmul (f : LaneForm) (t : State) : Res :=
  t.laneWord 0x42 f (fun x e l => (ffmt e).mul (x.mode f) x.ftz (x.fval f.va e l) (x.fval f.vb e l))
def execVfma (f : LaneForm) (t : State) : Res :=
  t.laneWord 0x43 f (fun x e l => (ffmt e).fma (x.mode f) x.ftz (x.fval f.va e l) (x.fval f.vb e l) (x.fval f.vc e l))
def execVfms (f : LaneForm) (t : State) : Res :=
  t.laneWord 0x44 f (fun x e l => (ffmt e).fma (x.mode f) x.ftz (x.fval f.va e l) (x.fval f.vb e l) (x.fval f.vc e l).neg)
def execVfnma (f : LaneForm) (t : State) : Res :=
  t.laneWord 0x45 f (fun x e l => (ffmt e).fma (x.mode f) x.ftz (x.fval f.va e l).neg (x.fval f.vb e l) (x.fval f.vc e l))
def execVfmin (f : LaneForm) (t : State) : Res :=
  t.laneWord 0x46 f (fun x e l => (ffmt e).minMax false x.ftz (x.fbits f.va e l) (x.fbits f.vb e l))
def execVfmax (f : LaneForm) (t : State) : Res :=
  t.laneWord 0x47 f (fun x e l => (ffmt e).minMax true x.ftz (x.fbits f.va e l) (x.fbits f.vb e l))
def execVfabs (f : LaneForm) (t : State) : Res :=
  t.laneWord 0x48 f (fun x e l => signOp e (x.fbits f.va e l) (x.fbits f.va e l % (ffmt e).signBit))
def execVfneg (f : LaneForm) (t : State) : Res :=
  t.laneWord 0x49 f (fun x e l => signOp e (x.fbits f.va e l) (x.fbits f.va e l ^^^ (ffmt e).signBit))
def execVfclass (f : LaneForm) (t : State) : Res :=
  t.laneWord 0x4a f (fun x e l => bits ((ffmt e).classBits (x.fbits f.va e l)))

-- Long operations, major 0x05 (07 R160) ---------------------------------------------------------------------------------

def execVfdiv (f : LaneForm) (t : State) : Res :=
  t.laneLong 0x50 f (fun x e l => (ffmt e).div (x.mode f) x.ftz (x.fval f.va e l) (x.fval f.vb e l))
def execVfsqrt (f : LaneForm) (t : State) : Res :=
  t.laneLong 0x51 f (fun x e l => (ffmt e).sqrt (x.mode f) x.ftz (x.fval f.va e l))
def execVfrcp (f : LaneForm) (t : State) : Res :=
  t.laneLong 0x52 f (fun x e l => (ffmt e).div (x.mode f) x.ftz (.num false 1 0) (x.fval f.va e l))
def execVfrsq (f : LaneForm) (t : State) : Res :=
  t.laneLong 0x53 f (fun x e l => (ffmt e).rsqrt (x.mode f) x.ftz (x.fval f.va e l))
def execVfexp2 (f : LaneForm) (t : State) : Res :=
  t.laneLong 0x54 f (fun x e l => (ffmt e).exp2 (x.mode f) x.ftz (x.fval f.va e l))
def execVflog2 (f : LaneForm) (t : State) : Res :=
  t.laneLong 0x55 f (fun x e l => (ffmt e).log2 (x.mode f) x.ftz (x.fval f.va e l))
def execVdiv (f : LaneForm) (t : State) : Res :=
  t.laneLong 0x56 f (fun x e l => if x.intB f e l = 0 then intRes e (-1) else x.fit f e ((x.intA f e l).tdiv (x.intB f e l)))
def execVrem (f : LaneForm) (t : State) : Res :=
  t.laneLong 0x57 f (fun x e l => if x.intB f e l = 0 then intRes e (x.intA f e l) else x.fit f e ((x.intA f e l).tmod (x.intB f e l)))

-- Conversions, major 0x07 (07 R161 to R163) -----------------------------------------------------------------------------

/-- VCVT from source code src to format e (Table 7-7). -/
def convert (src e : Nat) (mode : BitVec 2) (ftz sat : Bool) (a : BitVec 64) : LaneRes :=
  if efInt src then
    let v := intRead src a
    if efInt e then fitInt e sat v else (ffmt e).ofInt mode ftz v
  else
    let v := (ffmt src).read ftz (a.toNat % 2 ^ efBits src)
    if efInt e then floatToInt e mode v else (ffmt e).ofVal mode ftz v

def execVcvt (f : LaneForm) (t : State) : Res :=
  t.laneWord 0x70 f (fun x e l =>
    convert (f.mod.arg.toNat % 16) e (x.mode f) x.ftz (saturates f.mod x.fmt) (x.opnd f.va l false))

/-- VPACK: one element narrowed into position p of vb. -/
def execVpack (f : LaneForm) (t : State) : Res :=
  t.laneWord 0x73 f (fun x e l =>
    let a := x.opnd f.va l false
    let r := if efInt e then fitInt e (saturates f.mod x.fmt) (intRead (if efSigned e then 3 else 6) a)
      else (ffmt e).ofVal (x.mode f) x.ftz (fp32.read x.ftz (a.toNat % 2 ^ 32))
    let w := efBits e
    let p := w * (f.mod.arg.toNat % 4)
    let b := (x.opnd f.vb l false).toNat
    let keep := b % 2 ^ p + b / 2 ^ (p + w) * 2 ^ (p + w)
    ⟨BitVec.ofNat 64 (keep + r.v.toNat % 2 ^ w * 2 ^ p), r.flags⟩)

/-- VUNPK: the element at position p widened exactly. -/
def execVunpk (f : LaneForm) (t : State) : Res :=
  t.laneWord 0x74 f (fun x e l =>
    let w := efBits e
    let v := (x.opnd f.va l false).toNat / 2 ^ (w * (f.mod.arg.toNat % 4)) % 2 ^ w
    if efInt e then intRes e (intRead e (BitVec.ofNat 64 v)) else fp32.ofVal 0 x.ftz ((ffmt e).read x.ftz v))

/-- Plane j of 32 mantissas. -/
def plane (ms : List Int) (j : Nat) : Nat :=
  (lanes32.map (fun i => wrapNat 32 (listAt ms i 0) / 2 ^ j % 2 * 2 ^ i)).sum

/-- VBFPQ writes the planes to every lane of vd, whatever the mask, unless no lane is active or the word traps. -/
def execVbfpq (f : LaneForm) (t : State) : Res :=
  t.laneIssue 0x71 f (fun x e =>
    let act := x.active f.m
    let n := f.mod.arg.toNat % 16
    let q := bfpq (lanes32.map (fun l => if bitAt act l then x.fval f.va e l else .num false 0 0)) n
    let mk := laneMarker 0x71 f x
    if act = 0 then .next (t.setSq (x.laneAdvance mk))
    else if slice q.2.2 0 5 &&& fmtTE x.fmt ≠ 0 then
      .next (t.trapL f.m 0x08 act ((slice q.2.2 0 5).setWidth 64) (laneTdst 0x71 f e))
    else
      let res := lanes32.map (fun j =>
        bits (BitVec.ofNat 64 (if j < n then plane q.2.1 j else if j = 31 then q.1 else 0)))
      let y := x.writeLanes 0xFFFFFFFF f.vd.vreg false res
      .next (t.setSq ({ y with fflags := y.fflags ||| q.2.2 }.laneAdvance mk)))

/-- Mantissa i of the planes in register r, n of them. -/
def Squad.mantissa (x : Squad) (r n i : Nat) : Int :=
  sextNat n ((List.range n).map (fun j => (x.readV r j).toNat / 2 ^ i % 2 * 2 ^ j)).sum

def execVbfpd (f : LaneForm) (t : State) : Res :=
  t.laneWord 0x72 f (fun x e l =>
    let n := f.mod.arg.toNat % 16
    (ffmt e).bfpd (x.mode f) x.ftz ((x.readV f.va.vreg 31).toNat % 256) (x.mantissa f.va.vreg n l) n)

-- Cross-lane, major 0x08 (07 R164 to R166) ------------------------------------------------------------------------------

/-- An element of format e moved as it is: bits [w-1:0] read, and written extended (06 R131, R133). VSHFL and VROT move a subnormal
as it stands, whatever FMT.FTZ: R164 moves lanes, and R138 speaks of floating-point operands (log 48, DESIGN CHOICE). -/
def moved (e : Nat) (a : BitVec 64) : LaneRes :=
  if e = 10 then bits a else if efInt e then intRes e (intRead e a) else bits (BitVec.ofNat 64 (a.toNat % 2 ^ efBits e))

def execVshfl (f : LaneForm) (t : State) : Res :=
  t.laneWord 0x80 f (fun x e l => moved e (x.rawA f e ((x.opnd f.vb l false).toNat % 32)))
def execVrot (f : LaneForm) (t : State) : Res :=
  t.laneWord 0x81 f (fun x e l => moved e (x.rawA f e ((l + f.mod.arg.toNat) % 32)))

/-- Running combination of the active lanes: one step per lane, with what is written for it. -/
def scanFold (step : Nat → Nat → LaneRes) (ls : List Nat) (t : Nat) : List (Nat × LaneRes) :=
  match ls with
  | [] => []
  | l :: rest =>
    let r := step t l
    (l, r) :: scanFold step rest r.v.toNat

/-- Grouped floating ADD (07 R165): the lanes of group g and later, t the running value. Only what is written is rounded:
every lane for VSCAN, the last of each group for VRED. Where there is no running value no term stands for it, so that terms
that are all -0 sum to -0, as R166 has it for one lane (log 44, DESIGN CHOICE). -/
def groupedFold (f : FFmt) (mode : BitVec 2) (ftz scan : Bool) (val : Nat → FVal) (ls : List Nat) (n g : Nat)
    (t : List FVal) : List (Nat × LaneRes) :=
  match n with
  | 0 => []
  | k + 1 =>
    let here := ls.filter (fun l => l / 4 = g)
    let out := fun (l : Nat) => f.sum mode ftz (t ++ (here.filter (fun m => m ≤ l)).map val)
    let written := if scan then here else here.drop (here.length - 1)
    let t2 := match here.reverse with | [] => t | l :: _ => [f.read false (out l).v.toNat]
    written.map (fun l => (l, out l)) ++ groupedFold f mode ftz scan val ls k (g + 1) t2

/-- What VRED or VSCAN writes for the active lanes, ascending (07 R165, R166). -/
def reduceOuts (x : Squad) (f : LaneForm) (e : Nat) (scan : Bool) (ls : List Nat) : List (Nat × LaneRes) :=
  let op := f.mod.arg.toNat % 8
  if efInt e then
    let v := x.intA f e
    let raw := fun (l : Nat) => (x.opnd f.va l false).toNat % 2 ^ efBits e
    let all := fun (l : Nat) => ls.filter (fun m => m ≤ l)
    ls.map (fun l => (l,
      match op with
      | 0 => x.fit f e ((all l).map v).sum
      | 1 => intRes e ((all l).foldl (fun a m => min a (v m)) (v l))
      | 2 => intRes e ((all l).foldl (fun a m => max a (v m)) (v l))
      | 3 => intRes e ((all l).foldl (fun a m => a &&& raw m) (raw l) : Nat)
      | 4 => intRes e ((all l).foldl (fun a m => a ||| raw m) 0 : Nat)
      | _ => intRes e ((all l).foldl (fun a m => a ^^^ raw m) 0 : Nat)))
  else
    let g := ffmt e
    let val := x.fval f.va e
    match ls with
    | [] => []
    | a :: rest =>
      if op = 0 then
        if fmtACC x.fmt then groupedFold g (x.mode f) x.ftz scan val ls 8 0 []
        else
          let t0 : LaneRes := match val a with
            | .qnan => ⟨BitVec.ofNat 64 g.nan, 0⟩
            | .snan => g.invalid
            | _ => bits (BitVec.ofNat 64 (g.flushBits x.ftz (x.fbits f.va e a)))
          (a, t0) :: scanFold (fun t l => g.sum (x.mode f) x.ftz [g.read false t, val l]) rest t0.v.toNat
      else
        let t0 := g.minMax (op = 2) x.ftz (x.fbits f.va e a) (x.fbits f.va e a)
        (a, t0) :: scanFold (fun t l => g.minMax (op = 2) x.ftz t (x.fbits f.va e l)) rest t0.v.toNat

/-- VRED and VSCAN: the outputs, and their flags raised together (07 R152). -/
def State.laneReduce (t : State) (op : LaneOp) (f : LaneForm) (scan : Bool) : Res :=
  t.laneIssue op f (fun x e =>
    let ls := activeLanes (x.active f.m)
    let outs := reduceOuts x f e scan ls
    let final : LaneRes := match outs.reverse with | [] => {} | o :: _ => o.2
    let fl := if efInt e ∧ !scan then final.flags else (outs.map (fun o => o.2.flags)).foldl (· ||| ·) 0
    let res := lanes32.map (fun l =>
      if scan then (match outs.find? (fun o => o.1 = l) with | some o => o.2 | none => {}) else final)
    .next (t.laneWhole op f e res fl))

def execVred (f : LaneForm) (t : State) : Res := t.laneReduce 0x82 f false
def execVscan (f : LaneForm) (t : State) : Res := t.laneReduce 0x83 f true

-- Mask and vote, major 0x09 (08 R169, R170) -----------------------------------------------------------------------------

/-- A word that writes a scalar register: its result is outstanding and it parks as if S were set (02 R48). -/
def State.laneScalar (t : State) (f : LaneForm) (v : BitVec 64) : Res :=
  let u := t.issueValue f.vd.sreg v
  .next (u.setSq (u.sq.laneAdvance true))

/-- Lanes of A: active, with their bit of mA (08 R170). -/
def Squad.voters (x : Squad) (f : LaneForm) : BitVec 32 := x.active f.m &&& x.readM f.va.mreg

/-- LANEIDs of the lanes of a mask. -/
def Squad.idsOf (x : Squad) (a : BitVec 32) : List Nat := (activeLanes a).map (fun l => (cellGet x.laneids l).toNat)

def execVote (f : LaneForm) (t : State) : Res :=
  let x := t.sq
  let act := x.active f.m
  let a := x.voters f
  t.laneScalar f (match f.mod.arg.toNat % 8 with
    | 0 => aluSet (a ≠ 0)
    | 1 => aluSet (a = act)
    | 2 => aluSet (a = 0 ∨ a = act)
    | 3 => BitVec.ofNat 64 (popcNat 32 a.toNat)
    | 4 => match x.idsOf a with | [] => -1 | i :: r => BitVec.ofNat 64 (r.foldl min i)
    | _ => match x.idsOf a with | [] => -1 | i :: r => BitVec.ofNat 64 (r.foldl max i))

def execBallotLane (f : LaneForm) (t : State) : Res := t.laneScalar f ((t.sq.voters f).setWidth 64)

/-- Bit i is 1 when a lane of A has LANEID = sb + i. -/
def execBallotId (f : LaneForm) (t : State) : Res :=
  let x := t.sq
  let base := (x.readS f.vb.sreg).toNat
  let ids := x.idsOf (x.voters f)
  t.laneScalar f (BitVec.ofNat 64 (((List.range 64).map (fun i => if ids.contains (base + i) then 2 ^ i else 0)).sum))

/-- A mask logic word acts on all 32 bits. -/
def State.maskLogic (t : State) (f : LaneForm) (v : BitVec 32) : Res :=
  .next (t.setSq ((t.sq.writeM f.vd.mreg v).laneAdvance (f.s = 1)))

def execMand (f : LaneForm) (t : State) : Res := t.maskLogic f (t.sq.readM f.va.mreg &&& t.sq.readM f.vb.mreg)
def execMor (f : LaneForm) (t : State) : Res := t.maskLogic f (t.sq.readM f.va.mreg ||| t.sq.readM f.vb.mreg)
def execMxor (f : LaneForm) (t : State) : Res := t.maskLogic f (t.sq.readM f.va.mreg ^^^ t.sq.readM f.vb.mreg)
def execMnot (f : LaneForm) (t : State) : Res := t.maskLogic f (~~~(t.sq.readM f.va.mreg))
def execMandn (f : LaneForm) (t : State) : Res := t.maskLogic f (t.sq.readM f.va.mreg &&& ~~~(t.sq.readM f.vb.mreg))
def execMpopc (f : LaneForm) (t : State) : Res :=
  t.laneScalar f (BitVec.ofNat 64 (popcNat 32 (t.sq.readM f.va.mreg).toNat))
def execMfirst (f : LaneForm) (t : State) : Res :=
  t.laneScalar f (BitVec.ofNat 64 (ctzNat 32 (t.sq.readM f.va.mreg).toNat))

end Sys2Proof.Machine
end

