-- ==== Sys2Proof/Machine/Traps.lean ====
section
/-! DEFINITION. Asynchronous faults (16 R308), the delivery of tile faults to squads (11 R239), TRAP, RETT and IREG (16 R309
to R313), and the events that write an outstanding result or bring its late fault (02 R45; 16 R314). -/

namespace Sys2Proof.Machine

/-- The device is in a compute superstep (03 R68). -/
def State.computing (s : State) (d : Nat) : Bool := bitAt (s.dev d).phase 0 = false

/-- The gang stands on its cores and issues: resident and not terminated (03 R73; 16 R318). -/
def Gang.issues (g : Gang) : Bool := g.place = .resident && g.term = none

/-- The squad's gang issues, in a compute superstep. -/
def State.mayRun (s : State) (q : Nat) : Bool := (s.gangOf q).issues && s.computing (s.devOf q)

/-- A pending fault may be taken: at a scalar word boundary, or parked in BARW, BARS or WAITSEQ, and not in a handler. -/
def Squad.canTake (x : Squad) : Bool :=
  x.faults.any (fun f => !f.carry) && x.handler = none && x.lane = none &&
  (match x.run with | .running => true | .barrier _ => true | .waitseq _ _ _ => true | _ => false)

/-- The pending fault that comes first. -/
def firstFault (fs : List PendFault) : Option (PendFault × List PendFault) :=
  match sortRank PendFault.rank (fs.filter (fun f => !f.carry)) with
  | [] => none
  | f :: rest => some (f, rest ++ fs.filter (fun f => f.carry))

/-- Take the first pending fault (16 R308). -/
def State.takeFault (s : State) (q : Nat) : State :=
  let x := s.squad q
  match firstFault x.faults with
  | none => s
  | some (f, rest) =>
    (s.setSquad q { x with faults := rest }).raise q
      { cause := f.cause, async := true, tpc := x.pc, tlpc := (match f.tile with | some a => a.tlpc | none => x.lpc),
        tval := f.tval, tdst := f.tdst, wm := cellGet x.masks 0, tile := f.tile }

/-- A squad parked in BARW, BARS or WAITSEQ takes its pending fault at once. -/
def State.poke (s : State) (q : Nat) : State :=
  let x := s.squad q
  if x.run ≠ .running ∧ x.canTake ∧ s.mayRun q then s.takeFault q else s

/-- A fault becomes pending. -/
def State.pendFault (s : State) (q : Nat) (f : PendFault) : State :=
  let x := s.squad q
  (s.setSquad q { x with faults := x.faults ++ [f] }).poke q

abbrev engineRank (seq : Nat) : Nat := 2 ^ 16 + seq
abbrev tileRank : Nat := 2 ^ 96

/-- Deliver a block's oldest tile fault (11 R239): to the squad of lowest SQID that is unexited and not in a handler; it waits while
every unexited squad is in one; with none left the gang is terminated. -/
def State.deliverTile (s : State) (b : Nat) : State :=
  let x := s.block b
  match x.pacer.faults with
  | [] => s
  | f :: rest =>
    match s.unexited b with
    | [] =>
      (s.setBlock b { x with pacer := { x.pacer with faults := rest } }).terminate (gangOfBlock b) 0x0C (b % 4) 0 f.tval
        [f.tlpc, f.tdst]
    | qs =>
      match qs.find? (fun q => (s.squad q).handler = none) with
      | none => s
      | some q =>
        (s.setBlock b { x with pacer := { x.pacer with faults := rest, owed := x.pacer.owed + 1 } }).pendFault q
          ⟨tileRank, false, 0x0C, f.tval, f.tdst, some ⟨f.num, f.tlpc, f.part⟩⟩

/-- Faults pending in squads that a REGRP has retired pass on: tile faults to be delivered anew, others to the first squad that has
not exited (11 R239; log 43, DEDUCED). -/
def State.passFaults (s : State) (b : Nat) (qs : List Nat) : State :=
  qs.foldl (fun t q =>
    let x := t.squad q
    let y := t.block b
    let tiles := x.faults.filterMap (fun f => f.tile.map (fun r => (⟨f.tval, r.tlpc, f.tdst, r.num, r.part⟩ : TileFault)))
    let u := (t.setSquad q { x with faults := [] }).setBlock b
      { y with pacer := { y.pacer with faults := tiles ++ y.pacer.faults, owed := y.pacer.owed - tiles.length } }
    match u.unexited b with
    | [] => u
    | p :: _ => (x.faults.filter (fun f => f.tile.isNone)).foldl (fun v f => v.pendFault p f) u) s

/-- Deliver every fault that waits, as far as squads can take them. -/
def State.deliverTiles (s : State) (b : Nat) : State :=
  (List.range (s.block b).pacer.faults.length).foldl (fun t _ => t.deliverTile b) s

-- TRAP, RETT, IREG ------------------------------------------------------------------------------------------------

def execTrap (_m : BitVec 1) (n : BitVec 18) (t : State) : Res := .next (t.trapS 0x10 (n.setWidth 64) tdstNone)

/-- RETT (16 R310). A handler that has ended lets the waiting tile faults through (11 R239). -/
def execRett (m : BitVec 1) (t : State) : Res :=
  let x := t.sq
  match x.handler with
  | none => .next (t.trapS 0x01 0 tdstNone)
  | some k =>
    if x.seg ≠ [] then .next (t.doubleFault t.actor (x.scalarTrap 0x0A 0 tdstNone))
    else
      let u := t.trapReturn t.actor k
      let y := u.sq
      let v := if m = 1 ∧ y.out ≠ [] then u.setSq { y with run := .parked } else u
      .next (v.deliverTiles (blockOfSquad t.actor))

/-- IREG (16 R312): end the open region and open the next. No region is open in a handler (R310). -/
def execIreg (m : BitVec 1) (t : State) : Res :=
  t.endingRegion [] (fun _ u =>
    let x := u.sq
    let c : Checkpoint := ⟨x.pc + 4, x.lpc, x.masks, x.fmt, x.fflags, x.chsel⟩
    .next (u.setSq ({ x with region := if x.handler = none then some c else none }.advance m)))

-- Events ----------------------------------------------------------------------------------------------------------

/-- A squad takes its pending fault. -/
def execAsyncFaultTake (q : Nat) (t : State) : Res :=
  .next (if (t.squad q).canTake ∧ t.mayRun q then t.takeFault q else t)

end Sys2Proof.Machine
end

