-- ==== Sys2Proof/Machine/Barriers.lean ====
section
/-! DEFINITION. Block barriers (11 R243 to R245): arrivals, waits, misuse and deadlock; tile faults (11 R239); and the events
that write an outstanding result or bring its late fault, after which a wait may end. -/

namespace Sys2Proof.Machine

-- Tile faults -----------------------------------------------------------------------------------------------------

/-- TDST of a tile fault (11 Table 11-5). -/
def tileTdst (carried sub : Nat) (rpr : BitVec 32) : BitVec 64 :=
  BitVec.ofNat 64 (carried * 2 ^ 56 + sub * 2 ^ 48 + rpr.toNat)

-- Arriving ----------------------------------------------------------------------------------------------------------

/-- The Pacer as a party of its barriers. -/
abbrev pacerParty : Nat := 16

def Block.bar (x : Block) (k : Nat) : Barrier := tabGet x.bars k {}

/-- A party of a block's barriers as a party of the memory order. -/
def partyOf (b party : Nat) : Party := if party = pacerParty then .pacer b else .squad (squadKey b party)

/-- SUB of the misuse of an arrival, 0 for none (R243). A squad's checks are made when its word issues, so what it expects binds
the barrier from then on, though the arrival counts later (log 45, DEDUCED). -/
def Block.arriveSub (x : Block) (k n : Nat) : Nat :=
  if n < 1 ∨ 17 < n then 1
  else if (x.bar k).cnt ≠ 0 ∧ n ≠ (x.bar k).exp then 2
  else if x.arrivals.any (fun a => a.party ≠ pacerParty && a.bar = k && a.count ≠ n) then 2
  else 0

/-- Count an arrival (R243), which releases what its party has seen, ks; the completion of the generation lets every party that
arrived in it acquire what all of them released (10 R224). -/
def Block.count (x : Block) (party k n : Nat) (ks : List Seen) : Block :=
  let br := x.bar k
  let g := br.gen
  let b1 := { br with exp := if br.cnt = 0 then n else br.exp, cnt := br.cnt + 1, seen := br.seen ++ ks,
                      pacerGen := if party = pacerParty then some g else br.pacerGen }
  let arrived := tabPut x.arrived (16 * party + k) g
  if b1.cnt = b1.exp then
    { x with bars := tabPut x.bars k { b1 with gen := g + 1, cnt := 0, seen := [] }, arrived := arrived,
             passed := (arrived.filter (fun e => e.1 % 16 = k && e.2 = g)).foldl (fun p e => tabPut p e.1 b1.seen) x.passed }
  else { x with bars := tabPut x.bars k b1, arrived := arrived }

/-- TVAL of barrier misuse by a squad. -/
def barTval (k sub : Nat) : BitVec 64 := BitVec.ofNat 64 (k * 256 + sub)

/-- A wait of a party on barrier k is over: its arrivals have counted and the generation has changed (R243). -/
def Block.waitOver (x : Block) (party k : Nat) : Bool :=
  !(x.arrivals.any (fun a => a.party = party && a.bar = k)) &&
  (match tabGet? x.arrived (16 * party + k) with | some g => (x.bar k).gen ≠ g | none => false)

/-- Barrier deadlock (R245): every parked squad takes 0x0B with SUB 4. A squad whose wait is over is no longer parked in it, and
an arrival issued and not yet counted may still complete a barrier (log 45). -/
def State.checkDeadlock (s : State) (b : Nat) : State :=
  let x := s.block b
  let qs := s.unexited b
  let still : Bool := match x.pacer.run with | .idle => true | .stopped => true | .barrier _ _ => true | _ => false
  let parked := qs.all (fun q => match (s.squad q).run with | .barrier k => !(x.waitOver (sqidOf q) k) | _ => false)
  if qs ≠ [] ∧ parked ∧ still ∧ x.pacer.flight = [] ∧ x.arrivals = [] then
    qs.foldl (fun t q => match (t.squad q).run with
      | .barrier k => t.raise q { (t.squad q).scalarTrap 0x0B (barTval k 4) tdstNone with rx := true }
      | _ => t) s
  else s

/-- The Pacer of block b stops with a fault, to be restarted at tlpc, and the fault is delivered; the stop may leave the block's
squads in deadlock. part is the RPR of a TMMA or TMMAJ that the fault stops part-way. -/
def State.tileFault (s : State) (b : Nat) (tval tlpc : BitVec 64) (carried sub : Nat) (part : Option (BitVec 32) := none) : State :=
  let x := s.block b
  let p := x.pacer
  let p2 : Pacer := { p with run := .stopped, tpc := tlpc, met := p.met + 1,
                             faults := p.faults ++ [⟨tval, tlpc, tileTdst carried sub p.rpr, p.met + 1, part⟩] }
  ((s.setBlock b { x with pacer := p2 }).deliverTile b).checkDeadlock b

/-- Whether the accesses an arrival waits for have been performed (R243): a squad's memory results issued before it, or the
Pacer's tile instructions issued before it. -/
def State.arrivalReady (s : State) (b : Nat) (a : Arrival) : Bool :=
  if a.party = pacerParty then !((s.block b).pacer.flight.any (fun o => o.serial < a.serial))
  else !((s.squad (squadKey b a.party)).out.any (fun o => o.kind.loc?.isSome && decide (o.word < a.serial)))

/-- A party passes a completion by the return of its wait: ARR clears, and that half is the acquire (R243; 10 R224). -/
def State.passes (s : State) (b party k : Nat) : State :=
  let x := s.block b
  let key := 16 * party + k
  (s.setBlock b { x with arrived := tabDel x.arrived key, passed := tabDel x.passed key }).learn (partyOf b party) (tabGet x.passed key [])

/-- The wait of a squad ends: the L1 is invalidated if the Pacer arrived in that generation, the word is done. -/
def State.endWait (s : State) (q k : Nat) : State :=
  let b := blockOfSquad q
  let x := s.block b
  let g := tabGet x.arrived (16 * sqidOf q + k) 0
  let pacerCame : Bool := match (x.bar k).pacerGen with | some p => decide (g ≤ p) | none => false
  let s0 := s.passes b (sqidOf q) k
  let s1 := if pacerCame then s0.dropL1 b else s0
  let y := s1.squad q
  let s2 := s1.setSquad q { y with run := .running, pc := y.pc + 4, latch := none }
  s2.capture (s2.retOf q) 9 (s2.coreNo b) (Config.parkLength s2.clock)

/-- Squads of a block whose wait is over go on (they may do so once nothing of theirs is outstanding). -/
def State.releaseSquads (s : State) (qs : List Nat) : State :=
  qs.foldl (fun t q =>
    match (t.squad q).run with
    | .barrier k => if (t.squad q).out = [] ∧ (t.block (blockOfSquad q)).waitOver (sqidOf q) k then t.endWait q k else t
    | _ => t) s

/-- The Pacer's wait (R243): over, or misuse once its own arrivals have counted and none is recorded. -/
def State.releasePacer (s : State) (b : Nat) (word : BitVec 64) : State :=
  let x := s.block b
  match x.pacer.run with
  | .barrier k m =>
    if x.arrivals.any (fun a => a.party = pacerParty && a.bar = k) then s
    else match tabGet? x.arrived (16 * pacerParty + k) with
      | none => s.tileFault b word x.pacer.tpc 0x0C 9
      | some g =>
        if (x.bar k).gen = g then s
        else
          let run : PacerRun := if m = 1 ∧ x.pacer.flight ≠ [] then .held else .running
          let t := s.passes b pacerParty k
          t.setBlock b { t.block b with pacer := { x.pacer with tpc := x.pacer.tpc + 8, run := run } }
  | _ => s

/-- The TBARW word the Pacer is parked in. -/
def Pacer.waitWord (p : Pacer) : BitVec 64 :=
  match p.run with
  | .barrier k m => (match encodeTile (.tbarw m (BitVec.ofNat 4 k)) with | some w => w | none => 0)
  | _ => 0

/-- After anything a wait may turn on: squads and Pacer go on, then the deadlock rule. -/
def State.barriers (s : State) (b : Nat) : State :=
  let s1 := s.releaseSquads (s.squadsOf b)
  let s2 := s1.releasePacer b (s1.block b).pacer.waitWord
  s2.checkDeadlock b

/-- Count arrival k of a block (R243); the Pacer's misuse is found now. -/
def State.countArrival (s : State) (b k : Nat) : State :=
  let x := s.block b
  match x.arrivals[k]? with
  | none => s
  | some a =>
    let earlier := (x.arrivals.take k).any (fun e => e.party = a.party && e.bar = a.bar)
    if earlier ∨ s.arrivalReady b a = false then s
    else
      let y := { x with arrivals := listDel x.arrivals k }
      if a.party = pacerParty ∧ y.arriveSub a.bar a.count ≠ 0 then
        (s.setBlock b y).tileFault b a.word y.pacer.tpc 0x0C 9
      else
        let ks := s.seenBy (partyOf b a.party)
        let z := y.count a.party a.bar a.count ks
        let t := s.setBlock b z
        let signalled := if (z.bar a.bar).gen = (y.bar a.bar).gen then [] else (y.bar a.bar).seen ++ ks
        (t.learn (.done (devOfRet (s.gang (gangOfBlock b)).ret)) signalled).barriers b

/-- An arrival issues: it counts at once when nothing is left to wait for. -/
def State.arrive (s : State) (b party k n : Nat) (word : BitVec 64) : State :=
  let x := s.block b
  let s1 := (s.setBlock b { x with arrivals := x.arrivals ++ [⟨party, k, n, s.clock, word⟩] }).tick
  s1.countArrival b x.arrivals.length

-- BARA, BARW, BARS (R244) -------------------------------------------------------------------------------------------

def execBara (m : BitVec 1) (n : BitVec 4) (a : BitVec 6) (t : State) : Res :=
  t.endingRegion [a] (fun vs u =>
    let b := blockOfSquad u.actor
    let sub := (u.block b).arriveSub n.toNat (argAt vs 0).toNat
    if sub ≠ 0 then .next (u.trapS 0x0B (barTval n.toNat sub) tdstNone)
    else
      let v := u.done m
      .next (v.arrive b (sqidOf u.actor) n.toNat (argAt vs 0).toNat 0))

/-- The squad parks in a wait. That an interrupted BARS has counted its arrival is forgotten, but not by a handler's own
barriers (R244). -/
def Squad.toBarrier (x : Squad) (k : Nat) : Squad :=
  { x with run := .barrier k, latch := none, bars := if x.handler.isSome then x.bars else none }

/-- Park in a wait. -/
def State.parkBarrier (t : State) (k : Nat) : State := (t.setSq (t.sq.toBarrier k)).barriers (blockOfSquad t.actor)

def execBarw (_m : BitVec 1) (n : BitVec 4) (t : State) : Res :=
  t.endingRegion [] (fun _ u =>
    let x := u.block (blockOfSquad u.actor)
    let party := sqidOf u.actor
    let pending := x.arrivals.any (fun a => a.party = party && a.bar = n.toNat)
    if pending = false ∧ (tabGet? x.arrived (16 * party + n.toNat)).isNone then
      .next (u.trapS 0x0B (barTval n.toNat 3) tdstNone)
    else .next (u.parkBarrier n.toNat))

/-- BARS; one whose wait a trap interrupted has counted its arrival already. -/
def execBars (_m : BitVec 1) (n : BitVec 4) (a : BitVec 6) (t : State) : Res :=
  t.endingRegion [a] (fun vs u =>
    let b := blockOfSquad u.actor
    if u.sq.bars = some u.sq.pc ∧ u.sq.handler = none then .next (u.parkBarrier n.toNat)
    else
      let sub := (u.block b).arriveSub n.toNat (argAt vs 0).toNat
      if sub ≠ 0 then .next (u.trapS 0x0B (barTval n.toNat sub) tdstNone)
      else
        let v := u.setSq (u.sq.toBarrier n.toNat)
        .next ((v.arrive b (sqidOf u.actor) n.toNat (argAt vs 0).toNat 0).barriers b))

/-- Arrival k of a block counts. -/
def execBarrierArrivalCount (b k : Nat) (t : State) : Res := .next (t.countArrival b k)

-- Outstanding results -----------------------------------------------------------------------------------------------

/-- Result k of a squad is written, cycles after its issue (02 R45). -/
def execVariableResultWriteback (q k cycles : Nat) (t : State) : Res :=
  .next (if t.canPerform q k ∧ t.readsBad q k = false then (t.perform q k cycles).barriers (blockOfSquad q) else t)

/-- Result k of a squad meets uncorrectable data (16 R314). -/
def execLateFault (q k : Nat) (t : State) : Res :=
  .next (if t.canPerform q k ∧ t.readsBad q k then t.lateFaultAt q k else t)

end Sys2Proof.Machine
end

