-- ==== Sys2Proof/Machine/Tile.lean ====
section
/-! DEFINITION. The tile stream (11): the Pacer's words, and what the arrays and load pipes do panel by panel or row by row
for the tile instruction in flight. -/

namespace Sys2Proof.Machine

-- Pacer words -------------------------------------------------------------------------------------------------------

def Pacer.readTa (p : Pacer) (r : BitVec 4) : BitVec 64 := cellGet p.ta r.toNat
def Pacer.writeTa (p : Pacer) (r : BitVec 4) (v : BitVec 64) : Pacer := { p with ta := cellPut p.ta r.toNat v }

/-- The Pacer is done with the word; S holds it while instructions are in flight (02 R60). -/
def Pacer.next (p : Pacer) (m : BitVec 1) (tpc : BitVec 64) : Pacer :=
  let r : PacerRun := if m = 1 ∧ p.flight ≠ [] then .held else .running
  { p with tpc := tpc, run := r }

def State.setPacer (t : State) (b : Nat) (p : Pacer) : State := t.setBlock b { t.block b with pacer := p }
def State.pacer (t : State) : Pacer := (t.block t.actor).pacer

/-- A fixed tile word. -/
def State.tileFixed (t : State) (m : BitVec 1) (f : Pacer → Pacer) : Res :=
  .next (t.setPacer t.actor ((f t.pacer).next m (t.pacer.tpc + 8)))

/-- The word of a tile instruction. -/
def tileWord (i : Instr) : BitVec 64 := match encodeTile i with | some w => w | none => 0

/-- A fault found when the word issues, SUB 2, 3 or 7 (Table 11-5). -/
def State.tileRefuse (t : State) (i : Instr) (sub : Nat) : Res :=
  .next (t.tileFault t.actor (tileWord i) t.pacer.tpc 0x0C sub)

/-- Legality of a TFMT (R231). -/
def tfmtOk (ak : BitVec 3) (an : BitVec 4) (bk : BitVec 3) (bn : BitVec 4) (acct ord : BitVec 1) : Bool :=
  let okN := fun (k : BitVec 3) (n : BitVec 4) => if k = 0 then 2 ≤ n.toNat && n.toNat ≤ 8 else n = 0
  ak.toNat ≤ 2 && bk.toNat ≤ 2 && okN ak an && okN bk bn && ak = bk && (acct = 0 || ak = 0) && (ord = 0 || ak ≠ 0)

def execTfmt (m : BitVec 1) (ak : BitVec 3) (an : BitVec 4) (bk : BitVec 3) (bn : BitVec 4) (acct ord : BitVec 1)
    (rm : BitVec 2) (ftz : BitVec 1) (t : State) : Res :=
  if tfmtOk ak an bk bn acct ord then t.tileFixed m (fun p => { p with fmt := ⟨ak, an, bk, bn, acct, ord, rm, ftz⟩ })
  else t.tileRefuse (.tfmt m ak an bk bn acct ord rm ftz) 2

/-- The four values a descriptor latches (R232). -/
def Pacer.descr (p : Pacer) (tm ts tx : BitVec 4) (xs : BitVec 20) : Descr :=
  ⟨p.readTa tm, p.readTa ts, p.readTa tx, xs.setWidth 64⟩

def execTdesa (m : BitVec 1) (tm ts tx : BitVec 4) (xs : BitVec 20) (t : State) : Res :=
  t.tileFixed m (fun p => { p with da := p.descr tm ts tx xs })
def execTdesb (m : BitVec 1) (tm ts tx : BitVec 4) (xs : BitVec 20) (t : State) : Res :=
  t.tileFixed m (fun p => { p with db := p.descr tm ts tx xs })
def execTli (m : BitVec 1) (d : BitVec 4) (i : BitVec 48) (t : State) : Res :=
  t.tileFixed m (fun p => p.writeTa d (i.signExtend 64))
def execTliH (m : BitVec 1) (d : BitVec 4) (i : BitVec 16) (t : State) : Res :=
  t.tileFixed m (fun p => p.writeTa d (i ++ slice (p.readTa d) 0 48))
def execTadd (m : BitVec 1) (d a b : BitVec 4) (ub : BitVec 1) (sh : BitVec 4) (i : BitVec 38) (t : State) : Res :=
  t.tileFixed m (fun p => p.writeTa d
    (p.readTa a + (if ub = 1 then p.readTa b <<< sh.toNat else 0) + i.signExtend 64))
def execTnop (m : BitVec 1) (t : State) : Res := t.tileFixed m id

/-- TLOOP (R233). -/
def execTloop (m : BitVec 1) (c : BitVec 4) (off : BitVec 24) (t : State) : Res :=
  let p := t.pacer
  let v := p.readTa c - 1
  .next (t.setPacer t.actor ((p.writeTa c v).next m (p.tpc + (if v ≠ 0 then off.signExtend 64 <<< 3 else 8))))

-- Variable words: issue -----------------------------------------------------------------------------------------------

/-- TILES of the gang of a block. -/
def State.tiles (t : State) (b : Nat) : Nat := (t.gang (gangOfBlock b)).desc.tiles.toNat

/-- Issue a word to the arrays or load pipes with what it reads now; TMMA and TMMAJ start at the panel RPR names (R235). -/
def State.tileIssue (t : State) (m : BitVec 1) (i : Instr) (ta : List (BitVec 64)) (start : Nat) : State :=
  let p := t.pacer
  let op : TileOp := ⟨i, tileWord i, p.tpc, t.clock, p.fmt, p.da, p.db, ta, start, start, [], false, none, none⟩
  (t.setPacer t.actor ({ p with flight := p.flight ++ [op] }.next m (p.tpc + 8))).tick

/-- Issue a word that names an accumulator (R23, R230). -/
def State.tileAcc (t : State) (m : BitVec 1) (i : Instr) (acc : BitVec 2) (ta : List (BitVec 64)) (start : Nat) : Res :=
  if t.tiles t.actor ≤ acc.toNat then t.tileRefuse i 3 else .next (t.tileIssue m i ta start)

def execTmma (m : BitVec 1) (acc : BitVec 2) (kp : BitVec 16) (t : State) : Res :=
  if kp = 0 then t.tileRefuse (.tmma m acc kp) 2
  else t.tileAcc m (.tmma m acc kp) acc [] (t.pacer.rpr.toNat / 32)

def execTzero (m : BitVec 1) (acc : BitVec 2) (t : State) : Res := t.tileAcc m (.tzero m acc) acc [] 0

def execTldc (m : BitVec 1) (acc : BitVec 2) (tm ts : BitVec 4) (t : State) : Res :=
  t.tileAcc m (.tldc m acc tm ts) acc [t.pacer.readTa tm, t.pacer.readTa ts] 0
def execTstc (m : BitVec 1) (acc : BitVec 2) (tm ts : BitVec 4) (t : State) : Res :=
  t.tileAcc m (.tstc m acc tm ts) acc [t.pacer.readTa tm, t.pacer.readTa ts] 0

/-- TDRAIN: OF reserved, or n outside 2..8 for BFP-n, is SUB 2. -/
def execTdrain (m : BitVec 1) (acc : BitVec 2) (tm ts tx tw : BitVec 4) (amx clr : BitVec 1) (ofm : BitVec 3) (n : BitVec 4)
    (rm : BitVec 2) (xs : BitVec 20) (t : State) : Res :=
  let i : Instr := .tdrain m acc tm ts tx tw amx clr ofm n rm xs
  if 3 ≤ ofm.toNat ∨ (ofm = 2 ∧ (n.toNat < 2 ∨ 8 < n.toNat)) then t.tileRefuse i 2
  else t.tileAcc m i acc [t.pacer.readTa tm, t.pacer.readTa ts, t.pacer.readTa tx, t.pacer.readTa tw] 0

-- TMMAJ: the joint instruction (R238) -----------------------------------------------------------------------------------

/-- The TMMAJ a block waits with or executes. -/
def Pacer.joint? (p : Pacer) : Option TileOp :=
  p.flight.find? (fun o => match o.instr with | .tmmaj _ _ kp _ _ => decide (o.progress < kp.toNat) | _ => false)

/-- KP, cnt and the format state, in which the four words must agree. -/
def TileOp.jointKey (o : TileOp) : Nat × Nat × TileFormat :=
  match o.instr with
  | .tmmaj _ _ kp _ cnt => (kp.toNat, cnt.toNat, o.fmt)
  | _ => (0, 0, o.fmt)

/-- A member of a joint instruction stops at its word with a fault. -/
def State.jointFault (t : State) (b : Nat) : State :=
  let p := (t.block b).pacer
  match p.joint? with
  | none => t
  | some o => (t.setPacer b { p with flight := p.flight.filter (fun x => x.serial ≠ o.serial) }).tileFault b o.word o.pc 0x0C 8

/-- Four members have issued words that differ, or a member is idle while others wait: SUB 8 at every waiting member. -/
def State.checkJoint (t : State) (g : Nat) : State :=
  let bs := t.blocksOf g
  let ops := bs.filterMap (fun b => (t.block b).pacer.joint?)
  let idle := bs.any (fun b => (t.block b).pacer.run = .idle)
  let differ : Bool := match ops with
    | [] => false
    | o :: rest => rest.any (fun x => x.jointKey ≠ o.jointKey)
  if (ops.length = 4 ∧ differ) ∨ (ops ≠ [] ∧ idle) then bs.foldl State.jointFault t else t

def execTmmaj (m : BitVec 1) (acc : BitVec 2) (kp : BitVec 16) (bar : BitVec 4) (cnt : BitVec 5) (t : State) : Res :=
  let i : Instr := .tmmaj m acc kp bar cnt
  if kp = 0 ∨ cnt.toNat < 1 ∨ 17 < cnt.toNat then t.tileRefuse i 2
  else if t.tiles t.actor ≤ acc.toNat then t.tileRefuse i 3
  else if (t.gang (gangOfBlock t.actor)).desc.nblocks < 4 then t.tileRefuse i 7
  else .next ((t.tileIssue m i [] (t.pacer.rpr.toNat / 32)).checkJoint (gangOfBlock t.actor))

-- Barriers and the end ------------------------------------------------------------------------------------------------

/-- TBARA: the count field is checked at issue, the arrival when it counts (R243). -/
def execTbara (m : BitVec 1) (bar : BitVec 4) (cnt : BitVec 5) (t : State) : Res :=
  if cnt.toNat < 1 ∨ 17 < cnt.toNat then t.tileRefuse (.tbara m bar cnt) 2
  else
    let p := t.pacer
    let u := t.setPacer t.actor (p.next m (p.tpc + 8))
    .next (u.arrive t.actor pacerParty bar.toNat cnt.toNat (tileWord (.tbara m bar cnt)))

def execTbarw (m : BitVec 1) (bar : BitVec 4) (t : State) : Res :=
  let p := t.pacer
  .next ((t.setPacer t.actor { p with run := .barrier bar.toNat m }).barriers t.actor)

/-- The Pacer becomes idle (R233). -/
def State.pacerIdle (t : State) (b : Nat) : State :=
  ((t.setPacer b { (t.block b).pacer with run := .idle }).checkJoint (gangOfBlock b)).checkDeadlock b

def execTend (_m : BitVec 1) (t : State) : Res :=
  let p := t.pacer
  if p.flight = [] then .next (t.pacerIdle t.actor) else .next (t.setPacer t.actor { p with run := .ending })

-- Work: operand accesses ------------------------------------------------------------------------------------------------

/-- A failing access: its address and cause, with what the report of a page not present carries (15 R291). One whose walk
reads uncorrectable data has cause 0x12. -/
structure TileFail where
  va : BitVec 64
  cause : BitVec 8
  walk : Bool := false
  level : Nat := 0
  entry : Nat := 0
  deriving DecidableEq, Repr, Inhabited

/-- Check accesses in order (R234): their machine addresses, and the failing ones with their causes. -/
def State.tileCheck (t : State) (b : Nat) (kind : Kind) (as : List (BitVec 64 × Nat)) : State × List Nat × List TileFail :=
  as.foldl (fun acc a =>
    match acc.1.access b kind a.1 a.2 with
    | (u, .ok m _) => (u, acc.2.1 ++ [m], acc.2.2)
    | (u, .bad c) => (u, acc.2.1 ++ [0], acc.2.2 ++ [{ va := a.1, cause := c }])
    | (u, .absent w l e) => (u, acc.2.1 ++ [0], acc.2.2 ++ [{ va := a.1, cause := 0x05, walk := w, level := l, entry := e }])
    | (u, .corrupt _) => (u, acc.2.1 ++ [0], acc.2.2 ++ [{ va := a.1, cause := 0x12 }])) (t, [], [])

/-- An instruction in flight leaves it: the Pacer is to start at its word again, one that is stopped at an earlier fault once its
handlers have returned. -/
def State.dropOp (t : State) (b : Nat) (o : TileOp) (rpr : BitVec 32) : State :=
  let p := (t.block b).pacer
  let y := { p with flight := p.flight.filter (fun x => x.serial ≠ o.serial), rpr := rpr, tpc := o.pc }
  t.setPacer b (if p.run = .stopped then { y with again := p.met + 1 } else { y with run := .running })

/-- RPR of the word as a fault of it finds it, for one that can stop part-way. -/
def TileOp.part (o : TileOp) (rpr : BitVec 32) : Option (BitVec 32) :=
  match o.instr with
  | .tmma _ _ _ => some rpr
  | .tmmaj _ _ _ _ _ => some rpr
  | _ => none

/-- A member of a joint instruction by its JSEQ and its word. -/
def State.jointMembers (t : State) (b : Nat) (o : TileOp) : List Nat :=
  match o.instr with
  | .tmmaj _ _ _ _ _ => t.blocksOf (gangOfBlock b)
  | _ => [b]

/-- A fault met by block b's part of an instruction: the instruction leaves every member's flight with the same RPR, to be issued
again (R238, R239). -/
def State.dropAll (t : State) (b : Nat) (o : TileOp) (rpr : BitVec 32) : State :=
  (t.jointMembers b o).foldl (fun u c =>
    if c = b then u.dropOp c o rpr
    else match (u.block c).pacer.joint? with
      | some k => u.dropOp c k rpr
      | none => u) t

/-- Failing accesses of a tile word (R239): all page not present, the fault swap, an instruction issued before a stop staying
in flight; otherwise the first of the rest. -/
def State.tileAccessFault (t : State) (b : Nat) (o : TileOp) (rpr : BitVec 32) (fs : List TileFail) : State :=
  match fs.find? (fun f => f.cause ≠ 0x05) with
  | some f =>
    if f.cause = 0x12 then (t.dropAll b o rpr).tileFault b f.va o.pc 0x0C 10 (o.part rpr)
    else (t.dropAll b o rpr).tileFault b f.va o.pc f.cause.toNat 4 (o.part rpr)
  | none =>
    match fs with
    | [] => t
    | f :: _ =>
      (if (t.block b).pacer.run = .stopped then t else t.dropAll b o rpr).pageFault (squadKey b 0) f.va f.walk f.level f.entry

/-- First address of a list that holds uncorrectable data, with its virtual address. -/
def State.badOperand (t : State) (as : List ((BitVec 64 × Nat) × Nat)) : Option (BitVec 64) :=
  (as.find? (fun a => t.isBad a.2 a.1.2)).map (fun a => a.1.1)

/-- Some read stalls in the weight store (09 R194; 17 R332). -/
def State.tileStalls (t : State) (as : List Nat) : Bool := as.any (fun a => t.wsLocked a || t.wsRefreshing a)

/-- Element format of a kind that is not BFP. -/
def kindFmt (k : BitVec 3) : FFmt := if k = 1 then bf16 else fp32
def kindBytes (k : BitVec 3) : Nat := if k = 1 then 2 else 4

/-- Accesses of row or column r for panel p (Table 11-3): the exponent byte and the planes, or the elements. -/
def Descr.accesses (d : Descr) (k : BitVec 3) (n r p : Nat) : List (BitVec 64 × Nat) :=
  let row := d.m + BitVec.ofNat 64 r * d.s
  if k = 0 then
    (d.x + BitVec.ofNat 64 r * d.xs + BitVec.ofNat 64 p, 1) ::
      (List.range n).map (fun j => (row + BitVec.ofNat 64 (4 * n * p + 4 * j), 4))
  else (List.range 32).map (fun j => (row + BitVec.ofNat 64 (kindBytes k * (32 * p + j)), kindBytes k))

/-- One operand row of a panel as read: the exponent byte (0 for a kind without one) and 32 elements, mantissas for BFP. -/
structure PanelRow where
  exp : Nat
  ms : List Int
  vs : List FVal
  deriving DecidableEq, Repr, Inhabited

/-- Read a row at its machine addresses. -/
def State.panelRow (t : State) (k : BitVec 3) (n : Nat) (ftz : Bool) (as : List Nat) : PanelRow :=
  if k = 0 then
    match as with
    | [] => ⟨0, [], []⟩
    | x :: ps =>
      let words := ps.map (fun a => t.read a 4)
      ⟨t.read x 1, lanes32.map (fun i => sextNat n ((List.range n).map (fun j => listAt words j 0 / 2 ^ i % 2 * 2 ^ j)).sum), []⟩
  else ⟨0, [], as.map (fun a => (kindFmt k).read ftz (t.read a (kindBytes k)))⟩

/-- Σ of the products of two mantissa rows. -/
def dotInt (a b : List Int) : Int := ((a.zip b).map (fun x => x.1 * x.2)).sum

/-- A product as a term of an exact sum. -/
def prodVal (a b : FVal) : FVal := (fmulVal a b).1

/-- The panel step of one element (Table 11-4): the new word and whether it clamped. -/
def panelStep (f : TileFormat) (acc : BitVec 32) (a b : PanelRow) : BitVec 32 × Bool :=
  let ftz : Bool := f.ftz = 1
  let rnd := fun (mode : BitVec 2) (w : BitVec 32) (xs : List FVal) =>
    slice (fp32.sum mode ftz (fp32.read ftz w.toNat :: xs)).v 0 32
  if f.ak = 0 then
    let P := dotInt a.ms b.ms
    if f.acct = 1 then
      let Q := if a.exp = 0 ∨ b.exp = 0 then 0 else P
      let lim : Int := 2 ^ 31 - 1
      let v := acc.toInt + Q
      let w := min (max v (-lim)) lim
      (BitVec.ofInt 32 w, decide (w ≠ v))
    else if a.exp = 255 ∨ b.exp = 255 then (0x7FC00000, false)
    else if a.exp = 0 ∨ b.exp = 0 then (acc, false)
    else
      let e : Int := (a.exp : Int) + b.exp - 254 - ((f.an.toNat : Int) - 2) - ((f.bn.toNat : Int) - 2)
      (rnd 0 acc [.num (P < 0) P.natAbs e], false)
  else if f.ord = 0 then
    ((a.vs.zip b.vs).foldl (fun w x =>
      slice (fp32.fma f.rm ftz x.1 x.2 (fp32.read ftz w.toNat)).v 0 32) acc, false)
  else
    ((List.range 8).foldl (fun w g =>
      rnd f.rm w (((a.vs.zip b.vs).drop (4 * g)).take 4 |>.map (fun x => prodVal x.1 x.2))) acc, false)

/-- Cell of accumulator element (i, c). -/
abbrev accCell (a i c : Nat) : Nat := 4096 * a + 64 * i + c

/-- One panel into an accumulator: rows and columns as read. -/
def Block.panel (x : Block) (f : TileFormat) (a : Nat) (rows cols : List PanelRow) : Block :=
  (List.range 64).foldl (fun y i => (List.range 64).foldl (fun z c =>
    let r := panelStep f (cellGet z.accs (accCell a i c)) (listAt rows i default) (listAt cols c default)
    { z with accs := cellPut z.accs (accCell a i c) r.1,
             pacer := { z.pacer with asat := if r.2 then z.pacer.asat ||| BitVec.ofNat 4 (2 ^ a) else z.pacer.asat } }) y) x

/-- Replace an instruction in flight. -/
def Pacer.setOp (p : Pacer) (o : TileOp) : Pacer := { p with flight := p.flight.map (fun x => if x.serial = o.serial then o else x) }

/-- First exponent byte that breaks the condition of R236, and the exponents the execution has read first. -/
def expScan (first : Option (BitVec 8)) (es : List (BitVec 64 × Nat)) : Option (BitVec 64) × Option (BitVec 8) :=
  match es with
  | [] => (none, first)
  | (va, e) :: rest =>
    let want := match first with | some f => f.toNat | none => e
    if e = 255 ∨ e ≠ want then (some va, first) else expScan (some (BitVec.ofNat 8 want)) rest

/-- What a panel of one operand reads, by row: accesses and machine addresses. -/
abbrev Fetched := List (List ((BitVec 64 × Nat) × Nat))

/-- Cut a list into pieces of n, k of them. -/
def cut {α : Type} (n k : Nat) (l : List α) : List (List α) :=
  match k with
  | 0 => []
  | j + 1 => l.take n :: cut n j (l.drop n)

/-- The outcome of fetching a panel: nothing yet, a fault taken, or both operands. -/
inductive PanelFetch where
  | stall
  | fault (t : State)
  | got (t : State) (rows cols : List PanelRow) (expA expB : Option (BitVec 8))
  deriving Inhabited

/-- Fetch panel p of an instruction: nrows rows of A, then as many columns of B, with the checks of R234, R236 and R239. -/
def State.fetchPanel (t : State) (b : Nat) (o : TileOp) (nrows p : Nat) : PanelFetch :=
  let rpr := BitVec.ofNat 32 (32 * p)
  let f := o.fmt
  let acA := (List.range nrows).flatMap (fun r => o.da.accesses f.ak f.an.toNat r p)
  let acB := (List.range nrows).flatMap (fun r => o.db.accesses f.bk f.bn.toNat r p)
  match t.tileCheck b .read (acA ++ acB) with
  | (u, ms, fs) =>
    if fs ≠ [] then .fault (u.tileAccessFault b o rpr fs)
    else if u.tileStalls ms then .stall
    else
      let all := (acA ++ acB).zip ms
      match u.badOperand all with
      | some va => .fault ((u.dropAll b o rpr).tileFault b va o.pc 0x0C 10 (o.part rpr))
      | none =>
        let per := acA.length / nrows
        let perB := acB.length / nrows
        let fa := cut per nrows (all.take acA.length)
        let fb := cut perB nrows (all.drop acA.length)
        let rows := fa.map (fun r => u.panelRow f.ak f.an.toNat (f.ftz = 1) (r.map (·.2)))
        let cols := fb.map (fun r => u.panelRow f.bk f.bn.toNat (f.ftz = 1) (r.map (·.2)))
        let exps := fun (fetched : Fetched) (rs : List PanelRow) =>
          (fetched.zip rs).map (fun x => ((match x.1 with | [] => (0 : BitVec 64) | a :: _ => a.1.1), x.2.exp))
        let seen := u.observeAll (.pacer b) (all.map (fun a => (a.2, a.1.2)))
        if f.acct = 1 then
          match expScan o.expA (exps fa rows), expScan o.expB (exps fb cols) with
          | (some va, _), _ => .fault ((u.dropAll b o rpr).tileFault b va o.pc 0x0C 6 (o.part rpr))
          | _, (some va, _) => .fault ((u.dropAll b o rpr).tileFault b va o.pc 0x0C 6 (o.part rpr))
          | (none, ea), (none, eb) => .got seen rows cols ea eb
        else .got seen rows cols o.expA o.expB

/-- One panel of a TMMA (R235). -/
def State.workTmma (t : State) (b : Nat) (o : TileOp) (acc kp : Nat) : State :=
  match t.fetchPanel b o 64 o.progress with
  | .stall => t
  | .fault u => u
  | .got u rows cols ea eb =>
    let x := (u.block b).panel o.fmt acc rows cols
    let p := o.progress + 1
    let rpr : BitVec 32 := if p = kp then 0 else BitVec.ofNat 32 (32 * p)
    u.setBlock b { x with pacer := { x.pacer.setOp { o with progress := p, expA := ea, expB := eb, paused := false } with rpr := rpr } }

/-- Fetch the same panel for the members of a joint instruction, in BLKID order; a fault in one stops all with the same
RPR, and the others issue their word again and wait with it. -/
def State.fetchJoint (t : State) (bs : List Nat) (p : Nat) (ea eb : Option (BitVec 8)) (rows cols : List PanelRow) : PanelFetch :=
  match bs with
  | [] => .got t rows cols ea eb
  | b :: rest =>
    match (t.block b).pacer.joint? with
    | none => .stall
    | some o =>
      match t.fetchPanel b { o with expA := ea, expB := eb } 32 p with
      | .got u r c fa fb => u.fetchJoint rest p fa fb (rows ++ r) (cols ++ c)
      | other => other

/-- One panel of a joint TMMAJ, by all four members (R238): member q takes rows 64(q div 2) and columns 64(q mod 2) on. -/
def State.workTmmaj (t : State) (b : Nat) : State :=
  let g := gangOfBlock b
  let bs := t.blocksOf g
  let ops := bs.filterMap (fun c => (t.block c).pacer.joint?)
  match ops with
  | [] => t
  | o :: _ =>
    if ops.length ≠ 4 ∨ ops.any (fun x => x.progress ≠ o.progress) then t
    else
      let p := o.progress
      match t.fetchJoint bs p o.expA o.expB [] [] with
      | .stall => t
      | .fault u => u
      | .got u rows cols ea eb =>
        let v := bs.foldl (fun s c =>
          match (s.block c).pacer.joint? with
          | none => s
          | some q =>
            match q.instr with
            | .tmmaj _ acc kp bar cnt =>
              let k := c % 4
              let x := (s.block c).panel q.fmt acc.toNat ((rows.drop (64 * (k / 2))).take 64) ((cols.drop (64 * (k % 2))).take 64)
              let last := p + 1 = kp.toNat
              let rpr : BitVec 32 := if last then 0 else BitVec.ofNat 32 (32 * (p + 1))
              let y := x.pacer.setOp { q with progress := p + 1, expA := ea, expB := eb, paused := false }
              let s1 := s.setBlock c { x with pacer := { y with rpr := rpr, jseq := if last then y.jseq + 1 else y.jseq } }
              if last then s1.arrive c pacerParty bar.toNat cnt.toNat q.word else s1
            | _ => s) u
        v

-- Work: draining and moving accumulators (R241, R242) ------------------------------------------------------------------

/-- Accesses of row i of TLDC, TSTC and of a TDRAIN of format OF: the element words, then the exponent bytes. -/
def rowAccesses (ofm n : Nat) (ta : List (BitVec 64)) (xs : BitVec 20) (i : Nat) : List (BitVec 64 × Nat) :=
  let row := argAt ta 0 + BitVec.ofNat 64 i * argAt ta 1
  match ofm with
  | 0 => (List.range 64).map (fun c => (row + BitVec.ofNat 64 (4 * c), 4))
  | 1 => (List.range 64).map (fun c => (row + BitVec.ofNat 64 (2 * c), 2))
  | _ =>
    (List.range (2 * n)).map (fun k => (row + BitVec.ofNat 64 (4 * k), 4)) ++
      (List.range 2).map (fun j => (argAt ta 2 + BitVec.ofNat 64 i * xs.setWidth 64 + BitVec.ofNat 64 j, 1))

/-- Write the elements of a row, whole flits clearing the units they cover (16 R366). -/
def State.writeRow (t : State) (b : Nat) (ws : List (Nat × Nat × Nat)) : State :=
  let u := t.writeElems (.pacer b) ws
  { u with bad := u.bad.filter (fun k => ((ws.filter (fun w => w.1 / 32 = k)).map (fun w => w.2.1)).sum < 32) }

/-- An accumulator element as a value. -/
def accVal (f : TileFormat) (w : BitVec 32) (ftz : Bool) : FVal :=
  if f.acct = 1 then .num (w.toInt < 0) w.toInt.natAbs 0 else fp32.read ftz w.toNat

/-- What a TDRAIN writes for row i, in the order of rowAccesses. FTZ flushes the FP32 and BF16 results, and the FP32 elements
that bfpq quantises (06 R146). -/
def drainRow (f : TileFormat) (rm : BitVec 2) (ofm n : Nat) (row : List (BitVec 32)) : List Nat :=
  let ftz : Bool := f.ftz = 1
  let one := fun (g : FFmt) (w : BitVec 32) =>
    (g.ofVal rm ftz (accVal f w false)).v.toNat
  match ofm with
  | 0 => row.map (one fp32)
  | 1 => row.map (one bf16)
  | _ =>
    let q := fun (j : Nat) => bfpq (((row.drop (32 * j)).take 32).map (fun w => accVal f w (ftz && f.acct = 0))) n
    let planes := fun (j : Nat) => (List.range n).map (fun k => plane (q j).2.1 k)
    planes 0 ++ planes 1 ++ [(q 0).1, (q 1).1]

/-- g of R241: the largest magnitude as FP32 bits rounded up, and whether some element is a NaN. -/
def drainMax (f : TileFormat) (ws : List (BitVec 32)) : Nat × Bool :=
  if f.acct = 1 then
    let big := ws.foldl (fun a w => max a w.toInt.natAbs) 0
    ((fp32.round 3 false false big 0).v.toNat, false)
  else
    (ws.foldl (fun a w => if (fp32.read false w.toNat).isNan then a else max a (w.toNat % 2 ^ 31)) 0,
     ws.any (fun w => (fp32.read false w.toNat).isNan))

def Block.accRow (x : Block) (a i : Nat) : List (BitVec 32) := (List.range 64).map (fun c => cellGet x.accs (accCell a i c))

/-- Clear an accumulator and its ASAT. -/
def Block.clearAcc (x : Block) (a : Nat) : Block :=
  { x with accs := cellClear x.accs (4096 * a) 4096, pacer := { x.pacer with asat := x.pacer.asat &&& ~~~(BitVec.ofNat 4 (2 ^ a)) } }

/-- The row a word works on next: row n where it is still to do, else the first that is (10 R219). -/
def TileOp.nextRow (o : TileOp) (n : Nat) : Nat :=
  if n < 64 ∧ n ∉ o.rows then n else ((List.range 64).find? (fun i => !(o.rows.contains i))).getD 0

/-- The step of a draining or moving word: the check of all its accesses first (R239), then a row at a time, in any order, then the
amax merge and the clear of a TDRAIN. -/
def State.workRows (t : State) (b n0 : Nat) (o : TileOp) (kind : Kind) (ofm n : Nat) (xs : BitVec 20)
    (amax : Option (BitVec 64)) (row : State → Nat → List Nat → State) (fin : State → State) (last : Nat) : State :=
  let i := o.nextRow n0
  let stepped := fun (rows : List Nat) (u : State) =>
    let p := (u.block b).pacer
    u.setPacer b (p.setOp { o with progress := o.progress + 1, rows := rows, paused := false })
  let step := stepped o.rows
  if o.progress = 0 then
    let rows := (List.range 64).flatMap (rowAccesses ofm n o.ta xs)
    match t.tileCheck b kind rows with
    | (u, _, fs) =>
      let r := match amax with
        | none => (u, fs)
        | some w => (match u.tileCheck b .write [(w, 4)] with | (v, _, gs) => (v, fs ++ gs))
      if r.2 ≠ [] then r.1.tileAccessFault b o (t.block b).pacer.rpr r.2 else step r.1
  else if o.progress ≤ 64 then
    match t.tileCheck b kind (rowAccesses ofm n o.ta xs i) with
    | (u, ms, fs) =>
      if fs ≠ [] then u.tileAccessFault b o (t.block b).pacer.rpr fs
      else if kind = .read ∧ u.tileStalls ms then t
      else
        match (if kind = .read then u.badOperand ((rowAccesses ofm n o.ta xs i).zip ms) else none) with
        | some va => (u.dropAll b o (t.block b).pacer.rpr).tileFault b va o.pc 0x0C 10
        | none => stepped (i :: o.rows) (row u i ms)
  else if o.progress + 1 ≤ last then
    match amax with
    | none => step (fin t)
    | some w =>
      match t.tileCheck b .write [(w, 4)] with
      | (u, ms, fs) =>
        if fs ≠ [] then u.tileAccessFault b o (t.block b).pacer.rpr fs
        else if u.isBad (listAt ms 0 0) 4 then (u.dropAll b o (t.block b).pacer.rpr).tileFault b w o.pc 0x0C 10
        else step (fin u)
  else t

/-- The merge into the amax word at machine address a (R241). -/
def State.mergeAmax (t : State) (b a : Nat) (g : Nat) (sign : Bool) : State :=
  let w := t.read a 4
  t.devRmw (.pacer b) a 4 (max (w % 2 ^ 31) (g % 2 ^ 31) + (if w / 2 ^ 31 = 1 ∨ sign then 2 ^ 31 else 0))

/-- Panels or rows an instruction is made of. -/
def TileOp.total (o : TileOp) : Nat :=
  match o.instr with
  | .tmma _ _ kp => kp.toNat
  | .tmmaj _ _ kp _ _ => kp.toNat
  | .tzero _ _ => 1
  | .tdrain .. => 66
  | _ => 65

/-- The arrays have done all of it. -/
def TileOp.worked (o : TileOp) : Bool := o.total ≤ o.progress

/-- Rows lo .. lo + n - 1 of a block's accumulator hold uncorrectable data (16 R366). -/
def State.accBad (t : State) (b a lo n : Nat) : Bool := t.isBad (accUnit b (accCell a lo 0)) (256 * n)

/-- The step of an instruction that comes next reads accumulator elements that hold such data: a panel step all of them, a row its
own, the amax merge all. -/
def State.readsBadAcc (t : State) (b n0 : Nat) (o : TileOp) : Bool :=
  let row := fun (acc : BitVec 2) => decide (o.progress ≠ 0) &&
    (if o.progress ≤ 64 then t.accBad b acc.toNat (o.nextRow n0) 1 else t.accBad b acc.toNat 0 64)
  match o.instr with
  | .tmma _ acc _ => t.accBad b acc.toNat 0 64
  | .tmmaj _ acc _ _ _ => t.accBad b acc.toNat 0 64
  | .tstc _ acc _ _ => row acc
  | .tdrain _ acc _ _ _ _ amx _ _ _ _ _ => row acc && (decide (o.progress ≤ 64) || decide (amx = 1))
  | _ => false

/-- The member of an instruction whose step would read them, with its part of it. -/
def State.badAccOf (t : State) (b n0 : Nat) (o : TileOp) : Option (Nat × TileOp) :=
  ((t.jointMembers b o).map (fun c => (c, if c = b then o else ((t.block c).pacer.joint?).getD o))).find? (fun e => t.readsBadAcc e.1 n0 e.2)

/-- The elements of an accumulator are written whole: their units hold what is written (16 R366). -/
def State.wroteAcc (t : State) (b a lo n : Nat) : State := t.clearBad (accUnit b (accCell a lo 0)) (256 * n)

/-- One panel, row or step of an instruction in flight; n is the row to take where any may come next. -/
def State.workOp (t : State) (b n0 : Nat) (o : TileOp) : State :=
  match t.badAccOf b n0 o with
  | some (c, k) =>
    let rpr := match k.part 0 with | some _ => BitVec.ofNat 32 (32 * k.progress) | none => (t.block c).pacer.rpr
    (t.dropAll c k rpr).tileFault c (Config.unitAddress (accUnit c 0)) k.pc 0x0C 10 (k.part rpr)
  | none =>
  match o.instr with
  | .tmma _ acc kp => t.workTmma b o acc.toNat kp.toNat
  | .tmmaj _ _ _ _ _ => t.workTmmaj b
  | .tzero _ acc =>
    let x := (t.block b).clearAcc acc.toNat
    (t.setBlock b { x with pacer := x.pacer.setOp { o with progress := 1, paused := false } }).wroteAcc b acc.toNat 0 64
  | .tldc _ acc _ _ =>
    t.workRows b n0 o .read 0 0 0 none (fun u i ms =>
      let x := u.block b
      let y := { x with accs := cellPutList x.accs (accCell acc.toNat i 0) (ms.map (fun a => BitVec.ofNat 32 (u.read a 4))) }
      ((u.observeAll (.pacer b) (ms.map (fun a => (a, 4)))).setBlock b { y with pacer := { y.pacer with
        asat := y.pacer.asat &&& ~~~(BitVec.ofNat 4 (2 ^ acc.toNat)) } }).wroteAcc b acc.toNat i 1) id 65
  | .tstc _ acc _ _ =>
    t.workRows b n0 o .write 0 0 0 none (fun u i ms =>
      u.writeRow b ((ms.zip ((u.block b).accRow acc.toNat i)).map (fun x => (x.1, 4, x.2.toNat)))) id 65
  | .tdrain _ acc _ _ _ _ amx clr ofm n rm xs =>
    let a := acc.toNat
    t.workRows b n0 o .write ofm.toNat n.toNat xs (if amx = 1 then some (argAt o.ta 3) else none)
      (fun u i ms =>
        let vs := drainRow o.fmt rm ofm.toNat n.toNat ((u.block b).accRow a i)
        let len := (rowAccesses ofm.toNat n.toNat o.ta xs i).map (·.2)
        u.writeRow b ((ms.zip (len.zip vs)).map (fun x => (x.1, x.2.1, x.2.2))))
      (fun u =>
        let ws := (List.range 64).flatMap ((u.block b).accRow a)
        let g := drainMax o.fmt ws
        let sat := bitAt (u.block b).pacer.asat a
        let v := if amx = 1 then
            (match (u.access b .write (argAt o.ta 3) 4) with
             | (w, .ok m _) => w.mergeAmax b m g.1 (g.2 || sat)
             | (w, _) => w)
          else u
        if clr = 1 then (v.setBlock b ((v.block b).clearAcc a)).wroteAcc b a 0 64 else v) 66
  | _ => t

/-- The instruction a block has for the arrays: the oldest in flight that is not all done. -/
def Pacer.todo? (p : Pacer) : Option TileOp := p.flight.find? (fun o => !o.worked)

/-- The arrays are in the middle of it. -/
def TileOp.begun (o : TileOp) : Bool := decide (o.start < o.progress) && !o.worked && !o.paused

/-- The other blocks that work on a block's core: those of a gang that has left its cores among them, until its images are
spilled (16 R317). -/
def State.coreMates (t : State) (b : Nat) : List Nat :=
  let g := t.gang (gangOfBlock b)
  let here := t.gangs.filter (fun e => decide (e.2.ret = g.ret) && !e.2.spilled)
  (here.flatMap (fun e => t.blocksOf e.1)).filter (fun c => c ≠ b && t.coreNo c = t.coreNo b)

/-- The arrays of block b's core are in the middle of another block's instruction: they take one whole instruction at a
time (01 R24). -/
def State.arraysBusy (t : State) (b : Nat) : Bool := (t.coreMates b).any (fun c => (t.block c).pacer.flight.any TileOp.begun)

/-- The Pacer of block b has an instruction the arrays can take: a joint one only once all four members have issued it; none once
the block's images stand in its gang's frame. -/
def State.arraysReady (t : State) (b : Nat) : Bool :=
  match (t.block b).pacer.todo? with
  | none => false
  | some o =>
    if (t.gang (gangOfBlock b)).spilled then false
    else match o.instr with
    | .tmmaj _ _ _ _ _ => decide (((t.blocksOf (gangOfBlock b)).filterMap (fun c => (t.block c).pacer.joint?)).length = 4)
    | _ => true

/-- Block b's turn has come on its core: no other ready Pacer there has waited longer for the arrays, the lower block first where
two have waited equally (01 R24, log 46). -/
def State.arraysTurn (t : State) (b : Nat) : Bool :=
  let mine := (t.block b).pacer.served
  !((t.coreMates b).any (fun c =>
    t.arraysReady c && (decide ((t.block c).pacer.served < mine) || (decide ((t.block c).pacer.served = mine) && decide (c < b)))))

/-- The arrays begin with an instruction of each of these blocks. -/
def State.serve (t : State) (bs : List Nat) : State :=
  bs.foldl (fun u c => let p := (u.block c).pacer; u.setPacer c { p with served := u.clock + 1 }) t

/-- Work on the oldest instruction in flight that is not all done, row n of it where its rows may come in any order. It is begun in
round-robin order among the ready Pacers of the core; a joint one when its turn has come on one member's core and the arrays of
all four members are free. -/
def State.tileWork (t : State) (b n0 : Nat) : State :=
  match (t.block b).pacer.todo? with
  | some o =>
    let bs := t.jointMembers b o
    if bs.any t.arraysBusy ∨ (t.gang (gangOfBlock b)).spilled then t
    else if o.begun then t.workOp b n0 o
    else if t.arraysReady b = false ∨ !(bs.any t.arraysTurn) then t
    else
      let u := t.workOp b n0 o
      if (u.block b).pacer.todo? = some o then u else u.serve bs
  | none => t

/-- The oldest instruction in flight completes once its work is done; then a held Pacer goes on and a TEND ends. -/
def execTileInstructionComplete (b : Nat) (t : State) : Res :=
  let p := (t.block b).pacer
  match p.flight with
  | [] => .next t
  | o :: rest =>
    if o.worked = false then .next t
    else
      let run : PacerRun := match p.run with | .held => if rest = [] then .running else .held | r => r
      let u := t.setPacer b { p with flight := rest, run := run }
      let v := if run = .ending ∧ rest = [] then u.pacerIdle b else u
      .next (v.barriers b)

end Sys2Proof.Machine
end

