-- ==== Sys2Proof/Machine/Divergence.lean ====
section
/-! DEFINITION. Divergence (08 R171 to R184): the arrival of a squad at a collective word, the checks and effects of DIVB,
ELSEB, RECV and REGRP once every participant has arrived, the lanes' moves, and in-place divergence in a handler. -/

namespace Sys2Proof.Machine

/-- L and S of a divergence word, in registers (R173). -/
def divL (f : LaneForm) : Nat := 4 * (slice f.mod.arg 0 10).toNat
def divS (f : LaneForm) : Nat := (slice f.mod.arg 10 6).toNat

/-- TVAL of a divergence fault (Table 8-4). -/
def divTval (sub detail : Nat) : BitVec 64 := BitVec.ofNat 64 (detail * 65536 + sub)

/-- A squad's divergence word faults. -/
def State.divFault (t : State) (q sub detail : Nat) : State :=
  t.raise q ((t.squad q).laneTrap 0 0x0A 0 (divTval sub detail) tdstNone)

/-- The squads of a block that wait at a divergence word. -/
def State.diverging (t : State) (b : Nat) : List Nat :=
  (t.unexited b).filter (fun q => match (t.squad q).run with | .diverge _ => true | _ => false)

/-- Parked in SYNC or YIELD, or in SYSC, which counts as SYNC (17 R329); a squad in its handler is not (16 R306). -/
def Squad.absent (x : Squad) : Bool :=
  match x.run with
  | .sync _ _ => true
  | .yield _ _ _ => true
  | .sysc _ => x.handler = none
  | _ => false

/-- Every unexited squad waits at a divergence word or is absent, and some of each: the waiting ones fault with SUB 6
(R172). -/
def State.checkAbsent (t : State) (b : Nat) : State :=
  let ds := t.diverging b
  let qs := t.unexited b
  if ds ≠ [] ∧ ds ≠ qs ∧ qs.all (fun q => ds.contains q || (t.squad q).absent) then
    ds.foldl (fun s q => s.divFault q 6 0) t
  else t

/-- A squad arrives at its divergence word, no result of it being outstanding; outside a handler it parks (R172, R183). -/
def State.divArrive (t : State) (op : LaneOp) (f : LaneForm) (own : State → Res) : Res :=
  t.laneIssue op f (fun x _ =>
    if x.vws < divL f then .next (t.trapL 0 0x02 0 (BitVec.ofNat 64 (divL f)) tdstNone)
    else if x.out ≠ [] then .next (t.setSq { x with run := .parked })
    else if x.handler.isSome then own t
    else .next ((t.setSq { x.endRegion with run := .diverge (encodeForm op f) }).checkAbsent (blockOfSquad t.actor)))

-- Lanes that move (R174, R179) ---------------------------------------------------------------------------------------------

/-- What a lane carries under live set L: LANEID, its bits of m1..m15, v0..v(L-1). -/
def Squad.takeLane (x : Squad) (q l n : Nat) : HeldLane :=
  { sq := q, l := l, id := cellGet x.laneids l,
    bits := (List.range 15).foldl (fun b k => if bitAt (cellGet x.masks (k + 1)) l then b ||| BitVec.ofNat 16 (2 ^ (k + 1)) else b) 0,
    regs := (List.range n).foldl (fun c r => cellPut c r (x.readV r l)) [] }

/-- Put a lane's carried state at position l. -/
def Squad.putLane (x : Squad) (h : HeldLane) (l n : Nat) : Squad :=
  let ms := (List.range 15).foldl (fun m k =>
    let v := cellGet m (k + 1)
    cellPut m (k + 1) (if bitAt h.bits (k + 1) then v ||| BitVec.ofNat 32 (2 ^ l) else v &&& ~~~(BitVec.ofNat 32 (2 ^ l)))) x.masks
  let y := { x with laneids := cellPut x.laneids l h.id, masks := ms }
  (List.range n).foldl (fun z r => z.writeV r l (cellGet h.regs r)) y

def State.takeLanes (t : State) (ls : List (Nat × Nat)) (n : Nat) : List HeldLane :=
  ls.map (fun x => (t.squad x.1).takeLane x.1 x.2 n)

/-- m0 and occupied positions of participant i when k lanes are packed (R174). -/
def packedMask (k i : Nat) : BitVec 32 := BitVec.ofNat 32 (2 ^ min 32 (k - 32 * i) - 1)

/-- Put lanes at positions. -/
def State.putLanes (t : State) (hs : List HeldLane) (at_ : List (Nat × Nat)) (n : Nat) : State :=
  (hs.zip at_).foldl (fun s x => s.setSquad x.2.1 ((s.squad x.2.1).putLane x.1 x.2.2 n)) t

/-- Number a list from 0. -/
def numbered {α : Type} (xs : List α) : List (Nat × α) := (List.range xs.length).zip xs

/-- place(P) for lanes already taken from their positions: pack them and set m0 and the occupied positions. -/
def State.packLanes (t : State) (qs : List Nat) (hs : List HeldLane) (n : Nat) : State :=
  let t1 := t.putLanes hs (positionsOf qs hs.length) n
  (numbered qs).foldl (fun s x =>
    let m := packedMask hs.length x.1
    let y := s.squad x.2
    s.setSquad x.2 { y with masks := cellPut y.masks 0 m, lanes := m }) t1

-- Constructs (R175, R176) ------------------------------------------------------------------------------------------------------

/-- Every lane back at its original position (R176). -/
def State.returnLanes (t : State) (c : Construct) : State :=
  let now := lanesOf c.path
  let moved := (t.takeLanes (positionsOf c.squads now.length) c.l)
  let t1 := t.putLanes moved now c.l
  let t2 := c.held.foldl (fun s h => s.setSquad h.sq ((s.squad h.sq).putLane h h.l c.l)) t1
  c.lanes.foldl (fun s x => s.setSquad x.1 { s.squad x.1 with lanes := x.2 }) t2

/-- Hold aside every lane of the arrangement but those of P, and pack P (R174): the state and the held lanes. A position that
holds no lane and whose m0 bit a program has set is moved as a lane where it is on the path, and is not held aside where it is
not: the spec does not speak of it (log 43, DESIGN CHOICE). -/
def State.placeLanes (t : State) (c : Construct) (p : List (Nat × BitVec 32)) : State × List HeldLane :=
  let keep := lanesOf p
  let all := lanesOf c.lanes
  let held := t.takeLanes (all.filter (fun x => !(keep.contains x))) c.l
  (t.packLanes c.squads (t.takeLanes keep c.l) c.l, held)

/-- broadcast_scalars (R177). -/
def State.broadcast (t : State) (c : Construct) : State :=
  if c.l = 0 ∨ (lanesOf c.path).isEmpty then t
  else
    let lead := t.squad (c.squads.headD 0)
    let vs := (List.range c.s).map (fun i => lead.readS (BitVec.ofNat 6 (16 + i)))
    c.squads.foldl (fun s q => s.setSquad q ((numbered vs).foldl (fun x v => x.writeS (BitVec.ofNat 6 (16 + v.1)) v.2) (s.squad q))) t

/-- check_uniform(S) (R177): DETAIL, or none when all agree. -/
def State.uniform (t : State) (qs : List Nat) (n : Nat) : Option Nat :=
  let x := t.squad (qs.headD 0)
  let r := (List.range n).find? (fun i => qs.any (fun q =>
    (t.squad q).readS (BitVec.ofNat 6 (16 + i)) ≠ x.readS (BitVec.ofNat 6 (16 + i))))
  match r with
  | some i => some (16 + i)
  | none => if qs.any (fun q => (t.squad q).fmt ≠ x.fmt) then some 0xFFFF else none

def State.setM0 (t : State) (q : Nat) (m : BitVec 32) : State := t.setSquad q ((t.squad q).writeM 0 m)

def State.setStack (t : State) (b : Nat) (st : List Construct) : State := t.setBlock b { t.block b with stack := st }

/-- All participants fault, in ascending SQID order: the spec gives them no order, which decides whose marker finds the stack
full, and whom a report names first (08 R182; log 43, DESIGN CHOICE). -/
def State.divFaults (t : State) (qs : List Nat) (sub detail : Nat) : State := qs.foldl (fun s q => s.divFault q sub detail) t

/-- The words of all participants are done: a release and an acquire at .blk by each (R181, R184). -/
def State.resumeAll (t : State) (qs : List Nat) (m : BitVec 1) : State :=
  qs.foldl (fun s q => s.setSquad q ({ s.squad q with run := .running }.laneAdvance (m = 1))) (t.syncAll (qs.map .squad))

/-- DIVB takes effect (R175). -/
def State.divb (t : State) (b : Nat) (qs : List Nat) (f : LaneForm) : State :=
  let n := divL f
  if t.entriesInUse b = 32 then t.divFaults qs 2 0
  else
    match (if n = 0 then none else t.uniform qs (divS f)) with
    | some d => t.divFaults qs 4 d
    | none =>
      let parts := qs.map (fun q =>
        let x := t.squad q
        (⟨q, x.readM 0, x.readM 0 &&& ~~~(x.readM f.va.mreg), x.fmt⟩ : Sys2Proof.Machine.Part))
      let c : Construct := ⟨parts, n, divS f, false, [], qs.map (fun q => (q, (t.squad q).lanes))⟩
      let r := if n = 0 then (c.path.foldl (fun s p => s.setM0 p.1 p.2) t, []) else t.placeLanes c c.path
      (r.1.setStack b ({ c with held := r.2 } :: (t.block b).stack)).resumeAll qs f.s

/-- ELSEB takes effect (R176). -/
def State.elseb (t : State) (b : Nat) (qs : List Nat) (f : LaneForm) : State :=
  match (t.block b).stack with
  | [] => t.divFaults qs 3 0
  | c :: rest =>
    if c.els then t.divFaults qs 3 0
    else
      let t1 := t.broadcast c
      let r := if c.l = 0 then (c.others.foldl (fun s p => s.setM0 p.1 p.2) t1, []) else (t1.returnLanes c).placeLanes c c.others
      let t2 := c.parts.foldl (fun s p => s.setSquad p.sq { s.squad p.sq with fmt := p.fmt }) r.1
      (t2.setStack b ({ c with els := true, held := r.2 } :: rest)).resumeAll qs f.s

/-- RECV takes effect (R176). -/
def State.recv (t : State) (b : Nat) (qs : List Nat) (f : LaneForm) : State :=
  match (t.block b).stack with
  | [] => t.divFaults qs 3 0
  | c :: rest =>
    let t1 := t.broadcast c
    let t2 := if c.l = 0 then t1 else t1.returnLanes c
    let t3 := c.parts.foldl (fun s p =>
      let x := (s.squad p.sq).writeM 0 p.e
      s.setSquad p.sq { x with fmt := p.fmt }) t2
    (t3.setStack b rest).resumeAll qs f.s

/-- Lane l of squad q gets a LANEID. -/
def State.setLaneId (s : State) (q l : Nat) (k : BitVec 32) : State :=
  let x := s.squad q
  s.setSquad q { x with laneids := cellPut x.laneids l k }

/-- REGRP takes effect (R184): each lane is numbered where it stands, and then moved, so that a position that a lane left and none came
to keeps its number (R168). With L = 0 a lane carries no register, and yet its LANEID and its bits of m1..m15: R179 speaks of
L > 0 alone (log 43, DESIGN CHOICE). -/
def State.regrp (t : State) (b : Nat) (qs : List Nat) (f : LaneForm) : State :=
  let n := divL f
  if (t.block b).stack ≠ [] then t.divFaults qs 3 0
  else
    match t.uniform qs (divS f) with
    | some d => t.divFaults qs 4 d
    | none =>
      let ls := lanesOf (qs.map (fun q => (q, (t.squad q).readM 0)))
      let t0 := (numbered ls).foldl (fun s x => s.setLaneId x.2.1 x.2.2 (BitVec.ofNat 32 x.1)) t
      let hs := t0.takeLanes ls n
      let t1 := (t0.packLanes qs hs n).resumeAll qs f.s
      let t2 := qs.foldl (fun s q =>
        let x := s.squad q
        s.setSquad q { x with masks := (List.range 15).foldl (fun m k => cellPut m (k + 1) (cellGet m (k + 1) &&& x.lanes)) x.masks }) t1
      let h := max 1 ((hs.length + 31) / 32)
      let t3 := (qs.drop h).foldl (fun s q => s.setSquad q { s.squad q with run := .exited, fused := true, lane := none }) t2
      ((t3.passFaults b (qs.drop h)).deliverTiles b).barriers b

/-- The participants have all arrived, at one word and one lane PC (R172). -/
def State.divWord (t : State) (b : Nat) : Option (BitVec 96 × Bool) :=
  let qs := t.unexited b
  match qs.map (fun q => ((t.squad q).run, (t.squad q).lpc)) with
  | [] => none
  | x :: rest =>
    match x.1 with
    | .diverge w => if t.diverging b = qs then some (w, rest.all (· = x)) else none
    | _ => none

/-- The block's collective takes effect, every participant having arrived. -/
def execDivergenceCollectiveComplete (b : Nat) (t : State) : Res :=
  let qs := t.unexited b
  match t.divWord b with
  | none => .next t
  | some (w, same) =>
    if t.mayRun (qs.headD 0) = false then .next t
    else if same = false then .next (t.divFaults qs 5 0)
    else
      match decodeLane w with
      | .ok (.divb f) => .next (t.divb b qs f)
      | .ok (.elseb f) => .next (t.elseb b qs f)
      | .ok (.recv f) => .next (t.recv b qs f)
      | .ok (.regrp f) => .next (t.regrp b qs f)
      | _ => .next t

-- In a handler (R183) -----------------------------------------------------------------------------------------------------------

/-- A handler's divergence word is a double fault. -/
def State.divDouble (t : State) (sub : Nat) : State := t.doubleFault t.actor (t.sq.laneTrap 0 0x0A 0 (divTval sub 0) tdstNone)

def State.ownDivb (f : LaneForm) (t : State) : Res :=
  let x := t.sq
  if divL f ≠ 0 then .next (t.divDouble 3)
  else if t.entriesInUse (blockOfSquad t.actor) = 32 then .next (t.divDouble 2)
  else
    let e : HandlerEntry := ⟨x.readM 0, x.readM 0 &&& ~~~(x.readM f.va.mreg), x.fmt, false⟩
    .next (t.setSq ({ x.writeM 0 (x.readM 0 &&& x.readM f.va.mreg) with seg := e :: x.seg }.laneAdvance (f.s = 1)))

def State.ownElseb (f : LaneForm) (t : State) : Res :=
  let x := t.sq
  match x.seg with
  | [] => .next (t.divDouble 3)
  | e :: rest =>
    if e.els then .next (t.divDouble 3)
    else .next (t.setSq ({ x.writeM 0 e.f with seg := { e with els := true } :: rest, fmt := e.fmt }.laneAdvance (f.s = 1)))

def State.ownRecv (f : LaneForm) (t : State) : Res :=
  let x := t.sq
  match x.seg with
  | [] => .next (t.divDouble 3)
  | e :: rest => .next (t.setSq ({ x.writeM 0 e.e with seg := rest, fmt := e.fmt }.laneAdvance (f.s = 1)))

def execDivb (f : LaneForm) (t : State) : Res := t.divArrive 0xA0 f (State.ownDivb f)
def execElseb (f : LaneForm) (t : State) : Res := t.divArrive 0xA1 f (State.ownElseb f)
def execRecv (f : LaneForm) (t : State) : Res := t.divArrive 0xA2 f (State.ownRecv f)
def execRegrp (f : LaneForm) (t : State) : Res := t.divArrive 0xA3 f (fun u => .next (u.divDouble 3))

end Sys2Proof.Machine
end

