-- ==== Sys2Proof/Machine/Engines.lean ====
section
/-! DEFINITION. Record reads (10 R368); copy engines (12): cards, ENQ and the engine service ports, dependence edges, pins, a
card's accesses, faults and token; WAITSEQ. -/

namespace Sys2Proof.Machine

-- Record reads ------------------------------------------------------------------------------------------------------

/-- What a record read brings: its doubles, or what becomes of the word instead: a trap or fault swap taken, or a wait for
the squad's own accesses to the record and its acquires, or for a weight-store bank that cannot be read (09 R194; 17 R332). -/
inductive RecordRead where
  | ok (t : State) (ds : List (BitVec 64))
  | stop (t : State)
  | wait (t : State)
  deriving Inhabited

/-- Check the 8-byte parts of a record in ascending order, each as an LDS.d of its address (R368). -/
def State.recordParts (t : State) (va : BitVec 64) (n : Nat) (as : List Nat) : State × Except Elem (List Nat) :=
  match n with
  | 0 => (t, .ok as)
  | k + 1 =>
    match t.access (blockOfSquad t.actor) .read va 8 with
    | (u, .ok a _) => (u.checkStorage a).recordParts (va + 8) k (as ++ [a])
    | (u, .bad c) => (u, .error (.bad c))
    | (u, .absent w l e) => (u, .error (.absent w l e))
    | (u, .corrupt a) => (u, .error (.corrupt a))

/-- Address of the part a check stopped at. -/
def State.firstBadPart (t : State) (va : BitVec 64) (n : Nat) : BitVec 64 :=
  match n with
  | 0 => va
  | k + 1 => match t.access (blockOfSquad t.actor) .read va 8 with
    | (u, .ok _ _) => u.firstBadPart (va + 8) k
    | _ => va

/-- read_record(a, 8 n) by the acting squad's scalar word, whose destination TDST names. All its parts are read in one step, as all
cards of a chain are: a record that another party writes meanwhile is read whole, before the writes or after, where the spec leaves
open whether its parts may differ in that (10 R368; log 48, DESIGN CHOICE). -/
def State.readRecord (t : State) (va : BitVec 64) (n : Nat) (tdst : BitVec 64) : RecordRead :=
  if slice va 0 6 ≠ 0 then .stop (t.trapS 0x04 va tdst)
  else
    match t.recordParts va n [] with
    | (u, .error (.bad c)) => .stop (u.trapS c (t.firstBadPart va n) tdst)
    | (u, .error (.absent w l e)) => .stop (u.pageFault u.actor (t.firstBadPart va n) w l e)
    | (u, .error (.corrupt a)) => .stop (u.lateScalar tdst a)
    | (u, .error (.ok _ _)) => .stop u
    | (u, .ok as) =>
      let own := fun (o : Outst) => o.ord.acquires ||
        (match o.kind.loc? with | some l => as.any (fun a => l.overlaps ⟨a, 8, 0, false⟩) | none => false)
      if u.sq.out.any own ∨ as.any (fun a => u.wsLocked a || u.wsRefreshing a) then .wait u
      else
        match as.find? (fun a => u.isBad a 8) with
        | some a => .stop (u.lateScalar tdst a)
        | none =>
          .ok (as.foldl (fun s a => (s.recall a).observe (.squad u.actor) seesAll a 8) u)
            (as.map (fun a => BitVec.ofNat 64 (u.read a 8)))

/-- A word whose record read waits: it keeps what it read at issue, and is tried again once nothing is outstanding, or, where
nothing is, at the squad's next opportunity. -/
def State.holdWord (t : State) (vs : List (BitVec 64)) : State :=
  t.setSq { t.sq with latch := some vs, run := if t.sq.out = [] then .running else .parked }

-- Cards ---------------------------------------------------------------------------------------------------------------

/-- The i-th double of a record. -/
abbrev dblAt (ds : List (BitVec 64)) (i : Nat) : BitVec 64 := listAt ds i 0

/-- A card as it stands in memory (R247, Table 12-1), nothing resolved yet. -/
def parseCard (ds : List (BitVec 64)) : Card :=
  let w := dblAt ds 0
  let rs := (List.range 4).map (fun r => ((dblAt ds (6 + 2 * r)).toNat, (dblAt ds (7 + 2 * r)).toNat))
  let ws := (List.range 4).map (fun r => ((dblAt ds (14 + 2 * r)).toNat, (dblAt ds (15 + 2 * r)).toNat))
  { seq := 0, job := 0, squad := none, port := none, op := slice w 60 4, ndim := (slice w 56 4).toNat,
    esize := (slice w 54 2).toNat, scope := slice w 51 3, next := dblAt ds 1, token := dblAt ds 2, src := dblAt ds 3,
    dst := dblAt ds 4, fillv := dblAt ds 5, reads := rs.filter (fun r => r.2 ≠ 0), writes := ws.filter (fun r => r.2 ≠ 0),
    dims := (List.range 14).map (fun t => ((dblAt ds (22 + 3 * t)).toNat, dblAt ds (23 + 3 * t), dblAt ds (24 + 3 * t))),
    rsegs := [], wsegs := [], tokenAddr := none, pins := [], chain := 0, word := 0, after := [], engine := 0,
    entered := false, running := false, progress := 0, stopped := false, offReticle := false, hits := [] }

def Card.ebytes (c : Card) : Nat := 2 ^ c.esize

/-- Refusal 0x02 (Table 12-2): reserved codes, Res fields, extents, and fields that OP or NDIM leaves unused. -/
def Card.reserved (c : Card) (ds : List (BitVec 64)) : Bool :=
  let w := dblAt ds 0
  let used := c.dims.take (c.ndim + 1)
  let rest := c.dims.drop (c.ndim + 1)
  let zero := fun (d : Nat × BitVec 64 × BitVec 64) => d.1 = 0 && d.2.1 = 0 && d.2.2 = 0
  3 ≤ c.op.toNat || 14 ≤ c.ndim || slice w 0 51 ≠ 0 || c.scope = 0 || c.scope = 7 ||
  c.dims.any (fun d => 2 ^ 32 ≤ d.1) || !(rest.all zero) ||
  (if c.op = 2 then
     c.ndim ≠ 0 || !(used.all zero) || c.src ≠ 0 || c.dst ≠ 0 || c.fillv ≠ 0
   else
     used.any (fun d => d.1 = 0) ||
     (if c.op = 1 then c.src ≠ 0 || used.any (fun d => d.2.1 ≠ 0) else c.fillv ≠ 0))

/-- Refusal 0x03: alignment and canonical form, of the base and end of every region, one of length 0 included. -/
def Card.misplaced (c : Card) (ds : List (BitVec 64)) : Bool :=
  let ends := (List.range 8).flatMap (fun r => [dblAt ds (6 + 2 * r), dblAt ds (6 + 2 * r) + dblAt ds (7 + 2 * r)])
  let all := [c.token, c.src, c.dst] ++ ends
  all.any (fun a => a.toNat % c.ebytes ≠ 0 || !(canonical a)) || slice c.token 0 3 ≠ 0

/-- A region meets the window numbered n. -/
def regionIn (r : Nat × Nat) (n : Nat) : Bool := decide (r.1 < (n + 1) * 2 ^ 48) && decide (n * 2 ^ 48 < r.1 + r.2)

/-- A job has a live gang on a reticle (04 R96). -/
def State.liveOn (t : State) (r job : Nat) : Bool := t.gangs.any (fun e => decide (e.2.ret = r) && decide (e.2.job = job))

/-- check_card: the refusal code, 0 for none (R250; 0x06 by R370 for a service port). A card that fails several checks is refused with
the first of 0x02, 0x03, 0x05, 0x06: Table 12-2 gives them no order. Through a service port a token word in the core local, pooled or
multicast window is refused with 0x06 at once, as a region in one is, where R370 names regions alone (log 48, DESIGN CHOICE). -/
def State.checkCard (t : State) (r job : Nat) (c : Card) (ds : List (BitVec 64)) (service : Bool) : Nat :=
  if c.reserved ds then 2
  else if c.misplaced ds then 3
  else if c.writes.any (fun x => regionIn x 0x0FD) && t.liveOn r job then 5
  else if service && ((c.reads ++ c.writes).any (fun x => regionIn x 0x0FF || regionIn x 0x0FE || regionIn x 0x0FC) ||
      (c.token ≠ 0 && inWindow c.token && winOf c.token ≠ winWs)) then 6
  else 0

-- Resolving regions -----------------------------------------------------------------------------------------------------

/-- Bytes of a window region that lie in n bytes of storage at offset lo of the window. -/
def interSeg (va o n lo len addr : Nat) : List Seg :=
  let a := max o lo
  let b := min (o + n) (lo + len)
  if a < b then [⟨va + (a - o), addr + (a - lo), b - a⟩] else []

/-- Storage that n bytes of a window at va resolve to, as far as they lie within the allotment (09 R186, R187): for a card
of squad q, or of a service port for job j of reticle r. -/
def State.windowSegs (t : State) (squad : Option Nat) (r j : Nat) (va n : Nat) : List Seg :=
  let w := va / 2 ^ 48 % 512
  let o := va % 2 ^ 48
  if w = 0x0FD then
    let f := t.field (fieldKey r j)
    let base := 2 ^ 24 * f.wsbase
    interSeg va o n 0 (min (2 ^ 24 * f.wssize) (2 ^ 30 - base)) (wsAddr r base)
  else
    match squad with
    | none => []
    | some q =>
      let d := (t.gangOf q).desc
      if w = 0x0FF then interSeg va o n 0 (16384 * (d.loc.toNat - d.l1.toNat)) (localAddr (blockOfSquad q) 0)
      else if w = 0x0FE then
        (List.range d.nblocks).flatMap (fun i =>
          interSeg va o n (i * 2 ^ 20) (65536 * d.pool.toNat) (poolAddr (4 * gangOfSquad q + i) 0))
      else []

/-- Bytes of the page that holds va and its pin key: the page's machine address, told apart by its size. -/
def State.pageOf (t : State) (w : Walker) (va : BitVec 64) (addr : Nat) : Nat × Nat :=
  match walk t w va with
  | .leaf _ _ pte =>
    (match pageSize (slice pte 60 4).toNat with
     | some (pages, _) => (pages * 4096, addr - va.toNat % (pages * 4096) + (slice pte 60 4).toNat)
     | none => (4096, addr))
  | _ => (4096, addr)

/-- What resolving a region brings: its storage and pin keys, or the first failing address. -/
structure Resolved where
  segs : List Seg := []
  pins : List Nat := []
  fail : Option (BitVec 64 × Acc) := none
  deriving DecidableEq, Repr, Inhabited

/-- Translate every page of a region of a card, in order (R250, R251). -/
def State.resolve (t : State) (w : Walker) (squad : Option Nat) (r j : Nat) (kind : Kind) (fuel va left : Nat)
    (acc : Resolved) : State × Resolved :=
  match fuel with
  | 0 => (t, acc)
  | k + 1 =>
    let a := BitVec.ofNat 64 va
    if left = 0 then (t, acc)
    else if canonical a = false then (t, { acc with fail := some (a, .bad 0x06) })
    else if inWindow a then
      let n := min left (2 ^ 48 - va % 2 ^ 48)
      t.resolve w squad r j kind k (va + n) (left - n) { acc with segs := acc.segs ++ t.windowSegs squad r j va n }
    else
      match t.translate w kind a with
      | (u, .ok m _) =>
        let p := u.pageOf w a m
        let n := min left (p.1 - va % p.1)
        let pins := if acc.pins.contains p.2 then acc.pins else acc.pins ++ [p.2]
        u.resolve w squad r j kind k (va + n) (left - n) { acc with segs := acc.segs ++ [⟨a.toNat, m, n⟩], pins := pins }
      | (u, o) => (u, { acc with fail := some (a, o) })

/-- Resolve the regions of one kind of a card. -/
def State.resolveRegions (t : State) (w : Walker) (squad : Option Nat) (r j : Nat) (kind : Kind) (regs : List (Nat × Nat))
    (acc : Resolved) : State × Resolved :=
  match regs with
  | [] => (t, acc)
  | g :: rest =>
    if acc.fail.isSome then (t, acc)
    else
      match t.resolve w squad r j kind (g.2 / 4096 + 2) g.1 g.2 acc with
      | (u, b) => u.resolveRegions w squad r j kind rest b

/-- An address that lies off reticle r or in host memory (03 R86; 12 R246). -/
def offReticle (r a : Nat) : Bool := isPhys a && homeOf a ≠ retNo r

/-- The cards of a chain with their regions resolved, or the first failing address. -/
def State.resolveCards (t : State) (w : Walker) (squad : Option Nat) (r j : Nat) (cs done : List Card) :
    State × Except (BitVec 64 × Acc) (List Card) :=
  match cs with
  | [] => (t, .ok done)
  | c :: rest =>
    match t.resolveRegions w squad r j .read c.reads {} with
    | (u, a) =>
      match a.fail with
      | some f => (u, .error f)
      | none =>
        match u.resolveRegions w squad r j .write c.writes { pins := a.pins } with
        | (v, b) =>
          match b.fail with
          | some f => (v, .error f)
          | none => v.resolveCards w squad r j rest (done ++ [{ c with
              rsegs := a.segs, wsegs := b.segs, pins := b.pins,
              offReticle := (a.segs ++ b.segs).any (fun s => offReticle r s.addr) }])

/-- Translate the token words (R250, R252). One in a window resolves to its storage; writing one beyond its allotment takes
0x06, and one in the weight store 0x03 (09 R187, R196), when the card comes to it (log 7). A token page keeps a pin of its
own. -/
def State.resolveTokens (t : State) (w : Walker) (squad : Option Nat) (r j : Nat) (cs done : List Card) :
    State × Except (BitVec 64 × Acc) (List Card) :=
  match cs with
  | [] => (t, .ok done)
  | c :: rest =>
    if c.token = 0 then t.resolveTokens w squad r j rest (done ++ [c])
    else if inWindow c.token then
      let a : Option Nat := match t.windowSegs squad r j c.token.toNat 8 with
          | s :: _ => if s.len = 8 then some s.addr else none
          | [] => none
      let f : Option (BitVec 8) := if a.isNone then some 0x06 else if winOf c.token = winWs ∧ t.liveOn r j then some 0x03 else none
      t.resolveTokens w squad r j rest (done ++ [{ c with tokenAddr := a, tokenFault := f }])
    else
      match t.translate w .write c.token with
      | (u, .ok m _) =>
        let p := (u.pageOf w c.token m).2
        u.resolveTokens w squad r j rest
          (done ++ [{ c with tokenAddr := some m, tokenPin := some p, pins := c.pins.filter (· ≠ p) }])
      | (u, o) => (u, .error (c.token, o))

/-- Every page a card pins. -/
def Card.allPins (c : Card) : List Nat := c.pins ++ c.tokenPin.toList

/-- More than 256 pins for a card or 4,096 for the chain (R250, R251). The chain needs the sum of what its cards take: a page that
several of them touch counts once for each, where the spec also speaks of distinct pages (log 48, DESIGN CHOICE). -/
def overPinned (cs : List Card) : Bool :=
  cs.any (fun c => 256 < c.allPins.length) || 4096 < (cs.map (fun c => c.allPins.length)).sum

-- Entering a chain ------------------------------------------------------------------------------------------------------

/-- Add one pin to each page, and take one away (R251). -/
def addPins (t : Tab Nat) (ps : List Nat) : Tab Nat := ps.foldl (fun a p => tabPut a p (tabGet a p 0 + 1)) t
def dropPins (t : Tab Nat) (ps : List Nat) : Tab Nat :=
  ps.foldl (fun a p => if tabGet a p 0 ≤ 1 then tabDel a p else tabPut a p (tabGet a p 0 - 1)) t

/-- The pins of the pages are available: those not in the table find free entries (R251). -/
def Reticle.pinsFit (x : Reticle) (ps : List Nat) : Bool := (addPins x.pins ps).length ≤ 4096

/-- The engine an engine code names: 4 is the one with the most free entries, the lowest on a tie (R250). -/
def Reticle.engineOf (x : Reticle) (code : Nat) : Nat :=
  if code < 4 then code
  else
    let n := fun e => (tabGet x.queues e []).length
    [1, 2, 3].foldl (fun best e => if n e < n best then e else best) 0

def Seg.overlaps (a b : Seg) : Bool := decide (a.addr < b.addr + b.len) && decide (b.addr < a.addr + a.len)

/-- The dependence unit draws an edge from a to b (10 R221). -/
def Card.edge (a b : Card) : Bool :=
  let meets := fun (x y : List Seg) => x.any (fun s => y.any (Seg.overlaps s))
  meets a.wsegs b.rsegs || meets a.rsegs b.wsegs || meets a.wsegs b.wsegs

/-- The last card of c's chain has entered: the ENQ's result is written, or the submission of the port is over. A squad that
waits at a barrier may go on with it. -/
def State.chainEntered (t : State) (r : Nat) (c : Card) : State :=
  match c.squad, c.port with
  | some k, _ =>
    let y := t.squad k
    (match y.out.find? (fun o => match o.kind with | .chain i _ _ => i = c.chain | _ => false) with
     | some o =>
       let y1 := { y with out := y.out.filter (fun p => p.word ≠ o.word) }
       (match o.kind with
        | .chain _ last d => ((t.setSquad k (y1.put d last)).settle k).barriers (blockOfSquad k)
        | _ => t)
     | none => t)
  | none, some p =>
    let z := t.ret r
    t.setRet r { z with eports := tabPut z.eports p { tabGet z.eports p {} with done := true, refused := false, value := c.seq } }
  | none, none => t

/-- Enter the oldest cards that wait for engine e while its queue has a free entry: CARD_ENQUEUE's own step for one card.
The last card of a chain completes the ENQ, or the submission of the port. -/
def State.enterCard (t : State) (r e : Nat) : State :=
  let x := t.ret r
  let q := tabGet x.queues e []
  match x.cards.find? (fun c => c.2.engine = e && !c.2.entered) with
  | none => t
  | some (id, c) =>
    if 64 ≤ q.length then t
    else
      let t1 := t.setRet r { x with queues := tabPut x.queues e (q ++ [id]), cards := tabPut x.cards id { c with entered := true } }
      if x.cards.any (fun d => d.2.chain = c.chain && decide (id < d.1)) then t1 else t1.chainEntered r c

/-- Submit a chain whose pins are available: pins, sequence numbers, edges, and the cards to their engine (R250 to R252;
10 R221). -/
def State.submitChain (t : State) (r j : Nat) (squad port : Option Nat) (engine : Nat) (cs : List Card) : State × BitVec 64 × Nat :=
  let f := t.field (fieldKey r j)
  let x := t.ret r
  let e := x.engineOf engine
  let chain := t.clock
  let placed := cs.foldl (fun (acc : Tab Card × Nat) c =>
    let id := t.clock + acc.2
    let prev := if acc.2 = 0 then [] else [id - 1]
    let edges := (acc.1.filter (fun o => o.2.edge c)).map (·.1)
    let d : Card := { c with
      seq := f.cseq + BitVec.ofNat 64 acc.2, job := j, squad := squad, port := port, chain := chain, word := t.clock,
      engine := e, after := prev ++ edges.filter (fun i => !(prev.contains i)) }
    (tabPut acc.1 id d, acc.2 + 1)) (x.cards, 0)
  let n := cs.length
  let last := f.cseq + BitVec.ofNat 64 n - 1
  let t1 := t.setRet r { x with cards := placed.1, pins := cs.foldl (fun a c => addPins a c.allPins) x.pins }
  ({ t1.setField (fieldKey r j) { f with cseq := f.cseq + BitVec.ofNat 64 n } with clock := t.clock + n }, last, chain)

-- ENQ (R250) -------------------------------------------------------------------------------------------------------------

/-- A chain read at issue. -/
inductive ChainRead where
  | ok (t : State) (cs : List (List (BitVec 64)))
  | stop (t : State)
  | wait (t : State)
  deriving Inhabited

/-- Read the cards of a chain, at most 65 (R250). -/
def State.readChain (t : State) (n : Nat) (a tdst : BitVec 64) (cs : List (List (BitVec 64))) : ChainRead :=
  match n with
  | 0 => .ok t cs
  | k + 1 =>
    match t.readRecord a 64 tdst with
    | .stop u => .stop u
    | .wait u => .wait u
    | .ok u ds => if dblAt ds 1 = 0 then .ok u (cs ++ [ds]) else u.readChain k (dblAt ds 1) tdst (cs ++ [ds])

/-- First refusal of a chain: 0x01, 0x07, then the cards' own; 0 for none. -/
def State.refuseChain (t : State) (r j code : Nat) (cs : List (List (BitVec 64))) (service : Bool) : Nat :=
  if 65 ≤ cs.length then 1
  else if 4 < code then 7
  else match (cs.map (fun ds => t.checkCard r j (parseCard ds) ds service)).find? (· ≠ 0) with
    | some k => k
    | none => 0

/-- The result of a refused ENQ. -/
abbrev refusedResult (k : Nat) : BitVec 64 := BitVec.ofNat 64 (2 ^ 63 + k)

/-- Submit the chain of squad q, leaving sd outstanding; the word is done. -/
def State.enqSubmit (t : State) (q : Nat) (m : BitVec 1) (d : BitVec 6) (engine : Nat) (cs : List Card) : State :=
  let t0 := { t with actor := q }
  match t0.submitChain (t.retOf q) (t.gangOf q).job (some q) none engine (cs.map (fun c => { c with gangid := (t.gangOf q).gangid })) with
  | (u, last, chain) =>
    let v := (u.regionEnds.issue .ordinary 0 0 [(.chain chain last (u.sq.dstS d), none)]).done m
    { v with actor := t.actor }

/-- ENQ (R250). It ends an open region, and waits first (16 R312, R313). -/
def execEnq (m : BitVec 1) (d a b : BitVec 6) (t : State) : Res :=
  t.waitRegion ([a, b].map t.sq.readS) (fun vs u =>
    let tdst := tdstScalar d
    let q := u.actor
    let r := u.retOf q
    let j := (u.gangOf q).job
    match u.readChain 65 (argAt vs 0) tdst [] with
    | .stop v => .next v
    | .wait v => .next (v.holdWord vs)
    | .ok v cs =>
      let k := v.refuseChain r j (argAt vs 1).toNat cs false
      if k ≠ 0 then .next ((v.regionEnds.issueValue d (refusedResult k)).done m)
      else
        let w := v.gangWalker (gangOfSquad q)
        match v.resolveCards w (some q) r j (cs.map parseCard) [] with
        | (x, .error (va, .absent wk l e)) => .next (x.pageFault q va wk l e)
        | (x, .error (va, .bad c)) => .next (x.trapS c va tdst)
        | (x, .error (_, .corrupt ad)) => .next (x.lateScalar tdst ad)
        | (x, .error (_, .ok _ _)) => .next x
        | (x, .ok c1) =>
          match x.resolveTokens w (some q) r j c1 [] with
          | (y, .error (va, .absent wk l e)) => .next (y.pageFault q va wk l e)
          | (y, .error (va, .bad c)) => .next (y.trapS c va tdst)
          | (y, .error (_, .corrupt ad)) => .next (y.lateScalar tdst ad)
          | (y, .error (_, .ok _ _)) => .next y
          | (y, .ok c2) =>
            if overPinned c2 then .next ((y.regionEnds.issueValue d (refusedResult 4)).done m)
            else if (y.ret r).pinsFit (c2.flatMap Card.allPins) then .next (y.enqSubmit q m d (argAt vs 1).toNat c2)
            else .next (y.setSq { y.sq with run := .enq ⟨m, d, (argAt vs 1).toNat, c2⟩ }))

/-- A squad that waits at ENQ for pins goes on when they are available (R250). -/
def State.wakeEnq (t : State) (q : Nat) : State :=
  match (t.squad q).run with
  | .enq e =>
    if t.mayRun q ∧ (t.ret (t.retOf q)).pinsFit (e.cards.flatMap Card.allPins) then
      (t.setSquad q { t.squad q with run := .running }).enqSubmit q e.s e.sd e.engine e.cards
    else t
  | _ => t

/-- A card enters its engine's queue. -/
def execCardEnqueue (r e : Nat) (t : State) : Res := .next (t.enterCard r e)

-- The engine service ports (R370) ---------------------------------------------------------------------------------------

/-- Read a chain by physical address at its home, once: at most 65 cards, or the refusal of a card address. A card that holds
uncorrectable data refuses the chain with 0x06: the spec gives no code (log 48, DESIGN CHOICE). -/
def State.readPhysChain (t : State) (r n : Nat) (a : BitVec 64) (cs : List (List (BitVec 64))) : Except Nat (List (List (BitVec 64))) :=
  match n with
  | 0 => .ok cs
  | k + 1 =>
    let p := a.toNat
    if p % 64 ≠ 0 ∨ 2 ^ 52 ≤ p ∨ homeOf p ≠ retNo r then .error 3
    else
      let m := physAddr (devOfRet r) p
      if t.isBad m 512 then .error 6
      else
        let ds := (List.range 64).map (fun i => BitVec.ofNat 64 (t.read (m + 8 * i) 8))
        if dblAt ds 1 = 0 then .ok (cs ++ [ds]) else t.readPhysChain r k (dblAt ds 1) (cs ++ [ds])

/-- A job exists on a device. -/
def State.jobLive (t : State) (d j : Nat) : Bool := (tabGet? t.jobs (jobKey d j)).isSome

/-- The outcome of a submission through port p: refused with a code. -/
def State.portRefuse (t : State) (r p k : Nat) : State :=
  let x := t.ret r
  t.setRet r { x with eports := tabPut x.eports p { tabGet x.eports p {} with done := true, refused := true, value := BitVec.ofNat 64 k } }

/-- Submit the chain that a port holds back, if its pins are available: for the job and the engine that ESJOB named when the
chain was written to the port. -/
def State.portSubmit (t : State) (r p : Nat) : State :=
  let x := t.ret r
  let e := tabGet x.eports p {}
  if e.pending ≠ [] ∧ x.pinsFit (e.pending.flatMap Card.allPins) then
    let j := match e.pending with | c :: _ => c.job | [] => 0
    match t.submitChain r j none (some p) e.engine e.pending with
    | (u, _, chain) =>
      let y := u.ret r
      u.setRet r { y with eports := tabPut y.eports p { tabGet y.eports p {} with pending := [], chain := some chain } }
  else t

/-- Writing ESUBMIT n (R370). That JOB is live is checked before the length of the chain (0x01) and the engine code (0x07): the spec
does not say which code a chain that fails several takes; a card address that is misaligned or not homed on the reticle (0x03) wins
over a JOB that is not live (0x06). ESRES.REF and VALUE read 0 until the chain has been entered or refused, of which time the spec says
nothing (log 48, DESIGN CHOICE). -/
def execEngineServiceSubmit (r p : Nat) (value : BitVec 64) (t : State) : Res :=
  let x := t.ret r
  let e := tabGet x.eports p {}
  if 16 ≤ p ∨ e.done = false then .next t
  else
    let j := (slice e.ctl 0 16).toNat
    let a := slice value 6 46 ++ 0#6
    let t0 := t.setRet r { x with eports := tabPut x.eports p { e with done := false, refused := false, value := 0, chain := none } }
    match t0.readPhysChain r 65 (a.setWidth 64) [] with
    | .error k => .next (t0.portRefuse r p k)
    | .ok cs =>
      let k := if t0.jobLive (devOfRet r) j = false then 6 else t0.refuseChain r j (slice e.ctl 16 3).toNat cs true
      if k ≠ 0 then .next (t0.portRefuse r p k)
      else
        let w := t0.jobWalker r j
        match t0.resolveCards w none r j (cs.map (fun ds => { parseCard ds with job := j })) [] with
        | (u, .error _) => .next (u.portRefuse r p 6)
        | (u, .ok c1) =>
          match u.resolveTokens w none r j c1 [] with
          | (v, .error _) => .next (v.portRefuse r p 6)
          | (v, .ok c2) =>
            if overPinned c2 then .next (v.portRefuse r p 4)
            else
              let y := v.ret r
              .next ((v.setRet r { y with eports := tabPut y.eports p { tabGet y.eports p {} with pending := c2, engine := (slice e.ctl 16 3).toNat } }).portSubmit r p)

-- Running a card (R246, R248, R249) ---------------------------------------------------------------------------------------

/-- Number of elements of a card; none for TOKEN. -/
def Card.total (c : Card) : Nat := if c.op = 2 then 0 else (c.dims.take (c.ndim + 1)).foldl (fun n d => n * d.1) 1

/-- Offset of element number k, dimension 0 innermost, by one stride of each dimension. -/
def elemOffset (ds : List (Nat × BitVec 64)) (k : Nat) : BitVec 64 :=
  match ds with
  | [] => 0
  | d :: rest => BitVec.ofNat 64 (k % d.1) * d.2 + elemOffset rest (k / d.1)

/-- Storage of an element, or its cause: alignment, then containment in a region of its kind and in what the region
resolves to (R249). -/
def segAddr (e : Nat) (regs : List (Nat × Nat)) (segs : List Seg) (va : BitVec 64) : Except (BitVec 8) Nat :=
  let a := va.toNat
  if a % e ≠ 0 then .error 0x04
  else if !(regs.any (fun r => decide (r.1 ≤ a) && decide (a + e ≤ r.1 + r.2))) then .error 0x06
  else match segs.find? (fun s => decide (s.va ≤ a) && decide (a + e ≤ s.va + s.len)) with
    | some s => .ok (s.addr + (a - s.va))
    | none => .error 0x06

/-- Mailboxes with a byte of their word among n bytes at machine address a: those of the word's home reticle (04 R105). An entry
whose word and descriptor addresses are both 0 stands for no mailbox: the table has no valid bit (log 43, DESIGN CHOICE). -/
def State.mailboxHits (t : State) (a n : Nat) : List (Nat × Nat) :=
  if isPhys a && homeOf a < 48 then
    let r := 48 * (a / 2 ^ 52) + homeOf a
    ((t.ret r).mailboxes.filter (fun m =>
      let w := physAddr (a / 2 ^ 52) m.2.word.toNat
      (m.2.word ≠ 0 || m.2.desc ≠ 0) && decide (w < a + n) && decide (a < w + 8))).map (fun m => (r, m.1))
  else []

/-- Hits not yet recorded. -/
def addHits (hs new : List (Nat × Nat)) : List (Nat × Nat) := hs ++ new.filter (fun h => !(hs.contains h))

/-- An arrival of party p sets PEND of the mailboxes hit (04 R105); what p has done happens before the handler (10 R215). -/
def State.mailboxArrive (t : State) (p : Party) (hits : List (Nat × Nat)) : State :=
  hits.foldl (fun s h =>
    let x := s.ret h.1
    (s.handOff p (devOfRet h.1)).setRet h.1 { x with mailboxes := tabMap x.mailboxes (fun k m => if k = h.2 then { m with pend := true } else m) }) t

/-- The squad that takes an engine fault of a card (R254); none for a report alone. -/
def State.cardFaultSquad (t : State) (c : Card) : Option Nat :=
  match c.squad with
  | none => none
  | some q =>
    if (tabGet? t.gangs (gangOfSquad q)).isNone then none
    else if (t.squad q).exited = false then some q
    else (t.gangSquads (gangOfSquad q)).find? (fun k => !(t.squad k).exited)

/-- A card ends (R251): its queue entry is free and the pages of its regions lose its pins; its token word is still to be
written. One that a stop finds outside its queue leaves without an entry. -/
def State.endCard (t : State) (r id : Nat) : State :=
  let x := t.ret r
  match tabGet? x.cards id with
  | none => t
  | some c =>
    if c.ended then t
    else
      let q := (tabGet x.queues c.engine []).filter (· ≠ id)
      t.setRet r { x with cards := tabPut x.cards id { c with ended := true, entered := true }, pins := dropPins x.pins c.pins,
                          queues := tabPut x.queues c.engine q }

/-- The cards a fault of card id stops: itself and the later ones of its chain that have not started. -/
def Card.stopsWith (c : Card) (id k : Nat) (d : Card) : Bool :=
  decide (k = id) || (decide (d.chain = c.chain) && decide (id < k) && !d.running && !d.ended)

/-- A card meets a fault (R254): it stops, the later cards of its chain are abandoned, and the fault is pending in a squad
or reported. -/
def State.cardFault (t : State) (r id : Nat) (c : Card) (cause : BitVec 8) (va : BitVec 64) : State :=
  let x := t.ret r
  let hit := x.cards.filter (fun e => c.stopsWith id e.1 e.2)
  let t1 := t.setRet r { x with cards := tabMap x.cards (fun k d => if c.stopsWith id k d then { d with stopped := true } else d) }
  let t2 := hit.foldl (fun s e => s.endCard r e.1) t1
  let t3 := match hit.reverse with
    | e :: _ => if e.2.entered then t2 else t2.chainEntered r e.2
    | [] => t2
  let tdst := BitVec.ofNat 64 ((0xE0 + c.engine) * 2 ^ 56 + c.seq.toNat % 2 ^ 56)
  match t3.cardFaultSquad c with
  | some q => t3.pendFault q { rank := engineRank c.seq.toNat, carry := false, cause := cause, tval := va, tdst := tdst }
  | none =>
    let w := match c.squad with | some q => (c.gangid, blkidOfSquad q, sqidOf q) | none => (0, 0, 0)
    t3.report (devOfRet r) ⟨kindCardFault, retNo r, c.job, w.1, cause, w.2.1, w.2.2, va, [tdst], none⟩

/-- What performing elements comes to: of each its source, if it has one, and its destination; a fault; or a stall of the weight
store (09 R194; 17 R332). -/
inductive Elements where
  | ok (ms : List (Option Nat × Nat))
  | fault (cause : BitVec 8) (va : BitVec 64)
  | stall
  deriving DecidableEq, Repr, Inhabited

/-- Addresses of element k (R248). -/
def Card.dstOf (c : Card) (k : Nat) : BitVec 64 := c.dst + elemOffset ((c.dims.take (c.ndim + 1)).map (fun x => (x.1, x.2.2))) k
def Card.srcOf (c : Card) (k : Nat) : BitVec 64 := c.src + elemOffset ((c.dims.take (c.ndim + 1)).map (fun x => (x.1, x.2.1))) k

/-- Check elements in order (R249). -/
def State.checkElements (t : State) (c : Card) (ks : List Nat) (ms : List (Option Nat × Nat)) : Elements :=
  match ks with
  | [] => .ok ms
  | k :: rest =>
    let e := c.ebytes
    let d := c.dstOf k
    let dst := segAddr e c.writes c.wsegs d
    if c.op = 0 then
      match segAddr e c.reads c.rsegs (c.srcOf k) with
      | .error f => .fault f (c.srcOf k)
      | .ok a =>
        if t.wsLocked a || t.wsRefreshing a then .stall
        else match dst with
          | .error f => .fault f d
          | .ok b => if t.isBad a e then .fault 0x12 (c.srcOf k) else t.checkElements c rest (ms ++ [(some a, b)])
    else match dst with
      | .error f => .fault f d
      | .ok b => t.checkElements c rest (ms ++ [(none, b)])

/-- Element k has moved. -/
def Card.moved (c : Card) (k : Nat) : Bool := decide (k < c.progress) || c.ahead.contains k

/-- The elements written with element k as one flit: all of the card that go to its aligned 32 bytes (10 R210, R219). -/
def Card.flitOf (c : Card) (k : Nat) : List Nat :=
  (List.range c.total).filter (fun j => decide ((c.dstOf j).toNat / 32 = (c.dstOf k).toNat / 32))

/-- A card whose elements ks have moved. -/
def Card.mark (c : Card) (ks : List Nat) : Card :=
  let all := c.ahead ++ ks
  let p := (List.range (all.length + 1)).foldl (fun p _ => if all.contains p then p + 1 else p) c.progress
  { c with progress := p, ahead := all.filter (fun k => decide (p ≤ k)) }

/-- Units that the elements of e bytes written at addresses ws cover whole (16 R366). -/
def coveredUnits (ws : List Nat) (e u : Nat) : Bool := 32 ≤ ((ws.filter (fun a => a / 32 = u)).map (fun _ => e)).sum

/-- A card as a party: it acts for its job on the engine's reticle (00 R3). -/
def Card.party (c : Card) (r id : Nat) : Party := .card r id (fieldKey r c.job)

/-- The flit of elements ks of a card moves, as one write: all are read, then all are written. Of a destination that two of its
elements have, the later element stays: the spec leaves either (R248; log 43, DESIGN CHOICE). -/
def State.moveElements (t : State) (r id : Nat) (c : Card) (ks : List Nat) (ms : List (Option Nat × Nat)) : State :=
  let e := c.ebytes
  let p := c.party r id
  let ws := ms.map (·.2)
  let t1 := ms.foldl (fun s m => match m.1 with
    | some a => ((s.checkStorage a).recall a).observe p seesAll a e
    | none => s) t
  let t2 := t1.writeElems p (ms.map (fun m => (m.2, e, match m.1 with | some a => t.read a e | none => c.fillv.toNat)))
  let t3 := { t2 with bad := t2.bad.filter (fun u => !(coveredUnits ws.eraseDups e u)) }
  let y := t3.ret r
  let hits := ws.foldl (fun hs a => addHits hs (t3.mailboxHits a e)) c.hits
  t3.setRet r { y with cards := tabPut y.cards id { c.mark ks with hits := hits } }

/-- Move the flit of element k of a running card, its elements checked in order. A flit with an element that meets a fault is not
performed (R254; 10 R219). -/
def State.moveFlit (t : State) (r id k : Nat) (c : Card) : State :=
  let ks := c.flitOf k
  match t.checkElements c ks [] with
  | .stall => t
  | .fault cause va => t.cardFault r id c cause va
  | .ok ms => t.moveElements r id c ks ms

/-- All a card depends on has ended, and the squad's accesses issued before its ENQ have been performed (10 R220, R221;
12 R246). -/
def State.cardReady (t : State) (r : Nat) (c : Card) : Bool :=
  c.after.all (fun i => match tabGet? (t.ret r).cards i with | some d => d.ended | none => true) &&
  (match c.squad with
   | some q => !((t.squad q).out.any (fun o => o.kind.loc?.isSome && decide (o.word < c.word)))
   | none => true)

/-- What happens before a card's accesses (10 R220, R221): what its squad has done and seen, or the service software of its port,
and every card it waits for. -/
def State.cardBegins (t : State) (r id : Nat) (c : Card) : State :=
  let from_ : Party := match c.squad with | some q => .squad q | none => .service (devOfRet r)
  t.learn (c.party r id) (t.seenIf (fun p => p = from_ || (match p with | .card x i _ => x = r && c.after.contains i | _ => false)))

/-- A card of a region off the reticle or in host memory moves data only in exchange supersteps (R246). -/
def State.cardPhase (t : State) (r : Nat) (c : Card) : Bool := !c.offReticle || !(t.computing (devOfRet r))

/-- A fault record of engine e is held back by a full report ring: the engine stalls (17 R328). -/
def State.engineHeld (t : State) (r e : Nat) : Bool :=
  t.heldBack (devOfRet r) kindCardFault (fun x => decide (x.ret = retNo r) && x.extra.any (fun d => d.toNat / 2 ^ 56 = 0xE0 + e))

/-- Engine e of a reticle starts the card at the head of its queue, or moves more of its elements: the flit of element n, or of
the first that has not moved, where n has. The order of a card's elements is left open (R248). -/
def execCardStart (r e n : Nat) (t : State) : Res :=
  let x := t.ret r
  match tabGet x.queues e [] with
  | [] => .next t
  | id :: _ =>
    match tabGet? x.cards id with
    | none => .next t
    | some c =>
      if t.engineHeld r e then .next t
      else if c.running = false ∧ t.cardReady r c = false then .next t
      else if t.cardPhase r c then
        let d := { c with running := true }
        let v := t.setRet r { x with cards := tabPut x.cards id d }
        let u := if c.running then v else v.cardBegins r id c
        if c.total ≤ c.progress then .next u
        else .next (u.moveFlit r id (if n < c.total ∧ c.moved n = false then n else c.progress) d)
      else .next t

/-- The token write of a card (R252): a maximum at the word's home, and a release at the card's scope, which signals its accesses
(10 R222; 03 R84). -/
def State.tokenWrite (t : State) (r id : Nat) (c : Card) : State :=
  let p := c.party r id
  match c.tokenAddr with
  | none => t
  | some a =>
    (t.homeWrite p false (t.headsAt seesAll a 8 ++ [t.headOf p c.scope.toNat a 8]) a 8 (max (t.read a 8) c.seq.toNat)).sync p
      (.done (devOfRet r))

/-- Cards of the job with a lower number and the same token have written it or been abandoned, the phase allows the write
(R252), and the word's bank can be read. -/
def State.tokenMay (t : State) (r : Nat) (c : Card) : Bool :=
  match c.tokenAddr with
  | none => true
  | some a =>
    !((t.ret r).cards.any (fun d => d.2.job = c.job && d.2.token = c.token && decide (d.2.seq < c.seq) && !d.2.stopped)) &&
    (!(offReticle r a) || !(t.computing (devOfRet r))) && !(t.wsLocked a || t.wsRefreshing a)

/-- The ports of a reticle that wait for pins are tried. -/
def State.retryPins (t : State) (r : Nat) : State := (List.range 16).foldl (fun s p => s.portSubmit r p) t

/-- A card that has ended leaves the reticle: its token page's pin is dropped. -/
def State.dropCard (t : State) (r id : Nat) (c : Card) : State :=
  let y := t.ret r
  (t.setRet r { y with cards := tabDel y.cards id, pins := dropPins y.pins c.tokenPin.toList }).retryPins r

/-- The token stage of an ended card (R252; 04 R105): the write, with its arrival at a mailbox, or the fault it meets. The token
of a stopped card that cannot be written is not. -/
def State.tokenStage (t : State) (r id : Nat) (c : Card) : State :=
  let cause : BitVec 8 := match c.tokenFault, c.tokenAddr with
    | some f, _ => f
    | none, some a => if isWs a ∧ t.liveOn r c.job then 0x03 else if t.isBad a 8 then 0x12 else 0
    | none, none => 0
  if cause ≠ 0 then (if c.stopped then t.dropCard r id c else t.cardFault r id c cause c.token)
  else
    let u := t.tokenWrite r id c
    let hits := match c.tokenAddr with | some a => u.mailboxHits a 8 | none => []
    ((if c.stopped then u else u.mailboxArrive (c.party r id) hits).dropCard r id c)

/-- The card at the head of engine e's queue ends once all its elements have moved (R251), which is its arrival at the mailboxes
it has written (04 R105); else the first ended card of the engine whose token may be written writes it (R252). -/
def execCardComplete (r e : Nat) (t : State) : Res :=
  let x := t.ret r
  let head := match tabGet x.queues e [] with
    | id :: _ => (match tabGet? x.cards id with
        | some c => if c.running ∧ c.total ≤ c.progress then some (id, c) else none
        | none => none)
    | [] => none
  if t.engineHeld r e then .next t
  else
    match head with
    | some (id, c) => .next (((t.endCard r id).mailboxArrive (c.party r id) c.hits).retryPins r)
    | none =>
      match x.cards.find? (fun d => decide (d.2.engine = e) && d.2.ended && t.tokenMay r d.2) with
      | some (id, c) => .next (t.tokenStage r id c)
      | none => .next t

-- WAITSEQ (R253) -----------------------------------------------------------------------------------------------------------

/-- WAITSEQ parks the squad on a token word; it goes on when the word has reached the value (State.wake). -/
def execWaitseq (_m : BitVec 1) (p : BitVec 3) (a b : BitVec 6) (t : State) : Res :=
  t.drained [a, b] (fun vs u =>
    let va := argAt vs 0
    if slice va 0 3 ≠ 0 then .next (u.trapS 0x04 va tdstNone)
    else match u.access (blockOfSquad u.actor) .read va 8 with
    | (v, .ok m _) => .next ((v.checkStorage m).setSq { v.sq with run := .waitseq m (argAt vs 1) p.toNat })
    | (v, .bad c) => .next (v.trapS c va tdstNone)
    | (v, .absent w l e) => .next (v.pageFault v.actor va w l e)
    | (v, .corrupt a) => .next (v.lateScalar tdstNone a))

end Sys2Proof.Machine
end

