-- ==== Sys2Proof/Machine/Posts.lean ====
section
/-! DEFINITION. Posting (13 R259 to R276; 14 R279 to R286): ranks, apertures, groups and layout maps, the checks of each
post, XCHAN, and acceptance into a channel. -/

namespace Sys2Proof.Machine

/-- TVAL of a channel fault at a post (13 R278; Table 3-4). -/
def chfault (sub chan detail : Nat) : BitVec 64 := BitVec.ofNat 64 (sub * 2 ^ 56 + chan % 256 * 2 ^ 40 + detail % 2 ^ 32)

-- Ranks and apertures ---------------------------------------------------------------------------------------------------

/-- A rank table entry of a job on a device: as it stands, or as latched at the boundary (R259). -/
def State.rankNow (t : State) (d j rank : Nat) : BitVec 64 := cellGet (t.dev d).ranks (4096 * j + rank)
def State.rankLatched (t : State) (d j rank : Nat) : BitVec 64 := cellGet (t.dev d).latched (4096 * j + rank)
abbrev rankValid (e : BitVec 64) : Bool := bitAt e 63
abbrev rankHost (e : BitVec 64) : Bool := bitAt e 62
abbrev rankDev (e : BitVec 64) : Nat := (slice e 32 16).toNat
abbrev rankRet (e : BitVec 64) : Nat := (slice e 8 6).toNat
abbrev rankPlane (e : BitVec 64) : Nat := (slice e 0 2).toNat

/-- Members named by FIRST, NRANKS and STRIDE (Table 13-6). -/
structure Group where
  first : Nat
  count : Nat
  stride : Nat
  deriving DecidableEq, Repr, Inhabited

def groupOf (x : BitVec 64) : Group := ⟨(slice x 0 12).toNat, (slice x 12 13).toNat, (slice x 25 12).toNat⟩
def Group.members (g : Group) : List Nat := (List.range g.count).map (fun k => g.first + k * g.stride)
def Group.bad (g : Group) : Bool := g.count = 0 || (g.stride = 0 && 1 < g.count)

/-- Double k of aperture a of a job on a device. -/
def State.aperture (t : State) (d j a k : Nat) : BitVec 64 := cellGet (t.dev d).apertures (1024 * j + 4 * a + k)

/-- First member without a valid rank entry, then first above 4,095 (R271, R276, R286). -/
def State.badMember (t : State) (d j : Nat) (ms : List Nat) : Option Nat :=
  match ms.find? (fun m => decide (m < 4096) && !(rankValid (t.rankNow d j m))) with
  | some m => some m
  | none => ms.find? (fun m => decide (4095 < m))

-- What a post's own checks leave ------------------------------------------------------------------------------------------

/-- A local range: address, bytes, whether read and written, alignment. -/
structure LocalRange where
  va : BitVec 64
  len : Nat
  reads : Bool
  writes : Bool
  align : Nat
  deriving DecidableEq, Repr, Inhabited

/-- Outcome of a post's own operand checks. -/
inductive PostCheck where
  | ok (t : State) (kind : PostKind) (ranges : List LocalRange)
  | bad (sub detail : Nat)
  | stop (t : State)
  | wait (t : State)
  deriving Inhabited

/-- The remote address of a data post is bad (R268). -/
def badRemote (a : BitVec 64) : Bool := !(canonical a) || inWindow a || slice a 0 5 ≠ 0

/-- sc outside the mask holds a bit (R268). -/
def strayBits (sc mask : BitVec 64) : Bool := sc &&& ~~~mask ≠ 0

/-- Checks shared by XGET, XPUT and XAMO after their own of sc: the remote address, then the rank. -/
def State.checkRemote (t : State) (d j : Nat) (rem sc : BitVec 64) (kind : PostKind) (range : LocalRange) : PostCheck :=
  let rank := (slice sc 0 12).toNat
  if badRemote rem then .bad 6 rem.toNat
  else if rankValid (t.rankNow d j rank) = false then .bad 5 rank
  else .ok t kind [range]

/-- XGET and XPUT (R268). -/
def State.checkGet (t : State) (d j : Nat) (sa sb sc : BitVec 64) (flits : Nat) : PostCheck :=
  if strayBits sc 0xFFF then .bad 6 sc.toNat
  else t.checkRemote d j sb sc (.get sa sb (slice sc 0 12).toNat flits) ⟨sa, 32 * flits, false, true, 32⟩
def State.checkPut (t : State) (d j : Nat) (sa sb sc : BitVec 64) (flits : Nat) : PostCheck :=
  if strayBits sc 0xFFF then .bad 6 sc.toNat
  else t.checkRemote d j sa sc (.put sa sb (slice sc 0 12).toNat flits) ⟨sb, 32 * flits, true, false, 32⟩

/-- XAMO (R268, R270). -/
def State.checkAmo (t : State) (d j : Nat) (sa sb sc : BitVec 64) (flits : Nat) : PostCheck :=
  let op := (slice sc 12 4).toNat
  let dbl := bitAt sc 16
  if strayBits sc 0x1FFFF then .bad 6 sc.toNat
  else if badRemote sa then .bad 6 sa.toNat
  else if (op = 7 && 64 < flits) || 10 ≤ op || (8 ≤ op && dbl) then .bad 6 sc.toNat
  else t.checkRemote d j sa sc (.amo sa sb (slice sc 0 12).toNat op dbl flits)
    ⟨sb, (if op = 7 then 64 else 32) * flits, true, true, 32⟩

/-- The aperture checks of XMST and XMLD (R271): SUB and DETAIL, or none. An aperture address that is no multiple of 32 takes SUB
0x06, for an XMLD's sb too, and a misaligned sa of an XMLD is an address fault (0x04), as Table 13-5 has it of the other data posts:
the spec gives XMLD's operands no alignment (R272; log 48, DESIGN CHOICE). -/
def State.checkAperture (t : State) (d j : Nat) (ap : BitVec 64) (flits : Nat) : Option (Nat × Nat) :=
  let a := (slice ap 40 8).toNat
  let o := (slice ap 0 40).toNat
  let e := t.aperture d j a 0
  let g := groupOf e
  if canonical ap = false ∨ winOf ap ≠ winMcast ∨ slice ap 0 5 ≠ 0 then some (6, ap.toNat)
  else if (t.aperture d j a 2).toNat < o + 32 * flits then some (6, ap.toNat)
  else if bitAt e 63 = false ∨ g.bad then some (5, (Config.apertureDetail a).toNat)
  else (t.badMember d j g.members).map (fun m => (5, m))

/-- Address in every member of an aperture address: BASE + o (R269, R272). -/
def State.apertureBase (t : State) (d j : Nat) (ap : BitVec 64) : BitVec 64 :=
  t.aperture d j (slice ap 40 8).toNat 1 + (slice ap 0 40).setWidth 64

def State.checkMst (t : State) (d j : Nat) (sa sb : BitVec 64) (flits : Nat) : PostCheck :=
  match t.checkAperture d j sa flits with
  | some (s, x) => .bad s x
  | none => .ok t (.mst (t.apertureBase d j sa) (t.aperture d j (slice sa 40 8).toNat 0) sb flits) [⟨sb, 32 * flits, true, false, 32⟩]

/-- A reduction admits a format (Table 13-7). -/
def combineOk (op ef : Nat) : Bool :=
  (op ≤ 2 && (ef = 3 || ef = 6 || (7 ≤ ef && ef ≤ 9))) || (3 ≤ op && op ≤ 5 && (ef = 3 || ef = 6))

/-- XMLD (R271, R272): the SUB 0x06 checks of the operands, then the aperture's SUB 0x05 checks. -/
def State.checkMld (t : State) (d j : Nat) (sa sb sc : BitVec 64) (flits : Nat) : PostCheck :=
  let op := (slice sc 0 3).toNat
  let ef := (slice sc 4 4).toNat
  let ap := t.checkAperture d j sb flits
  match ap with
  | some (6, x) => .bad 6 x
  | _ =>
    if combineOk op ef = false ∨ strayBits sc 0xF7 then .bad 6 sc.toNat
    else match ap with
      | some (s, x) => .bad s x
      | none => .ok t (.mld sa (t.apertureBase d j sb) (t.aperture d j (slice sb 40 8).toNat 0) op ef flits) [⟨sa, 32 * flits, false, true, 32⟩]

-- Collective cards (R273, R276) -----------------------------------------------------------------------------------------

def collKind (c : List (BitVec 64)) : Nat := (slice (dblAt c 0) 60 4).toNat
def collOp (c : List (BitVec 64)) : Nat := (slice (dblAt c 0) 57 3).toNat
def collEf (c : List (BitVec 64)) : Nat := (slice (dblAt c 0) 53 4).toNat
def collRm (c : List (BitVec 64)) : BitVec 2 := slice (dblAt c 0) 51 2
def collCount (c : List (BitVec 64)) : Nat := (slice (dblAt c 1) 0 32).toNat
def collRoot (c : List (BitVec 64)) : Nat := (slice (dblAt c 2) 37 12).toNat
def collGroup (c : List (BitVec 64)) : Group := groupOf (dblAt c 2)
def collSelf (c : List (BitVec 64)) : Nat := (slice (dblAt c 5) 0 12).toNat
def collBytes (c : List (BitVec 64)) : Nat := efBits (collEf c) / 8

/-- Elements of SEND and RECV of the poster, 0 for a range it does not have (R274). -/
def collSend (c : List (BitVec 64)) : Nat :=
  match collKind c with
  | 2 => if collSelf c = collRoot c then collCount c else 0
  | 4 => (collGroup c).count * collCount c
  | _ => collCount c
def collRecv (c : List (BitVec 64)) : Nat :=
  match collKind c with
  | 1 => if collSelf c = collRoot c then collCount c else 0
  | 3 => (collGroup c).count * collCount c
  | _ => collCount c

/-- Lowest double of a list of (offset, bits) that has a bit set. -/
def firstSet (xs : List (Nat × BitVec 64)) : Option Nat := (xs.find? (fun x => x.2 ≠ 0)).map (·.1)

/-- SELF's entry does not name the squad's own device and reticle (R276). -/
def State.foreignSelf (t : State) (r j self : Nat) : Bool :=
  let e := t.rankNow (devOfRet r) j self
  rankHost e || rankDev e ≠ devOfRet r || rankRet e ≠ retNo r

/-- The checks of an XCOLL card (R276). -/
def State.checkColl (t : State) (r j : Nat) (c : List (BitVec 64)) : PostCheck :=
  let k := collKind c
  let reduces := k = 0 || k = 1 || k = 4
  let fmtOk := if reduces then combineOk (collOp c) (collEf c) else decide (1 ≤ collEf c) && decide (collEf c ≤ 10)
  let g := collGroup c
  let res := firstSet [(0x00, (slice (dblAt c 0) 0 51).setWidth 64), (0x08, (slice (dblAt c 1) 32 32).setWidth 64),
    (0x10, (slice (dblAt c 2) 49 15).setWidth 64), (0x28, (slice (dblAt c 5) 12 52).setWidth 64), (0x30, dblAt c 6), (0x38, dblAt c 7)]
  let longest := max (if k = 4 then g.count * collCount c else collCount c) (if k = 3 then g.count * collCount c else collCount c)
  if 5 ≤ k || !fmtOk then .bad 6 0
  else match res with
  | some o => .bad 6 o
  | none =>
    if collCount c = 0 ∨ 2 ^ 32 < longest * collBytes c then .bad 6 0x08
    else if g.bad then .bad 6 0x10
    else if !(g.members.contains (collSelf c)) then .bad 6 0x28
    else match t.badMember (devOfRet r) j g.members with
    | some m => .bad 5 m
    | none =>
      if (k = 1 || k = 2) && !(g.members.contains (collRoot c)) then .bad 5 (collRoot c)
      else if t.foreignSelf r j (collSelf c) then .bad 5 (collSelf c)
      else
        let rs : List LocalRange := [⟨dblAt c 3, collSend c * collBytes c, true, false, 32⟩, ⟨dblAt c 4, collRecv c * collBytes c, false, true, 32⟩]
        .ok t (.coll c) (rs.filter (fun x => x.len ≠ 0))

-- Layout maps (14) --------------------------------------------------------------------------------------------------------

def mapDims (m : List (BitVec 64)) : Nat := (slice (dblAt m 0) 60 4).toNat + 1
def mapBytes (m : List (BitVec 64)) : Nat := 2 ^ (slice (dblAt m 0) 58 2).toNat
def mapGroup (m : List (BitVec 64)) : Group := groupOf (dblAt m 1)
def mapSelf (m : List (BitVec 64)) : Nat := (slice (dblAt m 2) 0 12).toNat
/-- Double k of record t. -/
def mapRec (m : List (BitVec 64)) (t k : Nat) : BitVec 64 := dblAt m (8 + 4 * t + k)
def mapSgrid (m : List (BitVec 64)) (t : Nat) : Nat := (slice (mapRec m t 0) 51 13).toNat
def mapDgrid (m : List (BitVec 64)) (t : Nat) : Nat := (slice (mapRec m t 0) 38 13).toNat
def mapPerm (m : List (BitVec 64)) (t : Nat) : Nat := (slice (mapRec m t 0) 32 4).toNat
def mapExt (m : List (BitVec 64)) (t : Nat) : Nat := (slice (mapRec m t 0) 0 32).toNat
def mapSblk (m : List (BitVec 64)) (t : Nat) : Nat := (slice (mapRec m t 1) 32 32).toNat
def mapDblk (m : List (BitVec 64)) (t : Nat) : Nat := (slice (mapRec m t 1) 0 32).toNat
def mapSstr (m : List (BitVec 64)) (t : Nat) : Int := (mapRec m t 2).toInt
def mapDstr (m : List (BitVec 64)) (t : Nat) : Int := (mapRec m t 3).toInt

/-- Coordinate and local index of a block-cyclic distribution (R280). -/
def bcCoord (g p b : Nat) : Nat := if p = 1 then 0 else g / b % p
def bcLocal (g p b : Nat) : Nat := if p = 1 then g else g / (b * p) * b + g % b

/-- Product of a list. -/
def prodOf (xs : List Nat) : Nat := xs.foldl (· * ·) 1

/-- Number of global elements. -/
def mapTotal (m : List (BitVec 64)) : Nat := prodOf ((List.range (mapDims m)).map (mapExt m))

/-- Digit of element n for destination local dimension q, dimension 0 fastest. -/
def mapDigit (m : List (BitVec 64)) (n q : Nat) : Nat :=
  n / prodOf ((List.range q).map (fun p => mapExt m (mapPerm m p))) % mapExt m (mapPerm m q)

/-- Global index d of element n, elements numbered in destination order (R282). -/
def mapIndex (m : List (BitVec 64)) (n d : Nat) : Nat :=
  match (List.range (mapDims m)).find? (fun q => mapPerm m q = d) with
  | some q => mapDigit m n q
  | none => 0

/-- Position among the members of the source owner, and of the destination owner, of element n (R280). -/
def srcOwner (m : List (BitVec 64)) (n : Nat) : Nat :=
  ((List.range (mapDims m)).map (fun d =>
    bcCoord (mapIndex m n d) (mapSgrid m d) (mapSblk m d) * prodOf ((List.range d).map (mapSgrid m)))).sum
def dstOwner (m : List (BitVec 64)) (n : Nat) : Nat :=
  ((List.range (mapDims m)).map (fun d =>
    bcCoord (mapIndex m n d) (mapDgrid m d) (mapDblk m d) * prodOf ((List.range d).map (mapDgrid m)))).sum

/-- Byte offset of element n from the source base, and from the destination base (R281). -/
def srcOffset (m : List (BitVec 64)) (n : Nat) : Int :=
  ((List.range (mapDims m)).map (fun d => (bcLocal (mapIndex m n d) (mapSgrid m d) (mapSblk m d) : Int) * mapSstr m d)).sum
def dstOffset (m : List (BitVec 64)) (n : Nat) : Int :=
  ((List.range (mapDims m)).map (fun q =>
    let d := mapPerm m q
    (bcLocal (mapIndex m n d) (mapDgrid m d) (mapDblk m d) : Int) * mapDstr m q)).sum

/-- Elements that a member sends, receives, or sends to another, in the order of the wire (R282). -/
def sentBy (m : List (BitVec 64)) (s : Nat) : List Nat := (List.range (mapTotal m)).filter (fun n => srcOwner m n = s)
def receivedBy (m : List (BitVec 64)) (t : Nat) : List Nat := (List.range (mapTotal m)).filter (fun n => dstOwner m n = t)
def piece (m : List (BitVec 64)) (s t : Nat) : List Nat :=
  (List.range (mapTotal m)).filter (fun n => srcOwner m n = s && dstOwner m n = t)

/-- Position of a rank among the members. -/
def Group.position (g : Group) (rank : Nat) : Nat := g.members.findIdx (· = rank)

/-- Number of local indices of a block-cyclic distribution of n over p members at coordinate c (R280). -/
def bcCount (n p b c : Nat) : Nat := if p = 1 then n else n / (b * p) * b + min b (n % (b * p) - c * b)

/-- Local extents of the member at position s: of what it sends, and of what it receives. -/
def srcExtents (m : List (BitVec 64)) (s : Nat) : List Nat :=
  (List.range (mapDims m)).map (fun d =>
    bcCount (mapExt m d) (mapSgrid m d) (mapSblk m d) (s / prodOf ((List.range d).map (mapSgrid m)) % mapSgrid m d))
def dstExtents (m : List (BitVec 64)) (s : Nat) : List Nat :=
  (List.range (mapDims m)).map (fun d =>
    bcCount (mapExt m d) (mapDgrid m d) (mapDblk m d) (s / prodOf ((List.range d).map (mapDgrid m)) % mapDgrid m d))

/-- The span of a strided local array, from the least offset to the greatest plus e bytes (R281). -/
def spanOf (base : BitVec 64) (e : Nat) (dims : List (Nat × Int)) (reads : Bool) : List LocalRange :=
  if dims.any (fun x => x.1 = 0) then []
  else
    let ends := dims.map (fun x => ((x.1 : Int) - 1) * x.2)
    let lo := (ends.map (min 0)).sum
    let hi := (ends.map (max 0)).sum
    [⟨base + BitVec.ofInt 64 lo, (hi - lo).toNat + e, reads, !reads, 1⟩]

/-- First failing SUB 0x06 check of a layout map (R286), with its DETAIL. -/
def badMap (m : List (BitVec 64)) (sb sc : BitVec 64) : Option Nat :=
  let ds := List.range (mapDims m)
  let e := mapBytes m
  let g := mapGroup m
  let at_ := fun (t k : Nat) => 0x40 + 32 * t + 8 * k
  let first := fun (p : Nat → Bool) (k : Nat) => (ds.find? p).map (fun t => at_ t k)
  let head := firstSet [(0x00, (slice (dblAt m 0) 0 58).setWidth 64), (0x08, (slice (dblAt m 1) 37 27).setWidth 64),
    (0x10, (slice (dblAt m 2) 12 52).setWidth 64), (0x18, dblAt m 3), (0x20, dblAt m 4), (0x28, dblAt m 5), (0x30, dblAt m 6), (0x38, dblAt m 7)]
  let blk := fun (grid size : Nat) => if grid = 1 then size ≠ 0 else size = 0
  let checks : List (Option Nat) := [
    head,
    first (fun t => slice (mapRec m t 0) 36 2 ≠ 0) 0,
    (if 14 < mapDims m then some 0 else none),
    first (fun t => mapExt m t = 0) 0,
    first (fun t => decide (mapDims m ≤ mapPerm m t) || (List.range t).any (fun u => mapPerm m u = mapPerm m t)) 0,
    first (fun t => mapSgrid m t = 0 || 4096 < mapSgrid m t || mapDgrid m t = 0 || 4096 < mapDgrid m t) 0,
    first (fun t => blk (mapSgrid m t) (mapSblk m t) || blk (mapDgrid m t) (mapDblk m t)) 1,
    (if g.bad then some 0x08 else none),
    (if prodOf (ds.map (mapSgrid m)) ≠ g.count ∨ prodOf (ds.map (mapDgrid m)) ≠ g.count then some 0x08 else none),
    (if sb.toNat % e ≠ 0 then some sb.toNat else none),
    (if sc.toNat % e ≠ 0 then some sc.toNat else none),
    (ds.findSome? (fun t => if mapSstr m t % e ≠ 0 then some (at_ t 2) else if mapDstr m t % e ≠ 0 then some (at_ t 3) else none)),
    (if (List.range g.count).any (fun s => decide (2 ^ 32 < prodOf (srcExtents m s)) || decide (2 ^ 32 < prodOf (dstExtents m s))) then some 0x08 else none),
    (if g.members.contains (mapSelf m) then none else some 0x10)]
  checks.findSome? id

/-- The checks of an XTXA (R286), but for its pins. -/
def State.checkTxa (t : State) (r j : Nat) (m : List (BitVec 64)) (sb sc : BitVec 64) : PostCheck :=
  let g := mapGroup m
  match badMap m sb sc with
  | some x => .bad 6 x
  | none =>
    match t.badMember (devOfRet r) j g.members with
    | some k => .bad 5 k
    | none =>
      if t.foreignSelf r j (mapSelf m) then .bad 5 (mapSelf m)
      else
        let p := g.position (mapSelf m)
        let ds := List.range (mapDims m)
        .ok t (.txa m sb sc) (spanOf sb (mapBytes m) ((srcExtents m p).zip (ds.map (mapSstr m))) true ++
          spanOf sc (mapBytes m) (ds.map (fun q => ((dstExtents m p).getD (mapPerm m q) 0, mapDstr m q))) false)

-- Local ranges -------------------------------------------------------------------------------------------------------------

/-- Where n bytes from an address outside the windows, wrapping at 2^64, run into the windows (09 R187). -/
def runsIntoWindow (va : BitVec 64) (n : Nat) : Option (BitVec 64) :=
  let edge := (if va.toNat < 2 ^ 56 then 0 else 2 ^ 64) + 0x0FC * 2 ^ 48
  if edge < va.toNat + n then some (BitVec.ofNat 64 edge) else none

/-- Check a range for one kind of access: its storage and pins, or the failing address (R267). -/
def State.localKind (t : State) (q : Nat) (kind : Kind) (x : LocalRange) (acc : Resolved) : State × Resolved :=
  let r := t.retOf q
  let j := (t.gangOf q).job
  let w := { t.gangWalker (gangOfSquad q) with strict := true }
  if inWindow x.va then
    let segs := t.windowSegs (some q) r j x.va.toNat x.len
    if (segs.map (·.len)).sum ≠ x.len then (t, { acc with fail := some (x.va, .bad 0x06) })
    else if kind = .write ∧ winOf x.va = winWs then (t, { acc with fail := some (x.va, .bad 0x03) })
    else (t, { acc with segs := acc.segs ++ segs })
  else
    match runsIntoWindow x.va x.len with
    | some a => (t, { acc with fail := some (a, .bad 0x06) })
    | none => t.resolve w (some q) r j kind (x.len / 4096 + 2) x.va.toNat x.len acc

/-- Check the local ranges of a post in order (R267). -/
def State.localRanges (t : State) (q : Nat) (rs : List LocalRange) (acc : Resolved) : State × Resolved :=
  match rs with
  | [] => (t, acc)
  | x :: rest =>
    if acc.fail.isSome then (t, acc)
    else if canonical x.va = false then (t, { acc with fail := some (x.va, .bad 0x06) })
    else if x.va.toNat % x.align ≠ 0 then (t, { acc with fail := some (x.va, .bad 0x04) })
    else
      match (if x.reads then t.localKind q .read x acc else (t, acc)) with
      | (u, a) =>
        if a.fail.isSome then (u, a)
        else
          match (if x.writes then u.localKind q .write x { a with segs := acc.segs } else (u, a)) with
          | (v, b) => v.localRanges q rest b

-- The common steps (R267) ------------------------------------------------------------------------------------------------

/-- An XTXA. -/
def PostKind.isTxa (k : PostKind) : Bool := match k with | .txa _ _ _ => true | _ => false

/-- Posts on channel c of a job on reticle r that are not yet accepted. -/
def State.postsPending (t : State) (r j c : Nat) : Nat :=
  let gs := t.gangs.filter (fun e => decide (e.2.ret = r) && decide (e.2.job = j))
  ((gs.flatMap (fun e => t.gangSquads e.1)).map (fun q =>
    ((t.squad q).out.filter (fun o => match o.kind with | .post d _ => d = c | _ => false)).length)).sum

/-- A post traps with a channel fault. -/
def State.postFault (t : State) (sub c detail : Nat) : Res := .next (t.trapS 0x0D (chfault sub c detail) tdstNone)

/-- The common steps of a post whose own checks are check (R267). The region ends after the checks: a fault swap leaves it open
(16 R312); it ends then also for a post that still waits for its pins (log 15). -/
def State.post (t : State) (m : BitVec 1) (srcs : List (BitVec 6))
    (check : State → Nat → Nat → List (BitVec 64) → PostCheck) : Res :=
  t.waitRegion (srcs.map t.sq.readS) (fun vs u =>
    let q := u.actor
    let r := u.retOf q
    let j := (u.gangOf q).job
    let c := u.sq.chsel.toNat
    match check u r j vs with
    | .stop v => .next v
    | .wait v => .next (v.holdWord vs)
    | .bad sub x => u.postFault sub c x
    | .ok v kind ranges =>
      let ch := tabGet (v.field (fieldKey r j)).chans c {}
      if ch.posts = 0 then v.postFault 3 c c
      else if ch.rsv = 0 then v.postFault 4 c 0
      else
        match v.localRanges q ranges {} with
        | (w, a) =>
          match a.fail with
          | some (va, .absent wk l e) => .next (w.pageFault q va wk l e)
          | some (va, .bad f) => .next (w.trapS f va tdstNone)
          | some (_, .corrupt ad) => .next (w.lateScalar tdstNone ad)
          | some (_, .ok _ _) => .next w
          | none =>
            if ch.posts ≤ ch.queue.length + w.postsPending r j c then w.postFault 2 c ch.posts
            else if kind.isTxa && decide (256 < a.pins.length) then w.postFault 6 c a.pins.length
            else
              let p : Posted := { id := w.clock, squad := some q, gang := some (gangOfSquad q), kind := kind, segs := a.segs, pins := a.pins }
              .next ((w.regionEnds.issue .ordinary 0 0 [(.post c p, none)]).done m))

/-- A post of three registers. -/
def State.dataPost (t : State) (m : BitVec 1) (a b c : BitVec 6)
    (check : State → Nat → Nat → BitVec 64 → BitVec 64 → BitVec 64 → PostCheck) : Res :=
  t.post m [a, b, c] (fun u r j vs => check u (devOfRet r) j (argAt vs 0) (argAt vs 1) (argAt vs 2))

/-- Flits of a data post: minor + 1 (R268). -/
abbrev flitsOf (n : BitVec 7) : Nat := n.toNat + 1

def execXget (m : BitVec 1) (a b c : BitVec 6) (n : BitVec 7) (t : State) : Res :=
  t.dataPost m a b c (fun u d j x y z => u.checkGet d j x y z (flitsOf n))
def execXput (m : BitVec 1) (a b c : BitVec 6) (n : BitVec 7) (t : State) : Res :=
  t.dataPost m a b c (fun u d j x y z => u.checkPut d j x y z (flitsOf n))
def execXamo (m : BitVec 1) (a b c : BitVec 6) (n : BitVec 7) (t : State) : Res :=
  t.dataPost m a b c (fun u d j x y z => u.checkAmo d j x y z (flitsOf n))
def execXmld (m : BitVec 1) (a b c : BitVec 6) (n : BitVec 7) (t : State) : Res :=
  t.dataPost m a b c (fun u d j x y z => u.checkMld d j x y z (flitsOf n))
def execXmst (m : BitVec 1) (a b : BitVec 6) (n : BitVec 7) (t : State) : Res :=
  t.post m [a, b] (fun u r j vs => u.checkMst (devOfRet r) j (argAt vs 0) (argAt vs 1) (flitsOf n))

/-- XCOLL reads its card at issue (R273). -/
def execXcoll (m : BitVec 1) (a : BitVec 6) (t : State) : Res :=
  t.post m [a] (fun u r j vs =>
    match u.readRecord (argAt vs 0) 8 tdstNone with
    | .stop v => .stop v
    | .wait v => .wait v
    | .ok v ds => v.checkColl r j ds)

/-- XTXA reads its map at issue: the header, then as many records as it names (R281). -/
def execXtxa (m : BitVec 1) (a b c : BitVec 6) (t : State) : Res :=
  t.post m [a, b, c] (fun u r j vs =>
    match u.readRecord (argAt vs 0) 8 tdstNone with
    | .stop v => .stop v
    | .wait v => .wait v
    | .ok v hd =>
      if 14 < mapDims hd then .bad 6 ((firstSet [(0x00, (slice (dblAt hd 0) 0 58).setWidth 64),
        (0x08, (slice (dblAt hd 1) 37 27).setWidth 64), (0x10, (slice (dblAt hd 2) 12 52).setWidth 64), (0x18, dblAt hd 3),
        (0x20, dblAt hd 4), (0x28, dblAt hd 5), (0x30, dblAt hd 6), (0x38, dblAt hd 7)]).getD 0)
      else
        match v.readRecord (argAt vs 0) (8 + 4 * mapDims hd) tdstNone with
        | .stop w => .stop w
        | .wait w => .wait w
        | .ok w ds => w.checkTxa r j (hd ++ ds.drop 8) (argAt vs 1) (argAt vs 2))

-- Acceptance (R78, R267) ---------------------------------------------------------------------------------------------------

/-- The number of a collective post among its member's for its group, and the counts after it (R274; 14 R284). The counts are the reticle's,
so that those of a member whose rank moves to another reticle (R259) start again at 0 there: the spec does not say where a count is kept
(log 43, DESIGN CHOICE). -/
def Field.number (f : Field) (k : PostKind) : Field × Nat :=
  match k with
  | .coll c =>
    let key := (dblAt c 2).toNat % 2 ^ 37 * 4096 + collSelf c
    ({ f with colls := tabPut f.colls key (tabGet f.colls key 0 + 1) }, tabGet f.colls key 0)
  | .txa m _ _ =>
    let key := (dblAt m 1).toNat % 2 ^ 37 * 4096 + mapSelf m
    ({ f with txas := tabPut f.txas key (tabGet f.txas key 0 + 1) }, tabGet f.txas key 0)
  | _ => (f, 0)

/-- Result k of a squad, a post, takes its pins and is appended to its channel's queue, once they are free and its earlier
posts have been accepted. A squad that waits at a barrier may go on with it. -/
def State.acceptPost (t : State) (q k : Nat) : State :=
  let x := t.squad q
  match x.out[k]? with
  | none => t
  | some o =>
    match o.kind with
    | .post c p =>
      let r := t.retOf q
      let j := (t.gangOf q).job
      let y := t.ret r
      let earlier := (x.out.take k).any (fun e => match e.kind with | .post _ _ => true | _ => false)
      if earlier ∨ y.pinsFit p.pins = false then t
      else
        let fk := fieldKey r j
        let n := (t.field fk).number p.kind
        let ch := tabGet n.1.chans c {}
        let queue := ch.queue ++ [{ p with seq := n.2 }]
        let t1 := t.setField fk { n.1 with chans := tabPut n.1.chans c { ch with queue := queue } }
        let t2 := t1.setRet r { y with pins := addPins y.pins p.pins }
        let t3 := t2.setSquad q { x with out := listDel x.out k }
        ((t3.capture r 7 c queue.length).settle q).barriers (blockOfSquad q)
    | _ => t

/-- Result k of a squad, a post, is accepted. -/
def execPostAccept (q k : Nat) (t : State) : Res :=
  if t.mayRun q then .next (t.acceptPost q k) else .next t

-- XCHAN (R263) --------------------------------------------------------------------------------------------------------------

def State.xchan (t : State) (m : BitVec 1) (a b : BitVec 6) (ord : Bool) : Res :=
  let c := t.sq.readS a
  let n := (t.sq.readS b).toNat
  let r := t.retOf t.actor
  let fk := t.fieldOf t.actor
  let f := t.field fk
  let ch := tabGet f.chans c.toNat {}
  if 255 < c.toNat ∨ ch.posts = 0 then t.postFault 3 c.toNat c.toNat
  else if 4096 < n then t.postFault 6 c.toNat n
  else if (t.ret r).freeSlots + ch.prsv < n then t.postFault 7 c.toNat n
  else
    let y := t.ret r
    let t1 := t.setRet r { y with freeSlots := y.freeSlots + ch.prsv - n }
    let t2 := t1.setField fk { f with chans := tabPut f.chans c.toNat { ch with prsv := n } }
    .next ((t2.issue .ordinary 0 0 [(.channel c.toNat n ord, none)]).done m)

def execXchan (m : BitVec 1) (a b : BitVec 6) (t : State) : Res := t.xchan m a b false
def execXchanOrd (m : BitVec 1) (a b : BitVec 6) (t : State) : Res := t.xchan m a b true

end Sys2Proof.Machine
end

