-- ==== Sys2Proof/Machine/Exchange.lean ====
section
/-! DEFINITION. Carrying out operations in an exchange superstep (13 R255 to R278; 14 R282 to R286): the requests of an
operation, injection, arrival at the far end, responses, the parts of collectives and transposes, completion and failure. -/

namespace Sys2Proof.Machine

-- Operations where they stand -----------------------------------------------------------------------------------------

/-- An operation of a channel's queue, or a compiled transfer of the superstep. -/
def Field.op? (f : Field) (src : InjectSource) (id : Nat) : Option Posted :=
  match src with
  | .chan c => (tabGet f.chans c {}).queue.find? (fun p => p.id = id)
  | .xfer _ => f.runs.find? (fun p => p.id = id)

/-- Change it, or remove it. -/
def Field.mapOp (f : Field) (src : InjectSource) (id : Nat) (g : Posted → Posted) : Field :=
  let h := fun (p : Posted) => if p.id = id then g p else p
  match src with
  | .chan c => { f with chans := tabMap f.chans (fun k ch => if k = c then { ch with queue := ch.queue.map h } else ch) }
  | .xfer _ => { f with runs := f.runs.map h }
def Field.dropOp (f : Field) (src : InjectSource) (id : Nat) : Field :=
  match src with
  | .chan c => { f with chans := tabMap f.chans (fun k ch =>
      if k = c then { ch with queue := ch.queue.filter (fun p => p.id ≠ id) } else ch) }
  | .xfer _ => { f with runs := f.runs.filter (fun p => p.id ≠ id) }

def State.mapOp (t : State) (r j : Nat) (src : InjectSource) (id : Nat) (g : Posted → Posted) : State :=
  t.setField (fieldKey r j) ((t.field (fieldKey r j)).mapOp src id g)

/-- Slots in use by requests of a source, changed by g. -/
def Field.mapUsed (f : Field) (src : InjectSource) (g : Nat → Nat) : Field :=
  match src with
  | .chan c => { f with chans := tabMap f.chans (fun k ch => if k = c then { ch with used := g ch.used } else ch) }
  | .xfer _ => { f with xferUsed := g f.xferUsed }

/-- A reserved slot of the source is free (R261, R264). -/
def Field.slotFree (f : Field) (src : InjectSource) : Bool :=
  match src with
  | .chan c => let ch := tabGet f.chans c {}; decide (ch.used < ch.rsv)
  | .xfer _ => decide (f.xferUsed < f.xferSlots)

/-- Storage of a local address of an operation. -/
def Posted.place (p : Posted) (va : BitVec 64) : Option Nat :=
  match p.segs.find? (fun s => decide (s.va ≤ va.toNat) && decide (va.toNat < s.va + s.len)) with
  | some s => some (s.addr + (va.toNat - s.va))
  | none => none

/-- A local range whose read stalls for the weight store: a bank that refreshes, or one not yet scrubbed (09 R194; 17 R332). -/
def State.localStall (t : State) (p : Posted) (va : BitVec 64) (n : Nat) : Bool :=
  (List.range n).any (fun i => match p.place (va + BitVec.ofNat 64 i) with
    | some a => t.wsLocked a || t.wsRefreshing a
    | none => false)

/-- n local bytes, as cells from key k; none when a unit of them holds uncorrectable data. -/
def State.localCells (t : State) (p : Posted) (va : BitVec 64) (k n : Nat) (acc : Cells 8) : Option (Cells 8) :=
  match n with
  | 0 => some acc
  | i + 1 =>
    match p.place va with
    | none => t.localCells p (va + 1) (k + 1) i acc
    | some a => if t.isBad a 1 then none else t.localCells p (va + 1) (k + 1) i (cellPut acc k (t.byte a))

/-- What reading local data comes to: the data by key, uncorrectable data, or a stall of the weight store. -/
inductive LocalRead where
  | ok (t : State) (cs : Cells 8)
  | bad
  | stall
  deriving Inhabited

/-- A party reads n bytes from a: a host copy is recalled first (10 R225), and it reads nothing older of them afterwards. -/
def State.readBy (t : State) (q : Party) (a n : Nat) : State := (t.recall a).observe q seesAll a n

/-- Read local ranges for party q, each an address, the key its data go to, and its bytes. -/
def State.readLocal (t : State) (q : Party) (p : Posted) (rs : List (BitVec 64 × Nat × Nat)) : LocalRead :=
  if rs.any (fun x => t.localStall p x.1 x.2.2) then .stall
  else
    match rs.foldl (fun acc x => match acc with
        | some cs => t.localCells p x.1 x.2.1 x.2.2 cs
        | none => none) (some []) with
    | none => .bad
    | some cs => .ok (rs.foldl (fun s x => (List.range x.2.2).foldl (fun u i =>
        match p.place (x.1 + BitVec.ofNat 64 i) with | some a => u.readBy q a 1 | none => u) s) t) cs

/-- n bytes of cells from key k. -/
def cellBytes (c : Cells 8) (k n : Nat) : List Byte := (List.range n).map (fun i => cellGet c (k + i))

/-- The number of n bytes of cells from key k. -/
def cellNum (c : Cells 8) (k n : Nat) : Nat := leValue (cellBytes c k n)

-- The requests of an operation -------------------------------------------------------------------------------------------

/-- One request: the rank it goes to, and its units. -/
structure Wire where
  rank : Nat
  units : List Nat
  deriving DecidableEq, Repr, Inhabited

/-- Members other than position me, as (position, rank). -/
def Group.others (g : Group) (me : Nat) : List (Nat × Nat) :=
  ((List.range g.count).map (fun k => (k, g.first + k * g.stride))).filter (fun m => m.1 ≠ me)

/-- Flits of n bytes. -/
abbrev flitCount (n : Nat) : Nat := (n + 31) / 32

/-- Slice k of F flits among n members (23 R362): as even as whole flits allow, log 24. -/
def sliceFlits (F n k : Nat) : List Nat :=
  let per := (F + n - 1) / n
  (List.range (min F ((k + 1) * per) - k * per)).map (fun i => k * per + i)

/-- A unit of a collective: flit f of a contribution (tag 0) or of a reduced result (tag 1). -/
abbrev unitOf (tag f : Nat) : Nat := tag * 2 ^ 32 + f
/-- Where a member's Relay keeps a flit that came from position s. -/
abbrev gotKey (tag s f : Nat) : Nat := (tag * 4096 + s) * 2 ^ 32 + f

def collPos (c : List (BitVec 64)) : Nat := (collGroup c).position (collSelf c)
def collRootPos (c : List (BitVec 64)) : Nat := (collGroup c).position (collRoot c)
/-- Flits of a contribution. -/
def collFlits (c : List (BitVec 64)) : Nat := flitCount (collCount c * collBytes c)

/-- Puts of a member of a collective (R274; 23 R362): contributions, then reduced slices. -/
def collParts (c : List (BitVec 64)) : List Wire :=
  let g := collGroup c
  let me := collPos c
  let F := collFlits c
  let whole := (g.others me).map (fun m => Wire.mk m.2 ((List.range F).map (unitOf 0)))
  match collKind c with
  | 0 =>
    ((g.others me).map (fun m => Wire.mk m.2 ((sliceFlits F g.count m.1).map (unitOf 0))) ++
     (g.others me).map (fun m => Wire.mk m.2 ((sliceFlits F g.count me).map (unitOf 1)))).filter (fun x => x.units ≠ [])
  | 1 => if me = collRootPos c then [] else [Wire.mk (collRoot c) ((List.range F).map (unitOf 0))]
  | 2 => if me = collRootPos c then whole else []
  | _ => whole

/-- Flits of a piece cut into requests of 4 KiB. -/
def cut4K (rank F : Nat) : List Wire :=
  (List.range ((F + 127) / 128)).map (fun i => Wire.mk rank ((List.range (min 128 (F - 128 * i))).map (fun k => 128 * i + k)))

/-- Pieces of a member of a transpose (14 R282). -/
def txaParts (m : List (BitVec 64)) : List Wire :=
  let g := mapGroup m
  let me := g.position (mapSelf m)
  (g.others me).flatMap (fun x => cut4K x.2 (flitCount ((piece m me x.1).length * mapBytes m)))

/-- The requests of an operation, in the order they leave (R264). -/
def Posted.parts (p : Posted) (src : InjectSource) : List Wire :=
  let plain := fun (rank F : Nat) => match src with
    | .chan _ => [Wire.mk rank (List.range F)]
    | .xfer _ => cut4K rank F
  let cast := fun (group : BitVec 64) (F : Nat) => [Wire.mk (groupOf group).first (List.range ((groupOf group).count * F))]
  match p.kind with
  | .get _ _ rank F => plain rank F
  | .put _ _ rank F => plain rank F
  | .amo _ _ rank _ dbl F => [Wire.mk rank (List.range (32 * F / (if dbl then 8 else 4)))]
  | .mst _ group _ F => cast group F
  | .mld _ _ group _ _ F => cast group F
  | .coll c => collParts c
  | .txa m _ _ => txaParts m

/-- The rank that unit u of a request to rank goes to. -/
def Posted.unitRank (p : Posted) (rank u : Nat) : Nat :=
  let pick := fun (group : BitVec 64) (F : Nat) => (groupOf group).first + u / F * (groupOf group).stride
  match p.kind with
  | .mst _ group _ F => pick group F
  | .mld _ _ group _ _ F => pick group F
  | _ => rank

/-- Ranks an operation accesses. -/
def Posted.ranks (p : Posted) : List Nat :=
  match p.kind with
  | .get _ _ rank _ => [rank]
  | .put _ _ rank _ => [rank]
  | .amo _ _ rank _ _ _ => [rank]
  | .mst _ group _ _ => (groupOf group).members
  | .mld _ _ group _ _ _ => (groupOf group).members
  | .coll c => (collGroup c).members
  | .txa m _ _ => (mapGroup m).members

/-- An XCOLL or an XTXA: its group, the poster's rank, and whether it is an XTXA. -/
def PostKind.collective? (k : PostKind) : Option (Nat × Nat × Bool) :=
  match k with
  | .coll c => some ((slice (dblAt c 2) 0 37).toNat, collSelf c, false)
  | .txa m _ _ => some ((slice (dblAt m 1) 0 37).toNat, mapSelf m, true)
  | _ => none

def PostKind.members (k : PostKind) : List Nat :=
  match k with
  | .coll c => (collGroup c).members
  | .txa m _ _ => (mapGroup m).members
  | _ => []

/-- Matched posts agree (R276; 14 R284). -/
def PostKind.agrees (a b : PostKind) : Bool :=
  match a, b with
  | .coll x, .coll y => slice (dblAt x 0) 51 13 = slice (dblAt y 0) 51 13 && collCount x = collCount y && collRoot x = collRoot y
  | .txa x _ _, .txa y _ _ => slice (dblAt x 0) 58 6 = slice (dblAt y 0) 58 6 &&
      (List.range (mapDims x)).all (fun t => mapRec x t 0 = mapRec y t 0 && mapRec x t 1 = mapRec y t 1)
  | _, _ => false

-- Order (R277; 14 R285) ---------------------------------------------------------------------------------------------------

/-- The record of a member's part of a collective, on any reticle of any device. -/
def State.records (t : State) (j g n : Nat) (isTxa : Bool) : List (Nat × Begun) :=
  (t.fields.filter (fun e => e.1 % 65536 = j)).flatMap (fun e =>
    (e.2.begun.filter (fun b => b.group = g && b.number = n && b.txa = isTxa)).map (fun b => (e.1, b)))

/-- The rank of the member a part belongs to. -/
def PostKind.selfRank (k : PostKind) : Nat := match k.collective? with | some g => g.2.1 | none => 0

/-- The member's part has ended: it has written all it writes, or has failed. -/
def Begun.over (b : Begun) : Bool := b.wrote || b.failed

/-- Every member has a part for which f holds. -/
def Begun.everyMember (b : Begun) (rs : List (Nat × Begun)) (f : Begun → Bool) : Bool :=
  b.kind.members.all (fun m => rs.any (fun e => decide (e.2.kind.selfRank = m) && f e.2))

/-- An ended post of a collective still has accesses to come at a member: those of that member's own part (R277; 14 R285;
log 24). -/
def State.partHolds (t : State) (j : Nat) (b : Begun) (rank : Nat) : Bool :=
  !b.failed && b.kind.members.contains rank &&
  !((t.records j b.group b.number b.txa).any (fun e => decide (e.2.kind.selfRank = rank) && e.2.over))

/-- Every access of an operation at a rank has been performed: it has been injected, and no request of it holds a unit for
that rank. A collective counts until it has ended. -/
def State.performedAt (t : State) (r j : Nat) (src : InjectSource) (p : Posted) (rank : Nat) : Bool :=
  p.kind.collective?.isNone && decide ((p.parts src).length ≤ p.sent) &&
  !((t.ret r).requests.any (fun e => decide (e.2.job = j) && decide (e.2.chan = src) && decide (e.2.op = p.id) &&
    e.2.todo.any (fun u => p.unitRank e.2.rank u = rank)))

/-- An access of operation id at a rank waits for earlier operations of its ordered channel. -/
def State.orderHolds (t : State) (r j : Nat) (src : InjectSource) (id rank : Nat) : Bool :=
  match src with
  | .xfer _ => false
  | .chan c =>
    let f := t.field (fieldKey r j)
    let ch := tabGet f.chans c {}
    ch.ordered && ((ch.queue.takeWhile (fun p => p.id ≠ id)).any (fun p =>
        p.ranks.contains rank && !(t.performedAt r j src p rank)) ||
      f.begun.any (fun b => decide (b.chan = c) && decide (b.op < id) && (ch.queue.find? (fun p => p.id = b.op)).isNone &&
        t.partHolds j b rank))

-- The end of an operation --------------------------------------------------------------------------------------------------

/-- Packets of a message of some flits (R255): at most two flits make one packet (23 R362); the cut of a longer one is not given
(log 23). -/
def State.messagePackets (t : State) (flits : Nat) : Nat := if flits ≤ 2 then 1 else 1 + Config.packets t.clock

/-- External packets of a reticle whose endpoint is lost leave through a neighbour's (R258; 18 Table 18-1). -/
def State.reroute (t : State) (r flits : Nat) : State :=
  let x := t.ret r
  if x.lost then
    let n := x.reroute.toNat + t.messagePackets flits
    (t.setRet r { x with reroute := if 2 ^ 64 ≤ n then BitVec.allOnes 64 else BitVec.ofNat 64 n }).tick
  else t

/-- The reticle, on its device, at which an entry's requests are performed: a host's is the anchor (R259). -/
def rankAt (e : BitVec 64) : Nat := if rankHost e then 19 else rankRet e

/-- Reticles that answer a request, with the flits of their response: data, old values, or an acknowledgement (R265). -/
def Posted.answers (p : Posted) (q : Request) (fails : Bool) : List (Nat × Nat) :=
  let us := q.todo ++ q.back
  let flits := fun (n : Nat) => match p.kind with
    | .get _ _ _ _ => n
    | .mld _ _ _ _ _ _ => n
    | .amo _ _ _ _ dbl _ => (n * (if dbl then 8 else 4) + 31) / 32
    | _ => 1
  let ranks := (us.map (p.unitRank q.rank)).eraseDups
  ranks.map (fun k => (k, if fails then 1 else flits (us.filter (fun u => p.unitRank q.rank u = k)).length))

/-- The responses of the ranks that a request reached over the external plane leave their reticles. -/
def State.respond (t : State) (r : Nat) (p : Posted) (q : Request) (fails : Bool) : State :=
  ((p.answers q fails).filter (fun e => q.exts.contains e.1)).foldl (fun s e =>
    let y := s.rankLatched (devOfRet r) q.job e.1
    if 48 ≤ rankAt y then s else s.reroute (48 * rankDev y + rankAt y) e.2) t

/-- Take an operation out, with its pins (R251, R266). A request of it that is in flight stays until its response has come, and
holds its slot till then (R264; 18 R337). -/
def State.removeOp (t : State) (r j : Nat) (src : InjectSource) (p : Posted) : State :=
  let x := t.ret r
  let mine := fun (q : Request) => decide (q.job = j) && decide (q.chan = src) && decide (q.op = p.id)
  let open_ := x.requests.filter (fun e => mine e.2 && decide (e.2.todo ≠ []) && e.2.failed.isNone)
  let t1 := t.setRet r { x with requests := tabMap x.requests (fun _ q => if mine q then { q with todo := [], waiting := none, orphan := true } else q),
                                pins := dropPins x.pins p.pins }
  let t2 := open_.foldl (fun s e => s.respond r p e.2 true) t1
  t2.setField (fieldKey r j) ((t2.field (fieldKey r j)).dropOp src p.id)

/-- It completes: mailboxes whose word it wrote get PEND (04 R105). -/
def State.completeOp (t : State) (r j : Nat) (src : InjectSource) (p : Posted) : State :=
  (t.removeOp r j src p).mailboxArrive (.member (fieldKey r j)) p.hits

/-- The record of an operation that is a collective's part. -/
def Posted.record (p : Posted) (src : InjectSource) : Option Begun :=
  match p.kind.collective?, src with
  | some g, .chan c => some { txa := g.2.2, group := g.1, number := p.seq, chan := c, op := p.id, kind := p.kind, squad := p.squad, gang := p.gang }
  | _, _ => none

/-- Change the record of an operation, which it gets where it has none. -/
def State.mapRecord (t : State) (r j : Nat) (src : InjectSource) (p : Posted) (g : Begun → Begun) : State :=
  match p.record src with
  | none => t
  | some b =>
    let f := t.field (fieldKey r j)
    let bs := if f.begun.any (fun x => x.op = p.id) then f.begun.map (fun x => if x.op = p.id then g x else x) else f.begun ++ [g b]
    t.setField (fieldKey r j) { f with begun := bs }

/-- An operation ends with a carry-time fault (R278), to be delivered at the boundary (03 R82). A compiled transfer that
fails counts as abandoned (R261), as does whatever the limit ends. -/
def State.failOp (t : State) (r j : Nat) (src : InjectSource) (p : Posted) (sub : BitVec 8) : State :=
  let t1 := (t.removeOp r j src p).mapRecord r j src p (fun b => { b with failed := true })
  let f := t1.field (fieldKey r j)
  let compiled : Bool := match src with | .xfer _ => true | .chan _ => false
  let c := match src with | .chan c => c | .xfer _ => 0
  let t2 := t1.setField (fieldKey r j) { f with failures := f.failures ++ [⟨p.squad, p.gang, compiled, sub, c⟩] }
  if compiled || sub = 1 then
    let d := devOfRet r
    let x := t2.dev d
    t2.setDev d { x with abandNow := x.abandNow + 1 }
  else t2

-- Parts of collectives -----------------------------------------------------------------------------------------------------

/-- A destination element of a member's part: where it goes, its bytes, and the flits and offsets it is made of. -/
structure DestElem where
  va : BitVec 64
  len : Nat
  srcs : List (Nat × Nat)
  deriving DecidableEq, Repr, Inhabited

/-- Owner of a flit of an ALLREDUCE. -/
def sliceOwner (F n f : Nat) : Nat := f / ((F + n - 1) / n)

/-- RECV of a member, element by element (R274). -/
def collDest (c : List (BitVec 64)) : List DestElem :=
  let b := collBytes c
  let n := (collGroup c).count
  let me := collPos c
  let F := collFlits c
  let all := fun (o : Nat) => (List.range n).map (fun s => (s, o))
  (List.range (collRecv c)).map (fun i =>
    let o := i * b
    ⟨dblAt c 4 + BitVec.ofNat 64 o, b,
      match collKind c with
      | 0 => if sliceOwner F n (o / 32) = me then all o else [(4096 + sliceOwner F n (o / 32), o)]
      | 2 => [(collRootPos c, o)]
      | 3 => [(i / collCount c, i % collCount c * b)]
      | _ => all o⟩)

/-- Destination elements of a transpose (14 R281, R282). -/
def txaDest (m : List (BitVec 64)) (dst : BitVec 64) : List DestElem :=
  let me := (mapGroup m).position (mapSelf m)
  let e := mapBytes m
  (receivedBy m me).map (fun n =>
    let s := srcOwner m n
    ⟨dst + BitVec.ofInt 64 (dstOffset m n), e, [(s, (piece m s me).findIdx (· = n) * e)]⟩)

def PostKind.dest (k : PostKind) : List DestElem :=
  match k with
  | .coll c => collDest c
  | .txa m _ d => txaDest m d
  | _ => []

/-- combine (Table 13-7) of two elements of format ef. -/
def combine (op ef : Nat) (rm : BitVec 2) (t x : Nat) : Nat :=
  if ef = 3 || ef = 6 then
    let s := fun (v : Nat) => if ef = 3 then sextNat 32 v else (v : Int)
    match op with
    | 0 => (t + x) % 2 ^ 32
    | 1 => if s x < s t then x else t
    | 2 => if s t < s x then x else t
    | 3 => t &&& x
    | 4 => t ||| x
    | _ => t ^^^ x
  else
    let f := ffmt ef
    match op with
    | 0 => (f.sum rm false [f.read false t, f.read false x]).v.toNat
    | 1 => (f.minMax false false t x).v.toNat
    | _ => (f.minMax true false t x).v.toNat

/-- Values combined in ascending rank order, one rounding per step. -/
def combineAll (op ef : Nat) (rm : BitVec 2) (xs : List Nat) : Nat :=
  match xs with
  | [] => 0
  | x :: rest => rest.foldl (combine op ef rm) x

/-- Value of a destination element from the flits a member holds. -/
def Posted.elemValue (p : Posted) (e : DestElem) : Nat :=
  let xs := e.srcs.map (fun s => cellNum (tabGet p.got (s.1 * 2 ^ 32 + s.2 / 32) []) (s.2 % 32) e.len)
  match p.kind with
  | .coll c => combineAll (collOp c) (collEf c) (collRm c) xs
  | _ => xs.headD 0

/-- All the flits an element is made of are present. -/
def Posted.elemReady (p : Posted) (e : DestElem) : Bool :=
  e.srcs.all (fun s => (tabGet? p.got (s.1 * 2 ^ 32 + s.2 / 32)).isSome)

/-- Destination elements by the flit of memory they lie in. -/
def Posted.destFlits (p : Posted) : List (Nat × List (Nat × DestElem)) :=
  let es := p.kind.dest.filterMap (fun e => (p.place e.va).map (fun a => (a, e)))
  (es.map (fun e => e.1 / 32)).eraseDups.map (fun f => (f, es.filter (fun e => e.1 / 32 = f)))

/-- One 32-byte flit of a reduced slice, kept for the members it goes to. -/
def Posted.keepReduced (p : Posted) (es : List (Nat × DestElem)) : List (Nat × Cells 8) :=
  match p.kind with
  | .coll c =>
    if collKind c = 0 then
      es.foldl (fun acc e =>
        match e.2.srcs with
        | (0, o) :: _ =>
          let k := gotKey 1 (collPos c) (o / 32)
          tabPut acc k (cellPutList (tabGet acc k []) (o % 32) (numBytes e.2.len (p.elemValue e.2)))
        | _ => acc) p.got
    else p.got
  | _ => p.got

/-- Write one destination flit in one step, once every element of it is there (R275; 14 R283). Of two elements that a map sends to one
address the later in destination order stays, where 14 R285 leaves either (log 43, DESIGN CHOICE). -/
def State.writeFlit (t : State) (r j : Nat) (src : InjectSource) (p : Posted) (fl : Nat) (es : List (Nat × DestElem)) :
    State × Posted :=
  let t1 := t.writeElems (.member (fieldKey r j)) (es.map (fun e => (e.1, e.2.len, p.elemValue e.2)))
  let covered := (List.range 32).all (fun i => es.any (fun e => decide (e.1 ≤ fl * 32 + i) && decide (fl * 32 + i < e.1 + e.2.len)))
  let t2 := if covered then t1.clearBad (fl * 32) 32 else t1
  let q := { p with wrote := p.wrote ++ [fl], got := p.keepReduced es,
                    hits := es.foldl (fun h e => addHits h (t2.mailboxHits e.1 e.2.len)) p.hits }
  (t2.mapOp r j src p.id (fun _ => q), q)

/-- A part writes once every member's has begun, so that posts that do not match write nothing (R276; 14 R286; log 24). -/
def State.mayWrite (t : State) (j : Nat) (p : Posted) (src : InjectSource) : Bool :=
  match p.record src with
  | some b => b.everyMember (t.records j b.group b.number b.txa) (fun _ => true)
  | none => true

/-- Write the destination flits of a part that are ready, unless an earlier operation of its ordered channel still has
accesses at the member. -/
def State.writeReady (t : State) (r j : Nat) (src : InjectSource) (p : Posted) : State × Posted :=
  if t.orderHolds r j src p.id p.kind.selfRank || !(t.mayWrite j p src) then (t, p)
  else
    p.destFlits.foldl (fun acc f =>
      if acc.2.wrote.contains f.1 || !(f.2.all (fun e => acc.2.elemReady e.2)) then acc
      else acc.1.writeFlit r j src acc.2 f.1 f.2) (t, p)

/-- All its destination flits are written. -/
def Posted.allWritten (p : Posted) : Bool := p.started && p.destFlits.all (fun f => p.wrote.contains f.1)

/-- The operation has done all it does (R275). An XTXA completes with the others (14 R284). -/
def Posted.finished (p : Posted) (src : InjectSource) : Bool :=
  !p.kind.isTxa && decide ((p.parts src).length ≤ p.acked) && (p.kind.collective?.isNone || p.allWritten)

/-- Forget the records of a collective once no member's part is still to come or in a queue. -/
def State.forgetParts (t : State) (j : Nat) (b : Begun) : State :=
  let rs := t.records j b.group b.number b.txa
  let queued := fun (e : Nat × Begun) => ((t.field e.1).op? (.chan e.2.chan) e.2.op).isSome
  if b.everyMember rs Begun.over && !(rs.any queued) then
    { t with fields := tabMap t.fields (fun k f => if k % 65536 = j then
        { f with begun := f.begun.filter (fun x => !(x.group = b.group && x.number = b.number && x.txa = b.txa)) } else f) }
  else t

/-- Every member's destination flits are written and every request acknowledged, and no member's part has failed: each member's
XTXA completes (R275; 14 R284, R286). -/
def State.completeTxa (t : State) (j : Nat) (b : Begun) : State :=
  let rs := t.records j b.group b.number b.txa
  if b.txa && b.everyMember rs (fun x => x.wrote && x.acked && !x.failed) then
    rs.foldl (fun s e =>
      match (s.field e.1).op? (.chan e.2.chan) e.2.op with
      | some p => s.completeOp (e.1 / 65536) j (.chan e.2.chan) p
      | none => s) t
  else t

/-- Go on with an operation after something has come: write what is ready, and complete it. -/
def State.advanceOp (t : State) (r j : Nat) (src : InjectSource) (id : Nat) : State :=
  match (t.field (fieldKey r j)).op? src id with
  | none => t
  | some p =>
    match (if p.started then t.writeReady r j src p else (t, p)) with
    | (u, q) =>
      let v := if q.allWritten then
          u.mapRecord r j src q (fun b => { b with wrote := true, acked := b.acked || decide ((q.parts src).length ≤ q.acked) }) else u
      let w := if q.finished src then v.completeOp r j src q else v
      match q.record src with
      | some b => if q.allWritten then (w.completeTxa j b).forgetParts j b else w
      | none => w

/-- Own flits of a part, by key: what it contributes to itself. -/
def Posted.ownFlits (p : Posted) : List (Nat × Cells 8) :=
  match p.kind with
  | .coll c =>
    let me := collPos c
    let base := if collKind c = 4 then me * collCount c * collBytes c else 0
    let fs := match collKind c with
      | 0 => sliceFlits (collFlits c) (collGroup c).count me
      | _ => List.range (collFlits c)
    fs.foldl (fun acc f => tabPut acc (gotKey 0 me f) (cellTake p.data (base + 32 * f) (min 32 (collCount c * collBytes c - 32 * f)))) []
  | .txa m _ _ =>
    let me := (mapGroup m).position (mapSelf m)
    let e := mapBytes m
    let ns := piece m me me
    (List.range (flitCount (ns.length * e))).foldl (fun acc f =>
      tabPut acc (gotKey 0 me f) ((List.range (32 / e)).foldl (fun cs i =>
        match ns[32 / e * f + i]? with
        | some n => cellPutList cs (i * e) (cellBytes p.data (n * e) e)
        | none => cs) [])) []
  | _ => []

/-- Local ranges that a part reads when it starts: address, key of the data, bytes. -/
def Posted.partSources (p : Posted) : List (BitVec 64 × Nat × Nat) :=
  match p.kind with
  | .coll c => [(dblAt c 3, 0, collSend c * collBytes c)]
  | .txa m src _ =>
    (sentBy m ((mapGroup m).position (mapSelf m))).map (fun n => (src + BitVec.ofInt 64 (srcOffset m n), n * mapBytes m, mapBytes m))
  | _ => []

/-- Fields of a job on every reticle of every device, by key. -/
def State.fieldsOf (t : State) (j : Nat) : List (Nat × Field) := t.fields.filter (fun e => e.1 % 65536 = j)

/-- Started parts of one collective: field key, channel and post. -/
def State.startedParts (t : State) (j g n : Nat) (isTxa : Bool) : List (Nat × Nat × Posted) :=
  (t.fieldsOf j).flatMap (fun e => e.2.chans.flatMap (fun ch =>
    (ch.2.queue.filter (fun p => p.started && p.seq = n && (match p.kind.collective? with
      | some k => k.1 = g && k.2.2 = isTxa | none => false))).map (fun p => (e.1, ch.1, p))))

/-- A member takes SUB 0x09: its part fails, or, where that has already completed, the fault alone is recorded (R276). -/
def State.failMember (t : State) (j : Nat) (e : Nat × Begun) : State :=
  let b := e.2
  match (t.field e.1).op? (.chan b.chan) b.op with
  | some p => t.failOp (e.1 / 65536) j (.chan b.chan) p 9
  | none =>
    let f := t.field e.1
    t.setField e.1 { f with failures := f.failures ++ [⟨b.squad, b.gang, false, 9, b.chan⟩],
                            begun := f.begun.map (fun x => if x.op = b.op then { x with failed := true } else x) }

/-- The posts of a collective meet (R276; 14 R286): where two of the parts that have begun do not agree, now or before, every
member that has begun takes the fault. -/
def State.meet (t : State) (j : Nat) (b : Begun) : State :=
  let key := (j, b.group, b.number, b.txa)
  let rs := (t.records j b.group b.number b.txa).filter (fun e => !e.2.failed)
  let known := t.mismatch.contains key
  if known || rs.any (fun x => rs.any (fun y => !(x.2.kind.agrees y.2.kind))) then
    (rs.foldl (fun s e => s.failMember j e) (if known then t else { t with mismatch := t.mismatch ++ [key] })).forgetParts j b
  else t

/-- Start a member's part (R275): its local data is read and its description is there to meet the others'. An entry that is
not valid in the latched table fails it (R259). A weight-store bank that cannot be read leaves it to be started later. -/
def State.startPart (t : State) (r j c : Nat) (p : Posted) : State :=
  let src := InjectSource.chan c
  if p.ranks.any (fun k => !(rankValid (t.rankLatched (devOfRet r) j k))) then t.failOp r j src p 8
  else
    match t.readLocal (.member (fieldKey r j)) p p.partSources with
    | .stall => t
    | .bad => t.failOp r j src p 8
    | .ok u cs =>
      let p1 := { p with started := true, data := cs }
      let p2 := { p1 with got := p1.ownFlits.foldl (fun acc e => tabPut acc e.1 e.2) p.got }
      (u.mapOp r j src p.id (fun _ => p2)).mapRecord r j src p2 id

/-- The job takes part in the exchange superstep in progress on its device (03 R79). -/
def State.carries (t : State) (d j : Nat) : Bool :=
  !(t.computing d) && (t.job (jobKey d j)).advanced && !((t.dev d).limited)

/-- Every operation of a device's channels that f accepts, in turn: g with its reticle, job, channel and itself. -/
def State.eachOp (t : State) (d : Nat) (g : State → Nat → Nat → Nat → Posted → State) : State :=
  (t.fields.filter (fun e => devOfRet (e.1 / 65536) = d)).foldl (fun s e =>
    e.2.chans.foldl (fun s1 ch => ch.2.queue.foldl (fun s2 p0 =>
      match (s2.field e.1).op? (.chan ch.1) p0.id with
      | none => s2
      | some p => g s2 (e.1 / 65536) (e.1 % 65536) ch.1 p) s1) s) t

/-- Start every queued part of a device's jobs that may start, let the posts meet, and go on with the parts started. -/
def State.startParts (t : State) (d : Nat) : State :=
  let t1 := t.eachOp d (fun s r j c p =>
    if p.kind.collective?.isNone || p.started || !(s.carries d j) || s.orderHolds r j (.chan c) p.id p.kind.selfRank then s
    else s.startPart r j c p)
  let t2 := t1.eachOp d (fun s _ j c p => match p.record (.chan c) with | some b => if p.started then s.meet j b else s | none => s)
  t2.eachOp d (fun s r j c p => if p.started then s.advanceOp r j (.chan c) p.id else s)

/-- Parts start, and writes that waited for other members' parts or for an earlier operation of an ordered channel go on: on
every device whose job the operation belongs to. -/
def State.goOn (t : State) (d : Nat) : State :=
  ((t.fields.map (fun e => devOfRet (e.1 / 65536))).eraseDups.filter (fun k => k ≠ d)).foldl State.startParts (t.startParts d)

-- Injection (R256, R258, R264) --------------------------------------------------------------------------------------------

/-- The neighbours of a reticle on the grid of 8 columns by 6 rows, lowest first (01 R17). -/
def neighbours (n : Nat) : List Nat :=
  (if 8 ≤ n then [n - 8] else []) ++ (if n % 8 ≠ 0 then [n - 1] else []) ++ (if n % 8 ≠ 7 then [n + 1] else []) ++
  (if n < 40 then [n + 8] else [])

/-- Manhattan distance of two reticles. -/
def fieldDistance (a b : Nat) : Nat :=
  (max (a % 8) (b % 8) - min (a % 8) (b % 8)) + (max (a / 8) (b / 8) - min (a / 8) (b / 8))

/-- The plane chosen for an entry: the external one (R256). queued is the endpoint's queue in flits. -/
def State.external (r : Nat) (e : BitVec 64) (queued : Nat) : Bool :=
  if rankDev e ≠ devOfRet r then true
  else
    let hint := if rankHost e then 0 else rankPlane e
    if hint = 1 then false
    else if hint = 2 then true
    else !(decide (fieldDistance (retNo r) (rankAt e) ≤ 4) || decide (1024 < queued))

/-- The plane of a request to a rank: on an ordered channel the one chosen first in the superstep. -/
def State.planeOf (t : State) (r j : Nat) (src : InjectSource) (rank : Nat) (e : BitVec 64) (queued : Nat) : Bool :=
  let fresh := State.external r e queued
  match src with
  | .xfer _ => fresh
  | .chan c => let ch := tabGet (t.field (fieldKey r j)).chans c {}; if ch.ordered then tabGet ch.planes rank fresh else fresh

/-- Remember the plane of an ordered channel's first request to a rank. -/
def State.keepPlane (t : State) (r j : Nat) (src : InjectSource) (rank : Nat) (ext : Bool) : State :=
  match src with
  | .xfer _ => t
  | .chan c =>
    let f := t.field (fieldKey r j)
    let ch := tabGet f.chans c {}
    if ch.ordered && (tabGet? ch.planes rank).isNone then
      t.setField (fieldKey r j) { f with chans := tabPut f.chans c { ch with planes := tabPut ch.planes rank ext } }
    else t

/-- External traffic of a reticle leaves through its endpoint, or through the lowest-numbered neighbour's that is live
(R258). -/
def State.mayLeave (t : State) (r : Nat) : Bool :=
  !((t.ret r).lost) || (neighbours (retNo r)).any (fun n => !((t.ret (48 * devOfRet r + n)).lost))

/-- What a wire request carries: the data of its units, read locally: address, key of the data, bytes. -/
def Posted.wireSources (p : Posted) (units : List Nat) : List (BitVec 64 × Nat × Nat) :=
  let flits := fun (va : BitVec 64) (us : List Nat) => us.map (fun u => (va + BitVec.ofNat 64 (32 * u), 32 * u, 32))
  match p.kind with
  | .put _ loc _ _ => flits loc units
  | .mst _ _ loc F => flits loc (List.range F)
  | .amo _ loc _ op _ F => flits loc (List.range (if op = 7 then 2 * F else F))
  | _ => []

/-- Flits of the data that a request carries. -/
def Posted.wireFlits (p : Posted) (units : List Nat) : Nat :=
  match p.kind with
  | .coll _ => units.length
  | .txa _ _ _ => units.length
  | _ => (p.wireSources units).length

/-- Bytes of unit u that a member sends to the member at position k. -/
def Posted.unitBytes (p : Posted) (k u : Nat) : List Byte :=
  match p.kind with
  | .coll c =>
    let f := u % 2 ^ 32
    if u / 2 ^ 32 = 1 then cellBytes (tabGet p.got (gotKey 1 (collPos c) f) []) 0 32
    else
      let base := if collKind c = 4 then k * collCount c * collBytes c else 0
      let n := min 32 (collCount c * collBytes c - 32 * f)
      cellBytes p.data (base + 32 * f) n ++ List.replicate (32 - n) 0
  | .txa m _ _ =>
    let e := mapBytes m
    let ns := piece m ((mapGroup m).position (mapSelf m)) k
    (List.range (32 / e)).flatMap (fun i => match ns[32 / e * u + i]? with
      | some n => cellBytes p.data (n * e) e
      | none => List.replicate e 0)
  | _ => []

/-- A part of a collective may be sent: the member's part has started, and a reduced slice has been reduced. -/
def Posted.maySend (p : Posted) (x : Wire) : Bool :=
  match p.kind with
  | .coll c => p.started && x.units.all (fun u => u / 2 ^ 32 = 0 || (tabGet? p.got (gotKey 1 (collPos c) (u % 2 ^ 32))).isSome)
  | .txa _ _ _ => p.started
  | _ => true

/-- Local storage of a request of a compiled transfer, translated as it is injected (R261): the operation with it, a
failure (an address that is no multiple of 32 among them, log 25), or not yet. -/
inductive LocalPart where
  | ok (t : State) (p : Posted)
  | fail (t : State)
  | later (t : State)
  deriving Inhabited

def State.localPart (t : State) (r j : Nat) (src : InjectSource) (p : Posted) (x : Wire) : LocalPart :=
  match src with
  | .chan _ => .ok t p
  | .xfer _ =>
    let w := { t.jobWalker r j with strict := true }
    let go := fun (kind : Kind) (loc : BitVec 64) =>
      let va := loc + BitVec.ofNat 64 (32 * x.units.headD 0)
      let n := 32 * x.units.length
      match t.resolve w none r j kind (n / 4096 + 2) va.toNat n {} with
      | (u, a) =>
        match a.fail with
        | some (_, .absent _ _ _) => LocalPart.later u
        | some _ => .fail u
        | none =>
          if (a.segs.map (·.len)).sum ≠ n ∨ (kind = .write ∧ inWindow va) then .fail u
          else .ok u { p with segs := p.segs ++ a.segs }
    match p.kind with
    | .get loc rem _ _ => if loc.toNat % 32 ≠ 0 ∨ rem.toNat % 32 ≠ 0 then .fail t else go .write loc
    | .put rem loc _ _ => if loc.toNat % 32 ≠ 0 ∨ rem.toNat % 32 ≠ 0 then .fail t else go .read loc
    | _ => .ok t p

/-- Inject part number p.sent of an operation. -/
def State.injectPart (t : State) (r j : Nat) (src : InjectSource) (p0 : Posted) (x : Wire) (queued : Nat) : State :=
  let d := devOfRet r
  let es := (p0.ranks.map (fun k => (k, t.rankLatched d j k))).filter (fun e => p0.kind.collective?.isNone || e.1 = x.rank)
  let exts := es.map (fun e => (e.1, t.planeOf r j src e.1 e.2 queued))
  if es.any (fun e => !(rankValid e.2) || (t.dev d).fenced.contains (rankDev e.2)) then t.failOp r j src p0 8
  else if exts.any (·.2) ∧ t.mayLeave r = false then t
  else
    match t.localPart r j src p0 x with
    | .later u => u
    | .fail u => u.failOp r j src p0 8
    | .ok u p =>
      match u.readLocal (.member (fieldKey r j)) p (p.wireSources x.units) with
      | .stall => t
      | .bad => u.failOp r j src p 8
      | .ok u0 cs =>
        let y := u0.ret r
        let q : Request := { job := j, chan := src, op := p.id, part := p.sent, exts := (exts.filter (·.2)).map (·.1), rank := x.rank,
                             waiting := none, todo := x.units, back := [], data := cs, failed := none }
        let u1 := (u0.setRet r { y with requests := tabPut y.requests u0.clock q }).mapOp r j src p.id (fun _ => { p with sent := p.sent + 1 })
        let u2 := u1.setField (fieldKey r j) ((u1.field (fieldKey r j)).mapUsed src (· + 1))
        let u3 := (exts.foldl (fun s e => s.keepPlane r j src e.1 e.2) u2).tick
        if exts.any (·.2) then u3.reroute r (p.wireFlits x.units) else u3

/-- The operation of a source whose request leaves next: requests leave in queue order (R264). -/
def Field.nextOp (f : Field) (src : InjectSource) : Option Posted :=
  match src with
  | .chan c => (tabGet f.chans c {}).queue.find? (fun p => decide (p.sent < (p.parts src).length))
  | .xfer k => f.runs.find? (fun p => decide (p.id = k) && decide (p.sent < (p.parts src).length))

/-- Relay injects the next request of a channel or of a compiled transfer. -/
def execRelayInject (r j : Nat) (src : InjectSource) (queued : Nat) (t : State) : Res :=
  let f := t.field (fieldKey r j)
  if t.carries (devOfRet r) j = false then .next t
  else
    match f.nextOp src with
    | none => .next (t.goOn (devOfRet r))
    | some p =>
      match (p.parts src)[p.sent]? with
      | none => .next t
      | some x =>
        if p.maySend x = false then .next (t.goOn (devOfRet r))
        else if f.slotFree src = false then .next t
        else .next ((t.injectPart r j src p x queued).goOn (devOfRet r))

-- Arrival at the far end (R259, R265, R269 to R272) --------------------------------------------------------------------------

def State.mapRequest (t : State) (r k : Nat) (g : Request → Request) : State :=
  let x := t.ret r
  t.setRet r { x with requests := tabMap x.requests (fun i q => if i = k then g q else q) }

/-- A unit of a request has been performed. -/
def Request.did (q : Request) (u : Nat) : Request := { q with todo := q.todo.erase u, back := q.back ++ [u] }

/-- The request fails: what remains of it is not performed (R278). -/
def Request.fails (q : Request) : Request := { q with todo := [], failed := some 8 }

/-- Translation of a remote address at the far end (R259; 15 R290): storage, failure, or a page to be fetched. -/
def State.remoteAt (t : State) (j : Nat) (e : BitVec 64) (va : BitVec 64) (kind : Kind) : State × Acc :=
  if canonical va = false ∨ inWindow va then (t, .bad 0x06)
  else
    match t.translate (t.jobWalker (48 * rankDev e + rankAt e) j) kind va with
    | (u, .ok a c) => (u, if rankHost e ∧ homeOf a ≠ 62 then .bad 0x06 else .ok a c)
    | x => x

/-- Bytes and address of a unit at the far end, and whether it writes. -/
def PostKind.remoteUnit (k : PostKind) (u : Nat) : BitVec 64 × Nat × Bool :=
  match k with
  | .get _ rem _ _ => (rem + BitVec.ofNat 64 (32 * u), 32, false)
  | .put rem _ _ _ => (rem + BitVec.ofNat 64 (32 * u), 32, true)
  | .amo rem _ _ _ dbl _ => (rem + BitVec.ofNat 64 ((if dbl then 8 else 4) * u), if dbl then 8 else 4, true)
  | .mst rem _ _ F => (rem + BitVec.ofNat 64 (32 * (u % F)), 32, true)
  | .mld _ rem _ _ _ F => (rem + BitVec.ofNat 64 (32 * (u % F)), 32, false)
  | _ => (0, 0, false)

/-- Perform a data unit at its storage a: the state, and the request's data after it; none for uncorrectable data. -/
def State.performUnit (t : State) (p : Party) (k : PostKind) (u a : Nat) (cs : Cells 8) : Option (State × Cells 8) :=
  match k with
  | .put _ _ _ _ => some (t.flitWrite p a (cellBytes cs (32 * u) 32), cs)
  | .mst _ _ _ F => some (t.flitWrite p a (cellBytes cs (32 * (u % F)) 32), cs)
  | .amo _ _ _ op dbl _ =>
    let e := if dbl then 8 else 4
    if t.isBad a e then none
    else
      let at_ := if op = 7 then 2 * e * u else e * u
      let v := if op = 7 then cellNum cs (at_ + e) e else cellNum cs at_ e
      let old := t.read a e
      some (t.devRmw p a e (rmwValue op e old v (cellNum cs at_ e)), cellPutList cs at_ (numBytes e old))
  | _ =>
    if t.isBad a 32 then none
    else
      let s := (t.checkStorage a).readBy p a 32
      some (s, cellPutList cs (32 * u) (s.bytes a 32))

/-- A unit of a get, put, XAMO, XMST or XMLD arrives. The access is the poster's Relay's and the far Relay's, so that the boundary
of either device orders it (03 R84; 10 R215, R223). -/
def State.arriveData (t : State) (r k : Nat) (q : Request) (p : Posted) (e : BitVec 64) (u : Nat) : State :=
  let w := p.kind.remoteUnit u
  let d2 := rankDev e
  match t.remoteAt q.job e w.1 (if w.2.2 then .write else .read) with
  | (s, .absent wk l en) =>
    (s.mapRequest r k (fun x => { x with waiting := some (p.unitRank q.rank u) })).report d2
      ⟨kindPageFetch, rankAt e, q.job, 0, 0x05, 0, 0, w.1, [if wk then 1 else 0, BitVec.ofNat 64 l, BitVec.ofNat 64 en], none⟩
  | (s, .bad _) => s.mapRequest r k Request.fails
  | (s, .corrupt _) => s.mapRequest r k Request.fails
  | (s, .ok a _) =>
    match s.performUnit (.member (fieldKey r q.job)) p.kind u a q.data with
    | none => s.mapRequest r k Request.fails
    | some (v, cs) =>
      let v0 := v.observe (.member (fieldKey (48 * d2 + rankAt e) q.job)) seesAll a w.2.1
      let v1 := v0.mapRequest r k (fun x => { x with data := cs }.did u)
      if w.2.2 then v1.mapOp r q.job q.chan p.id (fun o => { o with hits := addHits o.hits (v1.mailboxHits a w.2.1) }) else v1

/-- The started part, at the far end, of the collective that an operation belongs to. -/
def State.farPart (t : State) (j : Nat) (p : Posted) (r2 rank : Nat) : Option (Nat × Posted) :=
  match p.kind.collective? with
  | none => none
  | some g =>
    ((t.startedParts j g.1 p.seq g.2.2).find? (fun x => decide (x.1 = fieldKey r2 j) &&
      (match x.2.2.kind.collective? with | some h => h.2.1 = rank | none => false))).map (fun x => x.2)

/-- A flit of a contribution, of a reduced slice or of a piece arrives; it waits until the member's part has started
(R275). -/
def State.arrivePiece (t : State) (r k : Nat) (q : Request) (p : Posted) (r2 rank u : Nat) : State :=
  match t.farPart q.job p r2 rank with
  | none => t
  | some (c, o) =>
    let ms := p.kind.members
    let me := ms.findIdx (fun m => match p.kind.collective? with | some g => m = g.2.1 | none => false)
    let dest := ms.findIdx (· = rank)
    let key := gotKey (u / 2 ^ 32) me (u % 2 ^ 32)
    let t1 := t.mapOp r2 q.job (.chan c) o.id (fun x => { x with got := tabPut x.got key (cellPutList [] 0 (p.unitBytes dest u)) })
    (t1.mapRequest r k (fun x => x.did u)).advanceOp r2 q.job (.chan c) o.id

/-- One unit of request k of reticle r arrives. Another device performs it only in an exchange superstep; a fenced one not
at all (15 R295). -/
def State.arriveUnit (t : State) (r k u : Nat) : State :=
  match tabGet? (t.ret r).requests k with
  | none => t
  | some q =>
    match (t.field (fieldKey r q.job)).op? q.chan q.op with
    | none => t
    | some p =>
      let d := devOfRet r
      let rank := p.unitRank q.rank u
      let e := t.rankLatched d q.job rank
      let d2 := rankDev e
      if q.waiting.isSome || q.failed.isSome || !(q.todo.contains u) then t
      else if d2 ≠ d ∧ t.computing d2 then t
      else if (t.dev d2).fenced.contains d || (t.dev d).fenced.contains d2 || !(t.jobLive d2 q.job) || 48 ≤ rankAt e then
        t.mapRequest r k Request.fails
      else if t.orderHolds r q.job q.chan p.id rank then t
      else if p.kind.collective?.isSome then t.arrivePiece r k q p (48 * d2 + rankAt e) rank u
      else t.arriveData r k q p e u

/-- The response of a request leaves once its last unit is performed, or has failed. -/
def State.respondIf (t : State) (r k : Nat) (q : Request) : State :=
  match tabGet? (t.ret r).requests k, (t.field (fieldKey r q.job)).op? q.chan q.op with
  | some y, some p => if q.todo ≠ [] ∧ y.todo = [] then t.respond r p q y.failed.isSome else t
  | _, _ => t

/-- Request k of reticle r arrives: the unit at position i of what is left, or all of it. -/
def execRelayRequestArrival (r k : Nat) (i : Option Nat) (t : State) : Res :=
  match tabGet? (t.ret r).requests k with
  | none => .next t
  | some q =>
    let us := match i with | none => q.todo | some n => (q.todo[n]?).toList
    .next (((us.foldl (fun s u => s.arriveUnit r k u) t).respondIf r k q).goOn (devOfRet r))

-- Responses (R264 to R266, R270, R272) ------------------------------------------------------------------------------------------

/-- Write a flit of local memory. -/
def State.localFlit (t : State) (r j : Nat) (src : InjectSource) (p : Posted) (va : BitVec 64) (bs : List Byte) : State :=
  match p.place va with
  | none => t
  | some a =>
    let t1 := t.flitWrite (.member (fieldKey r j)) a bs
    t1.mapOp r j src p.id (fun o => { o with hits := addHits o.hits (t1.mailboxHits a bs.length) })

/-- One flit of the answer of a get. -/
def State.writeBack (t : State) (r : Nat) (q : Request) (p : Posted) (u : Nat) : State :=
  match p.kind with
  | .get loc _ _ _ => t.localFlit r q.job q.chan p (loc + BitVec.ofNat 64 (32 * u)) (cellBytes q.data (32 * u) 32)
  | _ => t

/-- The result of an XMLD: flit f (R272). -/
def mldFlit (cs : Cells 8) (n op ef F f : Nat) : List Byte :=
  let b := efBits ef / 8
  (List.range (32 / b)).flatMap (fun i =>
    numBytes b (combineAll op ef 0 ((List.range n).map (fun m => cellNum cs (32 * (m * F + f) + i * b) b))))

/-- All results of an XAMO or XMLD, written as the response comes (R270, R272). -/
def State.writeResult (t : State) (r : Nat) (q : Request) (p : Posted) : State :=
  match p.kind with
  | .amo _ loc _ op dbl F =>
    let e := if dbl then 8 else 4
    (List.range (32 * F / e)).foldl (fun s i =>
      let o := if op = 7 then 2 * e * i else e * i
      match p.place (loc + BitVec.ofNat 64 o) with
      | some a =>
        let s1 := s.devWrite (.member (fieldKey r q.job)) a e (cellNum q.data o e)
        s1.mapOp r q.job q.chan p.id (fun x => { x with hits := addHits x.hits (s1.mailboxHits a e) })
      | none => s) t
  | .mld loc _ group op ef F =>
    (List.range F).foldl (fun s f => s.localFlit r q.job q.chan p (loc + BitVec.ofNat 64 (32 * f))
      (mldFlit q.data (groupOf group).count op ef F f)) t
  | _ => t

/-- A response has come: the request is over and its slot is free; a Stopwatch measures it. -/
def State.endRequest (t : State) (r k : Nat) (q : Request) (cycles : Nat) : State :=
  let x := t.ret r
  let t1 := t.setRet r { x with requests := tabDel x.requests k }
  (t1.setField (fieldKey r q.job) ((t1.field (fieldKey r q.job)).mapUsed q.chan (fun n => n - 1))).capture r 4 0 cycles

/-- The response of request k of reticle r arrives: flit number i of a get's data is written, or the whole response, and
then the slot is free. That of an operation that has ended frees its slot alone. -/
def execRelayResponseArrival (r k : Nat) (i : Option Nat) (cycles : Nat) (t : State) : Res :=
  match tabGet? (t.ret r).requests k with
  | none => .next t
  | some q =>
    match (if q.orphan then none else (t.field (fieldKey r q.job)).op? q.chan q.op) with
    | none => .next ((t.endRequest r k q cycles).goOn (devOfRet r))
    | some p =>
      if q.failed.isSome then .next (((t.endRequest r k q cycles).failOp r q.job q.chan p 8).goOn (devOfRet r))
      else if q.todo ≠ [] then .next t
      else
        match i with
        | some n =>
          (match p.kind, q.back[n]? with
           | .get _ _ _ _, some u => .next ((t.writeBack r q p u).mapRequest r k (fun x => { x with back := x.back.erase u, landing := true }))
           | _, _ => .next t)
        | none =>
          let t1 := (q.back.foldl (fun s u => s.writeBack r q p u) t).writeResult r q p
          let t2 := (t1.endRequest r k q cycles).mapOp r q.job q.chan p.id (fun o => { o with acked := o.acked + 1 })
          .next ((t2.advanceOp r q.job q.chan p.id).goOn (devOfRet r))

/-- A packet of a reticle's endpoint is retransmitted (R257): the counter alone shows it. -/
def execPacketRetransmit (r : Nat) (t : State) : Res :=
  let x := t.ret r
  if t.rets.any (fun e => e.2.requests.any (fun q => q.2.exts ≠ [])) then .next (t.setRet r { x with retx := satInc x.retx })
  else .next t

end Sys2Proof.Machine
end

