-- ==== Sys2Proof/Machine/Gangs.lean ====
section
/-! DEFINITION. Gangs (03 R71; 04): SYNC, EXIT and YIELD; descriptors and their checks; launch queues, submission, POST and
neighbour cards; the resources of cores and where a gang fits. -/

namespace Sys2Proof.Machine

-- SYNC, EXIT, YIELD ---------------------------------------------------------------------------------------------------

/-- The checks SYNC, EXIT and YIELD share: not in a handler, and no collective entry of the block open (R71, R103, R107). -/
def State.leaveChecks (t : State) (tdst : BitVec 64) (k : State → Res) : Res :=
  if t.sq.handler.isSome then .next (t.trapS 0x01 0 tdst)
  else if (t.block (blockOfSquad t.actor)).stack ≠ [] then .next (t.trapS 0x0A (divTval 1 0) tdst)
  else k t

/-- Park, ending an open region. -/
def State.parkAs (t : State) (r : RunState) : State := t.setSq { t.sq.endRegion with run := r, latch := none }

/-- JSTEP of the acting squad's job. -/
def State.jstepNow (t : State) : BitVec 64 := (t.job (t.jobOf t.actor)).jstep

def execSync (_m : BitVec 1) (d : BitVec 6) (t : State) : Res :=
  t.drained [] (fun _ u => u.leaveChecks (tdstScalar d) (fun v =>
    .next ((v.parkAs (.sync d v.jstepNow)).checkAbsent (blockOfSquad v.actor))))

def execExit (_m : BitVec 1) (t : State) : Res :=
  t.drained [] (fun _ u => u.leaveChecks tdstNone (fun v =>
    let b := blockOfSquad v.actor
    .next ((((v.parkAs .exited).deliverTiles b).checkAbsent b).barriers b)))

/-- Every unexited squad of a gang is parked in YIELD. -/
def State.allYield (t : State) (g : Nat) : Bool :=
  (t.gangSquads g).all (fun q => (t.squad q).exited || (match (t.squad q).run with | .yield _ _ _ => true | _ => false))

def execYield (_m : BitVec 1) (a b c : BitVec 6) (t : State) : Res :=
  t.drained [a, b, c] (fun vs u => u.leaveChecks tdstNone (fun v =>
    let va := argAt vs 0
    let cont := argAt vs 2
    if slice cont 0 2 ≠ 0 then .next (v.trapS 0x04 cont tdstNone)
    else if slice va 0 3 ≠ 0 then .next (v.trapS 0x04 va tdstNone)
    else
      match v.access (blockOfSquad v.actor) .read va 8 with
      | (w, .bad x) => .next (w.trapS x va tdstNone)
      | (w, .absent k l e) => .next (w.pageFault w.actor va k l e)
      | (w, .corrupt ad) => .next (w.lateScalar tdstNone ad)
      | (w, .ok m _) =>
        let y := (w.checkStorage m).parkAs (.yield m (argAt vs 1) cont)
        let g := gangOfSquad y.actor
        .next (if y.allYield g then y.leave g .yield else y.checkAbsent (blockOfSquad y.actor))))

-- Descriptors (R88, R89) -------------------------------------------------------------------------------------------------

/-- A descriptor as it stands in memory (Table 4-1). -/
def parseDesc (ds : List (BitVec 64)) : Desc :=
  let a := dblAt ds 0
  let b := dblAt ds 1
  { job := slice a 48 16, asid := slice a 32 16, prio := slice a 28 4, blocks := slice a 26 2, squads := slice a 22 4,
    vws := slice a 17 5, tiles := slice a 14 3, cores := slice a 13 1, hchk := slice a 12 1, fmt0 := slice b 50 14,
    loc := slice b 40 5, l1 := slice b 30 5, pool := slice b 25 5, gcount := slice b 0 16, sentry := dblAt ds 2,
    lentry := dblAt ds 3, tentry := dblAt ds 4, args := dblAt ds 5, xplan := dblAt ds 6, cplt := dblAt ds 7 }

/-- A one in a Res field. -/
def descReserved (ds : List (BitVec 64)) : Bool :=
  slice (dblAt ds 0) 0 12 ≠ 0 || slice (dblAt ds 1) 45 5 ≠ 0 || slice (dblAt ds 1) 35 5 ≠ 0 || slice (dblAt ds 1) 16 9 ≠ 0

/-- What one block of a gang takes of its core (01 Table 1-3). -/
structure Shape where
  squads : Nat
  vregs : Nat
  loc : Nat
  tiles : Nat
  pool : Nat
  deriving DecidableEq, Repr, Inhabited

def Desc.shape (d : Desc) (slots : Nat) : Shape := ⟨slots, d.nsquads * d.nvws, d.loc.toNat, d.tiles.toNat, d.pool.toNat⟩

/-- Blocks of one shape that an empty core holds. -/
def Shape.perCore (x : Shape) : Nat :=
  let cap := fun (have_ need : Nat) => if need = 0 then 4 else have_ / need
  [4, cap 16 x.squads, cap 4096 x.vregs, cap 16 x.loc, cap 4 x.tiles, cap 16 x.pool].foldl min 4

/-- An address a multiple of n, sign-extended from bit 56. -/
def entryOk (a : BitVec 64) (n : Nat) : Bool := a.toNat % n = 0 && canonical a

/-- The status of a descriptor (R89): 0x11, 0x10, 0x12, 0x13 in that order, or 0. -/
def checkDesc (d : Desc) (reserved : Bool) : Nat :=
  if reserved ∨ d.blocks = 3 ∨ 4 < d.tiles.toNat then 0x11
  else if d.loc = 0 ∨ 16 < d.loc.toNat ∨ d.loc < d.l1 ∨ 16 < d.pool.toNat ∨ 4096 < d.nsquads * d.nvws ∨ 2048 < d.nvws ∨
      d.gcount = 0 ∨ 4096 < d.gcount.toNat then 0x10
  else if !(entryOk d.sentry 4 && entryOk d.lentry 4 && entryOk d.tentry 8 && entryOk d.xplan 64 && entryOk d.cplt 8) then 0x12
  else if d.cores = 1 ∧ 32 * (4 * (d.shape d.nsquads).perCore / d.nblocks) < d.gcount.toNat then 0x13
  else 0

-- Queues ---------------------------------------------------------------------------------------------------------------------

/-- Entries of a priority queue. -/
def Reticle.queueLen (x : Reticle) (prio : BitVec 4) : Nat := (x.entries.filter (fun e => e.desc.prio = prio)).length
/-- A queue holds at most 512 entries (R92). -/
def Reticle.queueFree (x : Reticle) (prio : BitVec 4) : Bool := decide (x.queueLen prio < 512)

/-- Accept a descriptor at the tail of its queue. -/
def State.enqueue (t : State) (r : Nat) (d : Desc) (mbox : BitVec 64) : State :=
  let x := t.ret r
  let e : Entry := ⟨t.clock, d, d.gcount.toNat, 0, 0, false, false, false, mbox⟩
  (t.setRet r { x with entries := x.entries ++ [e] }).tick

/-- The reticle a POST target code names: 1 x+1, 2 x-1, 3 y+1, 4 y-1 (R104). -/
def neighbourAt (n code : Nat) : Option Nat :=
  match code with
  | 1 => if n % 8 = 7 then none else some (n + 1)
  | 2 => if n % 8 = 0 then none else some (n - 1)
  | 3 => if 40 ≤ n then none else some (n + 8)
  | 4 => if n < 8 then none else some (n - 8)
  | _ => none

/-- POST of a card that has been read (R104). -/
def State.postCard (t : State) (m : BitVec 1) (d : BitVec 6) (addr code : BitVec 64) (ds : List (BitVec 64)) : State :=
  let q := t.actor
  let g := t.gangOf q
  let c0 := parseDesc ds
  let c := { c0 with job := BitVec.ofNat 16 g.job, asid := g.desc.asid, prio := if g.desc.prio < c0.prio then g.desc.prio else c0.prio }
  let status := checkDesc c (descReserved ds)
  if 4 < code.toNat then (t.issueValue d 0x16).done m
  else if code ≠ 0 ∧ (neighbourAt (retNo g.ret) code.toNat).isNone then (t.issueValue d 0x14).done m
  else if status ≠ 0 then (t.issueValue d (BitVec.ofNat 64 status)).done m
  else if code = 0 then
    (if (t.ret g.ret).queueFree c.prio then ((t.enqueue g.ret c 0).issueValue d 0).done m
     else (t.issue .ordinary 0 0 [(.task c (t.sq.dstS d), none)]).done m)
  else
    let x := t.ret g.ret
    let dest := 48 * devOfRet g.ret + (neighbourAt (retNo g.ret) code.toNat).getD 0
    ((t.setRet g.ret { x with outgoing := x.outgoing ++ [⟨dest, c, addr, g.job, false, false⟩] }).issueValue d 1).done m

/-- POST (R104); it ends an open region, which a fault swap of its record read leaves open (16 R312). -/
def execPost (m : BitVec 1) (d a b : BitVec 6) (t : State) : Res :=
  t.waitRegion ([a, b].map t.sq.readS) (fun vs u =>
    match u.readRecord (argAt vs 0) 8 (tdstScalar d) with
    | .stop v => .next v
    | .wait v => .next (v.holdWord vs)
    | .ok v ds => .next (v.regionEnds.postCard m d (argAt vs 0) (argAt vs 1) ds))

/-- The oldest n of a squad's POSTs that wait for a free entry of its own reticle's queue are tried (R104). -/
def State.retryPosts (t : State) (r q n : Nat) : State :=
  match n with
  | 0 => t
  | k + 1 =>
    let x := t.squad q
    match x.out.findIdx? (fun o => match o.kind with | .task c _ => (t.ret r).queueFree c.prio | _ => false) with
    | none => t
    | some i =>
      match (x.out[i]?).map Outst.kind with
      | some (.task c d) => (((t.setSquad q ({ x with out := listDel x.out i }.put d 0)).enqueue r c 0).settle q).retryPosts r q k
      | _ => t

/-- Every POST of a reticle's squads that waits is tried; a squad that waits at a barrier may go on with it. -/
def State.retryTasks (t : State) (r : Nat) : State :=
  let gs := (t.gangs.filter (fun e => e.2.ret = r)).map (·.1)
  let t1 := (gs.flatMap t.gangSquads).foldl (fun s q => s.retryPosts r q (s.squad q).out.length) t
  (gs.flatMap t1.blocksOf).foldl State.barriers t1

-- Submission (R91) ------------------------------------------------------------------------------------------------------------

/-- A descriptor at a physical address. -/
def State.readDesc (t : State) (d pa : Nat) : List (BitVec 64) :=
  (List.range 8).map (fun i => BitVec.ofNat 64 (t.read (physAddr d pa + 8 * i) 8))

def State.setPort (t : State) (r n : Nat) (p : Port) : State :=
  let x := t.ret r
  t.setRet r { x with ports := tabPut x.ports n p }

/-- JOB and ASID are live on a device. -/
def State.liveJob (t : State) (d : Nat) (c : Desc) : Bool :=
  t.jobLive d c.job.toNat && t.jobs.any (fun e => decide (e.1 / 65536 = d) && decide (e.2.asid = c.asid))

/-- A submission that waits for a free entry is tried. -/
def State.retryPort (t : State) (r n : Nat) : State :=
  let p := tabGet (t.ret r).ports n {}
  match p.pending with
  | none => t
  | some c => if (t.ret r).queueFree c.prio then (t.enqueue r c 0).setPort r n ⟨true, 0, none⟩ else t

/-- A descriptor meets uncorrectable data (16 R366). -/
def State.descBad (t : State) (d pa : Nat) : Bool := t.isBad (physAddr d pa) 64

/-- Writing SUBMIT n (R91). What the host and the service cluster have written before it stands in memory for the launched gang,
whose cores start with an empty L1 (log 47, DEDUCED). A descriptor that holds uncorrectable data is refused, with a status that the spec does not give
(log 18). -/
def execSubmit (r n : Nat) (value : BitVec 64) (t : State) : Res :=
  let p := tabGet (t.ret r).ports n {}
  if 16 ≤ n ∨ p.done = false then .next t
  else
    let pa := (slice value 6 46).toNat * 64
    let t0 := (t.checkStorage (physAddr (devOfRet r) pa)).recall (physAddr (devOfRet r) pa)
    let ds := t0.readDesc (devOfRet r) pa
    let c := parseDesc ds
    let status := if t0.liveJob (devOfRet r) c then checkDesc c (descReserved ds) else 0x15
    if t0.descBad (devOfRet r) pa then .next (t0.setPort r n ⟨true, Config.badDescStatus t0.clock, none⟩).tick
    else if status ≠ 0 then .next (t0.setPort r n ⟨true, BitVec.ofNat 8 status, none⟩)
    else
      let t1 := (t0.handOff .host (devOfRet r)).handOff (.service (devOfRet r)) (devOfRet r)
      .next ((t1.setPort r n ⟨false, 0, some c⟩).retryPort r n)

-- Neighbour cards (R104) ----------------------------------------------------------------------------------------------------------

/-- A card that has arrived is checked again: refused and reported, held for a free entry, or queued. A report of a refused card
of the reticle that a full ring holds back stalls it (17 R328). -/
def State.landCard (t : State) (r k : Nat) (c : CarriedCard) : State :=
  let x := t.ret r
  let gone := t.setRet r { x with outgoing := listDel x.outgoing k }
  let status := checkDesc c.desc false
  if t.heldBack (devOfRet r) kindRefusedCard (fun y => y.ret = retNo c.target) then
    t.setRet r { x with outgoing := x.outgoing.set k { c with arrived := true } }
  else if status ≠ 0 then
    gone.report (devOfRet r) ⟨kindRefusedCard, retNo c.target, c.source, 0, BitVec.ofNat 8 status, 0, 0, c.addr, [], none⟩
  else if (t.ret c.target).queueFree c.desc.prio then gone.enqueue c.target c.desc 0
  else t.setRet r { x with outgoing := x.outgoing.set k { c with arrived := true } }

/-- Card k on its way from a reticle arrives at the neighbour: in an exchange superstep for its job. -/
def execNeighbourCardArrival (r k : Nat) (t : State) : Res :=
  match (t.ret r).outgoing[k]? with
  | none => .next t
  | some c => if c.moving ∧ c.arrived = false ∧ t.computing (devOfRet r) = false then .next (t.landCard r k c) else .next t

/-- Cards of a reticle land, each once, in the order in which they were posted: the spec gives the cards of one reticle no order
(R104; log 43, DESIGN CHOICE). -/
def State.landCards (t : State) (r : Nat) (p : CarriedCard → Bool) : State :=
  ((t.ret r).outgoing.filter p).foldl (fun s c =>
    match (s.ret r).outgoing.findIdx? (· = c) with
    | some k => s.landCard r k c
    | none => s) t

/-- Cards held for a free entry are tried at each boundary. -/
def State.retryCards (t : State) (r : Nat) : State := t.landCards r CarriedCard.arrived

/-- The cards that an exchange superstep carries have all arrived when it ends (R104). -/
def State.landMoving (t : State) (r : Nat) : State := t.landCards r (fun c => c.moving && !c.arrived)

-- Where a gang fits (R96, R97; 01 R21) -----------------------------------------------------------------------------------------------

/-- A block that stands on a core: the core, what it takes, its squad slots. -/
structure Taken where
  core : Nat
  shape : Shape
  slots : List Nat
  deriving DecidableEq, Repr, Inhabited

/-- Slots a gang's blocks need: its squads but those a REGRP retired. Where its blocks kept different numbers of squads, the gang's
shape (R96) is taken with the largest block's: the spec does not say what it is then (log 48, DESIGN CHOICE). -/
def State.slotsNeeded (t : State) (g : Nat) : Nat :=
  (t.blocksOf g).foldl (fun n b => max n ((t.squadsOf b).filter (fun q => !((t.squad q).fused))).length) 0

/-- The blocks of a gang as they stand. -/
def State.takenBy (t : State) (g : Nat) : List Taken :=
  (t.blocksOf g).map (fun b =>
    let qs := (t.squadsOf b).filter (fun q => !((t.squad q).fused))
    ⟨t.coreNo b, (t.gang g).desc.shape qs.length, qs.map (fun q => (t.squad q).slot)⟩)

def Place.isAway (p : Place) : Bool := match p with | .away _ => true | _ => false

/-- All that stands on a reticle. A gang that leaves holds what it has until it is away (R102). -/
def State.taken (t : State) (r : Nat) : List Taken :=
  (t.gangs.filter (fun e => decide (e.2.ret = r) && !e.2.place.isAway)).flatMap (fun e => t.takenBy e.1)

/-- A block of this shape fits a core beside what stands there. -/
def coreFits (ts : List Taken) (x : Shape) (core : Nat) : Bool :=
  let on := ts.filter (fun e => e.core = core)
  let sum := fun (f : Shape → Nat) => (on.map (fun e => f e.shape)).sum
  decide (on.length < 4) && decide (sum Shape.squads + x.squads ≤ 16) && decide (sum Shape.vregs + x.vregs ≤ 4096) &&
  decide (sum Shape.loc + x.loc ≤ 16) && decide (sum Shape.tiles + x.tiles ≤ 4) && decide (sum Shape.pool + x.pool ≤ 16)

/-- The k lowest positions of a column where the shape fits. -/
def columnFits (ts : List Taken) (k : Nat) (x : Shape) (col : Nat) : Option (List Nat) :=
  let cs := ((List.range 4).map (4 * col + ·)).filter (coreFits ts x)
  if k ≤ cs.length then some (cs.take k) else none

/-- The cores of a gang: in the lowest column where it fits. -/
def gangFits (ts : List Taken) (k : Nat) (x : Shape) : Option (List Nat) := (List.range 32).findSome? (columnFits ts k x)

/-- The next slot on a core: the cluster with the fewest occupied, then its lowest free slot (R97). -/
def nextSlot (used : List Nat) : Nat :=
  let n := fun c => (used.filter (fun s => s / 4 = c)).length
  let c := [1, 2, 3].foldl (fun best c => if n c < n best then c else best) 0
  match ([0, 1, 2, 3].map (4 * c + ·)).find? (fun s => !(used.contains s)) with | some s => s | none => 4 * c

/-- Slots for n squads. -/
def assignSlots (used : List Nat) (n : Nat) : List Nat :=
  match n with
  | 0 => []
  | k + 1 => let s := nextSlot used; s :: assignSlots (s :: used) k

/-- The blocks of a gang put on cores. -/
def takeCores (ts : List Taken) (x : Shape) (cores : List Nat) : List Taken :=
  ts ++ cores.map (fun c => ⟨c, x, assignSlots ((ts.filter (fun e => e.core = c)).flatMap Taken.slots) x.squads⟩)

end Sys2Proof.Machine
end

