-- ==== Sys2Proof/Machine/Plan.lean ====
section
/-! DEFINITION. The placement plan (04 R92 to R99), the reading of a job's exchange plan (13 R260, R261), placing and returning
gangs (04 R90, R96, R97), and retirement (04 R108, R109). -/

namespace Sys2Proof.Machine

/-- The reticles of a device. -/
def retsOf (d : Nat) : List Nat := (List.range 48).map (48 * d + ·)

-- The exchange plan (13 R260) ---------------------------------------------------------------------------------------------

/-- What reading an exchange plan brings. -/
inductive PlanRead where
  | ok (t : State) (ds : List (BitVec 64))
  | absent (t : State) (va : BitVec 64) (walk : Bool) (level entry : Nat)
  | bad (t : State) (reason : Nat)
  deriving Inhabited

/-- n aligned doubles of the plan from va. -/
def State.planDoubles (t : State) (w : Walker) (va : BitVec 64) (n : Nat) (acc : List (BitVec 64)) : PlanRead :=
  match n with
  | 0 => .ok t acc
  | k + 1 =>
    if canonical va = false ∨ inWindow va then .bad t 1
    else
      match t.translate w .read va with
      | (u, .absent wk l e) => .absent u va wk l e
      | (u, .bad _) => .bad u 1
      | (u, .corrupt _) => .bad u 2
      | (u, .ok a _) =>
        if u.isBad a 8 then .bad u 2
        else (((u.checkStorage a).recall a)).planDoubles w (va + 8) k (acc ++ [BitVec.ofNat 64 (u.read a 8)])

def planChans (ds : List (BitVec 64)) : Nat := (slice (dblAt ds 0) 16 9).toNat
def planXfers (ds : List (BitVec 64)) : Nat := (slice (dblAt ds 0) 0 10).toNat
/-- Doubles before the transfer records. -/
def planHead (n : Nat) : Nat := (8 + n + 3) / 4 * 4

/-- The header is bad (R260). -/
def planHeadBad (ds : List (BitVec 64)) : Bool :=
  slice (dblAt ds 0) 25 39 ≠ 0 || slice (dblAt ds 0) 10 6 ≠ 0 || 256 < planChans ds || (ds.drop 1).any (· ≠ 0)

/-- Channel and transfer records of a plan, as channels and transfers; none when malformed. -/
def planParse (ds : List (BitVec 64)) : Option (Tab Channel × List Xfer) :=
  let n := planChans ds
  let cs := (ds.drop 8).take n
  let xs := (List.range (planXfers ds)).map (fun i => ((ds.drop (planHead n + 4 * i)).take 4))
  let names := cs.map (fun c => slice c 0 8)
  let badX := fun (x : List (BitVec 64)) =>
    slice (dblAt x 0) 12 51 ≠ 0 || dblAt x 1 = 0 || (dblAt x 1).toNat % 32 ≠ 0 || decide (2 ^ 32 < (dblAt x 1).toNat)
  if cs.any (fun c => slice c 16 48 ≠ 0) ∨ names.eraseDups.length ≠ names.length ∨ xs.any badX then none
  else some (cs.foldl (fun tab c => tabPut tab (slice c 0 8).toNat { posts := (slice c 8 8).toNat + 1 }) [],
    xs.map (fun x => ⟨bitAt (dblAt x 0) 63, (slice (dblAt x 0) 0 12).toNat, (dblAt x 1).toNat, dblAt x 2, dblAt x 3⟩))

/-- Read a plan: the header, then what it names. -/
def State.readPlan (t : State) (w : Walker) (va : BitVec 64) : PlanRead :=
  match t.planDoubles w va 8 [] with
  | .ok u hd =>
    if planHeadBad hd then .bad u 0
    else u.planDoubles w (va + 64) (planHead (planChans hd) - 8 + 4 * planXfers hd) hd
  | x => x

/-- Channels allotted on a reticle (01 Table 1-3). -/
def State.channelsUsed (t : State) (r : Nat) : Nat :=
  ((t.fields.filter (fun e => e.1 / 65536 = r)).map (fun e => e.2.chans.length)).sum

/-- The job's channels and slots are there for a placement of a launch: read its plan at its first one (R260, R261), unless a
report of a page of it is held back (17 R328). -/
def State.admitPlan (t : State) (r : Nat) (d : Desc) : State × Bool :=
  let j := d.job.toNat
  let fk := fieldKey r j
  let f := t.field fk
  if f.planRead then (t, true)
  else if t.heldBack (devOfRet r) kindPageFetch (fun x => x.ret = retNo r && x.job = j && x.gang = 0) then (t, false)
  else if d.xplan = 0 then (t.setField fk { f with planRead := true }, true)
  else
    match t.readPlan { t.jobWalker r j with strict := true } d.xplan with
    | .absent u va wk l e =>
      (u.report (devOfRet r) ⟨kindPageFetch, retNo r, j, 0, 0x05, 0, 0, va,
        [if wk then 1 else 0, BitVec.ofNat 64 l, BitVec.ofNat 64 e], none⟩, false)
    | .bad u k => (u.setField fk { u.field fk with planRead := true, planBad := some (BitVec.ofNat 32 k) }, true)
    | .ok u ds =>
      match planParse ds with
      | none => (u.setField fk { u.field fk with planRead := true, planBad := some 0 }, true)
      | some (cs, xs) =>
        let n := min xs.length 64
        let x := u.ret r
        if u.channelsUsed r + cs.length ≤ 256 ∧ n ≤ x.freeSlots then
          ((u.setRet r { x with freeSlots := x.freeSlots - n }).setField fk
            { u.field fk with planRead := true, chans := cs, xfers := xs, xferSlots := n }, true)
        else (u, false)

-- Items of a plan (R92, R94) ----------------------------------------------------------------------------------------------

/-- What a gang waits for from outside has come. -/
def Away.over (w : Away) : Bool :=
  match w with
  | .swap fetched => fetched
  | .repair ready => ready
  | _ => true

/-- A gang away is ready to return (R99, R102, R103; 03 R80; 16 R314). A token
word in a unit that holds uncorrectable data, or in a weight-store bank that cannot be read, leaves the gang away until the word
can be read: the spec does not say (log 18, DESIGN CHOICE). -/
def State.readyBack (t : State) (g : Nat) : Bool :=
  let x := t.gang g
  x.term = none && x.more.all Away.over &&
  (match x.place with
   | .away (.swap fetched) => fetched
   | .away (.repair ready) => ready
   | .away .preempt => true
   | .away .yield => (t.gangSquads g).all (fun q => match (t.squad q).run with
       | .yield a v _ => !(t.isBad a 8) && !(t.wsLocked a || t.wsRefreshing a) && decide (v.toNat ≤ t.read a 8)
       | _ => true)
   | _ => false)

/-- Where a squad parked in YIELD waits for its token. -/
def Squad.token (x : Squad) : Option Nat := match x.run with | .yield a _ _ => some a | _ => none

/-- The strong reads of the token words of a reticle's yielded gangs (R103; 10 R225). -/
def State.readTokens (t : State) (r : Nat) : State :=
  ((t.gangs.filter (fun e => decide (e.2.ret = r) && decide (e.2.place = .away .yield))).flatMap (fun e =>
    (t.gangSquads e.1).filterMap (fun q => (t.squad q).token))).foldl State.recall t

/-- Item of a queue: a returning gang, or a launch entry. -/
inductive Item where
  | back (g : Nat)
  | entry (launch : Nat)
  deriving DecidableEq, Repr, Inhabited

/-- Returning gangs of a reticle in the order in which they left (R92). -/
def State.returning (t : State) (r : Nat) : List Nat :=
  sortRank (fun g => (t.gang g).leftAt * 2 ^ 64 + (t.gang g).placedAt)
    ((t.gangs.filter (fun e => decide (e.2.ret = r) && t.readyBack e.1)).map (·.1))

/-- The items of a reticle, queue 15 first. -/
def State.items (t : State) (r : Nat) : List Item :=
  let back := t.returning r
  (List.range 16).flatMap (fun i =>
    let p := BitVec.ofNat 4 (15 - i)
    (back.filter (fun g => (t.gang g).desc.prio = p)).map Item.back ++
    ((t.ret r).entries.filter (fun e => e.desc.prio = p)).map (fun e => Item.entry e.launch))

/-- The accesses of a card that write the job's weight store (09 R196): those of its regions until it has ended, and that of its
token word. -/
def Card.loads (c : Card) (j : Nat) : Bool :=
  decide (c.job = j) && ((!c.ended && c.writes.any (fun x => regionIn x 0x0FD)) || (c.tokenFault.isNone && c.tokenAddr.any (fun a => isWs a)))

/-- A card that writes the job's weight store on the reticle is unfinished (09 R196), one that still waits at an engine service
port included. -/
def State.loadOpen (t : State) (r j : Nat) : Bool :=
  (t.ret r).cards.any (fun c => c.2.loads j) || (t.ret r).eports.any (fun p => p.2.pending.any (fun c => c.loads j))

/-- A plan in the making: the state, what stands on the cores, what it places and takes, whether its one pre-emption is
used up, and whether a blocking entry stands before (R95, R99). -/
structure Planning where
  t : State
  ts : List Taken
  out : List Placement
  victims : List Nat
  pre : Bool
  blocked : Bool
  deriving Inhabited

/-- What stands in the frame pool and in the spill areas of a reticle (16 R319; 05 R115). -/
def State.framesUsed (t : State) (r : Nat) : List (Nat × Nat) :=
  t.gangs.filterMap (fun e => if e.2.ret = r then e.2.frame.map (fun o => (o, e.2.desc.frameSize)) else none)
def State.spillBytes (t : State) (r : Nat) (d : Desc) : Nat :=
  d.nblocks * d.nsquads * (t.job (jobKey (devOfRet r) d.job.toNat)).spillBytes
def State.spillsUsed (t : State) (r : Nat) : List (Nat × Nat) :=
  t.gangs.filterMap (fun e => if e.2.ret = r then e.2.spill.map (fun o => (o, t.spillBytes r e.2.desc)) else none)

/-- Frames of f bytes and spill areas of s bytes for up to n gangs, the lowest that are free (log 42). -/
def roomsFor (z : Reserved) (fs ss : List (Nat × Nat)) (f s n : Nat) : List (Nat × Nat) :=
  match n with
  | 0 => []
  | k + 1 =>
    match firstFree z.frames fs f, firstFree z.spills ss s with
    | some a, some b => (a, b) :: roomsFor z ((a, f) :: fs) ((b, s) :: ss) f s k
    | _, _ => []

/-- Frames and spill areas for the gangs that an item may place: a returning gang has its own. -/
def Planning.rooms (p : Planning) (r : Nat) (i : Item) : List (Nat × Nat) :=
  match i with
  | .back _ => []
  | .entry l =>
    match (p.t.ret r).entries.find? (fun e => e.launch = l) with
    | none => []
    | some e =>
      let fs := p.out.filterMap (fun x => x.frame.map (fun o => (o, x.desc.frameSize)))
      let ss := p.out.filterMap (fun x => x.spill.map (fun o => (o, p.t.spillBytes r x.desc)))
      roomsFor (p.t.ret r).reserved (fs ++ p.t.framesUsed r) (ss ++ p.t.spillsUsed r) e.desc.frameSize (p.t.spillBytes r e.desc) e.left

/-- Cores for up to n gangs of one shape, one after another. -/
def fitMany (ts : List Taken) (k : Nat) (x : Shape) (n : Nat) : List (List Nat) × List Taken :=
  match n with
  | 0 => ([], ts)
  | m + 1 =>
    match gangFits ts k x with
    | none => ([], ts)
    | some cs => match fitMany (takeCores ts x cs) k x m with | (rest, us) => (cs :: rest, us)

/-- How an item is asked for: its shape, its number of blocks, the most gangs it may place and the fewest. -/
structure Ask where
  prio : BitVec 4
  blocks : Nat
  shape : Shape
  most : Nat
  least : Nat
  deriving DecidableEq, Repr, Inhabited

def State.ask (t : State) (r : Nat) (i : Item) : Ask :=
  match i with
  | .back g => let d := (t.gang g).desc; ⟨d.prio, d.nblocks, d.shape (t.slotsNeeded g), 1, 1⟩
  | .entry l =>
    match (t.ret r).entries.find? (fun e => e.launch = l) with
    | some e => ⟨e.desc.prio, e.desc.nblocks, e.desc.shape e.desc.nsquads, e.left, if e.desc.cores = 1 then e.left else 1⟩
    | none => ⟨0, 1, ⟨0, 0, 0, 0, 0⟩, 0, 1⟩

/-- Cores for an item; none when it does not fit. -/
def Ask.fit (a : Ask) (ts : List Taken) : List (List Nat) × List Taken :=
  match fitMany ts a.blocks a.shape a.most with
  | (cs, us) => if cs.length < a.least ∨ cs = [] then ([], ts) else (cs, us)

-- Pre-emption (R98, R99) ------------------------------------------------------------------------------------------------------

/-- A squad that has synced or exited (03 R72; 17 R329). -/
def Squad.synced (x : Squad) : Bool :=
  x.exited || (match x.run with | .sync _ _ => true | .sysc _ => true | _ => false)
def State.gangSynced (t : State) (g : Nat) : Bool := (t.gangSquads g).all (fun q => (t.squad q).synced)

/-- A piece of storage that lies in a gang's core local or pooled windows. -/
def inGangWindows (g : Nat) (a : Nat) : Bool :=
  if a < 2 ^ 81 then false
  else if a < 2 ^ 82 then (a - 2 ^ 81) / 2 ^ 20 = g
  else a < 2 ^ 83 && (a - 2 ^ 82) / 2 ^ 22 = g

/-- A tile instruction in flight still works on its block's images. A joint one that waits for its other members does not, nor
one of a stopped Pacer whose gang is away for the page that it needs (11 R238, R239). -/
def State.worksOn (t : State) (b : Nat) (o : TileOp) : Bool :=
  let waits := match (t.gang (gangOfBlock b)).place with
    | .away w => (w :: (t.gang (gangOfBlock b)).more).contains (.swap false) && decide ((t.block b).pacer.run = .stopped)
    | _ => false
  !waits && (o.begun || (match o.instr with | .tmmaj _ _ _ _ _ => o.worked || t.arraysReady b | _ => true))

/-- Nothing still works on a gang's images: no tile instruction, no card that writes them, its token word included, no operation
with a local range in them (R93; 12 R254; 13 R267). -/
def State.imagesQuiet (t : State) (g : Nat) : Bool :=
  let r := (t.gang g).ret
  (t.blocksOf g).all (fun b => !((t.block b).pacer.flight.any (t.worksOn b))) &&
  !((t.ret r).cards.any (fun c => c.2.wsegs.any (fun s => inGangWindows g s.addr) || c.2.tokenAddr.any (inGangWindows g))) &&
  !((t.field (fieldKey r (t.gang g).job)).chans.any (fun c => c.2.queue.any (fun p => p.segs.any (fun s => inGangWindows g s.addr))))

/-- Operations of a gang's window ranges stay queued when its job does not exchange: its images then cannot be spilled in
this superstep (log 26). -/
def State.mayLeaveNow (t : State) (g : Nat) : Bool :=
  let x := t.gang g
  (t.job (jobKey (devOfRet x.ret) x.job)).advanced ||
  !((t.field (fieldKey x.ret x.job)).chans.any (fun c => c.2.queue.any (fun p => p.segs.any (fun s => inGangWindows g s.addr))))

/-- A gang the plan may take for an item of priority prio. -/
def State.mayTake (t : State) (prio : BitVec 4) (g : Nat) : Bool :=
  let x := t.gang g
  decide (x.place = .resident) && decide (x.term = none) && decide (x.desc.prio < prio) &&
  decide ((t.ret x.ret).minres.toNat ≤ x.residence) && !x.carried && t.gangSynced g && t.mayLeaveNow g

/-- Gangs taken together with g: all of a co-resident launch. -/
def State.together (t : State) (g : Nat) : List Nat :=
  let x := t.gang g
  if x.desc.cores = 1 then
    (t.gangs.filter (fun e => decide (e.2.ret = x.ret) && decide (e.2.launch = x.launch) && decide (e.2.place = .resident))).map (·.1)
  else [g]

/-- Take victims one group after another until the item fits. -/
def State.takeVictims (t : State) (a : Ask) (ts : List Taken) (gs taken : List Nat) : Option (List Nat) :=
  match gs with
  | [] => none
  | g :: rest =>
    if taken.contains g then t.takeVictims a ts rest taken
    else
      let grp := t.together g
      if grp.all (t.mayTake a.prio) = false then t.takeVictims a ts rest taken
      else
        let now := taken ++ grp
        let left := now.foldl (fun us v => us.filter (fun e => !((t.takenBy v).contains e))) ts
        let b : Ask := { a with most := max 1 a.least }
        if (b.fit left).1 ≠ [] then some now else t.takeVictims a ts rest now

/-- The victims for an item: in the column that needs the fewest, the lowest on a tie (R99). -/
def State.victimsFor (t : State) (r : Nat) (a : Ask) (ts : List Taken) : Option (List Nat) :=
  let gs := (t.gangs.filter (fun e => decide (e.2.ret = r) && t.mayTake a.prio e.1)).map (·.1)
  let last := t.clock + 2 ^ 20
  let order := sortRank (fun g => (t.gang g).desc.prio.toNat * 2 ^ 128 + (last - (t.gang g).placedAt)) gs
  (List.range 32).foldl (fun best col =>
    match t.takeVictims a ts (order.filter (fun g => (t.gang g).cores.any (fun c => c / 4 = col))) [] with
    | none => best
    | some v => (match best with | some w => if v.length < w.length then some v else best | none => some v)) none

-- Making the plan ------------------------------------------------------------------------------------------------------------------

/-- The placements of an item on cores, new gangs with these frames and spill areas. -/
def State.placementsOf (t : State) (r : Nat) (i : Item) (cs : List (List Nat)) (rooms : List (Nat × Nat)) : List Placement :=
  match i with
  | .back g => cs.map (fun c => ⟨some g, (t.gang g).launch, (t.gang g).desc, (t.gang g).index, 0, c, none, none⟩)
  | .entry l =>
    match (t.ret r).entries.find? (fun e => e.launch = l) with
    | some e => (numbered (cs.zip rooms)).map (fun c => ⟨none, l, e.desc, e.next + c.1, e.mbox, c.2.1, some c.2.2.1, some c.2.2.2⟩)
    | none => []

/-- The launch of an item and whether its job's exchange plan must be had (R260). -/
def State.admitItem (t : State) (r : Nat) (i : Item) : State × Bool :=
  match i with
  | .back _ => (t, true)
  | .entry l =>
    match (t.ret r).entries.find? (fun e => e.launch = l) with
    | some e => t.admitPlan r e.desc
    | none => (t, false)

/-- The job of an item. -/
def State.itemJob (t : State) (r : Nat) (i : Item) : Nat :=
  match i with
  | .back g => (t.gang g).job
  | .entry l => match (t.ret r).entries.find? (fun e => e.launch = l) with | some e => e.desc.job.toNat | none => 0

/-- An entry that blocks what comes after it (R95). -/
def State.blocking (t : State) (r : Nat) (i : Item) : Bool :=
  match i with
  | .back _ => false
  | .entry l => (t.ret r).entries.any (fun e => decide (e.launch = l) && e.blocking)

def Item.isEntry (i : Item) : Bool := match i with | .entry _ => true | .back _ => false

/-- Take one item into the plan; late items never pre-empt (R93, R94). A gang for which no frame is free does not fit (16
R319), nor one whose job's weight store is being loaded (09 R196). -/
def Planning.item (p : Planning) (r : Nat) (late : Bool) (i : Item) : Planning :=
  if i.isEntry && p.blocked then p
  else
    let rooms := p.rooms r i
    let a0 := p.t.ask r i
    let a := if i.isEntry then { a0 with most := min a0.most rooms.length } else a0
    let hold := p.t.loadOpen r (p.t.itemJob r i) || decide (a.most < max 1 a.least)
    let fit := if hold then ([], p.ts) else a.fit p.ts
    let blockedAfter := p.blocked || p.t.blocking r i
    let commit := fun (q : Planning) (cs : List (List Nat)) (us : List Taken) (vs : List Nat) =>
      match q.t.admitItem r i with
      | (u, true) => { q with t := u, ts := us, out := q.out ++ u.placementsOf r i cs rooms, victims := q.victims ++ vs }
      | (u, false) => { q with t := u, pre := true, blocked := blockedAfter }
    if fit.1 ≠ [] then commit p fit.1 fit.2 []
    else if late || p.pre || hold then { p with pre := true, blocked := blockedAfter }
    else
      let q := { p with pre := true }
      match p.t.victimsFor r a p.ts with
      | none => { q with blocked := blockedAfter }
      | some vs =>
        let left := vs.foldl (fun us v => us.filter (fun e => !((p.t.takenBy v).contains e))) p.ts
        match a.fit left with
        | (cs, us) => commit q cs us vs

/-- Mark what stands in the queues when the plan is made. -/
def State.markPlanned (t : State) (r : Nat) : State :=
  let x := t.ret r
  let t1 := t.setRet r { x with entries := x.entries.map (fun e => { e with planned := true, placed := false }) }
  let back := t.returning r
  { t1 with gangs := tabMap t1.gangs (fun g y => if y.ret = r then { y with planned := back.contains g } else y) }

/-- The plan of a reticle for the exchange superstep (R93). -/
def State.makePlan (t : State) (r : Nat) : State :=
  let t1 := (t.readTokens r).markPlanned r
  let p0 : Planning := ⟨t1, t1.taken r, [], [], !((t1.ret r).preen), false⟩
  let p := (t1.items r).foldl (fun p i => p.item r false i) p0
  p.t.setRet r { p.t.ret r with plan := some ⟨p.out, p.victims, (p.t.ret r).age⟩ }

-- Placing (R90, R96, R97) -------------------------------------------------------------------------------------------------------------

/-- The lowest GANGID not held by another live gang of the job on the reticle. -/
def State.freeGangId (t : State) (r j : Nat) : Nat :=
  let used := (t.gangs.filter (fun e => decide (e.2.ret = r) && decide (e.2.job = j))).map (fun e => e.2.gangid)
  match (List.range (used.length + 1)).find? (fun n => !(used.contains n)) with | some n => n | none => 0

/-- A squad as a newly placed gang starts it (R90). -/
def newSquad (d : Desc) (index : Nat) (mbox : BitVec 64) (sqid slot : Nat) : Squad :=
  { sregs := cellPut (cellPut (cellPut [] 1 d.args) 2 (BitVec.ofNat 64 index)) 3 mbox,
    masks := [(0, 0xFFFFFFFF)],
    laneids := (List.range 32).foldl (fun c l => cellPut c l (BitVec.ofNat 32 (32 * sqid + l))) [],
    fmt := d.fmt0, pc := d.sentry, lpc := d.lentry, vws := d.nvws, slot := slot }

def newBlock (d : Desc) : Block :=
  { pacer := { tpc := d.tentry, run := if d.tentry = 0 then .idle else .running } }

/-- The pending fault of a launch whose job has a bad exchange plan (13 R260). -/
def badPlanFault (reason : BitVec 32) : PendFault :=
  { rank := 0, carry := false, cause := 0x0D, tval := chfault 0x0A 0 reason.toNat, tdst := tdstNone }

/-- Put the squads of a gang into slots of its cores. -/
def State.slotBlocks (t : State) (g : Nat) (ts : List Taken) : State :=
  (t.blocksOf g).foldl (fun s b =>
    let qs := (s.squadsOf b).filter (fun q => !((s.squad q).fused))
    let used := (ts.filter (fun e => e.core = s.coreNo b)).flatMap Taken.slots
    ((assignSlots used qs.length).zip qs).foldl (fun u x => u.setSquad x.2 { u.squad x.2 with slot := x.1 }) s) t

/-- A newly placed gang. -/
def State.newGang (t : State) (r : Nat) (p : Placement) (ts : List Taken) : State :=
  let d := p.desc
  let j := d.job.toNat
  let g := t.clock
  let x : Gang := { ret := r, job := j, desc := d, launch := p.launch, index := p.index, gangid := t.freeGangId r j,
                    cores := p.cores, placedAt := t.clock, frame := p.frame, spill := p.spill }
  let bad := (t.field (fieldKey r j)).planBad
  let t1 := t.tick.setGang g x
  let t2 := (t1.blocksOf g).foldl (fun s b =>
    (s.squadsOf b).foldl (fun u q =>
      let y := newSquad d p.index p.mbox (sqidOf q) 0
      u.setSquad q { y with faults := match bad with | some k => [badPlanFault k] | none => [] }) (s.setBlock b (newBlock d))) t1
  t2.slotBlocks g ts

/-- A yielded squad goes on at its continuation (R103), and takes there what is pending (16 R308). -/
def Squad.fromYield (x : Squad) : Squad :=
  match x.run with
  | .yield _ _ c => { x with run := .running, pc := c, faults := x.faults.map (fun f => { f with carry := false }) }
  | _ => x

/-- The squad resumes from YIELD: an acquire of its token word, at the widest scope (R103 names none; log 47). -/
def State.yieldAcquire (t : State) (q : Nat) : State :=
  match (t.squad q).token with
  | some a => t.acquireWord (.squad q) 6 a
  | none => t

/-- A squad whose count of missed opportunities begins anew (R101). -/
def Squad.unmissed (x : Squad) : Squad := { x with missS := 0, missL := 0 }

/-- Where a returning gang's frame meets uncorrectable data: the squad that takes the late fault, and the address (16 R311). A
fault of its images goes to its first squad that has not exited (log 42). -/
def State.frameBad (t : State) (g : Nat) : Option (Nat × Nat) :=
  match t.regsBad g with
  | some x => some x
  | none =>
    match t.imagesBad g with
    | none => none
    | some a =>
      let qs := t.gangSquads g
      match qs.find? (fun q => !((t.squad q).exited)) with | some q => some (q, a) | none => (qs.head?).map (fun q => (q, a))

/-- A late fault that no word has read (16 R311). -/
def State.lateFill (t : State) (q a : Nat) : State :=
  let x := t.squad q
  t.lateFault q x.region.isSome { cause := 0x12, tpc := x.pc, tlpc := x.lpc, tdst := tdstNone } a

/-- The arrays lay down the instruction of a block that they were in the middle of: it takes its turn again on the cores it comes to
(01 R24). -/
def State.layDown (t : State) (b : Nat) : State :=
  let y := t.block b
  t.setBlock b { y with pacer := y.pacer.layDown }

/-- A gang returns to its cores (R97, R99, R103; 09 R189): its registers come from its frame, to which those still in the shadow
bank go first (16 R321), and its images, where they have not been filled yet (16 R320). -/
def State.backGang (t : State) (g : Nat) (p : Placement) (ts : List Taken) : State :=
  let x := t.gang g
  let yielded : Bool := x.place = .away .yield
  let lost := t.frameBad g
  let ts0 := x.staged.foldl (fun s b => s.stowStaged g b) t
  let t0 := if x.spilled then (ts0.fillRegs g).fillImages g else ts0.fillRegs g
  let y := if x.overH then (t0.gang g).overwritten t.clock else t0.gang g
  let t1 := (t0.tick.headerChanged g).setGang g { y with place := .resident, cores := p.cores, placedAt := t.clock, residence := 0, carried := false, more := [] }
  let t2 := (t1.gangSquads g).foldl (fun s q =>
    if yielded then (s.yieldAcquire q).setSquad q (s.squad q).fromYield.unmissed else s.setSquad q (s.squad q).unmissed) t1
  let t3 := (t2.blocksOf g).foldl (fun s b => (s.dropL1 b).layDown b) t2
  let t4 := t3.slotBlocks g ts
  match lost with
  | some (q, a) => t4.lateFill q a
  | none => t4

/-- The entry of a placement, one gang fewer; the whole entry once none is left. -/
def Entry.took (e : Entry) : Entry := { e with left := e.left - 1, next := e.next + 1, placed := true, blocking := false, skips := 0 }

/-- Carry out one placement (R93 step 4). A gang that has ended or is no longer ready, or whose job's weight store is being
loaded by now, is not placed (R103; 09 R196). -/
def State.applyPlacement (t : State) (r : Nat) (p : Placement) : State :=
  match p.gang with
  | some g => if t.readyBack g ∧ t.loadOpen r (t.gang g).job = false then t.backGang g p (t.taken r) else t
  | none =>
    let x := t.ret r
    if t.loadOpen r p.desc.job.toNat then t else
    let es := x.entries.map (fun e => if e.launch = p.launch then e.took else e)
    (t.setRet r { x with entries := es.filter (fun e => e.left ≠ 0) }).newGang r p (t.taken r)

-- Retirement (R108, R109; 16 R318) -------------------------------------------------------------------------------------------------

/-- Every block of a gang has exited (R108). -/
def State.gangExited (t : State) (g : Nat) : Bool :=
  (t.gangSquads g).all (fun q => (t.squad q).run = .exited) &&
  (t.blocksOf g).all (fun b => (t.block b).pacer.run = .idle && (t.block b).pacer.flight = [])

/-- The gang retires at the next boundary. -/
def State.retires (t : State) (g : Nat) : Bool := (t.gang g).term.isSome || ((t.gang g).place = .resident && t.gangExited g)

/-- Add 1 to the completion word at its home, or report the failure (R108). -/
def State.addCplt (t : State) (g : Nat) : State :=
  let x := t.gang g
  let va := x.desc.cplt
  if va = 0 then t
  else
    let fail := fun (s : State) => s.gangReport g kindCplt 0 0 0 va []
    if inWindow va then fail t
    else
      match t.translate (t.gangWalker g) .write va with
      | (u, .ok a _) => if u.isBad a 8 then fail u else u.devRmw (.member (fieldKey x.ret x.job)) a 8 ((u.read a 8 + 1) % 2 ^ 64)
      | (u, _) => fail u

/-- Abandon operations of a field (03 R81, R82). -/
def State.abandonOps (t : State) (r j : Nat) (p : Posted → Bool) : State :=
  (t.field (fieldKey r j)).chans.foldl (fun s ch => (ch.2.queue.filter p).foldl (fun u o =>
    u.failOp r j (.chan ch.1) o 1) s) t

/-- Operations of a gang that its retirement abandons: all of them after a termination, else those in its windows (13 R267). -/
def Gang.abandons (x : Gang) (g : Nat) (p : Posted) : Bool :=
  decide (p.gang = some g) && (x.term.isSome || p.segs.any (fun s => inGangWindows g s.addr))

/-- Retire a gang: its completion word, or the report of its termination, with the count of its abandoned operations (16 R318);
those operations, its records, and the BUSY bit of the mailbox that launched it (R106). -/
def State.retire (t : State) (g : Nat) : State :=
  let x := t.gang g
  let n := (((t.field (fieldKey x.ret x.job)).chans.map (fun c => (c.2.queue.filter (x.abandons g)).length)).sum)
  let t0 := t.leaveFrame g
  let t := if x.overH then t0.setGang g (x.overwritten t.clock) else t0
  let t1 := match x.term with
    | none => t.addCplt g
    | some e => t.gangReport g kindTermination e.cause e.blkid e.sqid e.addr (e.extra ++ [BitVec.ofNat 64 n])
  let t2 := t1.abandonOps x.ret x.job (x.abandons g)
  let t3 := { t2 with
    squads := t2.squads.filter (fun e => e.1 / 64 ≠ g)
    blocks := t2.blocks.filter (fun e => e.1 / 4 ≠ g)
    gangs := tabDel t2.gangs g }
  let y := t3.ret x.ret
  if t3.gangs.any (fun e => decide (e.2.ret = x.ret) && decide (e.2.launch = x.launch)) || y.entries.any (fun e => e.launch = x.launch) then t3
  else t3.setRet x.ret { y with mailboxes := tabMap y.mailboxes (fun _ m => if m.launch = some x.launch then { m with busy := false, launch := none } else m) }

/-- The gangs of a device. -/
def State.gangsOn (t : State) (d : Nat) : List Nat := (t.gangs.filter (fun e => devOfRet e.2.ret = d)).map (·.1)

/-- Reclaim the channels and slots of the jobs that have no gang on their reticle, present or planned, and nothing queued
(R109). -/
def State.reclaim (t : State) (d : Nat) : State :=
  t.fields.foldl (fun s e =>
    let r := e.1 / 65536
    let j := e.1 % 65536
    let f := s.field e.1
    let planned : Bool := match (s.ret r).plan with | some p => p.placements.any (fun x => x.desc.job.toNat = j) | none => false
    let queued := f.chans.any (fun c => c.2.queue ≠ []) || f.runs ≠ [] || planned
    if devOfRet r = d ∧ f.planRead ∧ queued = false ∧ s.liveOn r j = false then
      let x := s.ret r
      let n := (f.chans.map (fun c => c.2.prsv)).sum + f.xferSlots
      (s.setRet r { x with freeSlots := x.freeSlots + n }).setField e.1
        { f with planRead := false, planBad := none, chans := [], xfers := [], xferSlots := 0, xferUsed := 0 }
    else s) t

/-- Abandon what is queued of a job that has no gang left on the device (R109). -/
def State.abandonOrphans (t : State) (d : Nat) : State :=
  t.fields.foldl (fun s e =>
    let r := e.1 / 65536
    let j := e.1 % 65536
    if devOfRet r = d ∧ (s.gangsOn d).all (fun g => (s.gang g).job ≠ j) then s.abandonOps r j (fun _ => true) else s) t

end Sys2Proof.Machine
end

