-- ==== Sys2Proof/Machine/Boundary.lean ====
section
/-! DEFINITION. The boundaries between supersteps (03 R68 to R84), the limits (R75, R76, R80, R81), the delivery of carry-time
faults (R82), step 4 of an exchange-to-compute boundary (04 R93 to R99, R106), image moves (16 R320, R321), and what service
software does for gangs and jobs (03 R69, R80; 16 R314, R318). -/

namespace Sys2Proof.Machine

-- Steps both boundaries share ---------------------------------------------------------------------------------------------

/-- The reticles of a device that have a record or a gang. -/
def State.liveRets (t : State) (d : Nat) : List Nat :=
  (retsOf d).filter (fun r => (tabGet? t.rets r).isSome || t.gangs.any (fun e => e.2.ret = r))

/-- Accept a squad's posts for which pins are free. -/
def State.acceptPosts (t : State) (q n : Nat) : State :=
  match n with
  | 0 => t
  | k + 1 =>
    match (t.squad q).out.findIdx? (fun o => match o.kind with | .post _ _ => true | _ => false) with
    | none => t
    | some i => (t.acceptPost q i).acceptPosts q k

/-- Stop and fence (R83 steps 2 and 3; R84): posts are accepted, outstanding results written, arrivals counted, every L1
emptied (09 R190). -/
def State.stopFence (t : State) (d : Nat) : State :=
  let qs := (t.gangsOn d).flatMap t.gangSquads
  let t1 := qs.foldl (fun s q => (s.acceptPosts q (s.squad q).out.length).drain q) t
  ((t1.gangsOn d).flatMap t1.blocksOf).foldl (fun s b => (s.barriers b).dropL1 b) t1

/-- What the boundary orders (R84, R85): among it every access of a gang that retires at it (04 R108). -/
def State.orderAll (t : State) (d : Nat) : State :=
  ((((t.gangsOn d).filter t.retires).flatMap t.blocksOf).foldl (fun s b => s.sync (.pacer b) (.done d)) t).orderBoundary d

/-- Retire the gangs of a device that do so at this boundary. -/
def State.retireAll (t : State) (d : Nat) : State := ((t.gangsOn d).filter t.retires).foldl State.retire t

/-- A gang that left its cores is away from the boundary on at which none of its squads has a result outstanding (02 R53; 04
R102); its register context is in its frame by then (16 R317). -/
def State.leaveCores (t : State) (d : Nat) : State :=
  (t.gangsOn d).foldl (fun s g =>
    match (s.gang g).place with
    | .leaving w =>
      if (s.gangSquads g).all (fun q => (s.squad q).out = []) then
        let u := if (s.gang g).staged = [] then s else s.stowRegs g
        u.setGang g { u.gang g with place := .away w }
      else s
    | _ => s) t

/-- What waits for a queue entry or for pins is tried at a boundary (04 R91, R104; 12 R250): submission ports in ascending number,
then POSTs in gang and squad order, then held neighbour cards; the spec gives no order (log 43, DESIGN CHOICE). -/
def State.retryAll (t : State) (d : Nat) : State :=
  (t.liveRets d).foldl (fun s r =>
    let s1 := (List.range 16).foldl (fun u n => u.retryPort r n) s
    let s2 := (s1.retryTasks r).retryCards r
    (List.range 16).foldl (fun u n => u.portSubmit r n) s2) t

/-- From here on a fetch sees memory as it now stands (02 R35). -/
def State.freshCode (t : State) (d : Nat) : State :=
  let lo := d * 2 ^ 52
  let hi := lo + 2 ^ 52
  { t with code := t.code.filter (fun c => c.1 < lo) ++ t.mem.filter (fun c => decide (lo ≤ c.1) && decide (c.1 < hi)) ++
                   t.code.filter (fun c => decide (hi ≤ c.1)) }

/-- A count that saturates at 65,535. -/
def sat16 (n : Nat) : BitVec 16 := BitVec.ofNat 16 (min n 65535)

/-- A limit below 1,024 ticks acts as 1,024 (R75). -/
def limitTicks (x : BitVec 32) : Nat := max 1024 x.toNat

-- Compute to exchange (R72 to R77) ------------------------------------------------------------------------------------------

/-- A gang that stands on its cores at the boundary and is not terminated. -/
def State.standing (t : State) (g : Nat) : Bool := decide ((t.gang g).place = .resident) && decide ((t.gang g).term = none)

/-- Every resident gang of the device has synced (R74). -/
def State.allSynced (t : State) (d : Nat) : Bool := (t.gangsOn d).all (fun g => !(t.standing g) || t.gangSynced g)

/-- The job's step on the device advances (R73). -/
def State.advances (t : State) (d j : Nat) : Bool :=
  let gs := (t.gangsOn d).filter (fun g => (t.gang g).job = j)
  gs.all (fun g => (t.gang g).term.isSome || (decide ((t.gang g).place = .resident) && t.gangSynced g)) &&
  gs.any (fun g => (t.gang g).term = none)

/-- Step advance, carrying, and the counts of BSTAT (R73, R75, R76; 04 R99). -/
def State.decideSteps (t : State) (d : Nat) (limit : Bool) : State :=
  let mine := fun (e : Nat × Job) => decide (e.1 / 65536 = d)
  let adv := ((t.jobs.filter mine).map (fun e => e.1 % 65536)).filter (t.advances d)
  let carried := (t.gangsOn d).filter (fun g => t.standing g && !(t.gangSynced g))
  let x := t.dev d
  let t1 := t.setDev d { x with clim := limit, carried := sat16 carried.length, jobsadv := sat16 adv.length }
  { t1 with
    jobs := tabMap t1.jobs (fun k j =>
      if k / 65536 = d then
        let a := adv.contains (k % 65536)
        { j with advanced := a, jstep := if a then j.jstep + 1 else j.jstep }
      else j)
    gangs := tabMap t1.gangs (fun g y =>
      if devOfRet y.ret ≠ d then y
      else
        match y.place with
        | .resident => { y with residence := y.residence + 1, carried := carried.contains g }
        | _ => y) }

/-- The compiled transfers of a field, as they run in one exchange superstep (13 R261). -/
def Field.runsOf (f : Field) : List Posted :=
  (numbered f.xfers).map (fun e =>
    { id := e.1, squad := none, gang := none, segs := [], pins := [],
      kind := if e.2.put then .put e.2.remote e.2.local_ e.2.rank (e.2.bytes / 32)
              else .get e.2.local_ e.2.remote e.2.rank (e.2.bytes / 32) })

/-- Relay's part of a boundary that opens an exchange superstep: the rank tables are latched (13 R259), planes forgotten
(R256), compiled transfers begun, and the cards for neighbours of the jobs that exchange set moving (04 R104). -/
def State.openRelay (t : State) (d : Nat) : State :=
  let x := t.dev d
  let t1 := t.setDev d { x with latched := x.ranks, limited := false, xlimitNow := x.xlimit }
  let adv := fun j => (t.job (jobKey d j)).advanced
  { t1 with
    fields := tabMap t1.fields (fun k f =>
      if devOfRet (k / 65536) = d then
        { f with chans := tabMap f.chans (fun _ c => { c with planes := [] }), xferUsed := 0,
                 runs := if adv (k % 65536) then f.runsOf else [] }
      else f)
    rets := tabMap t1.rets (fun k r =>
      if devOfRet k = d then { r with outgoing := r.outgoing.map (fun c => { c with moving := adv c.source }) } else r) }

/-- PHASE increases by one (R68). -/
def State.nextPhase (t : State) (d : Nat) : State := let x := t.dev d; t.setDev d { x with phase := x.phase + 1 }

/-- A compute-to-exchange boundary (Table 3-5). The compiled transfers of a job whose step advances run (R79), also where its last
gang on a reticle retires at it: they are then operations in flight, and the job's channels and slots are reclaimed at the next
boundary (04 R109; log 48, DEDUCED). -/
def State.toExchange (t : State) (d ticks : Nat) (limit : Bool) : State :=
  let t1 := (t.liveRets d).foldl (fun s r => s.capture r 5 0 ticks) t
  let t2 := (((t1.stopFence d).orderAll d).leaveCores d).decideSteps d limit
  let t3 := (((t2.retireAll d).openRelay d).reclaim d).retryAll d
  let t4 := ((t3.nextPhase d).freshCode d)
  ((t4.liveRets d).foldl State.makePlan t4).goOn d

/-- The compute superstep ends because every resident gang has synced (R74). -/
def execComputeToExchangeBoundary (d ticks : Nat) (t : State) : Res :=
  if t.computing d ∧ t.allSynced d then .next (t.toExchange d ticks false) else .next t

/-- It ends at COMPUTE_LIMIT (R74, R76). -/
def execComputeLimitExpiry (d ticks : Nat) (t : State) : Res :=
  if t.computing d ∧ t.allSynced d = false ∧ limitTicks (t.dev d).climitNow ≤ ticks then .next (t.toExchange d ticks true) else .next t

-- The exchange limit (R80, R81) -----------------------------------------------------------------------------------------------

/-- Operations of R79 that are not complete: reticle, job, source, operation. -/
def State.unfinished (t : State) (d : Nat) : List (Nat × Nat × InjectSource × Posted) :=
  (t.fields.filter (fun e => decide (devOfRet (e.1 / 65536) = d) && (t.job (jobKey d (e.1 % 65536))).advanced)).flatMap (fun e =>
    let r := e.1 / 65536
    let j := e.1 % 65536
    e.2.chans.flatMap (fun c => c.2.queue.map (fun p => (r, j, .chan c.1, p))) ++ e.2.runs.map (fun p => (r, j, .xfer p.id, p)))

/-- EXCHANGE_LIMIT abandons what has not completed (R81). -/
def execExchangeLimitExpiry (d : Nat) (t : State) : Res :=
  let ops := t.unfinished d
  if t.computing d ∨ ops = [] then .next t
  else
    let t1 := ops.foldl (fun s o => s.failOp o.1 o.2.1 o.2.2.1 o.2.2.2 1) t
    let x := t1.dev d
    .next (t1.setDev d { x with limited := true })

-- Delivery of carry-time faults (R82) -------------------------------------------------------------------------------------------

/-- The first squad of a job on a reticle that has not exited and is outside every terminated gang, in GANGID order and then
SQID order. -/
def State.firstSquad (t : State) (r j : Nat) : Option Nat :=
  let gs := (t.gangs.filter (fun e => decide (e.2.ret = r) && decide (e.2.job = j) && decide (e.2.term = none))).map (·.1)
  let qs := (gs.flatMap t.gangSquads).filter (fun q => !((t.squad q).exited))
  (sortRank (fun q => (t.gangOf q).gangid * 64 + sqidOf q * 4 + blkidOfSquad q) qs).head?

/-- The squad a failure is delivered to. -/
def State.failureSquad (t : State) (r j : Nat) (f : Failure) : Option Nat :=
  match f.squad with
  | some q =>
    if (tabGet? t.squads q).isSome ∧ (t.squad q).exited = false ∧ (t.gangOf q).term = none then some q else t.firstSquad r j
  | none => t.firstSquad r j

/-- Failures of a field by squad, KIND and SUB. -/
def State.failureGroups (t : State) (r j : Nat) (fs : List Failure) : List ((Nat × Nat × Nat) × List Failure) :=
  let tagged := fs.filterMap (fun f => (t.failureSquad r j f).map (fun q => ((q, (if f.compiled then 1 else 0), f.sub.toNat), f)))
  (tagged.map (·.1)).eraseDups.map (fun k => (k, (tagged.filter (fun e => e.1 = k)).map (·.2)))

/-- TVAL of an exchange fault (Table 3-4). -/
def exchangeTval (kind sub chan count : Nat) : BitVec 64 :=
  BitVec.ofNat 64 (sub * 2 ^ 56 + kind * 2 ^ 48 + chan * 2 ^ 40 + count % 2 ^ 32)

/-- One fault for all of a squad's operations of one KIND and SUB. -/
def carryFault (kind sub : Nat) (fs : List Failure) : PendFault :=
  let chan := if kind = 1 then 0 else (fs.map (·.chan)).foldl min 255
  { rank := kind * 256 + sub, carry := true, cause := 0x0D, tval := exchangeTval kind sub chan fs.length, tdst := tdstNone }

/-- Deliver the failures of every field of a device. -/
def State.deliverFailures (t : State) (d : Nat) : State :=
  (t.fields.filter (fun e => decide (devOfRet (e.1 / 65536) = d) && decide (e.2.failures ≠ []))).foldl (fun s e =>
    let groups := s.failureGroups (e.1 / 65536) (e.1 % 65536) e.2.failures
    let s1 := groups.foldl (fun u g => u.pendFault g.1.1 (carryFault g.1.2.1 g.1.2.2 g.2)) s
    s1.setField e.1 { s1.field e.1 with failures := [] }) t

-- Exchange to compute (R82, R83; 04 R93 to R99, R106) -----------------------------------------------------------------------------

/-- The plan of a reticle: an empty one where none was made. -/
def State.planOf (t : State) (r : Nat) : Plan := match (t.ret r).plan with | some p => p | none => ⟨[], [], (t.ret r).age⟩

/-- Cores that a plan gives to gangs or takes from them. -/
def State.planCores (t : State) (r : Nat) : List Nat :=
  let p := t.planOf r
  (p.placements.flatMap (·.cores)) ++ (p.victims.flatMap (fun g => (t.gang g).cores))

/-- A victim of a plan that still stands on its cores: one that has retired meanwhile is no longer taken (R83; 04 R93). -/
def State.victim (t : State) (g : Nat) : Bool := (tabGet? t.gangs g).isSome && decide ((t.gang g).place = .resident)

/-- A gang that is off its cores, that the plan does not bring back, and whose images nothing keeps in place, has spilled them
(16 R317). -/
def State.awaySpilled (t : State) (r g : Nat) : Bool :=
  let x := t.gang g
  x.spilled || !x.place.isAway || x.term.isSome || (t.planOf r).placements.any (fun p => p.gang = some g) || !(t.mayLeaveNow g)

/-- The image moves of the plan, and of the gangs that are away, have completed, and the shadow banks it needs are free (R80,
R93; 16 R317, R321). -/
def State.imagesMoved (t : State) (r : Nat) : Bool :=
  let p := t.planOf r
  p.victims.all (fun g => (t.gang g).spilled || !(t.victim g)) &&
  p.placements.all (fun x => match x.gang with | some g => !((t.gang g).spilled) && (t.gang g).staged = [] | none => true) &&
  ((t.gangs.filter (fun e => e.2.ret = r)).all (fun e => t.awaySpilled r e.1)) &&
  (t.planCores r).all (fun c => !((t.core (128 * r + c)).draining))

/-- The victims of a plan leave their cores (04 R98, R99; 16 R320): their registers stand in the shadow bank. -/
def State.takeAway (t : State) (r : Nat) : State :=
  ((t.planOf r).victims.filter t.victim).foldl (fun s g =>
    let x := s.gang g
    let s1 := x.cores.foldl (fun u c => u.setCore (128 * r + c) { u.core (128 * r + c) with draining := true }) s
    (s1.setGang g { x with place := .away .preempt, leftAt := s.clock, carried := false, staged := s.blocksOf g }).headerChanged g) t

/-- The shadow bank of core c of the machine has drained: the registers that stood in it are in their gangs' frames (16 R320,
R321). -/
def State.drainShadow (t : State) (c : Nat) : State :=
  let t1 := t.setCore c { t.core c with draining := false }
  (t1.gangs.filter (fun e => decide (e.2.ret = retOfCore c))).foldl (fun s e =>
    (e.2.staged.filter (fun b => e.2.place.isAway && decide (s.coreNo b = c % 128))).foldl (fun u b => u.stowStaged e.1 b) s) t1

/-- Mailbox entry e launches its handler, if its queue has room (04 R106). The descriptor's own JOB and ASID are those of the
registering job. One that holds uncorrectable data launches nothing, and its entry tries again (log 18, DESIGN CHOICE). -/
def State.launchMailbox (t : State) (r e : Nat) : State :=
  let x := t.ret r
  let m := tabGet x.mailboxes e {}
  let pa := (slice m.desc 6 46).toNat * 64
  let ds := t.readDesc (devOfRet r) pa
  let c := parseDesc ds
  if m.pend = false ∨ m.busy ∨ t.descBad (devOfRet r) pa ∨ checkDesc c (descReserved ds) ≠ 0 ∨ t.liveJob (devOfRet r) c = false ∨ x.queueFree c.prio = false then t
  else
    let t1 := t.setRet r { x with mailboxes := tabPut x.mailboxes e { m with pend := false, busy := true, launch := some t.clock } }
    t1.enqueue r c m.word

/-- Every mailbox entry of a reticle that is pending and not busy, in ascending entry number: 04 R106 gives no order among those that launch
at one boundary (log 43, DESIGN CHOICE). -/
def State.launchMailboxes (t : State) (r : Nat) : State :=
  ((t.ret r).mailboxes.map (·.1)).foldl (fun s e => s.launchMailbox r e) t

/-- An item that became ready after the plan was made (R93). -/
def State.isLate (t : State) (r : Nat) (i : Item) : Bool :=
  match i with
  | .back g => !((t.gang g).planned)
  | .entry l => (t.ret r).entries.any (fun e => decide (e.launch = l) && !e.planned)

/-- Late arrivals are placed into what is free, never by pre-emption. -/
def State.placeLate (t : State) (r : Nat) : State :=
  let p0 : Planning := ⟨t, t.taken r, [], [], true, false⟩
  let p := (t.items r).foldl (fun p i =>
    if t.isLate r i then p.item r true i else { p with blocked := p.blocked || t.blocking r i }) p0
  p.out.foldl (fun s x => (x.cores.foldl (fun u c => u.drainShadow (128 * r + c)) s).applyPlacement r x) p.t

/-- Skips are counted, those of late arrivals among them, and an entry skipped AGE times becomes blocking (R95): AGE as it stood
when the plan was made (R110). -/
def State.ageEntries (t : State) (r : Nat) : State :=
  let x := t.ret r
  let age := (t.planOf r).age
  t.setRet r { x with plan := none, entries := x.entries.map (fun e =>
    if e.placed then { e with skips := 0 }
    else { e with skips := e.skips + 1, blocking := e.blocking || (decide (age ≠ 0) && decide (age.toNat ≤ e.skips + 1)) }) }

/-- Step 4 on one reticle. A queue entry that has come free goes to mailboxes first, then to submission ports in ascending number,
then to waiting POSTs in gang and squad order, then to held neighbour cards: the spec gives no order (R91; log 43, DESIGN
CHOICE). -/
def State.stepFour (t : State) (r : Nat) : State :=
  let plan := t.planOf r
  let t1 := plan.placements.foldl (fun s p => s.applyPlacement r p) ((t.readTokens r).takeAway r)
  let t2 := t1.launchMailboxes r
  let t3 := ((List.range 16).foldl (fun s n => s.retryPort r n) t2).retryTasks r
  ((t3.retryCards r).placeLate r).ageEntries r

/-- The replies of a SYSC are written to its registers (17 R329). -/
def Squad.sysced (x : Squad) (c : SyscRec) : Squad :=
  let y := c.got.foldl (fun z e =>
    (z.writeV (c.a.toNat) e.1 (e.2.setWidth 32)).writeV (c.a.toNat + 1) e.1 ((e.2 >>> 32).setWidth 32)) x
  y.writeS c.sd (BitVec.ofNat 64 c.count)

/-- Every request of a SYSC has its reply. -/
def SyscRec.answered (c : SyscRec) : Bool := decide (c.todo = [])

/-- A squad resumes from SYNC or SYSC at a compute start, its job's step having advanced (R71; 17 R329). -/
def State.resume (t : State) (q : Nat) : State :=
  let x := t.squad q
  let now := (t.job (t.jobOf q)).jstep
  let awake := fun (y : Squad) => { y with run := .running, pc := y.pc + 4, faults := y.faults.map (fun f => { f with carry := false }) }
  if (t.gangOf q).issues = false then t
  else
    match x.run with
    | .sync sd since => if now = since then t else t.setSquad q (awake (x.writeS sd now))
    | .sysc c => if now = c.since ∨ c.answered = false then t else (t.setSquad q (awake (x.sysced c))).dropL1 (blockOfSquad q)
    | _ => t

/-- Every request of a device's reticles has its response; the limit frees the slots of those that have none (R81; 13 R264). -/
def State.allAnswered (t : State) (d : Nat) : Bool :=
  (t.dev d).limited || (t.liveRets d).all (fun r => decide ((t.ret r).requests = []))

/-- Responses still to come for operations that the limit has ended are not waited for: their slots are free (R81; 13 R264). -/
def State.dropRequests (t : State) (d : Nat) : State :=
  { t with
    rets := tabMap t.rets (fun k r => if devOfRet k = d then { r with requests := [] } else r)
    fields := tabMap t.fields (fun k f => if devOfRet (k / 65536) = d then
        { f with chans := tabMap f.chans (fun _ c => { c with used := 0 }), xferUsed := 0 } else f) }

/-- An exchange-to-compute boundary (Table 3-5). -/
def State.toCompute (t : State) (d ticks : Nat) : State :=
  let t0 := (t.liveRets d).foldl (fun s r => s.capture r 6 0 ticks) t
  let t1 := (t0.liveRets d).foldl State.landMoving t0
  let t2 := (((((t1.stopFence d).orderAll d).leaveCores d).retireAll d).abandonOrphans d).dropRequests d
  let t3 := (t2.deliverFailures d).reclaim d
  let t4 := (t3.liveRets d).foldl State.stepFour t3
  let x := t4.dev d
  let t5 := t4.setDev d { x with xlim := x.limited, aband := sat16 x.abandNow, abandNow := 0, limited := false, climitNow := x.climit }
  let t6 := { t5 with jobs := tabMap t5.jobs (fun k j => if k / 65536 = d then { j with advanced := false } else j) }
  let t7 := ((t6.nextPhase d).freshCode d)
  let t8 := ((t7.gangsOn d).flatMap t7.gangSquads).foldl State.resume t7
  (t8.liveRets d).foldl (fun s r => (List.range 16).foldl (fun u n => u.portSubmit r n) s) t8

/-- The exchange superstep ends: its job transfers have, and the image moves of every plan (R80, R83). -/
def execExchangeToComputeBoundary (d ticks : Nat) (t : State) : Res :=
  if t.computing d = false ∧ t.unfinished d = [] ∧ t.allAnswered d ∧ (t.liveRets d).all t.imagesMoved ∧
      ((t.dev d).limited = false ∨ limitTicks (t.dev d).xlimitNow ≤ ticks) then .next (t.toCompute d ticks)
  else .next t

-- Image moves (04 R93; 16 R320, R321) -----------------------------------------------------------------------------------------------

/-- The images of a gang are spilled to its frame, once nothing works on them, or filled from it for its return. -/
def execImageSpillFill (g : Nat) (t : State) : Res :=
  let x := t.gang g
  let plan := t.planOf x.ret
  if (tabGet? t.gangs g).isNone ∨ t.computing (devOfRet x.ret) then .next t
  else if plan.placements.any (fun p => p.gang = some g) then (if x.spilled then .next (t.fillImages g) else .next t)
  else if (plan.victims.contains g || x.place.isAway) && !x.spilled && t.imagesQuiet g then .next (t.stowImages g)
  else .next t

/-- A core's shadow bank has drained (16 R321). A drain that a compute superstep leaves unfinished goes on in the exchange
superstep, which waits for it where its plan needs the bank (03 R80). -/
def execShadowBankDrain (c : Nat) (t : State) : Res := .next (t.drainShadow c)

-- Service software for gangs and jobs -----------------------------------------------------------------------------------------------

/-- A reason to be away, once the page fetch is complete. -/
def Away.fetched (w : Away) : Away := match w with | .swap _ => .swap true | x => x

/-- A reason to be away, once service software has made the gang ready: only a repair waits for that (16 R314, R367; 03 R80). -/
def Away.repaired (w : Away) : Away := match w with | .repair _ => .repair true | x => x

/-- A gang whose reasons to be away change. -/
def Gang.nowWaits (x : Gang) (f : Away → Away) : Gang :=
  { x with more := x.more.map f, place := match x.place with | .leaving w => .leaving (f w) | .away w => .away (f w) | p => p }

/-- A report of page fetch or late fault about a gang is held back by a full ring: service software cannot know of it yet, and
its source stalls (17 R328). -/
def State.gangHeld (t : State) (g : Nat) : Bool :=
  let x := t.gang g
  let mine := fun (y : Report) => decide (y.ret = retNo x.ret) && decide (y.job = x.job) && decide (y.gang = x.gangid)
  [kindPageFetch, kindLateFault, kindBadFetch].any (fun k => t.heldBack (devOfRet x.ret) k mine)

/-- A page fetch is complete (R80; 13 R278): for a fault-swapped gang, in an exchange superstep, or for a request that waits
at the far end. Neither happens while its report is held back (17 R328). -/
def execPageFetchCompletion (target : FetchTarget) (t : State) : Res :=
  match target with
  | .gang g =>
    let x := t.gang g
    if (tabGet? t.gangs g).isNone ∨ t.computing (devOfRet x.ret) ∨ t.gangHeld g then .next t
    else .next (t.setGang g (x.nowWaits Away.fetched))
  | .request r k =>
    match (tabGet? (t.ret r).requests k).bind (fun q => q.waiting.map (fun rank => (q.job, rank))) with
    | none => .next t
    | some (j, rank) =>
      let e := t.rankLatched (devOfRet r) j rank
      if t.heldBack (rankDev e) kindPageFetch (fun x => decide (x.ret = rankAt e) && decide (x.job = j) && decide (x.gang = 0)) then .next t
      else .next (t.mapRequest r k (fun q => { q with waiting := none }))

/-- Service software makes a gang ready after a repair (16 R314, R367). -/
def execMakeGangReady (g : Nat) (t : State) : Res :=
  if (tabGet? t.gangs g).isNone ∨ t.gangHeld g then .next t
  else .next (t.setGang g ((t.gang g).nowWaits Away.repaired))

/-- Service software terminates a gang (16 R318). -/
def execServiceSoftwareTermination (g : Nat) (cause : BitVec 8) (t : State) : Res :=
  if (tabGet? t.gangs g).isNone then .next t else .next (t.terminate g cause 0 0 0 [])

/-- A weight-store allotment, as (reticle, WSBASE, WSSIZE), is free of those of the device's other jobs (01 Table 1-3). -/
def State.wsFree (t : State) (d j : Nat) (w : Nat × Nat × Nat) : Bool :=
  w.2.2 = 0 || !((t.jobs.filter (fun e => decide (e.1 / 65536 = d) && decide (e.1 % 65536 ≠ j))).any (fun e =>
    let f := t.field (fieldKey (48 * d + w.1) (e.1 % 65536))
    decide (f.wssize ≠ 0) && decide (f.wsbase < w.2.1 + w.2.2) && decide (w.2.1 < f.wsbase + f.wssize)))

/-- What a job may be created with: ranks, spill limits and weight-store allotments in the ranges of their fields (01 Table
1-3; 09 Table 9-3; 13 R259; 16 R319), the allotments free, and the job not having a gang on the device (log 27). -/
def State.mayCreate (t : State) (d : Nat) (p : JobParams) : Bool :=
  decide (p.ranks ≤ 4096) && decide (p.sseg ≤ 8192) && decide (p.vseg ≤ 4096) &&
  p.ws.all (fun w => decide (w.2.1 < 64) && decide (w.2.2 ≤ 64) && t.wsFree d p.job.toNat w) &&
  !((t.gangsOn d).any (fun g => (t.gang g).job = p.job.toNat))

/-- Service software sets aside reserved areas, in the reticles that no gang has a frame in (01 R26; 16 R319; log 42). -/
def State.setReserved (t : State) (d : Nat) (z : Reserved) : State :=
  if z = {} then t else
  (retsOf d).foldl (fun s r =>
    if s.gangs.any (fun e => e.2.ret = r) then s else s.setRet r { s.ret r with reserved := z }) t

/-- Service software creates a job on a device (R69; 09 R193; 12 R252). -/
def execJobCreation (d : Nat) (p : JobParams) (t : State) : Res :=
  let j := p.job.toNat
  if t.mayCreate d p = false then .next t
  else
    let t1 := t.setJob (jobKey d j) { asid := p.asid, jstep := 0, sseg := p.sseg, vseg := p.vseg, ranks := p.ranks }
    let t2 := (retsOf d).foldl (fun s r =>
      let ws := match p.ws.find? (fun w => w.1 = retNo r) with | some w => w.2 | none => (0, 0)
      s.setField (fieldKey r j) { wsbase := ws.1, wssize := ws.2, cseq := 1 }) t1
    let t3 := t2.setReserved d p.reserved
    .next { t3 with mismatch := t3.mismatch.filter (fun m => m.1 ≠ j) }

end Sys2Proof.Machine
end

