-- ==== Sys2Proof/Machine/Fetch.lean ====
section
/-! DEFINITION. Fetching a word of a stream (02 R33 to R35), and what becomes of a word that cannot be fetched or is no
instruction (02 R61; 03 R87; 11 R239; 16 R367). -/

namespace Sys2Proof.Machine

/-- What a fetch of one word brings: its bytes, a fault, a page that is not present, or uncorrectable data. -/
inductive FetchOut where
  | word (bs : List Byte)
  | fault (cause : BitVec 8)
  | corrupt (pa : Nat)
  deriving DecidableEq, Repr, Inhabited

/-- The pieces of a word that are translated apart: a lane word may cross into another page at any of its 4-byte parts. -/
def fetchParts (st : Stream) (pc : BitVec 64) : List (BitVec 64 × Nat) :=
  match st with
  | .scalar => [(pc, 4)]
  | .lane => [(pc, 4), (pc + 4, 4), (pc + 8, 4)]
  | .tile => [(pc, 8)]

/-- Translate the pieces: machine addresses, or what the first that fails brings (cause 0x05 for a page not present; a walk that
reads uncorrectable data stops the stream as the word itself would, 16 R366, R367). -/
def State.fetchWhere (s : State) (b : Nat) (ps : List (BitVec 64 × Nat)) (as : List (Nat × Nat)) :
    State × Except FetchOut (List (Nat × Nat)) :=
  match ps with
  | [] => (s, .ok as)
  | p :: rest =>
    match s.access b .exec p.1 p.2 with
    | (t, .ok a _) => (t.checkStorage a).fetchWhere b rest (as ++ [(a, p.2)])
    | (t, .bad c) => (t, .error (.fault c))
    | (t, .absent _ _ _) => (t, .error (.fault 0x05))
    | (t, .corrupt a) => (t, .error (.corrupt (a % 2 ^ 52)))

/-- The bytes at machine addresses, all as they stand in one memory: a word written in this superstep is fetched whole in
its old or its new form (02 R35). -/
def fetchBytes (m : Cells 8) (as : List (Nat × Nat)) : List Byte :=
  as.flatMap (fun a => (List.range a.2).map (fun i => cellGet m (a.1 + i)))

/-- Fetch the word of a stream of block b at pc. -/
def State.fetch (s : State) (b : Nat) (st : Stream) (pc : BitVec 64) : State × FetchOut :=
  match s.fetchWhere b (fetchParts st pc) [] with
  | (t, .error o) => (t, o)
  | (t, .ok as) =>
    match as.find? (fun a => t.isBad a.1 a.2) with
    | some a => (t, .corrupt (a.1 % 2 ^ 52))
    | none =>
      let new := fetchBytes t.mem as
      let old := fetchBytes t.code as
      (t, .word (if new = old then new else if Config.fetchOld t.clock then old else new))

/-- The page fault of a fetch, with what its report carries (15 R291). -/
def State.fetchPageFault (s : State) (q : Nat) (st : Stream) (pc : BitVec 64) : State :=
  let ps := fetchParts st pc
  let hit := ps.find? (fun p => match (s.access (blockOfSquad q) .exec p.1 p.2).2 with | .absent _ _ _ => true | _ => false)
  match hit with
  | some p =>
    (match (s.access (blockOfSquad q) .exec p.1 p.2).2 with
     | .absent w l e => s.pageFault q p.1 w l e
     | _ => s.pageFault q pc false 0 0)
  | none => s.pageFault q pc false 0 0

/-- Lanes that a replayed word still has to run for (09 R206); none for a word that is not replayed. -/
def Squad.pendingTlm (x : Squad) : BitVec 32 := match x.replay with | some r => r.tlm | none => 0

/-- A fetch fault. TVAL holds the fetch address; a tile fetch stops the Pacer with SUB 5 (02 R33, R34; 03 R87). The unit is a
squad, or the block for a tile fetch. -/
def execInstructionFetchFault (unit : Nat) (st : Stream) (cause : BitVec 8) (pc : BitVec 64) (t0 : State) : Res :=
  let t := { t0 with actor := unit }
  match st with
  | .scalar => if cause = 0x05 then .next (t.fetchPageFault unit .scalar pc) else .next (t.trapS cause pc tdstNone)
  | .lane =>
    if cause = 0x05 then .next (t.fetchPageFault unit .lane pc)
    else .next (t.trapL 0 cause t.sq.pendingTlm pc tdstNone)
  | .tile =>
    if cause = 0x05 then .next (t.fetchPageFault (squadKey unit 0) .tile pc)
    else .next (t.tileFault unit pc t.pacer.tpc cause.toNat 5)

/-- A word that is no instruction (02 R61): the trap, or the tile fault with SUB 1. -/
def execIllegalInstruction (unit : Nat) (word : BadWord) (t0 : State) : Res :=
  let t := { t0 with actor := unit }
  match word with
  | .scalar w => .next (t.trapS 0x01 (w.setWidth 64) tdstNone)
  | .lane w => .next ((t.setSq { t.sq with replay := none }).trapL 0 0x01 0 (badLaneTval w) tdstNone)
  | .tile w => .next (t.tileFault unit w t.pacer.tpc 0x0C 1)

/-- A fetch that meets uncorrectable data (16 R367): the stream stands before the word, LCNT is recorded (of a LANE of a
handler's own, in the frame alone: 05 R126), the gang is fault-swapped and reported. The unit is a squad; a tile fetch is
reported with the block's first. -/
def execUncorrectableFetch (unit pa : Nat) (t : State) : Res :=
  let x := t.squad unit
  let s1 := if x.lane.isSome ∧ x.handler = none then t.setSquad unit { x with lcnt := LaneRun.count x.lane } else t
  .next ((s1.gangReport (gangOfSquad unit) kindBadFetch 0 (blkidOfSquad unit) (sqidOf unit) (BitVec.ofNat 64 pa) []).leave
    (gangOfSquad unit) (.repair false))

end Sys2Proof.Machine
end

