-- ==== Sys2Proof/Machine/Shootdown.lean ====
section
/-! DEFINITION. Shoot-downs and fences (15 R294, R295). A shoot-down waits for the reticles of its device, by number, and for
other devices D, as 48 + D. -/

namespace Sys2Proof.Machine

/-- A shoot-down covers an address space and a run of virtual pages (15 Table 15-4). -/
def Shoot.coversAsid (x : Shoot) (asid : Nat) : Bool := bitAt x.ctl 47 || (slice x.ctl 48 16).toNat = asid
def Shoot.coversPages (x : Shoot) (vpn n : Nat) : Bool :=
  let lo := (slice x.sdva 12 45).toNat
  bitAt x.ctl 46 || (decide (vpn < lo + (slice x.ctl 0 36).toNat) && decide (lo < vpn + n))

/-- It drops a leaf; one without an address space when it is for all of them. -/
def Shoot.covers (x : Shoot) (e : TlbEntry) : Bool :=
  (match e.asid with | none => bitAt x.ctl 47 | some a => x.coversAsid a) && x.coversPages e.vpn e.pages

/-- Devices a shoot-down names beside its own: those that hold a live job of the address space (log 29). -/
def State.shootDevices (t : State) (d : Nat) (ctl : BitVec 64) : List Nat :=
  if bitAt ctl 45 = false then []
  else
    let x : Shoot := ⟨0, ctl, [], []⟩
    ((t.jobs.filter (fun e => decide (e.1 / 65536 ≠ d) && x.coversAsid e.2.asid.toNat)).map (fun e => e.1 / 65536)).eraseDups

/-- Steps 1 and 2 of R294 on a reticle: TLB entries and L1 lines go, and what polls a word looks its address up again: a squad whose
context is in its frame does so when it comes back (Squad.fromRecord). -/
def State.shootReticle (t : State) (x : Shoot) (r : Nat) : State :=
  let t1 := { t with
    cores := tabMap t.cores (fun c y => if c / 128 = r then { y with tlb := y.tlb.filter (fun e => !(x.covers e)) } else y)
    columns := tabMap t.columns (fun c y => if c / 32 = r then y.filter (fun e => !(x.covers e)) else y) }
  { t1 with
    squads := tabMap t1.squads (fun q y =>
      let g := t1.gangOf q
      if g.ret = r ∧ x.coversAsid g.desc.asid.toNat ∧ !(g.place.isAway && g.frame.isSome) then { y with run := y.run.pollAgain } else y)
    blocks := tabMap t1.blocks (fun b y =>
      let g := t1.gang (gangOfBlock b)
      if g.ret = r ∧ x.coversAsid g.desc.asid.toNat then { y with l1 := y.l1.filter (fun l => !(x.coversPages (l.vline / 32 % 2 ^ 45) 1)) } else y) }

/-- The leaves of a reticle's TLBs that it drops. -/
def State.shotLeaves (t : State) (x : Shoot) (r : Nat) : List (Nat × TlbEntry) :=
  (((t.cores.filter (fun c => c.1 / 128 = r)).flatMap (fun c => c.2.tlb.filter x.covers) ++
    (t.columns.filter (fun c => c.1 / 32 = r)).flatMap (fun c => c.2.filter x.covers)).map (fun e => (r, e))).eraseDups

/-- An address space's translation of n pages from vpn on a reticle is one that the shoot-down drops: it covers one of the pages, or
has dropped a leaf that does. -/
def Shoot.drops (x : Shoot) (r asid vpn n : Nat) : Bool :=
  x.coversAsid asid && (x.coversPages vpn n ||
    x.leaves.any (fun e => decide (e.1 = r) && (e.2.asid = none || e.2.asid = some asid) && decide (vpn < e.2.vpn + e.2.pages) &&
      decide (e.2.vpn < vpn + n)))

/-- It drops the translation of an address to storage a. -/
def Shoot.coversAt (x : Shoot) (r asid va a : Nat) : Bool := isPhys a && x.drops r asid (va / 4096 % 2 ^ 45) 1

/-- It drops the translation of a page of a range. -/
def Shoot.coversSeg (x : Shoot) (r asid : Nat) (s : Seg) : Bool :=
  isPhys s.addr && x.drops r asid (s.va / 4096 % 2 ^ 45) ((s.va + s.len - 1) / 4096 - s.va / 4096 + 1)

/-- A card, or a chain of them, that has been translated and not yet pinned. -/
def Shoot.coversCard (x : Shoot) (r asid : Nat) (c : Card) : Bool :=
  (c.rsegs ++ c.wsegs).any (x.coversSeg r asid) ||
    (match c.tokenAddr with | some a => x.coversAt r asid c.token.toNat a | none => false)

/-- An outstanding result of a squad still uses a dropped translation: an access, or a post whose pages are not pinned yet. -/
def Shoot.holdsOut (x : Shoot) (r asid : Nat) (k : OutKind) : Bool :=
  match k with
  | .post _ p => p.segs.any (x.coversSeg r asid)
  | _ => match k.loc? with | some l => x.coversAt r asid l.va.toNat l.addr | none => false

/-- No access translated before is still to be performed (step 3): squads' accesses; posts, ENQs and port submissions that wait
for pins; and compiled transfers, whose requests in flight hold no pin. Cards and posts that are pinned keep what they have. -/
def State.shootPerformed (t : State) (x : Shoot) (r : Nat) : Bool :=
  let y := t.ret r
  let asid := fun (j : Nat) => (t.job (jobKey (devOfRet r) j)).asid.toNat
  (t.gangs.filter (fun e => e.2.ret = r)).all (fun e =>
    (t.gangSquads e.1).all (fun q =>
      !((t.squad q).out.any (fun o => x.holdsOut r e.2.desc.asid.toNat o.kind)) &&
      (match (t.squad q).run with | .enq w => !(w.cards.any (x.coversCard r e.2.desc.asid.toNat)) | _ => true))) &&
  y.eports.all (fun p => !(p.2.pending.any (fun c => x.coversCard r (asid c.job) c))) &&
  y.requests.all (fun q =>
    match q.2.chan with
    | .chan _ => true
    | .xfer _ =>
      match (t.field (fieldKey r q.2.job)).op? q.2.chan q.2.op with
      | some p => !(p.segs.any (x.coversSeg r (asid q.2.job)))
      | none => true)

/-- Reticles a node stands for. -/
def nodeRets (d node : Nat) : List Nat := if node < 48 then [48 * d + node] else retsOf (node - 48)

/-- Change the translation block of a reticle. -/
def State.setTcb (t : State) (r : Nat) (x : Tcb) : State := let y := t.ret r; t.setRet r { y with tcb := x }

/-- Writing SDCMD (R294). -/
def execShootdown (r : Nat) (t : State) : Res :=
  let x := (t.ret r).tcb
  if x.shoot.isSome then .next t
  else
    let nodes := List.range 48 ++ (t.shootDevices (devOfRet r) x.sdctl).map (48 + ·)
    .next (t.setTcb r { x with shoot := some ⟨x.sdva, x.sdctl, nodes, []⟩ })

/-- A node has done its part: when it was the last one, DONE sets. -/
def Tcb.acked (x : Tcb) (s : Shoot) (node : Nat) : Tcb :=
  let w := s.waiting.filter (· ≠ node)
  if w = [] then { x with shoot := none, done := true } else { x with shoot := some { s with waiting := w } }

/-- A fence report of the root is held back by a full ring: the root stalls (17 R328). -/
def State.rootHeld (t : State) (r : Nat) : Bool := t.heldBack (devOfRet r) kindFence (fun x => x.ret = retNo r)

/-- A node drops what is covered, and acknowledges once its earlier accesses are performed; a fenced device's acknowledgement
is refused (R294, R295). -/
def execShootdownAck (r node : Nat) (t : State) : Res :=
  let x := (t.ret r).tcb
  match x.shoot with
  | none => .next t
  | some s =>
    if s.waiting.contains node = false ∨ t.rootHeld r then .next t
    else
      let rs := nodeRets (devOfRet r) node
      let s1 := { s with leaves := (s.leaves ++ rs.flatMap (t.shotLeaves s)).eraseDups }
      let t1 := rs.foldl (fun u k => u.shootReticle s k) t
      if rs.all (t1.shootPerformed s1) = false ∨ (48 ≤ node ∧ (t.dev (devOfRet r)).fenced.contains (node - 48)) then
        .next (t1.setTcb r { (t1.ret r).tcb with shoot := some s1 })
      else .next (t1.setTcb r ((t1.ret r).tcb.acked s1 node))

/-- A request of reticle r goes to device D. -/
def State.goesTo (t : State) (r D : Nat) (q : Request) : Bool :=
  match (t.field (fieldKey r q.job)).op? q.chan q.op with
  | none => false
  | some p =>
    let us := match (p.parts q.chan)[q.part]? with | some w => w.units | none => q.todo
    us.any (fun u => rankDev (t.rankLatched (devOfRet r) q.job (p.unitRank q.rank u)) = D)

/-- A device is fenced: the own requests to it fail at once, but for those whose response is being written, and service software
is told (R295; 13 R278). -/
def State.fence (t : State) (r D : Nat) : State :=
  let d := devOfRet r
  let x := t.dev d
  let t1 := t.setDev d { x with fenced := if x.fenced.contains D then x.fenced else x.fenced ++ [D] }
  let t2 := { t1 with rets := tabMap t1.rets (fun k y =>
    if devOfRet k = d ∧ D ≠ d then
      { y with requests := tabMap y.requests (fun _ q => if t1.goesTo k D q && !q.landing then { q.fails with waiting := none } else q) }
    else y) }
  let z := (t2.ret r).tcb
  (t2.setTcb r { z with fenced := true, fdev := BitVec.ofNat 16 D }).report d
    ⟨kindFence, retNo r, 0, 0, 0, 0, 0, BitVec.ofNat 64 D, [], none⟩

/-- SDTIMEOUT: the devices that have not acknowledged are fenced and no longer counted (R295). -/
def execShootdownTimeout (r : Nat) (t : State) : Res :=
  let x := (t.ret r).tcb
  match x.shoot with
  | none => .next t
  | some s =>
    if t.rootHeld r then .next t else
    let late := s.waiting.filter (48 ≤ ·)
    let t1 := late.foldl (fun u n => u.fence r (n - 48)) t
    .next (late.foldl (fun u n =>
      let y := (u.ret r).tcb
      match y.shoot with | some k => u.setTcb r (y.acked k n) | none => u) t1)

/-- Writing FCLR lifts a fence (R295). -/
def execFenceClear (r : Nat) (value : BitVec 64) (t : State) : Res :=
  let d := devOfRet r
  let x := t.dev d
  .next (t.setDev d { x with fenced := x.fenced.filter (· ≠ (slice value 0 16).toNat) })

end Sys2Proof.Machine
end

