-- ==== Sys2Proof/Machine/Power.lean ====
section
/-! DEFINITION. Power, droop, Stopwatches (18 R333 to R338), the weight-store refresh counter (09 R194), endpoints (13 R258) and
data that becomes uncorrectable (16 R366). -/

namespace Sys2Proof.Machine

/-- The refresh counter reaches the next edge of a window (09 R194): every 200 ticks of 6,400. -/
def execWsRefreshWindow (d : Nat) (t : State) : Res :=
  let x := t.dev d
  .next (t.setDev d { x with pos := BitVec.ofNat 13 ((x.pos.toNat / 200 + 1) % 32 * 200), fine := 0 })

/-- The limit PLIM acts as (Table 18-1). -/
def powerLimit (plim : BitVec 10) : Nat := min 625 (max 200 plim.toNat)

/-- FDIV after a window (R333). -/
def nextFdiv (fdiv : BitVec 5) (plim : BitVec 10) (watts : Nat) : BitVec 5 :=
  if powerLimit plim < watts then (if fdiv ≤ 8 then 8 else fdiv - 1)
  else if watts + 25 < powerLimit plim then (if 16 ≤ fdiv then 16 else fdiv + 1)
  else fdiv

/-- A power window ends with this average (R333). -/
def execPowerWindowEnd (r watts : Nat) (t : State) : Res :=
  let x := t.ret r
  .next (t.setRet r { x with pwr := BitVec.ofNat 10 (min watts 1023), fdiv := if x.thr then nextFdiv x.fdiv x.plim watts else 16 })

/-- Blocks placed on a core, those of gangs away from it among them. -/
def State.blocksOn (t : State) (c : Nat) : List Nat :=
  (t.gangs.filter (fun e => e.2.ret = retOfCore c)).flatMap (fun e => (t.blocksOf e.1).filter (fun b => t.coreNo b = c % 128))

/-- A tile instruction of a block is in execution on its core: issued and not complete; of a gang that is away, one that the arrays
still work on before its images are spilled (R93; 16 R317). -/
def State.executing (t : State) (b : Nat) : Bool :=
  let x := t.gang (gangOfBlock b)
  let p := (t.block b).pacer
  if x.place.isAway then !x.spilled && p.flight.any (fun o => o.begun || t.worksOn b o) else decide (p.flight ≠ [])

/-- A core adopts the clock of its reticle while no tile instruction is in execution on it (R333). -/
def execFdivAdopt (c : Nat) (t : State) : Res :=
  if (t.blocksOn c).all (fun b => !(t.executing b)) then
    .next (t.setCore c { t.core c with fdiv := (t.ret (retOfCore c)).fdiv })
  else .next t

/-- A column's supply sags for this many cycles more (R334). -/
def execDroopStretch (r col cycles : Nat) (t : State) : Res :=
  let x := t.ret r
  .next (t.setRet r { x with droop := BitVec.ofNat 32 (min (2 ^ 32 - 1) (x.droop.toNat + cycles))
                             stretch := tabPut x.stretch col (tabGet x.stretch col 0 + cycles) })

/-- The stretch ends, and Stopwatches take its length (R334, Table 18-3). -/
def execDroopStretchEnd (r col : Nat) (t : State) : Res :=
  let x := t.ret r
  match tabGet? x.stretch col with
  | none => .next t
  | some n => .next ((t.setRet r { x with stretch := tabDel x.stretch col }).capture r 8 0 n)

/-- A write to SWCTL: ignored as a whole with a reserved SRC, or an SEL that its SRC does not have (R337). -/
def Stopwatch.control (w : Stopwatch) (v : BitVec 64) : Stopwatch :=
  let src := slice v 4 4
  let sel := slice v 24 8
  if 10 ≤ src.toNat ∨ (src ≠ 7 ∧ 128 ≤ sel.toNat) then w
  else
    let y := { w with sel := sel, src := src, frz := bitAt v 1, en := bitAt v 0 }
    if bitAt v 2 then { y with min := BitVec.allOnes 64, max := 0, cnt := 0, bins := [] } else y

def State.writeSwctl (t : State) (r u : Nat) (v : BitVec 64) : State :=
  let x := t.ret r
  if u < 4 then t.setRet r { x with watches := tabPut x.watches u ((tabGet x.watches u {}).control v) } else t

/-- Writing SWCTL with CLR (R337). -/
def execStopwatchClear (r u : Nat) (value : BitVec 64) (t : State) : Res := .next (t.writeSwctl r u value)

/-- Service software marks a reticle's endpoint lost (13 R258). -/
def execEndpointLost (r : Nat) (t : State) : Res := .next (t.setRet r { t.ret r with lost := true })

/-- Byte o of block b's L1, line by line: the unit it lies in comes to hold uncorrectable data. -/
def Block.markLine (x : Block) (o : Nat) : Block :=
  match x.l1[o / 128]? with
  | none => x
  | some l => if l.isBad (o % 128) 1 then x else { x with l1 := x.l1.set (o / 128) { l with bad := l.bad ++ [o % 128 / 32] } }

/-- The unit of a machine address comes to hold uncorrectable data: of a memory, of an L1 line, or of a block's accumulators or a
squad's vector registers that there are (16 R366). -/
def execUncorrectableData (a : Nat) (t : State) : Res :=
  let k := (a - 2 ^ 120) / 2 ^ 18
  if hasStorage a = false then .next t
  else if a < 2 ^ 120 then .next (t.markUnit a)
  else if k % 3 = 2 then
    .next (if (tabGet? t.blocks (k / 3)).isSome then t.setBlock (k / 3) ((t.block (k / 3)).markLine ((a - 2 ^ 120) % 2 ^ 18)) else t)
  else if (k % 3 = 0 ∧ (tabGet? t.blocks (k / 3)).isSome) ∨ (k % 3 = 1 ∧ (tabGet? t.squads (k / 3)).isSome) then .next (t.markUnit a)
  else .next t

end Sys2Proof.Machine
end

