-- ==== Sys2Proof/Machine/Host.lean ====
section
/-! DEFINITION. The host and the service cluster (17): SYSC and its replies, the report ring, host accesses (10 R225, R226), device
control space, boot, attestation and the two resets. -/

namespace Sys2Proof.Machine

-- SYSC (R329) ---------------------------------------------------------------------------------------------------------------

/-- The 16 argument bytes of a lane: vA to vA+3. -/
def Squad.syscArgs (x : Squad) (a l : Nat) : BitVec 128 := x.readV (a + 3) l ++ x.readV (a + 2) l ++ x.readV (a + 1) l ++ x.readV a l

/-- Deliver the first request that has no reply, as a report. -/
def State.deliverSysc (t : State) (q : Nat) : State :=
  match (t.squad q).run with
  | .sysc c =>
    (match c.todo, c.waiting with
     | (l, args) :: _, none =>
       let g := t.gangOf q
       t.report (devOfRet g.ret) ⟨kindSysc, retNo g.ret, g.job, g.gangid, 0, blkidOfSquad q, sqidOf q, 0,
         [c.service.setWidth 64, BitVec.ofNat 64 l, slice args 0 64, slice args 64 64], some (q, l)⟩
     | _, _ => t)
  | _ => t

def execSysc (_m : BitVec 1) (d a b : BitVec 6) (t : State) : Res :=
  t.drained [a, b] (fun vs u =>
    let A := argAt vs 1
    if bitAt A 0 then .next (u.trapS 0x01 0 (tdstScalar d))
    else if u.sq.vws ≤ A.toNat + 3 then .next (u.trapS 0x02 (A + 3) (tdstScalar d))
    else
      let x := u.sq
      let todo := ((List.range 32).filter (fun l => bitAt (cellGet x.masks 0) l)).map (fun l => (l, x.syscArgs A.toNat l))
      let c : SyscRec := { sd := d, a := slice A 0 11, service := slice (argAt vs 0) 0 16, count := todo.length,
                           todo := todo, waiting := none, got := [], since := u.jstepNow }
      let v := u.sync (.squad u.actor) (.service (u.devOf u.actor))
      .next (((v.parkAs (.sysc c)).deliverSysc u.actor).checkAbsent (blockOfSquad u.actor)))

/-- Writing RREPLY of core c, which the squad's resumption acquires (R329; the boundary before it passes it on): the reply of the request of that record number is what RREPLYV c holds. -/
def execSyscReply (d core : Nat) (value : BitVec 64) (t : State) : Res :=
  let x := t.dev d
  match (if core < 16 then tabGet? x.requests value.toNat else none) with
  | none => .next t
  | some (q, l) =>
    let t1 := (t.handOff (.service d) d).setDev d { x with requests := tabDel x.requests value.toNat }
    let y := t1.squad q
    match y.run with
    | .sysc c =>
      if c.waiting = some (value.toNat, l) then
        let c1 := { c with got := c.got ++ [(l, cellGet x.rreplyv core)], todo := c.todo.drop 1, waiting := none }
        .next ((t1.setSquad q { y with run := .sysc c1 }).deliverSysc q)
      else .next t1
    | _ => .next t1

-- The report ring (R328) -----------------------------------------------------------------------------------------------------

/-- Held reports go into the ring while it has room. -/
def State.releaseHeld (t : State) (d n : Nat) : State :=
  match n with
  | 0 => t
  | k + 1 =>
    let x := t.dev d
    match x.held with
    | [] => t
    | r :: rest =>
      if (x.rhead - x.rtail).toNat < x.ringSize then ((t.setDev d { x with held := rest }).putReport d r).releaseHeld d k else t

/-- Writing RTAIL frees ring space. -/
def execReportRingTailWrite (d : Nat) (value : BitVec 64) (t : State) : Res :=
  let x := t.dev d
  .next ((t.setDev d { x with rtail := value, interrupt := false }).releaseHeld d x.held.length)

-- Host accesses (R322 to R325; 10 R225, R226) --------------------------------------------------------------------------------

/-- Bytes that a host access of n bytes at machine address m of a reticle's memory meets in the reserved area. -/
def State.overRange (t : State) (r m n : Nat) : State :=
  (List.range n).foldl (fun s i => s.hostOver r ((m + i) % 2 ^ 46)) t

/-- What the host reads: a byte of the reserved area that the spec gives no layout for is a free value (R323; log 42), unless it is the
host that wrote it last. -/
def State.hostBytes (t : State) (r m n : Nat) : List Byte :=
  (List.range n).map (fun i => if t.unlaid r ((m + i) % 2 ^ 46) && !(t.wrote.contains (m + i)) then Config.frameByte t.clock (m + i) else t.byte (m + i))

/-- Where the host's own memory stands, as a device sees it: home 62 (10 R227). -/
def hostOwn (d a : Nat) : Nat := physAddr d (62 * 2 ^ 46 + a)

/-- A double of device control space, as a read of n bytes at offset off gives it (R326). -/
def ctlBytes (v : BitVec 64) (off n : Nat) : List Byte := numBytes n (if n = 8 ∧ off % 8 = 0 then v.toNat else 0)

/-- The reticle whose decoder covers a host address, and the offset in its memory (R323). -/
def State.hostPlace (t : State) (d a : Nat) : Option (Nat × Nat) :=
  ((retsOf d).find? (fun r => decide ((t.ret r).hdmbase.toNat ≤ a) && decide (a < (t.ret r).hdmbase.toNat + 2 ^ 36))).map (fun r =>
    (r, physAddr d (retNo r * 2 ^ 46 + (a - (t.ret r).hdmbase.toNat))))

/-- Host caches take lines from machine address m: the snoop filter tracks them, dropping its oldest when full (R324). -/
def State.track (t : State) (r m n : Nat) : State :=
  let x := t.ret r
  let lines := ((List.range ((m + n + 63) / 64 - m / 64)).map (m / 64 + ·)).filter (fun l => !(x.snoop.contains l))
  let all := x.snoop ++ lines
  t.setRet r { x with snoop := all.drop (all.length - 2 ^ 22) }

-- Boot and reset (R330, R332) --------------------------------------------------------------------------------------------------

/-- The boot and trust block after the first n boot steps of Table 17-5, at a device's boot of this number: a measurement is of
its object as it stands then (R331). -/
def bootAfter (d boot n : Nat) : Boot :=
  let m := fun (k : Nat) (x : Boot) => { x with meas := tabPut x.meas k (Config.measurement d k boot) }
  let b0 : Boot := { boots := boot }
  let b1 := if 1 ≤ n then m 0 b0 else b0
  let b2 := if 2 ≤ n then { m 1 b1 with rready := true } else b1
  let b3 := if 3 ≤ n then { b2 with memready := true } else b2
  let b4 := if 4 ≤ n then m 2 b3 else b3
  let b5 := if 5 ≤ n then m 3 b4 else b4
  { b5 with bstate := BitVec.ofNat 4 (min n 5) }

/-- Boot after the boots that b counts, to the end or to the step that fails. -/
def bootRun (d : Nat) (b : Boot) (fail : Option Nat) : Boot :=
  let n := b.boots + 1
  match fail with
  | some k => if 1 ≤ k ∧ k ≤ 5 then { bootAfter d n (k - 1) with bstate := BitVec.ofNat 4 k, err := true } else bootAfter d n 5
  | none => bootAfter d n 5

/-- The machine address lies in storage of device d that a cold reset (kept false) or any reset (kept true: DRAM and weight
store stay) clears. Host memory is not the device's. -/
def State.losesByte (t : State) (d : Nat) (kept : Bool) (a : Nat) : Bool :=
  if a < 2 ^ 80 then !kept && decide (a / 2 ^ 52 = d) && decide (homeOf a ≠ 62)
  else if a < 2 ^ 81 then !kept && decide (devOfRet ((a - 2 ^ 80) / 2 ^ 30) = d)
  else if 2 ^ 120 ≤ a then
    let k := (a - 2 ^ 120) / 2 ^ 18
    decide (devOfRet (t.gang (if k % 3 = 1 then gangOfSquad (k / 3) else gangOfBlock (k / 3))).ret = d)
  else
    let g := if a < 2 ^ 82 then (a - 2 ^ 81) / 2 ^ 20 else if a < 2 ^ 84 then (a - 2 ^ 82) / 2 ^ 22 else gangOfSquad ((a - 2 ^ 84) / 2 ^ 26)
    decide (devOfRet (t.gang g).ret = d)

/-- Everything of a device that does not survive is gone: its work, its tables, and the storage that the reset clears. -/
def State.clearDevice (t : State) (d : Nat) (kept : Bool) : State :=
  { t with
    mem := t.mem.filter (fun c => !(t.losesByte d kept c.1))
    code := t.code.filter (fun c => !(t.losesByte d kept c.1))
    hist := t.hist.filter (fun e => !(e.old.any (fun b => t.losesByte d kept b.1)))
    wrote := t.wrote.filter (fun a => kept || decide (a / 2 ^ 52 ≠ d))
    bad := t.bad.filter (fun u => !(t.losesByte d kept (u * 32)))
    rets := t.rets.filter (fun e => devOfRet e.1 ≠ d)
    jobs := t.jobs.filter (fun e => e.1 / 65536 ≠ d)
    fields := t.fields.filter (fun e => devOfRet (e.1 / 65536) ≠ d)
    squads := t.squads.filter (fun e => devOfRet (t.gangOf e.1).ret ≠ d)
    blocks := t.blocks.filter (fun e => devOfRet (t.gang (gangOfBlock e.1)).ret ≠ d)
    gangs := t.gangs.filter (fun e => devOfRet e.2.ret ≠ d)
    cores := t.cores.filter (fun e => devOfRet (retOfCore e.1) ≠ d)
    columns := t.columns.filter (fun e => devOfRet (e.1 / 32) ≠ d) }

/-- Cold reset (R330). -/
def execColdReset (d : Nat) (fail : Option Nat) (t : State) : Res :=
  .next ((t.clearDevice d false).setDev d { boot := bootRun d (t.dev d).boot fail })

/-- What a reticle keeps over a warm reset: the fields marked kept, and what its DRAM holds of the frames and of the snoop filter
(R324). -/
def Reticle.kept (x : Reticle) : Reticle :=
  { snoop := x.snoop, reserved := x.reserved, oldFrames := x.oldFrames, age := x.age, minres := x.minres, preen := x.preen, thr := x.thr, plim := x.plim,
    tcb := { atbase := x.tcb.atbase, sdtimeout := x.tcb.sdtimeout } }

/-- Warm reset (R332). -/
def execWarmReset (d : Nat) (fail : Option Nat) (t : State) : Res :=
  let x := t.dev d
  let t0 := (t.gangs.filter (fun e => devOfRet e.2.ret = d)).foldl (fun s e => s.leaveFrame e.1) t
  let t1 := t0.clearDevice d true
  let t2 := (t0.rets.filter (fun e => devOfRet e.1 = d)).foldl (fun s e => s.setRet e.1 e.2.kept) t1
  .next (t2.setDev d { climit := x.climit, climitNow := x.climit, xlimit := x.xlimit, xlimitNow := x.xlimit, boot := bootRun d x.boot fail })

-- Attestation (R331) -------------------------------------------------------------------------------------------------------------

/-- Writing 1 to ACMD; ignored while an attestation is in progress. -/
def execAttestationStart (d : Nat) (value : BitVec 64) (t : State) : Res :=
  let x := t.dev d
  if bitAt value 0 ∧ x.boot.attesting = false then .next (t.setDev d { x with boot := { x.boot with attesting := true } }) else .next t

/-- What an attestation report's signature is over: nonce, measurements, public key. -/
def attestedBytes (d : Nat) (b : Boot) : List Byte :=
  numBytes 32 b.anonce.toNat ++ (List.range 4).flatMap (fun n => numBytes 64 (tabGet b.meas n 0).toNat) ++
  numBytes 64 (Config.publicKey d).toNat

/-- Bytes of an attestation report. -/
def attestBytes (d : Nat) (b : Boot) : List Byte :=
  attestedBytes d b ++ (List.range 29792).map (Config.signatureByte d (attestedBytes d b) b.attestations)

/-- The report is written at ABUF, and ADONE sets. -/
def execAttestationComplete (d : Nat) (t : State) : Res :=
  let x := t.dev d
  if x.boot.attesting = false then .next t
  else
    let m := physAddr d (x.boot.abuf.toNat % 2 ^ 52)
    let t1 := t.setDev d { x with boot := { x.boot with attesting := false, adone := true, attestations := x.boot.attestations + 1 } }
    .next (((t1.checkStorage m).recallRange m 30144).writeBytes m (attestBytes d x.boot))

-- Device control space (R326) --------------------------------------------------------------------------------------------------

/-- A double of device control space, by Table 17-2 and the tables it names. Offsets from 2^32 on, past the space, are the
HDMBASE of each reticle, which CXL's own registers hold (R323; log 30). -/
inductive Ctl where
  | step (o : Nat)
  | boot (o : Nat)
  | ring (o : Nat)
  | sched (r o : Nat)
  | tcb (r o : Nat)
  | mbox (r e : Nat) (second : Bool)
  | power (r o : Nat)
  | engine (r o : Nat)
  | rank (k : Nat)
  | aper (k : Nat)
  | hdm (r : Nat)
  | none
  deriving DecidableEq, Repr, Inhabited

/-- The double at an offset of device d's control space. -/
def ctlAt (d off : Nat) : Ctl :=
  if off % 8 ≠ 0 then .none
  else if off < 0x1000 then .step off
  else if off < 0x2000 then .boot (off - 0x1000)
  else if off < 0x3000 then .ring (off - 0x2000)
  else if off < 0x1000000 then .none
  else if off < 0x1300000 then
    let r := 48 * d + (off - 0x1000000) / 0x10000
    let o := off % 0x10000
    if o < 0x1000 then .sched r o
    else if o < 0x2000 then .tcb r (o - 0x1000)
    else if o < 0x6000 then .mbox r ((o - 0x2000) / 16) (o % 16 = 8)
    else if o < 0x8000 then .power r (o - 0x6000)
    else if o < 0x9000 then .engine r (o - 0x8000)
    else .none
  else if off < 0x40000000 then .none
  else if off < 0xC0000000 then .rank ((off - 0x40000000) / 8)
  else if off < 0xE0000000 then .aper ((off - 0xC0000000) / 8)
  else if off < 2 ^ 32 then .none
  else if off < 2 ^ 32 + 8 * 48 then .hdm (48 * d + (off - 2 ^ 32) / 8)
  else .none

def bit64 (b : Bool) (k : Nat) : BitVec 64 := if b then BitVec.ofNat 64 (2 ^ k) else 0
def at64 {w : Nat} (v : BitVec w) (k : Nat) : BitVec 64 := BitVec.ofNat 64 (v.toNat * 2 ^ k)

/-- QBUSY: queues that hold an item (04 Table 4-4). -/
def State.qbusy (t : State) (r : Nat) : BitVec 64 :=
  (List.range 16).foldl (fun acc p =>
    let prio := BitVec.ofNat 4 p
    let has := (t.ret r).entries.any (fun e => e.desc.prio = prio) || (t.returning r).any (fun g => (t.gang g).desc.prio = prio)
    acc ||| bit64 has p) 0

/-- Registers of the superstep control block (03 Table 3-2). -/
def Device.readStep (x : Device) (o : Nat) : BitVec 64 :=
  match o with
  | 0x00 => x.climit.setWidth 64
  | 0x08 => x.xlimit.setWidth 64
  | 0x10 => x.phase
  | 0x18 => bit64 x.clim 63 ||| bit64 x.xlim 62 ||| at64 x.carried 32 ||| at64 x.aband 16 ||| at64 x.jobsadv 0
  | _ => 0

/-- The boot and trust block (Table 17-4). -/
def Boot.read (b : Boot) (o : Nat) : BitVec 64 :=
  if o = 0x00 then bit64 b.err 7 ||| bit64 b.rready 6 ||| bit64 b.memready 5 ||| bit64 b.adone 4 ||| at64 b.bstate 0
  else if o = 0x10 then b.abuf
  else if 0x20 ≤ o ∧ o < 0x40 then (b.anonce >>> (8 * (o - 0x20))).setWidth 64
  else if 0x100 ≤ o ∧ o < 0x200 then ((tabGet b.meas ((o - 0x100) / 64) 0) >>> (8 * (o % 64))).setWidth 64
  else 0

/-- The report ring block (R328). -/
def Device.readRing (x : Device) (o : Nat) : BitVec 64 :=
  match o with
  | 0x00 => x.rbase
  | 0x08 => x.rlen
  | 0x10 => x.rhead
  | 0x18 => x.rtail
  | 0x20 => x.rcore
  | _ => if 0x100 ≤ o ∧ o < 0x200 ∧ o % 16 = 8 then cellGet x.rreplyv ((o - 0x100) / 16) else 0

/-- The scheduler control block (04 Table 4-4). -/
def State.readSched (t : State) (r o : Nat) : BitVec 64 :=
  let x := t.ret r
  if o = 0 then at64 x.age 40 ||| at64 x.minres 32 ||| bit64 x.preen 0
  else if o = 8 then t.qbusy r
  else if 0x40 ≤ o ∧ o < 0x140 ∧ o % 16 = 8 then
    let p := tabGet x.ports ((o - 0x40) / 16) {}
    bit64 p.done 63 ||| at64 p.status 0
  else 0

/-- The translation control block (15 Table 15-4). -/
def Reticle.readTcb (x : Reticle) (o : Nat) : BitVec 64 :=
  let c := x.tcb
  match o with
  | 0x00 => c.atbase
  | 0x08 => c.sdva
  | 0x10 => c.sdctl
  | 0x20 => bit64 c.shoot.isSome 63 ||| bit64 c.done 62 ||| bit64 c.fenced 61 ||| at64 c.fdev 0
  | 0x28 => c.sdtimeout.setWidth 64
  | 0x38 => BitVec.ofNat 64 (x.pins.length % 4096) ||| bit64 (decide (4096 ≤ x.pins.length)) 12
  | 0x40 => c.hotctl
  | 0x48 => c.hotbuf
  | _ => 0

/-- The power and Stopwatch registers (18 Table 18-1). -/
def Reticle.readPower (x : Reticle) (o : Nat) : BitVec 64 :=
  if o = 0x000 then bit64 x.thr 10 ||| at64 x.plim 0
  else if o = 0x008 then at64 x.droop 32 ||| at64 x.pwr 16 ||| at64 x.fdiv 0
  else if o = 0x010 then x.retx
  else if o = 0x018 then x.reroute
  else if 0x200 ≤ o ∧ o < 0xA00 then
    let w := tabGet x.watches ((o - 0x200) / 0x200) {}
    let k := o % 0x200
    if k = 0x00 then at64 w.sel 24 ||| at64 w.src 4 ||| bit64 w.frz 1 ||| bit64 w.en 0
    else if k = 0x08 then w.min
    else if k = 0x10 then w.max
    else if k = 0x18 then w.cnt
    else if 0x100 ≤ k then cellGet w.bins ((k - 0x100) / 8)
    else 0
  else 0

/-- The engine service block (12 Table 12-4). -/
def Reticle.readEngine (x : Reticle) (o : Nat) : BitVec 64 :=
  let p := tabGet x.eports (o / 32) {}
  if 0x200 ≤ o then 0
  else if o % 32 = 0 then p.ctl
  else if o % 32 = 0x10 then bit64 p.done 63 ||| bit64 p.refused 62 ||| (slice p.value 0 62).setWidth 64
  else 0

/-- A read of device control space: reserved fields and write-only registers read zero (00 R11, R12). -/
def State.ctlRead (t : State) (d off : Nat) : BitVec 64 :=
  match ctlAt d off with
  | .step o => (t.dev d).readStep o
  | .boot o => (t.dev d).boot.read o
  | .ring o => (t.dev d).readRing o
  | .sched r o => t.readSched r o
  | .tcb r o => (t.ret r).readTcb o
  | .mbox r e second =>
    let m := tabGet (t.ret r).mailboxes e {}
    if second then m.desc else m.word ||| bit64 m.pend 1 ||| bit64 m.busy 0
  | .power r o => (t.ret r).readPower o
  | .engine r o => (t.ret r).readEngine o
  | .rank k => cellGet (t.dev d).ranks k
  | .aper k => cellGet (t.dev d).apertures k
  | .hdm r => (t.ret r).hdmbase
  | .none => 0

/-- Bits of a rank table entry, and of the doubles of an aperture entry, that are not reserved (13 Tables 13-1, 13-6). -/
abbrev rankMask : BitVec 64 := 0xC000FFFF00003F03
def aperMask (k : Nat) : BitVec 64 :=
  match k % 4 with | 0 => 0x8000001FFFFFFFFF | 3 => 0 | _ => BitVec.allOnes 64

/-- A write to the superstep control block (03 R75). -/
def Device.writeStep (x : Device) (o : Nat) (v : BitVec 64) : Device :=
  match o with
  | 0x00 => { x with climit := slice v 0 32 }
  | 0x08 => { x with xlimit := slice v 0 32 }
  | _ => x

/-- The nonce with double i replaced. -/
def nonceSet (n : BitVec 256) (i : Nat) (v : BitVec 64) : BitVec 256 :=
  (n &&& ~~~(((BitVec.allOnes 64).setWidth 256) <<< (64 * i))) ||| (v.setWidth 256 <<< (64 * i))

/-- A write to the boot and trust block, ACMD apart. -/
def Boot.write (b : Boot) (o : Nat) (v : BitVec 64) : Boot :=
  if o = 0x00 then { b with adone := b.adone && !(bitAt v 4) }
  else if o = 0x10 then { b with abuf := v }
  else if 0x20 ≤ o ∧ o < 0x40 then { b with anonce := nonceSet b.anonce ((o - 0x20) / 8) v }
  else b

/-- A write to the report ring block, RTAIL and RREPLY apart. -/
def Device.writeRing (x : Device) (o : Nat) (v : BitVec 64) : Device :=
  match o with
  | 0x00 => { x with rbase := v }
  | 0x08 => { x with rlen := v }
  | 0x20 => { x with rcore := v }
  | _ => if 0x100 ≤ o ∧ o < 0x200 ∧ o % 16 = 8 then { x with rreplyv := cellPut x.rreplyv ((o - 0x100) / 16) v } else x

/-- A write to the translation control block, SDCMD and FCLR apart. Setting up the hot-page ring anew, by another HOTBUF, LEN or
HEAD, empties it (15 R299; log 24). -/
def Tcb.write (c : Tcb) (o : Nat) (v : BitVec 64) : Tcb :=
  match o with
  | 0x00 => { c with atbase := v &&& 0x000FFFFFFFF80000 }
  | 0x08 => { c with sdva := v &&& 0x01FFFFFFFFFFF000 }
  | 0x10 => { c with sdctl := v &&& 0xFFFFE00FFFFFFFFF }
  | 0x20 => { c with done := c.done && !(bitAt v 62), fenced := c.fenced && !(bitAt v 61) }
  | 0x28 => { c with sdtimeout := slice v 0 32 }
  | 0x40 => { c with hotctl := (v &&& 0xBFFC0000000FFFFF) ||| (c.hotctl &&& ~~~v &&& 0x4000000000000000),
                     hotcount := if (v ^^^ c.hotctl) &&& 0x00FC0000000FFFFF = 0 then c.hotcount else 0 }
  | 0x48 => { c with hotbuf := v &&& 0x000FFFFFFFFFFFF0, hotcount := if v &&& 0x000FFFFFFFFFFFF0 = c.hotbuf then c.hotcount else 0 }
  | _ => c

/-- A write to a mailbox entry (R326). -/
def Mailbox.write (m : Mailbox) (second : Bool) (v : BitVec 64) : Mailbox :=
  if second then { m with desc := v &&& 0x000FFFFFFFFFFFC0 }
  else { m with word := v &&& 0x000FFFFFFFFFFFF8, pend := bitAt v 1, busy := bitAt v 0, launch := if bitAt v 0 then m.launch else none }

/-- A write to PCTL (18 Table 18-1; R333: with THR 0, FDIV is 16). -/
def Reticle.writePctl (x : Reticle) (v : BitVec 64) : Reticle :=
  { x with thr := bitAt v 10, plim := slice v 0 10, fdiv := if bitAt v 10 then x.fdiv else 16 }

/-- A write to device control space (00 R11; R326). A register whose write has a row of its own has that effect. -/
def execRegisterWrite (d off : Nat) (v : BitVec 64) (t : State) : Res :=
  let x := t.dev d
  match ctlAt d off with
  | .step o => .next (t.setDev d (x.writeStep o v))
  | .boot o => if o = 0x08 then execAttestationStart d v t else .next (t.setDev d { x with boot := x.boot.write o v })
  | .ring o =>
    if o = 0x18 then execReportRingTailWrite d v t
    else if 0x100 ≤ o ∧ o < 0x200 ∧ o % 16 = 0 then execSyscReply d ((o - 0x100) / 16) v t
    else .next ((t.setDev d (x.writeRing o v)).releaseHeld d (if o = 0x08 then x.held.length else 0))
  | .sched r o =>
    if o = 0 then .next (t.setRet r { t.ret r with age := slice v 40 8, minres := slice v 32 8, preen := bitAt v 0 })
    else if 0x40 ≤ o ∧ o < 0x140 ∧ o % 16 = 0 then execSubmit r ((o - 0x40) / 16) v t
    else .next t
  | .tcb r o =>
    if o = 0x18 then execShootdown r t
    else if o = 0x30 then execFenceClear r v t
    else .next (t.setTcb r ((t.ret r).tcb.write o v))
  | .mbox r e second =>
    let y := t.ret r
    .next (t.setRet r { y with mailboxes := tabPut y.mailboxes e ((tabGet y.mailboxes e {}).write second v) })
  | .power r o =>
    if o = 0x000 then .next (t.setRet r ((t.ret r).writePctl v))
    else if 0x200 ≤ o ∧ o < 0xA00 ∧ o % 0x200 = 0 then .next (t.writeSwctl r ((o - 0x200) / 0x200) v)
    else .next t
  | .engine r o =>
    let y := t.ret r
    if 0x200 ≤ o then .next t
    else if o % 32 = 0 then
      .next (t.setRet r { y with eports := tabPut y.eports (o / 32) { tabGet y.eports (o / 32) {} with ctl := v &&& 0x7FFFF } })
    else if o % 32 = 8 then execEngineServiceSubmit r (o / 32) v t
    else .next t
  | .rank k => .next (t.setDev d { x with ranks := cellPut x.ranks k (v &&& rankMask) })
  | .aper k => .next (t.setDev d { x with apertures := cellPut x.apertures k (v &&& aperMask k) })
  | .hdm r => .next (t.setRet r { t.ret r with hdmbase := v })
  | .none => .next t

-- The host's accesses -------------------------------------------------------------------------------------------------------------

/-- A host read. Of bonded DRAM, poisoned before MEMREADY or where it meets uncorrectable data (R325, R330); of device control
space through BAR0, whose offsets the model writes from 2^64 on (R322, R326; log 30); else, below 2^46, of its own memory (10
R227). -/
def execHostMemRead (d a n : Nat) (t : State) : Res :=
  if 2 ^ 64 ≤ a then .next { t with reply := ctlBytes (t.ctlRead d (a - 2 ^ 64)) a n, poisoned := false }
  else
    match t.hostPlace d a with
    | none => if 2 ^ 46 < a + n then .next t
      else .next { t.outsideRead .host (hostOwn d a) n with reply := t.bytes (hostOwn d a) n, poisoned := false }
    | some (r, m) =>
      if (t.dev d).boot.memready = false ∨ t.isBad m n then .next { t with reply := [], poisoned := true }
      else
        let u := t.outsideRead .host m n
        .next (((({ u with reply := t.hostBytes r m n, poisoned := false } : State).checkStorage m).checkStorage (m + n - 1)).track r m n).tick

/-- Lines that n bytes from m cover whole are cleared of uncorrectable data (16 R366). -/
def State.clearLines (t : State) (m n : Nat) : State :=
  let lo := (m + 63) / 64 * 64
  let hi := (m + n) / 64 * 64
  t.clearBad lo (hi - lo)

/-- A host write: of bonded DRAM, discarded before MEMREADY (R330), and not checked against the reserved area (R323); of device
control space; or of its own memory. -/
def execHostMemWrite (d a : Nat) (data : List Byte) (t : State) : Res :=
  if data = [] then .next t
  else if 2 ^ 64 ≤ a then (if data.length = 8 then execRegisterWrite d (a - 2 ^ 64) (BitVec.ofNat 64 (leValue data)) t else .next t)
  else
    match t.hostPlace d a with
    | none => if 2 ^ 46 < a + data.length then .next t else .next (t.outsideWrite .host (hostOwn d a) data)
    | some (r, m) =>
      if (t.dev d).boot.memready = false then .next t
      else
        let u := ((t.checkStorage m).checkStorage (m + data.length - 1)).outsideWrite .host m data
        .next ((u.clearLines m data.length).overRange r m data.length).tick

/-- What a host atomic does to memory: it continues the release sequence that it reads from (10 R213, R226). -/
def State.hostRmw (t : State) (a : Nat) (new : List Byte) : State :=
  let u := t.outsideRead .host a new.length
  let own : List Head := if Config.hostOrders u.clock then [u.headOf .host 6 a new.length] else []
  (u.record .host false (t.headsAt seesAll a new.length ++ own) a new.length).writeBytes a new

/-- A host atomic that reads old and writes new, within one line that the host owns (10 R226): it happens at a point of the
line's order at which the bytes are old. -/
def execHostAtomic (d a : Nat) (old new : List Byte) (t : State) : Res :=
  if old = [] ∨ old.length ≠ new.length then .next t
  else
    match t.hostPlace d a with
    | none =>
      if 2 ^ 46 < a + old.length ∨ a / 64 ≠ (a + old.length - 1) / 64 ∨ t.bytes (hostOwn d a) old.length ≠ old then .next t
      else .next (({ t with reply := old, poisoned := false } : State).hostRmw (hostOwn d a) new)
    | some (r, m) =>
      if (t.dev d).boot.memready = false ∨ m / 64 ≠ (m + old.length - 1) / 64 then .next t
      else if t.isBad m old.length then .next { t with reply := [], poisoned := true }
      else if t.bytes m old.length ≠ old then .next t
      else .next (((({ t with reply := old, poisoned := false } : State).hostRmw m new).track r m old.length).overRange r m old.length).tick

-- The service cluster (R327) -----------------------------------------------------------------------------------------------------

/-- Recall every line of n bytes from m. -/
def State.recallAll (t : State) (m n : Nat) : State :=
  (List.range ((m + n + 63) / 64 - m / 64)).foldl (fun s i => s.recall (64 * (m / 64 + i))) t

/-- A unit of SRAM that no access names by an address, at machine address a, holds uncorrectable data. -/
def State.unitBad (t : State) (a : Nat) : Bool :=
  let k := (a - 2 ^ 120) / 2 ^ 18
  let o := (a - 2 ^ 120) % 2 ^ 18
  if a < 2 ^ 120 ∨ k % 3 ≠ 2 then t.isBad a 32
  else match (t.block (k / 3)).l1[o / 128]? with
    | some l => l.isBad (o % 128) 32
    | none => false

/-- Service software rewrites the 32-byte unit at machine address a (16 R366). -/
def State.rewriteUnit (t : State) (p : Party) (a : Nat) (data : List Byte) : State :=
  let k := (a - 2 ^ 120) / 2 ^ 18
  let o := (a - 2 ^ 120) % 2 ^ 18
  let words := (List.range 8).map (fun i => BitVec.ofNat 32 (leValue ((data.drop (4 * i)).take 4)))
  if a < 2 ^ 120 then t.flitWrite p a data
  else if k % 3 = 0 then
    let x := t.block (k / 3)
    (t.setBlock (k / 3) { x with accs := cellPutList x.accs (o / 4) words }).clearBad a 32
  else if k % 3 = 1 then
    let x := t.squad (k / 3)
    (t.setSquad (k / 3) { x with vregs := cellPutList x.vregs (o / 4) words }).clearBad a 32
  else
    let x := t.block (k / 3)
    t.setBlock (k / 3) { x with l1 := (List.range x.l1.length).zip x.l1 |>.map (fun e =>
      if e.1 = o / 128 then
        { e.2 with bytes := cellPutList e.2.bytes (o % 128) data, bad := e.2.bad.filter (fun u => u ≠ o % 128 / 32) } else e.2) }

/-- A service-cluster core's access: device memory by physical address, device control space in aligned doubles, or the repair
of a unit with uncorrectable data, which may be of an SRAM or of the weight store (a machine address). -/
def execServiceClusterMemoryAccess (d pa : Nat) (access : ServiceAccess) (t : State) : Res :=
  let ctl := decide (pa < 2 ^ 52) && decide (pa / 2 ^ 46 = 63)
  let off := pa % 2 ^ 46
  let inCtl := decide (off < 2 ^ 32)
  let m := physAddr d pa
  let r := 48 * d + homeOf m
  match access with
  | .read n =>
    if ctl then
      .next { t with poisoned := false, reply := ctlBytes (if inCtl then t.ctlRead d off else 0) off n }
    else if 2 ^ 52 ≤ pa ∨ homeOf m = 62 then .next t
    else if t.isBad m n then .next { t with reply := [], poisoned := true }
    else
      let u := (((t.checkStorage m).checkStorage (m + n - 1)).recallAll m n).outsideRead (.service d) m n
      .next ({ u with reply := u.hostBytes r m n, poisoned := false }.tick)
  | .write data =>
    if ctl then
      (if data.length = 8 ∧ inCtl ∧ off % 8 = 0 then execRegisterWrite d off (BitVec.ofNat 64 (leValue data)) t else .next t)
    else if 2 ^ 52 ≤ pa ∨ homeOf m = 62 ∨ data = [] then .next t
    else
      .next (((((t.checkStorage m).checkStorage (m + data.length - 1)).recallAll m data.length).outsideWrite (.service d) m data).overRange r m data.length).tick
  | .repair data =>
    let a := if pa < 2 ^ 52 then m else pa
    if ctl ∨ (2 ^ 52 ≤ pa ∧ pa < 2 ^ 80) ∨ data.length ≠ 32 ∨ a % 32 ≠ 0 ∨ t.unitBad a = false then .next t
    else .next (t.rewriteUnit (.service d) a data)

end Sys2Proof.Machine
end

