-- ==== Sys2Proof/Machine/Dispatch.lean ====
section
/-! DEFINITION. One arm per instruction: a direct call of its meaning. -/

namespace Sys2Proof.Machine

/-- What an instruction does. -/
def exec (i : Instr) (s : State) : Host.Outcome State Fault Refusal :=
  match i with
  | .add x0 x1 x2 x3 => Sys2Proof.Machine.execAdd x0 x1 x2 x3 s
  | .sub x0 x1 x2 x3 => Sys2Proof.Machine.execSub x0 x1 x2 x3 s
  | .mul x0 x1 x2 x3 => Sys2Proof.Machine.execMul x0 x1 x2 x3 s
  | .mulh x0 x1 x2 x3 => Sys2Proof.Machine.execMulh x0 x1 x2 x3 s
  | .mulhu x0 x1 x2 x3 => Sys2Proof.Machine.execMulhu x0 x1 x2 x3 s
  | .div x0 x1 x2 x3 => Sys2Proof.Machine.execDiv x0 x1 x2 x3 s
  | .divu x0 x1 x2 x3 => Sys2Proof.Machine.execDivu x0 x1 x2 x3 s
  | .rem x0 x1 x2 x3 => Sys2Proof.Machine.execRem x0 x1 x2 x3 s
  | .remu x0 x1 x2 x3 => Sys2Proof.Machine.execRemu x0 x1 x2 x3 s
  | .and x0 x1 x2 x3 => Sys2Proof.Machine.execAnd x0 x1 x2 x3 s
  | .or x0 x1 x2 x3 => Sys2Proof.Machine.execOr x0 x1 x2 x3 s
  | .xor x0 x1 x2 x3 => Sys2Proof.Machine.execXor x0 x1 x2 x3 s
  | .shl x0 x1 x2 x3 => Sys2Proof.Machine.execShl x0 x1 x2 x3 s
  | .shr x0 x1 x2 x3 => Sys2Proof.Machine.execShr x0 x1 x2 x3 s
  | .sar x0 x1 x2 x3 => Sys2Proof.Machine.execSar x0 x1 x2 x3 s
  | .min x0 x1 x2 x3 => Sys2Proof.Machine.execMin x0 x1 x2 x3 s
  | .max x0 x1 x2 x3 => Sys2Proof.Machine.execMax x0 x1 x2 x3 s
  | .minu x0 x1 x2 x3 => Sys2Proof.Machine.execMinu x0 x1 x2 x3 s
  | .maxu x0 x1 x2 x3 => Sys2Proof.Machine.execMaxu x0 x1 x2 x3 s
  | .slt x0 x1 x2 x3 => Sys2Proof.Machine.execSlt x0 x1 x2 x3 s
  | .sltu x0 x1 x2 x3 => Sys2Proof.Machine.execSltu x0 x1 x2 x3 s
  | .seq x0 x1 x2 x3 => Sys2Proof.Machine.execSeq x0 x1 x2 x3 s
  | .sne x0 x1 x2 x3 => Sys2Proof.Machine.execSne x0 x1 x2 x3 s
  | .clz x0 x1 x2 => Sys2Proof.Machine.execClz x0 x1 x2 s
  | .ctz x0 x1 x2 => Sys2Proof.Machine.execCtz x0 x1 x2 s
  | .popc x0 x1 x2 => Sys2Proof.Machine.execPopc x0 x1 x2 s
  | .lea0 x0 x1 x2 x3 => Sys2Proof.Machine.execLea0 x0 x1 x2 x3 s
  | .lea1 x0 x1 x2 x3 => Sys2Proof.Machine.execLea1 x0 x1 x2 x3 s
  | .lea2 x0 x1 x2 x3 => Sys2Proof.Machine.execLea2 x0 x1 x2 x3 s
  | .lea3 x0 x1 x2 x3 => Sys2Proof.Machine.execLea3 x0 x1 x2 x3 s
  | .addi x0 x1 x2 x3 => Sys2Proof.Machine.execAddi x0 x1 x2 x3 s
  | .andi x0 x1 x2 x3 => Sys2Proof.Machine.execAndi x0 x1 x2 x3 s
  | .ori x0 x1 x2 x3 => Sys2Proof.Machine.execOri x0 x1 x2 x3 s
  | .xori x0 x1 x2 x3 => Sys2Proof.Machine.execXori x0 x1 x2 x3 s
  | .shli x0 x1 x2 x3 => Sys2Proof.Machine.execShli x0 x1 x2 x3 s
  | .shri x0 x1 x2 x3 => Sys2Proof.Machine.execShri x0 x1 x2 x3 s
  | .sari x0 x1 x2 x3 => Sys2Proof.Machine.execSari x0 x1 x2 x3 s
  | .slti x0 x1 x2 x3 => Sys2Proof.Machine.execSlti x0 x1 x2 x3 s
  | .sltui x0 x1 x2 x3 => Sys2Proof.Machine.execSltui x0 x1 x2 x3 s
  | .muli x0 x1 x2 x3 => Sys2Proof.Machine.execMuli x0 x1 x2 x3 s
  | .lis x0 x1 x2 => Sys2Proof.Machine.execLis x0 x1 x2 s
  | .lui x0 x1 x2 => Sys2Proof.Machine.execLui x0 x1 x2 s
  | .pcrel x0 x1 x2 => Sys2Proof.Machine.execPcrel x0 x1 x2 s
  | .bEqz x0 x1 x2 => Sys2Proof.Machine.execBEqz x0 x1 x2 s
  | .bNez x0 x1 x2 => Sys2Proof.Machine.execBNez x0 x1 x2 s
  | .bLtz x0 x1 x2 => Sys2Proof.Machine.execBLtz x0 x1 x2 s
  | .bGez x0 x1 x2 => Sys2Proof.Machine.execBGez x0 x1 x2 s
  | .bGtz x0 x1 x2 => Sys2Proof.Machine.execBGtz x0 x1 x2 s
  | .bLez x0 x1 x2 => Sys2Proof.Machine.execBLez x0 x1 x2 s
  | .bMany x0 x1 x2 => Sys2Proof.Machine.execBMany x0 x1 x2 s
  | .bMnone x0 x1 x2 => Sys2Proof.Machine.execBMnone x0 x1 x2 s
  | .bMall x0 x1 x2 => Sys2Proof.Machine.execBMall x0 x1 x2 s
  | .jmp x0 x1 => Sys2Proof.Machine.execJmp x0 x1 s
  | .call x0 x1 x2 x3 => Sys2Proof.Machine.execCall x0 x1 x2 x3 s
  | .callr x0 x1 x2 x3 => Sys2Proof.Machine.execCallr x0 x1 x2 x3 s
  | .jr x0 x1 x2 => Sys2Proof.Machine.execJr x0 x1 x2 s
  | .ret x0 => Sys2Proof.Machine.execRet x0 s
  | .lane x0 x1 => Sys2Proof.Machine.execLane x0 x1 s
  | .ljmp x0 x1 => Sys2Proof.Machine.execLjmp x0 x1 s
  | .ljr x0 x1 x2 => Sys2Proof.Machine.execLjr x0 x1 x2 s
  | .lpcr x0 x1 => Sys2Proof.Machine.execLpcr x0 x1 s
  | .mset x0 x1 x2 => Sys2Proof.Machine.execMset x0 x1 x2 s
  | .mget x0 x1 x2 => Sys2Proof.Machine.execMget x0 x1 x2 s
  | .lds x0 x1 x2 x3 x4 => Sys2Proof.Machine.execLds x0 x1 x2 x3 x4 s
  | .sts x0 x1 x2 x3 x4 => Sys2Proof.Machine.execSts x0 x1 x2 x3 x4 s
  | .ldsa x0 x1 x2 x3 x4 x5 => Sys2Proof.Machine.execLdsa x0 x1 x2 x3 x4 x5 s
  | .stsl x0 x1 x2 x3 x4 x5 => Sys2Proof.Machine.execStsl x0 x1 x2 x3 x4 x5 s
  | .atomsAdd x0 x1 x2 x3 x4 => Sys2Proof.Machine.execAtomsAdd x0 x1 x2 x3 x4 s
  | .atomsMin x0 x1 x2 x3 x4 => Sys2Proof.Machine.execAtomsMin x0 x1 x2 x3 x4 s
  | .atomsMax x0 x1 x2 x3 x4 => Sys2Proof.Machine.execAtomsMax x0 x1 x2 x3 x4 s
  | .atomsAnd x0 x1 x2 x3 x4 => Sys2Proof.Machine.execAtomsAnd x0 x1 x2 x3 x4 s
  | .atomsOr x0 x1 x2 x3 x4 => Sys2Proof.Machine.execAtomsOr x0 x1 x2 x3 x4 s
  | .atomsXor x0 x1 x2 x3 x4 => Sys2Proof.Machine.execAtomsXor x0 x1 x2 x3 x4 s
  | .atomsExch x0 x1 x2 x3 x4 => Sys2Proof.Machine.execAtomsExch x0 x1 x2 x3 x4 s
  | .atomsCas x0 x1 x2 x3 x4 => Sys2Proof.Machine.execAtomsCas x0 x1 x2 x3 x4 s
  | .atomsFadd x0 x1 x2 x3 => Sys2Proof.Machine.execAtomsFadd x0 x1 x2 x3 s
  | .atomsFamax x0 x1 x2 x3 => Sys2Proof.Machine.execAtomsFamax x0 x1 x2 x3 s
  | .xget x0 x1 x2 x3 x4 => Sys2Proof.Machine.execXget x0 x1 x2 x3 x4 s
  | .xput x0 x1 x2 x3 x4 => Sys2Proof.Machine.execXput x0 x1 x2 x3 x4 s
  | .xamo x0 x1 x2 x3 x4 => Sys2Proof.Machine.execXamo x0 x1 x2 x3 x4 s
  | .xcoll x0 x1 => Sys2Proof.Machine.execXcoll x0 x1 s
  | .xtxa x0 x1 x2 x3 => Sys2Proof.Machine.execXtxa x0 x1 x2 x3 s
  | .xmst x0 x1 x2 x3 => Sys2Proof.Machine.execXmst x0 x1 x2 x3 s
  | .xmld x0 x1 x2 x3 x4 => Sys2Proof.Machine.execXmld x0 x1 x2 x3 x4 s
  | .xchan x0 x1 x2 => Sys2Proof.Machine.execXchan x0 x1 x2 s
  | .xchanOrd x0 x1 x2 => Sys2Proof.Machine.execXchanOrd x0 x1 x2 s
  | .udf x0 => Sys2Proof.Machine.execUdf x0 s
  | .nop x0 => Sys2Proof.Machine.execNop x0 s
  | .sync x0 x1 => Sys2Proof.Machine.execSync x0 x1 s
  | .exit x0 => Sys2Proof.Machine.execExit x0 s
  | .yield x0 x1 x2 x3 => Sys2Proof.Machine.execYield x0 x1 x2 x3 s
  | .trap x0 x1 => Sys2Proof.Machine.execTrap x0 x1 s
  | .sysc x0 x1 x2 x3 => Sys2Proof.Machine.execSysc x0 x1 x2 x3 s
  | .rett x0 => Sys2Proof.Machine.execRett x0 s
  | .ireg x0 => Sys2Proof.Machine.execIreg x0 s
  | .fence x0 x1 x2 => Sys2Proof.Machine.execFence x0 x1 x2 s
  | .waitseq x0 x1 x2 x3 => Sys2Proof.Machine.execWaitseq x0 x1 x2 x3 s
  | .getx x0 x1 x2 => Sys2Proof.Machine.execGetx x0 x1 x2 s
  | .setx x0 x1 x2 => Sys2Proof.Machine.execSetx x0 x1 x2 s
  | .setf x0 x1 x2 => Sys2Proof.Machine.execSetf x0 x1 x2 s
  | .getf x0 x1 => Sys2Proof.Machine.execGetf x0 x1 s
  | .bara x0 x1 x2 => Sys2Proof.Machine.execBara x0 x1 x2 s
  | .barw x0 x1 => Sys2Proof.Machine.execBarw x0 x1 s
  | .bars x0 x1 x2 => Sys2Proof.Machine.execBars x0 x1 x2 s
  | .enq x0 x1 x2 x3 => Sys2Proof.Machine.execEnq x0 x1 x2 x3 s
  | .post x0 x1 x2 x3 => Sys2Proof.Machine.execPost x0 x1 x2 x3 s
  | .vadd x0 => Sys2Proof.Machine.execVadd x0 s
  | .vsub x0 => Sys2Proof.Machine.execVsub x0 s
  | .vmul x0 => Sys2Proof.Machine.execVmul x0 s
  | .vmulh x0 => Sys2Proof.Machine.execVmulh x0 s
  | .vmad x0 => Sys2Proof.Machine.execVmad x0 s
  | .vmin x0 => Sys2Proof.Machine.execVmin x0 s
  | .vmax x0 => Sys2Proof.Machine.execVmax x0 s
  | .vabs x0 => Sys2Proof.Machine.execVabs x0 s
  | .vneg x0 => Sys2Proof.Machine.execVneg x0 s
  | .vadds x0 => Sys2Proof.Machine.execVadds x0 s
  | .vsubs x0 => Sys2Proof.Machine.execVsubs x0 s
  | .vclz x0 => Sys2Proof.Machine.execVclz x0 s
  | .vpopc x0 => Sys2Proof.Machine.execVpopc x0 s
  | .vand x0 => Sys2Proof.Machine.execVand x0 s
  | .vor x0 => Sys2Proof.Machine.execVor x0 s
  | .vxor x0 => Sys2Proof.Machine.execVxor x0 s
  | .vnot x0 => Sys2Proof.Machine.execVnot x0 s
  | .vshl x0 => Sys2Proof.Machine.execVshl x0 s
  | .vshr x0 => Sys2Proof.Machine.execVshr x0 s
  | .vsar x0 => Sys2Proof.Machine.execVsar x0 s
  | .vmov x0 => Sys2Proof.Machine.execVmov x0 s
  | .vbcast x0 => Sys2Proof.Machine.execVbcast x0 s
  | .vsel x0 => Sys2Proof.Machine.execVsel x0 s
  | .vlane x0 => Sys2Proof.Machine.execVlane x0 s
  | .vimm x0 x1 x2 x3 => Sys2Proof.Machine.execVimm x0 x1 x2 x3 s
  | .vcmpEq x0 => Sys2Proof.Machine.execVcmpEq x0 s
  | .vcmpNe x0 => Sys2Proof.Machine.execVcmpNe x0 s
  | .vcmpLt x0 => Sys2Proof.Machine.execVcmpLt x0 s
  | .vcmpLe x0 => Sys2Proof.Machine.execVcmpLe x0 s
  | .vcmpGt x0 => Sys2Proof.Machine.execVcmpGt x0 s
  | .vcmpGe x0 => Sys2Proof.Machine.execVcmpGe x0 s
  | .vcmpLtu x0 => Sys2Proof.Machine.execVcmpLtu x0 s
  | .vcmpLeu x0 => Sys2Proof.Machine.execVcmpLeu x0 s
  | .vcmpGtu x0 => Sys2Proof.Machine.execVcmpGtu x0 s
  | .vcmpGeu x0 => Sys2Proof.Machine.execVcmpGeu x0 s
  | .vfadd x0 => Sys2Proof.Machine.execVfadd x0 s
  | .vfsub x0 => Sys2Proof.Machine.execVfsub x0 s
  | .vfmul x0 => Sys2Proof.Machine.execVfmul x0 s
  | .vfma x0 => Sys2Proof.Machine.execVfma x0 s
  | .vfms x0 => Sys2Proof.Machine.execVfms x0 s
  | .vfnma x0 => Sys2Proof.Machine.execVfnma x0 s
  | .vfmin x0 => Sys2Proof.Machine.execVfmin x0 s
  | .vfmax x0 => Sys2Proof.Machine.execVfmax x0 s
  | .vfabs x0 => Sys2Proof.Machine.execVfabs x0 s
  | .vfneg x0 => Sys2Proof.Machine.execVfneg x0 s
  | .vfclass x0 => Sys2Proof.Machine.execVfclass x0 s
  | .vfdiv x0 => Sys2Proof.Machine.execVfdiv x0 s
  | .vfsqrt x0 => Sys2Proof.Machine.execVfsqrt x0 s
  | .vfrcp x0 => Sys2Proof.Machine.execVfrcp x0 s
  | .vfrsq x0 => Sys2Proof.Machine.execVfrsq x0 s
  | .vfexp2 x0 => Sys2Proof.Machine.execVfexp2 x0 s
  | .vflog2 x0 => Sys2Proof.Machine.execVflog2 x0 s
  | .vdiv x0 => Sys2Proof.Machine.execVdiv x0 s
  | .vrem x0 => Sys2Proof.Machine.execVrem x0 s
  | .vfcmpEq x0 => Sys2Proof.Machine.execVfcmpEq x0 s
  | .vfcmpNe x0 => Sys2Proof.Machine.execVfcmpNe x0 s
  | .vfcmpLt x0 => Sys2Proof.Machine.execVfcmpLt x0 s
  | .vfcmpLe x0 => Sys2Proof.Machine.execVfcmpLe x0 s
  | .vfcmpUnord x0 => Sys2Proof.Machine.execVfcmpUnord x0 s
  | .vfcmpOrd x0 => Sys2Proof.Machine.execVfcmpOrd x0 s
  | .vcvt x0 => Sys2Proof.Machine.execVcvt x0 s
  | .vbfpq x0 => Sys2Proof.Machine.execVbfpq x0 s
  | .vbfpd x0 => Sys2Proof.Machine.execVbfpd x0 s
  | .vpack x0 => Sys2Proof.Machine.execVpack x0 s
  | .vunpk x0 => Sys2Proof.Machine.execVunpk x0 s
  | .vshfl x0 => Sys2Proof.Machine.execVshfl x0 s
  | .vrot x0 => Sys2Proof.Machine.execVrot x0 s
  | .vred x0 => Sys2Proof.Machine.execVred x0 s
  | .vscan x0 => Sys2Proof.Machine.execVscan x0 s
  | .vote x0 => Sys2Proof.Machine.execVote x0 s
  | .ballotLane x0 => Sys2Proof.Machine.execBallotLane x0 s
  | .ballotId x0 => Sys2Proof.Machine.execBallotId x0 s
  | .mand x0 => Sys2Proof.Machine.execMand x0 s
  | .mor x0 => Sys2Proof.Machine.execMor x0 s
  | .mxor x0 => Sys2Proof.Machine.execMxor x0 s
  | .mnot x0 => Sys2Proof.Machine.execMnot x0 s
  | .mandn x0 => Sys2Proof.Machine.execMandn x0 s
  | .mpopc x0 => Sys2Proof.Machine.execMpopc x0 s
  | .mfirst x0 => Sys2Proof.Machine.execMfirst x0 s
  | .divb x0 => Sys2Proof.Machine.execDivb x0 s
  | .elseb x0 => Sys2Proof.Machine.execElseb x0 s
  | .recv x0 => Sys2Proof.Machine.execRecv x0 s
  | .regrp x0 => Sys2Proof.Machine.execRegrp x0 s
  | .ld x0 => Sys2Proof.Machine.execLd x0 s
  | .ldst x0 => Sys2Proof.Machine.execLdst x0 s
  | .ldg x0 => Sys2Proof.Machine.execLdg x0 s
  | .ldw x0 => Sys2Proof.Machine.execLdw x0 s
  | .st x0 => Sys2Proof.Machine.execSt x0 s
  | .stst x0 => Sys2Proof.Machine.execStst x0 s
  | .stg x0 => Sys2Proof.Machine.execStg x0 s
  | .atomAdd x0 => Sys2Proof.Machine.execAtomAdd x0 s
  | .atomMin x0 => Sys2Proof.Machine.execAtomMin x0 s
  | .atomMax x0 => Sys2Proof.Machine.execAtomMax x0 s
  | .atomAnd x0 => Sys2Proof.Machine.execAtomAnd x0 s
  | .atomOr x0 => Sys2Proof.Machine.execAtomOr x0 s
  | .atomXor x0 => Sys2Proof.Machine.execAtomXor x0 s
  | .atomExch x0 => Sys2Proof.Machine.execAtomExch x0 s
  | .atomCas x0 => Sys2Proof.Machine.execAtomCas x0 s
  | .atomFadd x0 => Sys2Proof.Machine.execAtomFadd x0 s
  | .atomFamax x0 => Sys2Proof.Machine.execAtomFamax x0 s
  | .pref x0 => Sys2Proof.Machine.execPref x0 s
  | .laneUdf x0 => Sys2Proof.Machine.execLaneUdf x0 s
  | .tfmt x0 x1 x2 x3 x4 x5 x6 x7 x8 => Sys2Proof.Machine.execTfmt x0 x1 x2 x3 x4 x5 x6 x7 x8 s
  | .tdesa x0 x1 x2 x3 x4 => Sys2Proof.Machine.execTdesa x0 x1 x2 x3 x4 s
  | .tdesb x0 x1 x2 x3 x4 => Sys2Proof.Machine.execTdesb x0 x1 x2 x3 x4 s
  | .tli x0 x1 x2 => Sys2Proof.Machine.execTli x0 x1 x2 s
  | .tliH x0 x1 x2 => Sys2Proof.Machine.execTliH x0 x1 x2 s
  | .tadd x0 x1 x2 x3 x4 x5 x6 => Sys2Proof.Machine.execTadd x0 x1 x2 x3 x4 x5 x6 s
  | .tmma x0 x1 x2 => Sys2Proof.Machine.execTmma x0 x1 x2 s
  | .tmmaj x0 x1 x2 x3 x4 => Sys2Proof.Machine.execTmmaj x0 x1 x2 x3 x4 s
  | .tzero x0 x1 => Sys2Proof.Machine.execTzero x0 x1 s
  | .tdrain x0 x1 x2 x3 x4 x5 x6 x7 x8 x9 x10 x11 => Sys2Proof.Machine.execTdrain x0 x1 x2 x3 x4 x5 x6 x7 x8 x9 x10 x11 s
  | .tbarw x0 x1 => Sys2Proof.Machine.execTbarw x0 x1 s
  | .tbara x0 x1 x2 => Sys2Proof.Machine.execTbara x0 x1 x2 s
  | .tloop x0 x1 x2 => Sys2Proof.Machine.execTloop x0 x1 x2 s
  | .tend x0 => Sys2Proof.Machine.execTend x0 s
  | .tnop x0 => Sys2Proof.Machine.execTnop x0 s
  | .tldc x0 x1 x2 x3 => Sys2Proof.Machine.execTldc x0 x1 x2 x3 s
  | .tstc x0 x1 x2 x3 => Sys2Proof.Machine.execTstc x0 x1 x2 x3 s
  | .uncorrectableFetch x0 x1 => Sys2Proof.Machine.execUncorrectableFetch x0 x1 s
  | .asyncFaultTake x0 => Sys2Proof.Machine.execAsyncFaultTake x0 s
  | .illegalInstruction x0 x1 => Sys2Proof.Machine.execIllegalInstruction x0 x1 s
  | .instructionFetchFault x0 x1 x2 x3 => Sys2Proof.Machine.execInstructionFetchFault x0 x1 x2 x3 s
  | .computeToExchangeBoundary x0 x1 => Sys2Proof.Machine.execComputeToExchangeBoundary x0 x1 s
  | .exchangeToComputeBoundary x0 x1 => Sys2Proof.Machine.execExchangeToComputeBoundary x0 x1 s
  | .computeLimitExpiry x0 x1 => Sys2Proof.Machine.execComputeLimitExpiry x0 x1 s
  | .exchangeLimitExpiry x0 => Sys2Proof.Machine.execExchangeLimitExpiry x0 s
  | .imageSpillFill x0 => Sys2Proof.Machine.execImageSpillFill x0 s
  | .shadowBankDrain x0 => Sys2Proof.Machine.execShadowBankDrain x0 s
  | .relayInject x0 x1 x2 x3 => Sys2Proof.Machine.execRelayInject x0 x1 x2 x3 s
  | .relayRequestArrival x0 x1 x2 => Sys2Proof.Machine.execRelayRequestArrival x0 x1 x2 s
  | .relayResponseArrival x0 x1 x2 x3 => Sys2Proof.Machine.execRelayResponseArrival x0 x1 x2 x3 s
  | .packetRetransmit x0 => Sys2Proof.Machine.execPacketRetransmit x0 s
  | .neighbourCardArrival x0 x1 => Sys2Proof.Machine.execNeighbourCardArrival x0 x1 s
  | .postAccept x0 x1 => Sys2Proof.Machine.execPostAccept x0 x1 s
  | .cardEnqueue x0 x1 => Sys2Proof.Machine.execCardEnqueue x0 x1 s
  | .cardStart x0 x1 x2 => Sys2Proof.Machine.execCardStart x0 x1 x2 s
  | .cardComplete x0 x1 => Sys2Proof.Machine.execCardComplete x0 x1 s
  | .engineServiceSubmit x0 x1 x2 => Sys2Proof.Machine.execEngineServiceSubmit x0 x1 x2 s
  | .shootdown x0 => Sys2Proof.Machine.execShootdown x0 s
  | .shootdownAck x0 x1 => Sys2Proof.Machine.execShootdownAck x0 x1 s
  | .shootdownTimeout x0 => Sys2Proof.Machine.execShootdownTimeout x0 s
  | .fenceClear x0 x1 => Sys2Proof.Machine.execFenceClear x0 x1 s
  | .divergenceCollectiveComplete x0 => Sys2Proof.Machine.execDivergenceCollectiveComplete x0 s
  | .tileInstructionComplete x0 => Sys2Proof.Machine.execTileInstructionComplete x0 s
  | .barrierArrivalCount x0 x1 => Sys2Proof.Machine.execBarrierArrivalCount x0 x1 s
  | .variableResultWriteback x0 x1 x2 => Sys2Proof.Machine.execVariableResultWriteback x0 x1 x2 s
  | .lateFault x0 x1 => Sys2Proof.Machine.execLateFault x0 x1 s
  | .wsRefreshWindow x0 => Sys2Proof.Machine.execWsRefreshWindow x0 s
  | .powerWindowEnd x0 x1 => Sys2Proof.Machine.execPowerWindowEnd x0 x1 s
  | .fdivAdopt x0 => Sys2Proof.Machine.execFdivAdopt x0 s
  | .droopStretch x0 x1 x2 => Sys2Proof.Machine.execDroopStretch x0 x1 x2 s
  | .stopwatchClear x0 x1 x2 => Sys2Proof.Machine.execStopwatchClear x0 x1 x2 s
  | .submit x0 x1 x2 => Sys2Proof.Machine.execSubmit x0 x1 x2 s
  | .hostMemRead x0 x1 x2 => Sys2Proof.Machine.execHostMemRead x0 x1 x2 s
  | .hostMemWrite x0 x1 x2 => Sys2Proof.Machine.execHostMemWrite x0 x1 x2 s
  | .hostAtomic x0 x1 x2 x3 => Sys2Proof.Machine.execHostAtomic x0 x1 x2 x3 s
  | .syscReply x0 x1 x2 => Sys2Proof.Machine.execSyscReply x0 x1 x2 s
  | .reportRingTailWrite x0 x1 => Sys2Proof.Machine.execReportRingTailWrite x0 x1 s
  | .attestationStart x0 x1 => Sys2Proof.Machine.execAttestationStart x0 x1 s
  | .attestationComplete x0 => Sys2Proof.Machine.execAttestationComplete x0 s
  | .coldReset x0 x1 => Sys2Proof.Machine.execColdReset x0 x1 s
  | .warmReset x0 x1 => Sys2Proof.Machine.execWarmReset x0 x1 s
  | .registerWrite x0 x1 x2 => Sys2Proof.Machine.execRegisterWrite x0 x1 x2 s
  | .pageFetchCompletion x0 => Sys2Proof.Machine.execPageFetchCompletion x0 s
  | .makeGangReady x0 => Sys2Proof.Machine.execMakeGangReady x0 s
  | .serviceSoftwareTermination x0 x1 => Sys2Proof.Machine.execServiceSoftwareTermination x0 x1 s
  | .serviceClusterMemoryAccess x0 x1 x2 => Sys2Proof.Machine.execServiceClusterMemoryAccess x0 x1 x2 s
  | .jobCreation x0 x1 => Sys2Proof.Machine.execJobCreation x0 x1 s
  | .endpointLost x0 => Sys2Proof.Machine.execEndpointLost x0 s
  | .droopStretchEnd x0 x1 => Sys2Proof.Machine.execDroopStretchEnd x0 x1 s
  | .uncorrectableData x0 => Sys2Proof.Machine.execUncorrectableData x0 s

end Sys2Proof.Machine
end

