-- ==== Sys2Proof/Machine/Issue.lean ====
section
/-! DEFINITION. Who acts next and with which word: the issue choice of a cluster (04 R100, R101), the word it fetches, the
hazard check before it (02 R52), the Pacer's next word, and the events that happen on their own. -/

namespace Sys2Proof.Machine

-- WAITSEQ and pending faults ----------------------------------------------------------------------------------------

/-- A squad parked in WAITSEQ goes on once the word has reached the value: an acquire at its scope (12 R253). A squad parked
in a barrier or in WAITSEQ takes a fault that is pending (16 R308). One that waits at ENQ goes on when pins are free. -/
def State.wake (s0 : State) (q : Nat) : State :=
  let s := s0.poke q
  let x := s.squad q
  match x.run with
  | .waitseq a v scope =>
    if s.mayRun q = false ∨ s.wsLocked a ∨ s.wsRefreshing a then s
    else if s.isBad a 8 then s.lateFault q x.region.isSome { cause := 0x12, tpc := x.pc, tlpc := x.lpc, tdst := tdstNone } a
    else
      let s1 := s.recall a
      if v.toNat ≤ s1.read a 8 then
        let t := (s1.acquireWord (.squad q) scope a).setSquad q { x with run := .running, pc := x.pc + 4, latch := none }
        if 3 ≤ scope then t.dropL1 (blockOfSquad q) else t
      else s1.observe (.squad q) seesAll a 8
  | .enq _ => s.wakeEnq q
  | _ => s

-- The choice of a cluster ---------------------------------------------------------------------------------------------

/-- Squads that stand in a cluster of a core, in slot order. -/
def State.clusterSquads (s : State) (core cluster : Nat) : List Nat :=
  let gs := s.gangs.filter (fun e => e.2.issues && decide (e.2.ret = core / 128))
  let bs := gs.flatMap (fun e => (s.blocksOf e.1).filter (fun b => s.coreNo b = core % 128))
  sortRank (fun q => (s.squad q).slot) ((bs.flatMap s.squadsOf).filter (fun q => (s.squad q).slot / 4 = cluster))

/-- Ready for a choice of the scalar or the lane stream (R100). -/
def State.ready (s : State) (q : Nat) (lane : Bool) : Bool :=
  s.mayRun q && (s.squad q).run = .running && (s.squad q).lane.isSome = lane

/-- Opportunities of a stream the squad has stayed ready through without being chosen, and the stamp of its last choice. -/
def Squad.missed (x : Squad) (lane : Bool) : Nat := if lane then x.missL else x.missS
def Squad.last (x : Squad) (lane : Bool) : Nat := if lane then x.lastL else x.lastS

/-- First of a list with the greatest rank. -/
def firstMax (rank : Nat → Nat) (qs : List Nat) : Option Nat :=
  qs.foldl (fun best q => match best with | none => some q | some p => if rank p < rank q then some q else some p) none

/-- First of a list with the least rank. -/
def firstMin (rank : Nat → Nat) (qs : List Nat) : Option Nat :=
  qs.foldl (fun best q => match best with | none => some q | some p => if rank q < rank p then some q else some p) none

/-- The squad a cluster chooses among the ready ones, given in slot order: a co-resident one at its 16th opportunity, the
longest waiting first (R101); otherwise the highest priority, then the oldest choice, then the lower slot (R100). -/
def State.choose (s : State) (qs : List Nat) (lane : Bool) : Option Nat :=
  let due := qs.filter (fun q => (s.gangOf q).desc.cores = 1 && 15 ≤ (s.squad q).missed lane)
  match firstMax (fun q => (s.squad q).missed lane) due with
  | some q => some q
  | none =>
    let top := qs.foldl (fun a q => max a (s.gangOf q).desc.prio.toNat) 0
    firstMin (fun q => (s.squad q).last lane) (qs.filter (fun q => (s.gangOf q).desc.prio.toNat = top))

/-- Count the opportunity for every squad of the cluster, and stamp the chosen one, if one is ready. -/
def State.countChoice (s : State) (all : List Nat) (q : Option Nat) (lane : Bool) : State :=
  all.foldl (fun t p =>
    let x := t.squad p
    let n := if some p ≠ q ∧ s.ready p lane then x.missed lane + 1 else 0
    let stamp := if some p = q then s.clock + 1 else x.last lane
    t.setSquad p (if lane then { x with missL := n, lastL := stamp } else { x with missS := n, lastS := stamp })) s

-- The chosen squad's word -----------------------------------------------------------------------------------------------

/-- Lane majors whose words may be replayed for some lanes (09 R206). -/
def replayable (i : Instr) : Bool :=
  match i.lane? with | some (op, _) => 0x100 ≤ op && op < 0x130 | none => false

/-- TDST of a hazard trap: the word's own destination. -/
def hazardTdst (i : Instr) (fmt : BitVec 14) : BitVec 64 :=
  match i.lane? with
  | some (op, f) => laneTdst op f (laneEf op f fmt)
  | none =>
    match i with
    | .vimm _ _ vd _ => tdstVector vd (fmtEF fmt = 10)
    | .mset _ n _ => tdstMask n
    | _ => (match i.scalarRegs.2 with | d :: _ => tdstScalar d | [] => tdstNone)

/-- A word that makes a memory access when it issues (10 R207). Those that read a record or wait for all results wait of
themselves. -/
def isAccess (i : Instr) : Bool :=
  match i with
  | .lds .. | .sts .. | .ldsa .. | .stsl .. => true
  | .atomsAdd .. | .atomsMin .. | .atomsMax .. | .atomsAnd .. | .atomsOr .. | .atomsXor .. | .atomsExch .. | .atomsCas ..
  | .atomsFadd .. | .atomsFamax .. => true
  | _ => match i.lane? with | some (op, _) => 0x100 ≤ op && op ≤ 0x130 | none => false

/-- A word that makes a release access (10 R207). -/
def isRelease (i : Instr) : Bool :=
  match i with
  | .stsl .. => true
  | _ => match i.lane? with | some (op, f) => 0x100 ≤ op && op ≤ 0x130 && (ordOf f.mod.ord).releases | none => false

/-- An access of a squad may not issue yet: an acquire before it has not returned its value, or it is a release and an access before
it has not been performed (10 R207). -/
def Squad.accessWaits (x : Squad) (i : Instr) : Bool :=
  isAccess i && x.out.any (fun o => o.ord.acquires || (isRelease i && o.kind.loc?.isSome))

/-- The word passes the checks of its registers, and those of FMT.EF: the checks of 16 R301 that come before those of its operands.
A hazard is looked at after them, that of a CALL or CALLR on s15 or sa after 64 V has been held against VWS too: the spec gives no order
(log 11, DEDUCED). -/
def State.namesRegisters (s : State) (i : Instr) : Bool :=
  match i with
  | .vimm _ _ vd _ => decide (vd.toNat < s.sq.vws) && vimmOk s.sq.fmt vd
  | .call _ v _ _ => decide (64 * v.toNat ≤ s.sq.vws)
  | .callr _ v _ _ => decide (64 * v.toNat ≤ s.sq.vws)
  | .getx _ _ n => (s.control n).isSome
  | .setx _ a n => (s.sq.setControl n (s.sq.readS a)).isSome
  | _ => match i.lane? with | some (op, f) => (f.badIndex op s.sq.vws).isNone && formatStands f op s.sq.fmt | none => true

/-- A hazard the device checks for the gang (02 R52), after the checks of register names. -/
def State.hazardOf (s : State) (i : Instr) : Option (BitVec 64) :=
  if (s.gangOf s.actor).desc.hchk = 0 ∨ s.namesRegisters i = false then none else hazard? i s.sq

/-- A lane word that reads lanes other than its own: VBCAST and major 0x08 (07 R155, R162 to R165). -/
abbrev crossLane (op : LaneOp) : Bool := op = 0x28 || op / 16 = 8

/-- Where a lane word's vector sources hold uncorrectable data, among its active lanes, or all where it reads across lanes (16 R366;
log 37). -/
def State.badSource (s : State) (i : Instr) : Option Nat :=
  match i.lane? with
  | none => none
  | some (op, f) =>
    let x := s.sq
    if s.bad = [] ∨ (f.badIndex op x.vws).isSome then none
    else
      let act := x.active f.m
      let ls := if crossLane op && act ≠ 0 then lanes32 else activeLanes act
      ((i.regs x.fmt).2.2.1.flatMap (fun r => ls.map (fun l => vregUnit s.actor (x.vcell r l)))).find? (fun a => s.isBad a 4)

/-- The word a squad has fetched, to be executed as an instruction or as a word that is none. An access waits until it may issue
(10 R207). A LANE that a RETT resumed for a replay alone ends when the word at TLPC has none (16 R310). -/
def State.decoded (s : State) (q : Nat) (st : Stream) (bs : List Byte) : Option Instr × State :=
  match decodeBytes st bs with
  | .error _ =>
    (some (.illegalInstruction q (match st with
      | .lane => .lane (BitVec.ofNat 96 (leValue bs))
      | _ => .scalar (BitVec.ofNat 32 (leValue bs)))), s)
  | .ok i =>
    if s.sq.accessWaits i then (none, s)
    else if replayable i = false ∧ st = .lane ∧ (s.sq.lane.map LaneRun.left) = some 0 then
      (none, s.setSq ({ s.sq with replay := none }.enqueueLanes 0 (LaneRun.marker s.sq.lane)))
    else
    let t := if replayable i then s else s.setSq { s.sq with replay := none }
    match t.hazardOf i with
    | none =>
      (match t.badSource i, i.lane? with
       | some a, some (op, f) => (none, t.lateLane 0 (laneTdst op f (laneEf op f t.sq.fmt)) a)
       | _, _ => (some i, t))
    | some tv =>
      (none, match i.lane? with
        | some (_, f) => t.trapL f.m 0x01 0 tv (hazardTdst i t.sq.fmt)
        | none =>
          (match i with
           | .vimm _ k _ _ => t.trapL k 0x01 0 tv (hazardTdst i t.sq.fmt)
           | _ => t.trapS 0x01 tv (hazardTdst i t.sq.fmt)))

/-- What squad q does at its opportunity: take a pending fault at a word boundary, or its next word. -/
def State.squadWord (s0 : State) (q : Nat) (lane : Bool) : Option Instr × State :=
  let s := { s0 with actor := q }
  let x := s.sq
  if x.canTake then (some (.asyncFaultTake q), s)
  else
    let st : Stream := if lane then .lane else .scalar
    let pc := if lane then x.lpc else x.pc
    match s.fetch (blockOfSquad q) st pc with
    | (t, .fault c) => (some (.instructionFetchFault q st c pc), t)
    | (t, .corrupt pa) => (some (.uncorrectableFetch q pa), t)
    | (t, .word bs) => if lane then t.decoded q st bs else (t.setSq { t.sq with replay := none }).decoded q st bs

/-- A cluster's choice and the chosen squad's word. -/
def State.issueTurn (s0 : State) (core cluster : Nat) (lane : Bool) : Option Instr × State :=
  if s0.computing (devOfRet (retOfCore core)) = false then (none, s0)
  else
    let all := s0.clusterSquads core cluster
    let s := all.foldl State.wake s0
    match s.choose (all.filter (fun q => s.ready q lane)) lane with
    | none => (none, s.countChoice all none lane)
    | some q => (s.countChoice all (some q) lane).squadWord q lane

/-- The Pacer's next word: once the arrays have done all that was issued to them, so that a stop is precise (11 R239). -/
def State.pacerTurn (s0 : State) (b : Nat) : Option Instr × State :=
  let s := { s0 with actor := b }
  let p := s.pacer
  let g := s.gang (gangOfBlock b)
  if g.issues ∧ s.computing (devOfRet g.ret) ∧ p.run = .running ∧ p.flight.all TileOp.worked then
    match s.fetch b .tile p.tpc with
    | (t, .fault c) => (some (.instructionFetchFault b .tile c p.tpc), t)
    | (t, .corrupt pa) => (some (.uncorrectableFetch (squadKey b 0) pa), t)
    | (t, .word bs) =>
      (match decodeBytes .tile bs with
       | .ok i => (some i, t)
       | .error _ => (some (.illegalInstruction b (.tile (BitVec.ofNat 64 (leValue bs)))), t))
  else (none, s0)

-- Events -----------------------------------------------------------------------------------------------------------------

/-- A row of the opcode table that happens on its own. The words of a stream and what becomes of a fetch do not. -/
def isEvent (i : Instr) : Bool :=
  match i with
  | .illegalInstruction .. => false
  | .instructionFetchFault .. => false
  | .uncorrectableFetch .. => false
  | _ => (encode i).isNone

/-- What turn u does: the instruction it executes, if any, and the state that it executes in. -/
def State.prepare (s : State) (u : Turn) : Option Instr × State :=
  match u with
  | .issue core cluster lane => s.issueTurn core cluster lane
  | .pacer b => s.pacerTurn b
  | .tileWork b n => (none, s.tileWork b n)
  | .event i => if isEvent i then (some i, s) else (none, s)
  | .dropLine b k => let x := s.block b; (none, s.setBlock b { x with l1 := listDel x.l1 k })
  | .dropLeaf c k => let x := s.core c; (none, s.setCore c { x with tlb := listDel x.tlb k })
  | .dropColumn c k => (none, s.setColumn c (listDel (s.column c) k))

/-- The turn that comes next: the first one listed, or what the free schedule names (log 1). -/
def State.nextTurn (s : State) : Turn × State :=
  match s.turns with
  | u :: rest => (u, { s with turns := rest, clock := s.clock + 1 })
  | [] => (Config.turn s.clock, { s with clock := s.clock + 1 })

/-- The end of a step: an access to an address with no storage ends the machine; memory is in its canonical form. -/
def endStep (r : Res) : Res :=
  match r with
  | .next s =>
    (match s.stop with
     | some f => .fault f
     | none => .next { s with mem := cellsCanon s.mem })
  | .fault f => .fault f
  | .refused f => .refused f

-- A word placed to be the next ------------------------------------------------------------------------------------------

/-- The page tables of address space 0 in reticle 0's memory: one 16 GiB leaf at virtual address 0, all permissions. -/
def placedTables : List (Nat × Nat) :=
  [(0x1000, 2 ^ 63 + 0x2000), (0x2000, 0x3003), (0x3000, 0x4003), (0x4000, 0xB0000000000000DD)]

/-- The gang that runs a placed word: one block of one squad on core 0 of reticle 0, all allotments whole. -/
def placedGang : Gang :=
  { cores := [0], desc := { prio := 8, vws := 31, tiles := 4, loc := 16, pool := 16, fmt0 := 0xC00, gcount := 1,
                            sentry := 0x10000, lentry := 0x10100, tentry := 0x10200 } }

/-- The squad that runs it. -/
def placedSquad (lane : Bool) : Squad :=
  { masks := [(0, 0xFFFFFFFF)], fmt := 0xC00, pc := 0x10000, lpc := 0x10100, vws := 2048,
    lane := if lane then some ⟨1, false⟩ else none }

/-- Address of the placed word by its stream. -/
def placedAt (st : Stream) : Nat := match st with | .scalar => 0x10000 | .lane => 0x10100 | .tile => 0x10200

/-- The turn that runs it. -/
def placedTurn (st : Stream) : Turn :=
  match st with | .scalar => .issue 0 0 false | .lane => .issue 0 0 true | .tile => .pacer 0

/-- Place the bytes of a word where the next step fetches: a launched gang with its page tables, its code, and the turn of
the stream (a lane word under the LANE that enqueues it) (log 2). -/
def State.placeWord (s : State) (st : Stream) (bs : List Byte) : State :=
  let tables := placedTables.foldl (fun m e => cellPutList m e.1 (numBytes 8 e.2)) s.mem
  let lane1 := cellPutList tables 0x10000 (numBytes 4 0xB0000001)
  let m := cellPutList (if st = .lane then lane1 else tables) (placedAt st) bs
  let d := s.dev 0
  let r := s.ret 0
  let t := { s with turns := placedTurn st :: s.turns, mem := m, code := m }
  let t1 := t.setDev 0 { d with phase := d.phase &&& 0xFFFFFFFFFFFFFFFE }
  let t2 := t1.setRet 0 { r with tcb := { r.tcb with atbase := 0x1000 } }
  let t3 := (t2.setJob 0 { ranks := 1, sseg := 16, vseg := 64 }).setGang 0 placedGang
  let b : Block := { pacer := { tpc := 0x10200, run := if st = .tile then .running else .idle } }
  (t3.setBlock 0 b).setSquad 0 (placedSquad (st = .lane))

end Sys2Proof.Machine
end

