-- ==== Sys2Proof/Machine/Step.lean ====
section
/-! DEFINITION. One step: the turn that comes next, the instruction it executes, its meaning. -/

namespace Sys2Proof.Machine

/-- One step of the machine. -/
def step (s : State) : Host.Outcome State Fault Refusal :=
  match s.nextTurn with
  | (u, t) =>
    match t.prepare u with
    | (some i, v) => endStep (exec i v)
    | (none, v) => endStep (.next v)

/-- s with the word of nbits bits placed where step fetches next. -/
def State.withFetchWord (s : State) (nbits w : Nat) : State :=
  s.placeWord (streamOfBits nbits) (leBytes (streamOfBits nbits).bytes (w % 2 ^ nbits))

end Sys2Proof.Machine
end

