-- ==== Sys2Proof/Safety.lean ====
section
/-! DEFINITION. What counts as a safe state and a safe run. -/

namespace Sys2Proof.Machine

/-- Memory is in its canonical form. -/
def Memory.wf (m : List Host.Cell) : Bool := cellsWf m

/-- The invariant every step keeps: memory in canonical form, and no access without storage pending. -/
def State.Inv (s : State) : Prop := Memory.wf s.mem = true ∧ s.stop = none

/-- A run of n steps that never leaves the storage the spec lays out and never meets an instruction without a meaning. -/
def SafeRun (n : Nat) (s : State) : Prop :=
  match n with
  | 0 => True
  | k + 1 => ∃ t, step s = .next t ∧ SafeRun k t

end Sys2Proof.Machine
end

