-- ==== Sys2Proof/Certificates/Slice0/Obligations.lean ====
section
/-! DEFINITION. The statements for the provers, and the terms they are written in. -/

namespace Sys2Proof.Machine

-- Frames ----------------------------------------------------------------------------------------------------------------

/-- Every byte of memory reads as before. -/
def SameBytes (s t : State) : Prop := ∀ a, t.byte a = s.byte a

/-- Every squad but q is as before. -/
def SameSquadsBut (q : Nat) (s t : State) : Prop := ∀ p, p ≠ q → t.squad p = s.squad p

/-- Nothing of the machine but the acting squad's record differs. -/
def OnlySquad (s t : State) : Prop :=
  t = { s with squads := t.squads } ∧ SameSquadsBut s.actor s t ∧ SameBytes s t

/-- Nothing but the acting squad's record and the model's own counter differs. -/
def OnlySquadTick (s t : State) : Prop :=
  t = { s with squads := t.squads, clock := t.clock } ∧ SameSquadsBut s.actor s t ∧ SameBytes s t

/-- Nothing but the acting block's record differs. -/
def OnlyBlock (s t : State) : Prop :=
  t = { s with blocks := t.blocks } ∧ (∀ b, b ≠ s.actor → t.block b = s.block b) ∧ SameBytes s t

/-- What a squad does after a word: a set marker parks it until no result is outstanding (02 R46). -/
def Squad.runAfter (x : Squad) (m : Bool) : RunState := if m then (if x.out = [] then .running else .parked) else x.run

/-- The acting squad's scalar word wrote v to sd, discarded for s0, and went on to the next word; nothing else changed. -/
def ScalarWrites (s t : State) (m : BitVec 1) (d : BitVec 6) (v : BitVec 64) : Prop :=
  t.sq.readS d = (if d = 0 then 0 else v) ∧ (∀ r, r ≠ d → t.sq.readS r = s.sq.readS r) ∧
  t.sq = { s.sq with sregs := t.sq.sregs, pc := s.sq.pc + 4, latch := none, run := s.sq.runAfter (m = 1) } ∧
  OnlySquad s t

/-- The acting squad's scalar word went on to address pc, writing no register; nothing else changed. -/
def ScalarGoes (s t : State) (m : BitVec 1) (pc : BitVec 64) : Prop :=
  t.sq = { s.sq with pc := pc, latch := none, run := s.sq.runAfter (m = 1) } ∧ OnlySquad s t

/-- Two states hold the same of every reticle but for the lines that its home agent tracks for the host (17 R324). -/
def SameRetsButSnoop (s t : State) : Prop := ∀ r, t.ret r = { s.ret r with snoop := (t.ret r).snoop }

/-- The acting squad's scalar word left one result outstanding, tdst naming its destination for a fault in a handler (16 R307),
and went on; a strong access keeps what its squad has seen of other writes by then, for a release (10 R214). Nothing else changed. -/
def ScalarLeaves (s t : State) (m : BitVec 1) (ord : AccOrd) (scope : Nat) (k : OutKind) (meter : Option Nat)
    (tdst : BitVec 64 := 0x1800) : Prop :=
  t.sq = { s.sq with
    out := s.sq.out ++ [⟨s.clock, s.sq.pc, s.sq.region.isSome, ord, scope, k, 0, meter, s.sq.lpc, k.dst.lane, tdst,
      if ord = .ordinary then [] else s.seenBy (.squad s.actor)⟩]
    pc := s.sq.pc + 4, latch := none,
    run := if m = 1 then .parked else s.sq.run } ∧ OnlySquadTick s t

/-- Of the memory order's record nothing changed but that party p has seen more of its writes (10 R211). -/
def OnlyLearns (s t : State) (p : Party) : Prop :=
  List.Forall₂ (fun e f => f = { e with marks := f.marks } ∧ (∀ m ∈ e.marks, m ∈ f.marks) ∧ ∀ m ∈ f.marks, m ∈ e.marks ∨ m.party = p)
    s.hist t.hist

/-- Party p has seen these writes: no load of those bytes returns an older one to it. -/
def HasSeen (t : State) (p : Party) (ks : List Seen) : Prop :=
  ∀ k ∈ ks, ∀ e ∈ t.hist, e.serial = k.serial → (⟨p, k.lo, k.n⟩ : Mark) ∈ e.marks

/-- Constructors of a shape beside what the spec says of the value they give. -/
abbrev Rows (α β : Type) := List (α × β)

-- Numbers (06 R132 to R147; 07 R158 to R166) ---------------------------------------------------------------------------------------

/-- The formats of Table 6-2. -/
def floatFormats : List FFmt := [fp32, fp16, bf16]

/-- Magnitude that the bits below the sign stand for (06 R133); at the bits of infinity, the power of two at which overflow begins. -/
def FFmt.magnitude (f : FFmt) (b : Nat) : ℚ :=
  if b < 2 ^ f.p then b * 2 ^ (f.emin - f.p) else ((2 ^ f.p + b % 2 ^ f.p : Nat) : ℚ) * 2 ^ (((b / 2 ^ f.p : Nat) : Int) - f.bias - f.p)

/-- b is the magnitude that a, of a number of sign neg, rounds to under a mode (06 R135, R136): b - 1 and b + 1 are the bits beside
it. -/
def FFmt.RoundsTo (f : FFmt) (mode : BitVec 2) (neg : Bool) (a : ℝ) (b : Nat) : Prop :=
  let v : Nat → ℝ := fun k => (f.magnitude k : ℝ)
  b ≤ f.inf ∧
  (if mode = 0 then
    (b = 0 ∨ v (b - 1) + v b < 2 * a ∨ (v (b - 1) + v b = 2 * a ∧ b % 2 = 0)) ∧
    (b = f.inf ∨ 2 * a < v b + v (b + 1) ∨ (2 * a = v b + v (b + 1) ∧ b % 2 = 0))
  else if mode = 1 ∨ mode = (if neg then 3 else 2) then b < f.inf ∧ v b ≤ a ∧ (b + 1 = f.inf ∨ a < v (b + 1))
  else (b = 0 ∨ v (b - 1) < a) ∧ (b = f.inf ∨ a ≤ v b))

/-- a is tiny (06 R137): rounded with an unbounded exponent it stays below the smallest normal value, that is, twice a rounds below
twice that value. -/
def FFmt.Tiny (f : FFmt) (mode : BitVec 2) (neg : Bool) (a : ℝ) : Prop :=
  a < (f.magnitude (2 ^ f.p) : ℝ) ∧ ∀ c, f.RoundsTo mode neg (2 * a) c → c < 2 * 2 ^ f.p

/-- A zero, an infinity and the canonical NaN of a format (06 R133, R134). -/
def FFmt.zeroOf (f : FFmt) (neg : Bool) : BitVec 64 := BitVec.ofNat 64 (if neg then f.signBit else 0)
def FFmt.infOf (f : FFmt) (neg : Bool) : BitVec 64 := BitVec.ofNat 64 ((if neg then f.signBit else 0) + f.inf)
def FFmt.nanOf (f : FFmt) : BitVec 64 := BitVec.ofNat 64 f.nan

/-- r is what rounding x, not zero, gives in the format (06 R135 to R139): the value, and NX, UF and OF where they belong. -/
def FFmt.Rounded (f : FFmt) (mode : BitVec 2) (ftz : Bool) (x : ℝ) (r : LaneRes) : Prop :=
  ∃ neg : Bool, (neg = true ↔ x < 0) ∧
    (ftz = true → f.Tiny mode neg |x| → r = ⟨f.zeroOf neg, flagUF ||| flagNX⟩) ∧
    (¬(ftz = true ∧ f.Tiny mode neg |x|) → ∃ b, f.RoundsTo mode neg |x| b ∧
      r.v = BitVec.ofNat 64 ((if neg then f.signBit else 0) + b) ∧ r.flags.toNat < 8 ∧
      let ovf : Prop := b = f.inf ∨ (f.magnitude f.inf : ℝ) ≤ |x|
      let inexact : Prop := ovf ∨ (f.magnitude b : ℝ) ≠ |x|
      (r.flags.getLsbD 0 = true ↔ inexact) ∧ (r.flags.getLsbD 1 = true ↔ inexact ∧ f.Tiny mode neg |x|) ∧
      (r.flags.getLsbD 2 = true ↔ ovf))

/-- Value of a finite datum. -/
def FVal.rat (x : FVal) : ℚ := match x with | .num s m e => (if s then -1 else 1) * (m : ℚ) * 2 ^ e | _ => 0
/-- A finite datum, and a zero of a sign. -/
def FVal.finite (x : FVal) : Bool := match x with | .num _ _ _ => true | _ => false
def FVal.zeroIs (s : Bool) (x : FVal) : Bool := match x with | .num t 0 _ => s == t | _ => false

/-- 06 Table 6-2, R133, R138: what the bits of a format read as. -/
def NumberReads : Prop :=
  (fp32.nan = 0x7FC00000 ∧ fp32.inf = 0x7F800000 ∧ fp32.maxFinite = 0x7F7FFFFF ∧ fp16.nan = 0x7E00 ∧ fp16.maxFinite = 0x7BFF ∧
    bf16.nan = 0x7FC0 ∧ bf16.maxFinite = 0x7F7F) ∧
  ∀ f ∈ floatFormats, ∀ b, b < 2 * f.signBit → let neg : Bool := decide (f.signBit ≤ b); let m := b % f.signBit
    (m < f.inf → ∃ g e, f.read false b = .num neg g e ∧ (f.read false b).rat = (if neg then -1 else 1) * f.magnitude m) ∧
    (m = f.inf → ∀ ftz, f.read ftz b = .inf neg) ∧
    (f.inf < m → ∀ ftz, f.read ftz b = if m % 2 ^ f.p < 2 ^ (f.p - 1) then .snan else .qnan) ∧
    (m < 2 ^ f.p → ∃ e, f.read true b = .num neg 0 e) ∧ (2 ^ f.p ≤ m → f.read true b = f.read false b)

/-- 06 R134 to R139; 07 R159, R165: sums, rounded once. -/
def NumberSums : Prop :=
  ∀ f ∈ floatFormats, ∀ (mode : BitVec 2) (ftz : Bool) (xs : List FVal), xs ≠ [] → let r := f.sum mode ftz xs
    (xs.all FVal.finite = true → let t := (xs.map FVal.rat).sum
      (t ≠ 0 → f.Rounded mode ftz (t : ℝ) r) ∧
      (t = 0 → r = ⟨f.zeroOf (xs.all (FVal.zeroIs true) || (decide (mode = 2) && !xs.all (FVal.zeroIs false))), 0⟩)) ∧
    (.snan ∈ xs → r = ⟨f.nanOf, flagNV⟩) ∧
    (.snan ∉ xs → .qnan ∈ xs → (.inf true ∉ xs ∨ .inf false ∉ xs) → r = ⟨f.nanOf, 0⟩) ∧
    (.snan ∉ xs → .qnan ∉ xs → .inf true ∈ xs → .inf false ∈ xs → r = ⟨f.nanOf, flagNV⟩) ∧
    (∀ s, .snan ∉ xs → .qnan ∉ xs → .inf s ∈ xs → .inf (!s) ∉ xs → r = ⟨f.infOf s, 0⟩)

/-- 06 R134 to R139; 07 R159: products, and a product and an addend rounded once. -/
def NumberProducts : Prop :=
  ∀ f ∈ floatFormats, ∀ (mode : BitVec 2) (ftz : Bool) (a b c : FVal), let r := f.mul mode ftz a b; let q := f.fma mode ftz a b c
    (∀ s m e t n g, a = .num s m e → b = .num t n g →
      (a.rat * b.rat ≠ 0 → f.Rounded mode ftz ((a.rat * b.rat : ℚ) : ℝ) r) ∧
      (a.rat * b.rat = 0 → r = ⟨f.zeroOf (s ^^ t), 0⟩) ∧
      (∀ u k h, c = .num u k h → let v := a.rat * b.rat + c.rat
        (v ≠ 0 → f.Rounded mode ftz (v : ℝ) q) ∧
        (v = 0 → q = ⟨f.zeroOf (if c.rat = 0 ∧ u = (s ^^ t) then u else decide (mode = 2)), 0⟩)) ∧
      (∀ u, c = .inf u → q = ⟨f.infOf u, 0⟩)) ∧
    (∀ s t, (a = .inf s ∧ (b = .inf t ∨ ∃ n g, b = .num t (n + 1) g)) ∨ (b = .inf s ∧ ∃ n g, a = .num t (n + 1) g) →
      r = ⟨f.infOf (s ^^ t), 0⟩ ∧ (c.finite = true ∨ c = .inf (s ^^ t) → q = ⟨f.infOf (s ^^ t), 0⟩) ∧
      (c = .inf (!(s ^^ t)) → q = ⟨f.nanOf, flagNV⟩)) ∧
    (∀ s t g, (a = .inf s ∧ b = .num t 0 g) ∨ (b = .inf s ∧ a = .num t 0 g) → r = ⟨f.nanOf, flagNV⟩ ∧ q = ⟨f.nanOf, flagNV⟩) ∧
    (a = .snan ∨ b = .snan → r = ⟨f.nanOf, flagNV⟩) ∧ (a = .snan ∨ b = .snan ∨ c = .snan → q = ⟨f.nanOf, flagNV⟩) ∧
    (a ≠ .snan → b ≠ .snan → a = .qnan ∨ b = .qnan → r = ⟨f.nanOf, 0⟩ ∧ (c ≠ .snan → q = ⟨f.nanOf, 0⟩)) ∧
    (r.v ≠ f.nanOf → c = .qnan → q = ⟨f.nanOf, 0⟩)

/-- 06 R139; 07 R160: quotients and roots, rounded once. -/
def NumberQuotients : Prop :=
  ∀ f ∈ floatFormats, ∀ (mode : BitVec 2) (ftz : Bool) (a b : FVal),
    let r := f.div mode ftz a b; let q := f.sqrt mode ftz a; let p := f.rsqrt mode ftz a
    (∀ s m e t n g, a = .num s m e → b = .num t n g →
      (m ≠ 0 → n ≠ 0 → f.Rounded mode ftz ((a.rat / b.rat : ℚ) : ℝ) r) ∧ (m = 0 → n ≠ 0 → r = ⟨f.zeroOf (s ^^ t), 0⟩) ∧
      (m ≠ 0 → n = 0 → r = ⟨f.infOf (s ^^ t), flagDZ⟩) ∧ (m = 0 → n = 0 → r = ⟨f.nanOf, flagNV⟩)) ∧
    (∀ s t, a = .inf s → (b = .inf t → r = ⟨f.nanOf, flagNV⟩) ∧ (∀ n g, b = .num t n g → r = ⟨f.infOf (s ^^ t), 0⟩)) ∧
    (∀ s t m e, a = .num s m e → b = .inf t → r = ⟨f.zeroOf (s ^^ t), 0⟩) ∧
    (a = .snan ∨ b = .snan → r = ⟨f.nanOf, flagNV⟩) ∧ (a ≠ .snan → b ≠ .snan → a = .qnan ∨ b = .qnan → r = ⟨f.nanOf, 0⟩) ∧
    (∀ s m e, a = .num s m e →
      (m ≠ 0 → s = false → f.Rounded mode ftz (Real.sqrt (a.rat : ℝ)) q ∧ f.Rounded mode ftz (1 / Real.sqrt (a.rat : ℝ)) p) ∧
      (m = 0 → q = ⟨f.zeroOf s, 0⟩ ∧ p = ⟨f.infOf s, flagDZ⟩) ∧
      (m ≠ 0 → s = true → q = ⟨f.nanOf, flagNV⟩ ∧ p = ⟨f.nanOf, flagNV⟩)) ∧
    (a = .inf false → q = ⟨f.infOf false, 0⟩ ∧ p = ⟨f.zeroOf false, 0⟩) ∧
    (a = .inf true ∨ a = .snan → q = ⟨f.nanOf, flagNV⟩ ∧ p = ⟨f.nanOf, flagNV⟩) ∧
    (a = .qnan → q = ⟨f.nanOf, 0⟩ ∧ p = ⟨f.nanOf, 0⟩)

/-- x rounded to an integer under a mode (06 Table 6-3). -/
def IntRounds (mode : BitVec 2) (x : ℚ) (n : Int) : Prop :=
  match mode.toNat with
  | 0 => |x - n| ≤ 1 / 2 ∧ (|x - n| = 1 / 2 → n % 2 = 0)
  | 1 => n = if 0 ≤ x then ⌊x⌋ else ⌈x⌉
  | 2 => n = ⌊x⌋
  | _ => n = ⌈x⌉

/-- 06 R139; 07 R161 (Table 7-7): conversions. -/
def NumberConversions : Prop :=
  (∀ f ∈ floatFormats, ∀ (mode : BitVec 2) (ftz : Bool),
    (∀ x : Int, (x ≠ 0 → f.Rounded mode ftz (x : ℝ) (f.ofInt mode ftz x)) ∧ (x = 0 → f.ofInt mode ftz x = ⟨f.zeroOf false, 0⟩)) ∧
    (∀ s m e, (m ≠ 0 → f.Rounded mode ftz ((FVal.num s m e).rat : ℝ) (f.ofVal mode ftz (.num s m e))) ∧
      (m = 0 → f.ofVal mode ftz (.num s m e) = ⟨f.zeroOf s, 0⟩)) ∧
    (∀ s, f.ofVal mode ftz (.inf s) = ⟨f.infOf s, 0⟩) ∧ f.ofVal mode ftz .qnan = ⟨f.nanOf, 0⟩ ∧
    f.ofVal mode ftz .snan = ⟨f.nanOf, flagNV⟩) ∧
  (∀ (e : Nat) (mode : BitVec 2), 1 ≤ e → e ≤ 6 →
    (∀ s m g, ∃ n, IntRounds mode (FVal.num s m g).rat n ∧ let r := floatToInt e mode (.num s m g)
      (intMin e ≤ n → n ≤ intMax e → r = ⟨intWrite e n, if (n : ℚ) = (FVal.num s m g).rat then 0 else flagNX⟩) ∧
      (n < intMin e → r = ⟨intWrite e (intMin e), flagNV⟩) ∧ (intMax e < n → r = ⟨intWrite e (intMax e), flagNV⟩)) ∧
    (∀ s, floatToInt e mode (.inf s) = ⟨intWrite e (if s then intMin e else intMax e), flagNV⟩) ∧
    floatToInt e mode .qnan = ⟨0, flagNV⟩ ∧ floatToInt e mode .snan = ⟨0, flagNV⟩)

/-- a lies below b, and a is b, as the data they stand for, zeros of either sign one. -/
def FVal.Below (a b : FVal) : Prop :=
  match a, b with
  | .num _ _ _, .num _ _ _ => a.rat < b.rat
  | .inf s, .inf t => s = true ∧ t = false
  | .inf s, .num _ _ _ => s = true
  | .num _ _ _, .inf t => t = false
  | _, _ => False
def FVal.Same (a b : FVal) : Prop :=
  match a, b with
  | .num _ _ _, .num _ _ _ => a.rat = b.rat
  | .inf s, .inf t => s = t
  | _, _ => False

/-- 07 R158 (Table 7-3): the conditions of VFCMP. -/
def NumberCompares : Prop :=
  ∀ f ∈ floatFormats, ∀ (cc : Nat) (ftz : Bool) (a b : Nat), cc < 6 → a < 2 * f.signBit → b < 2 * f.signBit →
    let x := f.read ftz a; let y := f.read ftz b; let r := f.cmp cc ftz a b; let nan : Bool := x.isNan || y.isNan
    (r.v = 0 ∨ r.v = 1) ∧
    (r.v = 1 ↔ match cc with
      | 0 => x.Same y
      | 1 => ¬ x.Same y
      | 2 => x.Below y
      | 3 => x.Below y ∨ x.Same y
      | 4 => nan = true
      | _ => nan = false) ∧
    r.flags = if x = .snan ∨ y = .snan ∨ (nan = true ∧ (cc = 2 ∨ cc = 3)) then flagNV else 0

/-- 06 R146, R147: quantising a block and an element of one. -/
def NumberBlocks : Prop :=
  (∀ (xs : List FVal) (n : Nat), 2 ≤ n → n ≤ 8 → let q := bfpq xs n; let top : Int := 2 ^ (n - 1) - 1
    (xs.any (fun x => !x.finite) = true → q.1 = 255 ∧ q.2.1 = xs.map (fun _ => 0) ∧
      q.2.2 = if xs.any (fun x => !x.finite && decide (x ≠ .qnan)) then flagNV else 0) ∧
    (xs.all FVal.finite = true → (∀ x ∈ xs, x.rat = 0) → q.1 = 0 ∧ q.2.1 = xs.map (fun _ => 0) ∧ q.2.2 = 0) ∧
    (xs.all FVal.finite = true → (∃ x ∈ xs, x.rat ≠ 0) → ∃ E : Int, 1 ≤ E ∧ (∀ x ∈ xs, |x.rat| < (2 : ℚ) ^ (E - 126)) ∧
      (E = 1 ∨ ∃ x ∈ xs, (2 : ℚ) ^ (E - 127) ≤ |x.rat|) ∧ q.2.1.length = xs.length ∧
      (∀ i, i < xs.length → let t := (listAt xs i .qnan).rat * (2 : ℚ) ^ ((n : Int) - 2 - (E - 127))
        ∃ k, IntRounds 0 t k ∧ listAt q.2.1 i 0 = min (max k (-top)) top) ∧
      q.1 = (if ∀ m ∈ q.2.1, m = 0 then 0 else E.toNat) ∧
      q.2.2 = if ∃ i, i < xs.length ∧
        (listAt q.2.1 i 0 : ℚ) ≠ (listAt xs i .qnan).rat * (2 : ℚ) ^ ((n : Int) - 2 - (E - 127)) then flagNX else 0)) ∧
  (∀ f ∈ floatFormats, ∀ (mode : BitVec 2) (ftz : Bool) (E n : Nat) (m : Int), 2 ≤ n → n ≤ 8 → let r := f.bfpd mode ftz E m n
    (E = 0 → r = ⟨f.zeroOf false, 0⟩) ∧ (E = 255 → r = ⟨f.nanOf, 0⟩) ∧
    (1 ≤ E → E ≤ 254 → m ≠ 0 → f.Rounded mode ftz (((m : ℚ) * 2 ^ ((E : Int) - 127 - ((n : Int) - 2)) : ℚ) : ℝ) r) ∧
    (1 ≤ E → E ≤ 254 → m = 0 → r = ⟨f.zeroOf false, 0⟩))

/-- 07 R159: the lesser and the greater of two data; class bits (Table 7-5). -/
def NumberExtremes : Prop :=
  (∀ f ∈ floatFormats, ∀ (ftz : Bool) (a b : Nat), a < 2 * f.signBit → b < 2 * f.signBit →
    let x := f.read ftz a; let y := f.read ftz b
    let flush := fun (c : Nat) => if ftz = true ∧ c % f.signBit < 2 ^ f.p then c / f.signBit * f.signBit else c
    let out := fun (c : Nat) => (⟨BitVec.ofNat 64 (flush c), 0⟩ : LaneRes)
    ∀ max : Bool, let r := f.minMax max ftz a b
      (x = .snan ∨ y = .snan → r = ⟨f.nanOf, flagNV⟩) ∧
      (x = .qnan → y = .qnan → r = ⟨f.nanOf, 0⟩) ∧
      (x = .qnan → y.isNan = false → r = out b) ∧ (y = .qnan → x.isNan = false → r = out a) ∧
      (x.isNan = false → y.isNan = false →
        (x.Below y → r = out (if max then b else a)) ∧ (y.Below x → r = out (if max then a else b)) ∧
        (x.Same y → flush a = flush b → r = out a) ∧
        (x.Same y → flush a ≠ flush b → r = ⟨f.zeroOf (!max), 0⟩))) ∧
  (∀ f ∈ floatFormats, ∀ b, b < 2 * f.signBit → let neg : Bool := decide (f.signBit ≤ b); let m := b % f.signBit
    (f.classBits b).toNat = 2 ^ (
      if m = f.inf then (if neg then 0 else 7)
      else if f.inf < m then (if m % 2 ^ f.p < 2 ^ (f.p - 1) then 8 else 9)
      else if m = 0 then (if neg then 3 else 4)
      else if m < 2 ^ f.p then (if neg then 2 else 5)
      else if neg then 1 else 6))

/-- 07 R154, R155: shifts, by the bits of their result in a format of w bits, a narrow one held extended; leading zeros and one bits. -/
def NumberBits : Prop :=
  (∀ e ∈ [1, 2, 3, 4, 5, 6, 10], ∀ (kind : Nat) (a : BitVec 64) (n : Nat), kind < 3 →
    let w := efBits e; let r := laneShift kind e a n
    r.flags = 0 ∧
    (∀ i, i < w → r.v.getLsbD i = if kind = 0 then decide (n ≤ i) && a.getLsbD (i - n)
      else if kind = 1 then decide (i + n < w) && a.getLsbD (i + n) else a.getLsbD (min (i + n) (w - 1))) ∧
    (∀ i, w ≤ i → i < 64 → r.v.getLsbD i = (decide (i < 32) && efSigned e && r.v.getLsbD (w - 1)))) ∧
  (∀ w v : Nat,
    (let n := clzNat w v; n ≤ w ∧ (∀ i, w - n ≤ i → i < w → v.testBit i = false) ∧ (n < w → v.testBit (w - 1 - n) = true)) ∧
    popcNat w v = ((List.range w).filter (fun i => v.testBit i)).length)

/-- 07 R160: powers of two and logarithms. An integer power and the logarithm of a power of two are the exact result rounded once. Any
other result is the rounding of a number between the two integer powers, or integers, beside the exact result (for a power, the next
but one above), and is inexact; which number, the samples show, worked out by hand from R160 to its last bit. An argument of 2^12 or
more in magnitude overflows, or is tiny, in every format. -/
def NumberPowers : Prop :=
  (∀ f ∈ floatFormats, ∀ (mode : BitVec 2) (ftz : Bool), let exp := f.exp2 mode ftz; let log := f.log2 mode ftz
    exp .snan = ⟨f.nanOf, flagNV⟩ ∧ exp .qnan = ⟨f.nanOf, 0⟩ ∧ exp (.inf false) = ⟨f.infOf false, 0⟩ ∧
    exp (.inf true) = ⟨f.zeroOf false, 0⟩ ∧
    log .snan = ⟨f.nanOf, flagNV⟩ ∧ log .qnan = ⟨f.nanOf, 0⟩ ∧ log (.inf false) = ⟨f.infOf false, 0⟩ ∧
    log (.inf true) = ⟨f.nanOf, flagNV⟩ ∧ (∀ s e, log (.num s 0 e) = ⟨f.infOf true, flagDZ⟩) ∧
    (∀ m e, m ≠ 0 → log (.num true m e) = ⟨f.nanOf, flagNV⟩) ∧
    (∀ s m e, let x := (FVal.num s m e).rat; let r := exp (.num s m e)
      (|x| < 4096 → ∀ n : Int, x = n → f.Rounded mode ftz ((2 : ℝ) ^ n) r) ∧
      (|x| < 4096 → (∀ n : Int, x ≠ n) → r.flags.getLsbD 0 = true ∧
        ∃ y : ℝ, (2 : ℝ) ^ ⌊x⌋ < y ∧ y < (2 : ℝ) ^ (⌊x⌋ + 2) ∧ f.Rounded mode ftz y r) ∧
      (4096 ≤ |x| → f.Rounded mode ftz ((2 : ℝ) ^ (if x < 0 then (-4096 : Int) else 4096)) r)) ∧
    (∀ m e, 0 < m → m < 2 ^ 64 → let x := (FVal.num false m e).rat; let r := log (.num false m e)
      (∀ n : Int, x = (2 : ℚ) ^ n → (n ≠ 0 → f.Rounded mode ftz (n : ℝ) r) ∧ (n = 0 → r = ⟨f.zeroOf false, 0⟩)) ∧
      ((∀ n : Int, x ≠ (2 : ℚ) ^ n) → r.flags.getLsbD 0 = true ∧
        ∃ (n : Int) (y : ℝ), (2 : ℚ) ^ n < x ∧ x < (2 : ℚ) ^ (n + 1) ∧ n < y ∧ y < n + 1 ∧ f.Rounded mode ftz y r))) ∧
  (∀ e ∈ [(fp32, 0x3F000000, 0x3FB504F3), (fp32, 0xBF400000, 0x3F1837F0), (fp32, 0x3DCCCCCD, 0x3F892FDF), (fp32, 0x42C80001, 0x7180002C),
      (fp16, 0x3800, 0x3DA8), (fp16, 0xC123, 0x3165), (bf16, 0x3F00, 0x3FB5), (bf16, 0xC0B1, 0x3CB1)],
    (e.1.exp2 0 false (e.1.read false e.2.1)).v = BitVec.ofNat 64 e.2.2) ∧
  (∀ e ∈ [(fp32, 0x40400000, 0x3FCAE00D), (fp32, 0x3DCCCCCD, 0xC0549A78), (fp32, 0x3F800001, 0x3438AA3A), (fp32, 0x7F7FFFFF, 0x43000000),
      (fp16, 0x4200, 0x3E57), (fp16, 0x3555, 0xBE57), (bf16, 0x4040, 0x3FCB), (bf16, 0x3EAB, 0xBFCB)],
    (e.1.log2 0 false (e.1.read false e.2.1)).v = BitVec.ofNat 64 e.2.2)

/-- 07 R165, R166: what VRED and VSCAN combine, ls being the active lanes in ascending order. That the first group of a grouped sum
takes in no 0 for the running value that is not there is log 44 (DESIGN CHOICE). -/
def NumberReductions : Prop :=
  ∀ (x : Squad) (f : LaneForm) (e : Nat) (scan : Bool) (ls : List Nat), ls.Pairwise (· < ·) → (∀ l ∈ ls, l < 32) →
    let outs := reduceOuts x f e scan ls; let op := f.mod.arg.toNat % 8
    let upTo := fun (l : Nat) => ls.filter (fun k => k ≤ l)
    (1 ≤ e → e ≤ 6 → outs.map (·.1) = ls ∧ ∀ o ∈ outs, let v := x.intA f e
      (op = 0 → o.2 = x.fit f e ((upTo o.1).map v).sum) ∧
      (op = 1 → ∃ k ∈ upTo o.1, o.2 = ⟨intWrite e (v k), 0⟩ ∧ ∀ j ∈ upTo o.1, v k ≤ v j) ∧
      (op = 2 → ∃ k ∈ upTo o.1, o.2 = ⟨intWrite e (v k), 0⟩ ∧ ∀ j ∈ upTo o.1, v j ≤ v k) ∧
      (3 ≤ op → op ≤ 5 → o.2.flags = 0 ∧ ∃ w : Nat, w < 2 ^ efBits e ∧ o.2.v = intWrite e w ∧ ∀ i, i < efBits e →
        let on := fun (k : Nat) => (x.opnd f.va k false).getLsbD i
        w.testBit i = (if op = 3 then (upTo o.1).all on else if op = 4 then (upTo o.1).any on
          else decide (((upTo o.1).filter on).length % 2 = 1)))) ∧
    (7 ≤ e → e ≤ 9 → let g := ffmt e; let val := x.fval f.va e
      let next := fun (t : LaneRes) (l : Nat) => if op = 0 then g.sum (x.mode f) x.ftz [g.read false t.v.toNat, val l]
        else g.minMax (op = 2) x.ftz t.v.toNat (x.fbits f.va e l)
      (op ≤ 2 → (op = 0 → fmtACC x.fmt = false) → outs.map (·.1) = ls ∧
        (∀ i, i + 1 < ls.length → (listAt outs (i + 1) (0, {})).2 = next (listAt outs i (0, {})).2 (listAt ls (i + 1) 0)) ∧
        (∀ a rest, ls = a :: rest → (listAt outs 0 (0, {})).2 = match val a with
          | .snan => ⟨g.nanOf, flagNV⟩
          | .qnan => ⟨g.nanOf, 0⟩
          | _ => ⟨BitVec.ofNat 64 (g.flushBits x.ftz (x.fbits f.va e a)), 0⟩)) ∧
      (op = 0 → fmtACC x.fmt = true →
        outs.map (·.1) = ls.filter (fun l => scan || !(ls.any (fun k => decide (l < k) && decide (k / 4 = l / 4)))) ∧
        ∀ o ∈ outs, let before := outs.filter (fun p => p.1 / 4 < o.1 / 4)
          o.2 = g.sum (x.mode f) x.ftz ((match before.reverse with | [] => [] | p :: _ => [g.read false p.2.v.toNat]) ++
            ((upTo o.1).filter (fun k => k / 4 = o.1 / 4)).map val)))

-- Scalar integer words (05 R119 to R122) ---------------------------------------------------------------------------------

/-- What a three-register integer operation gives for the values a and b. -/
def intRows : Rows (BitVec 1 → BitVec 6 → BitVec 6 → BitVec 6 → Instr) (BitVec 64 → BitVec 64 → BitVec 64 → Prop) := [
  (.add, fun a b v => v.toNat = (a.toNat + b.toNat) % 2 ^ 64),
  (.sub, fun a b v => v.toNat = (2 ^ 64 - b.toNat + a.toNat) % 2 ^ 64),
  (.mul, fun a b v => v.toNat = a.toNat * b.toNat % 2 ^ 64),
  (.mulh, fun a b v => v.toInt = a.toInt * b.toInt / 2 ^ 64),
  (.mulhu, fun a b v => v.toNat = a.toNat * b.toNat / 2 ^ 64),
  (.and, fun a b v => ∀ i, v.getLsbD i = (a.getLsbD i && b.getLsbD i)),
  (.or, fun a b v => ∀ i, v.getLsbD i = (a.getLsbD i || b.getLsbD i)),
  (.xor, fun a b v => ∀ i, v.getLsbD i = (a.getLsbD i ^^ b.getLsbD i)),
  (.shl, fun a b v => v.toNat = a.toNat * 2 ^ (b.toNat % 64) % 2 ^ 64),
  (.shr, fun a b v => v.toNat = a.toNat / 2 ^ (b.toNat % 64)),
  (.sar, fun a b v => v.toInt = a.toInt / 2 ^ (b.toNat % 64)),
  (.min, fun a b v => v.toInt = min a.toInt b.toInt),
  (.max, fun a b v => v.toInt = max a.toInt b.toInt),
  (.minu, fun a b v => v.toNat = min a.toNat b.toNat),
  (.maxu, fun a b v => v.toNat = max a.toNat b.toNat),
  (.slt, fun a b v => v = if a.toInt < b.toInt then 1 else 0),
  (.sltu, fun a b v => v = if a.toNat < b.toNat then 1 else 0),
  (.seq, fun a b v => v = if a = b then 1 else 0),
  (.sne, fun a b v => v = if a = b then 0 else 1),
  (.lea0, fun a b v => v.toNat = (a.toNat + b.toNat) % 2 ^ 64),
  (.lea1, fun a b v => v.toNat = (a.toNat + 2 * b.toNat) % 2 ^ 64),
  (.lea2, fun a b v => v.toNat = (a.toNat + 4 * b.toNat) % 2 ^ 64),
  (.lea3, fun a b v => v.toNat = (a.toNat + 8 * b.toNat) % 2 ^ 64)]

/-- What a register-immediate operation gives for the value a and the immediate extended with its sign. -/
def immRows : Rows (BitVec 1 → BitVec 6 → BitVec 6 → BitVec 13 → Instr) (BitVec 64 → BitVec 64 → BitVec 64 → Prop) := [
  (.addi, fun a i v => v.toNat = (a.toNat + i.toNat) % 2 ^ 64),
  (.andi, fun a i v => ∀ k, v.getLsbD k = (a.getLsbD k && i.getLsbD k)),
  (.ori, fun a i v => ∀ k, v.getLsbD k = (a.getLsbD k || i.getLsbD k)),
  (.xori, fun a i v => ∀ k, v.getLsbD k = (a.getLsbD k ^^ i.getLsbD k)),
  (.slti, fun a i v => v = if a.toInt < i.toInt then 1 else 0),
  (.sltui, fun a i v => v = if a.toNat < i.toNat then 1 else 0),
  (.muli, fun a i v => v.toNat = a.toNat * i.toNat % 2 ^ 64)]

/-- What a shift by an immediate gives. -/
def shiftRows : Rows (BitVec 1 → BitVec 6 → BitVec 6 → BitVec 6 → Instr) (BitVec 64 → Nat → BitVec 64 → Prop) := [
  (.shli, fun a n v => v.toNat = a.toNat * 2 ^ n % 2 ^ 64),
  (.shri, fun a n v => v.toNat = a.toNat / 2 ^ n),
  (.sari, fun a n v => v.toInt = a.toInt / 2 ^ n)]

/-- What a division gives: rounded toward zero; by zero all ones, and the dividend as remainder. -/
def divRows : Rows (BitVec 1 → BitVec 6 → BitVec 6 → BitVec 6 → Instr) (BitVec 64 → BitVec 64 → BitVec 64 → Prop) := [
  (.div, fun a b v => v = if b = 0 then -1 else BitVec.ofInt 64 (a.toInt.tdiv b.toInt)),
  (.divu, fun a b v => v.toNat = if b = 0 then 2 ^ 64 - 1 else a.toNat / b.toNat),
  (.rem, fun a b v => v = if b = 0 then a else BitVec.ofInt 64 (a.toInt.tmod b.toInt)),
  (.remu, fun a b v => v.toNat = if b = 0 then a.toNat else a.toNat % b.toNat)]

-- Control flow (05 R123 to R125) -----------------------------------------------------------------------------------------------

/-- When a branch on a scalar register is taken. -/
def branchRows : Rows (BitVec 1 → BitVec 6 → BitVec 15 → Instr) (BitVec 64 → Prop) := [
  (.bEqz, fun v => v = 0), (.bNez, fun v => v ≠ 0), (.bLtz, fun v => v.toInt < 0), (.bGez, fun v => 0 ≤ v.toInt),
  (.bGtz, fun v => 0 < v.toInt), (.bLez, fun v => v.toInt ≤ 0)]

/-- When a branch on a mask register is taken. -/
def maskBranchRows : Rows (BitVec 1 → BitVec 4 → BitVec 15 → Instr) (BitVec 32 → Prop) := [
  (.bMany, fun v => ∃ l, l < 32 ∧ v.getLsbD l = true), (.bMnone, fun v => ∀ l, l < 32 → v.getLsbD l = false),
  (.bMall, fun v => ∀ l, l < 32 → v.getLsbD l = true)]

-- Masks, FMT and control registers (05 R127 to R130) -------------------------------------------------------------------------

/-- The channel of its job that the acting squad has selected, and CHFREE of a channel (13 Table 13-4): ORDM, QFREE, RSV and SFREE,
or zero when the plan does not declare the channel. -/
def State.chosenChannel (s : State) : Channel := tabGet (s.field (s.fieldOf s.actor)).chans s.sq.chsel.toNat {}
def Channel.freeWord (c : Channel) : BitVec 64 :=
  if c.posts = 0 then 0
  else BitVec.ofNat 64 ((c.rsv - c.used) + 2 ^ 16 * c.rsv + 2 ^ 32 * (c.posts - c.queue.length) + (if c.ordered then 2 ^ 41 else 0))

/-- The control registers that hold a whole value of the machine (05 Table 5-8): number and value. Row 0x008, DEVICE, gives the
index the model has for the device: the number that service software gave it is the model's choice (log 40). -/
def controlRows : Rows (BitVec 12) (State → BitVec 64) := [
  (0x000, fun s => (s.dev (s.devOf s.actor)).phase), (0x001, fun s => (s.job (s.jobOf s.actor)).jstep),
  (0x002, fun s => BitVec.ofNat 64 (sqidOf s.actor)), (0x003, fun s => BitVec.ofNat 64 (blkidOfSquad s.actor)),
  (0x004, fun s => BitVec.ofNat 64 (s.gangOf s.actor).gangid), (0x005, fun s => BitVec.ofNat 64 (s.coreNo (blockOfSquad s.actor))),
  (0x006, fun s => BitVec.ofNat 64 (s.coreNo (blockOfSquad s.actor) / 4)),
  (0x007, fun s => BitVec.ofNat 64 (s.retOf s.actor % 48)), (0x008, fun s => BitVec.ofNat 64 (s.retOf s.actor / 48)),
  (0x009, fun s => BitVec.ofNat 64 (s.gangOf s.actor).job), (0x00A, fun s => (s.gangOf s.actor).desc.asid.setWidth 64),
  (0x010, fun s => BitVec.ofNat 64 s.sq.swb), (0x011, fun s => BitVec.ofNat 64 s.sq.vwb), (0x012, fun s => BitVec.ofNat 64 s.sq.vws),
  (0x013, fun s => BitVec.ofNat 64 ((s.job (s.jobOf s.actor)).vseg * 2 ^ 32 + (s.job (s.jobOf s.actor)).sseg)),
  (0x014, fun s => s.sq.lcnt.setWidth 64), (0x015, fun s => s.sq.fflags.setWidth 64), (0x020, fun s => s.sq.chsel.setWidth 64),
  (0x021, fun s => (s.chosenChannel).freeWord), (0x030, fun s => s.sq.trap.tcause), (0x031, fun s => s.sq.trap.tpc), (0x032, fun s => s.sq.trap.tlpc),
  (0x033, fun s => s.sq.trap.tlm.setWidth 64), (0x034, fun s => s.sq.trap.tval), (0x035, fun s => s.sq.trap.tdst),
  (0x036, fun s => s.sq.trap.thandler), (0x038, fun s => s.sq.trap.tsave0), (0x039, fun s => s.sq.trap.tsave1),
  (0x03A, fun s => s.sq.trap.tsave2), (0x03B, fun s => s.sq.trap.tsave3)]

/-- The numbers of Table 5-8 (05 R128): every one can be read. -/
def controlNumbers : List (BitVec 12) := controlRows.map (·.1) ++ [0x016]

/-- The control registers that SETX writes whole or in part (05 Table 5-8): number and record after. -/
def setxRows : Rows (BitVec 12) (Squad → BitVec 64 → Squad) := [
  (0x015, fun x v => { x with fflags := v.setWidth 6 }), (0x020, fun x v => { x with chsel := v.setWidth 8 }),
  (0x031, fun x v => { x with trap := { x.trap with tpc := v } }), (0x032, fun x v => { x with trap := { x.trap with tlpc := v } }),
  (0x033, fun x v => { x with trap := { x.trap with tlm := v.setWidth 32 } }),
  (0x034, fun x v => { x with trap := { x.trap with tval := v } }),
  (0x030, fun x v => { x with trap := { x.trap with tcause := (x.trap.tcause &&& ~~~0xE0FF#64) ||| (v &&& 0xE0FF#64) } }),
  (0x035, fun x v => { x with trap := { x.trap with tdst := (x.trap.tdst &&& ~~~0x3FFF#64) ||| (v &&& 0x3FFF#64) } }),
  (0x036, fun x v => { x with trap := { x.trap with thandler := (x.trap.thandler &&& 3#64) ||| (v &&& ~~~3#64) } }),
  (0x038, fun x v => { x with trap := { x.trap with tsave0 := v } }), (0x039, fun x v => { x with trap := { x.trap with tsave1 := v } }),
  (0x03A, fun x v => { x with trap := { x.trap with tsave2 := v } }), (0x03B, fun x v => { x with trap := { x.trap with tsave3 := v } })]

-- Calls and returns (05 R116 to R118) -------------------------------------------------------------------------------------------

/-- What the slide of a call by j scalar and k vector segments leaves: shared registers keep their values under their new names, new
ones are zero, the segments that left stand in the squad's spill area, uncorrectable data of theirs too, which is the model's choice
(log 37), and no other byte of memory differs (05 R111 to R116). -/
def SlidUp (s t : State) (k j : Nat) : Prop :=
  let x := s.sq; let y := t.sq; let q := s.actor
  y.swb = x.swb + j ∧ y.vwb = x.vwb + k ∧ y.rlo = max x.rlo (x.swb + j - 4) ∧
  (∀ r : BitVec 6, r.toNat < 15 → y.readS r = x.readS r) ∧
  (∀ r, r < 48 → y.readS (BitVec.ofNat 6 (16 + r)) =
    if r + 16 * j < 48 then x.readS (BitVec.ofNat 6 (16 + (r + 16 * j))) else 0) ∧
  (∀ n i, x.rlo ≤ n → n < y.rlo → i < 16 →
    t.read (s.scalarSpill q n + 8 * i) 8 = (cellGet x.sregs (16 + 16 * (n % 7) + i)).toNat) ∧
  (x.vws % 64 = 0 → 64 * k ≤ x.vws → 0 < x.vws →
    (∀ r l, r < x.vws → l < 32 → y.readV r l = if r + 64 * k < x.vws then x.readV (r + 64 * k) l else 0) ∧
    (∀ n r l, n < k → r < 64 → l < 32 →
      t.read (s.vectorSpill q (x.vwb + n) + (128 * r + 4 * l)) 4 = (x.readV (64 * n + r) l).toNat)) ∧
  (∀ a, (∀ n, x.rlo ≤ n → n < y.rlo → a < s.scalarSpill q n ∨ s.scalarSpill q n + 128 ≤ a) →
    (∀ n, n < k → a < s.vectorSpill q (x.vwb + n) ∨ s.vectorSpill q (x.vwb + n) + 8192 ≤ a) → t.byte a = s.byte a) ∧
  y = { x with sregs := y.sregs, vregs := y.vregs, swb := y.swb, vwb := y.vwb, rlo := y.rlo, pc := y.pc, run := y.run,
               region := none, latch := none } ∧
  t = { s with squads := t.squads, mem := t.mem, rets := t.rets, bad := t.bad } ∧ SameSquadsBut q s t ∧ SameRetsButSnoop s t ∧
  (∀ u ∈ s.bad, u ∈ t.bad) ∧ ∀ u ∈ t.bad, u ∈ s.bad ∨
    ∃ n, n < k ∧ 32 * u < s.vectorSpill q (x.vwb + n) + 8192 ∧ s.vectorSpill q (x.vwb + n) < 32 * u + 32

-- Traps (16 R300 to R310) -------------------------------------------------------------------------------------------------------

/-- The acting squad can enter its handler now: it has one, is not in it, nothing is outstanding, the stack has room. -/
def CanTrap (s : State) : Prop :=
  s.sq.out = [] ∧ s.sq.handler = none ∧ s.sq.trap.thandler ≠ 0 ∧ s.entriesInUse (blockOfSquad s.actor) ≠ 32 ∧ s.sq.run = .running

/-- Words a LANE still has to enqueue, as LCNT holds it. -/
def Squad.lanesLeft (x : Squad) : BitVec 13 := match x.lane with | some r => BitVec.ofNat 13 r.left | none => 0

/-- The acting squad took a trap (16 R305): the trap registers, m0 and FMT hold what entry writes, the interrupted m0, FMT
and lane PC are saved, no region is open, and the squad runs at THANDLER. Nothing else changed. -/
def TookTrap (s t : State) (cause : BitVec 8) (rx lw : Bool) (tlm : BitVec 32) (tval tdst : BitVec 64) (lcnt : BitVec 13)
    (wm : BitVec 32) : Prop :=
  t.sq.trap = { s.sq.trap with
    tcause := BitVec.ofNat 64 (cause.toNat + (if rx then 2 ^ 13 else 0) + (if lw then 2 ^ 14 else 0)), tpc := s.sq.pc,
    tlpc := s.sq.lpc, tlm := tlm, tval := tval, tdst := tdst } ∧
  t.sq.pc = s.sq.trap.thandler ∧ t.sq.readM 0 = wm ∧ (∀ n, n ≠ 0 → t.sq.readM n = s.sq.readM n) ∧
  t.sq.fmt = s.sq.fmt &&& 0x3E0F#14 ∧ t.sq.lcnt = lcnt ∧ t.sq.region = none ∧ t.sq.run = .running ∧
  (∃ h, t.sq.handler = some h ∧ h.m0 = s.sq.readM 0 ∧ h.fmt = s.sq.fmt ∧ h.lpc = s.sq.lpc ∧ h.lcnt = lcnt ∧ h.wm = wm) ∧
  t.sq = { s.sq with trap := t.sq.trap, pc := t.sq.pc, masks := t.sq.masks, fmt := t.sq.fmt, lcnt := lcnt, region := none,
                     run := .running, handler := t.sq.handler, seg := [], lane := none, replay := none, latch := none } ∧
  OnlySquad s t

/-- The acting squad's trap ended its gang (16 R305, R307): the squad is halted, its trap registers and its handler's marker stay as they
were, and the gang's report says what happened. -/
def EndsGang (s t : State) (cause : BitVec 8) (tval : BitVec 64) (rest : List (BitVec 64)) : Prop :=
  t.sq.run = .halted ∧ t.sq.trap = s.sq.trap ∧ t.sq.handler = s.sq.handler ∧ t.sq.pc = s.sq.pc ∧ SameSquadsBut s.actor s t ∧
  (t.gangOf s.actor).term = some ⟨cause, blkidOfSquad s.actor, sqidOf s.actor, tval, rest⟩

/-- A synchronous trap of the acting squad's word that no handler can take (16 R305, R307): with THANDLER 0 the gang ends with its cause
and TVAL; within a handler, or with the stack full, it is a double fault, reported with the second cause. -/
def TrapUntaken (i : Instr) (s : State) (cause : BitVec 8) (tval tdst : BitVec 64) : Prop :=
  (s.sq.handler = none → s.sq.trap.thandler = 0 →
    ∃ t, exec i s = .next t ∧ EndsGang s t cause tval [s.sq.pc, s.sq.lpc, 0, tdst]) ∧
  (s.sq.handler ≠ none ∨ (s.sq.trap.thandler ≠ 0 ∧ s.entriesInUse (blockOfSquad s.actor) = 32) →
    ∃ t, exec i s = .next t ∧ EndsGang s t 0x13 (cause.setWidth 64) [s.sq.pc, s.sq.lpc, 0, tdst])

/-- The acting squad left its handler, whose marker was k: m0 and FMT are those that entry saved, the squad goes on at pc with its
lane PC at lpc and the LANE and the replay given; a BARS that the trap interrupted has arrived still, when the squad goes back
to it. -/
def Returned (s t : State) (k : Marker) (lpc pc : BitVec 64) (lane : Option LaneRun) (replay : Option Replay) : Prop :=
  t.sq.readM 0 = k.m0 ∧ (∀ n, n ≠ 0 → t.sq.readM n = s.sq.readM n) ∧
  t.sq = { s.sq with handler := none, masks := t.sq.masks, fmt := k.fmt, lcnt := 0, lpc := lpc, seg := [], pc := pc, run := .running,
                     lane := lane, latch := none, replay := replay,
                     bars := if s.sq.bars = some s.sq.trap.tpc then s.sq.bars else none } ∧
  SameSquadsBut s.actor s t ∧ SameBytes s t

/-- n words of a LANE, if any. -/
def laneOf (n : Nat) (marker : Bool) : Option LaneRun := if n = 0 then none else some ⟨n, marker⟩

-- Memory words (09 R198 to R206; 10; 15) ----------------------------------------------------------------------------------------

/-- The acting squad's scalar word left one result outstanding, the checks of its address having left the machine at s1. -/
def MemLeaves (s s1 t : State) (m : BitVec 1) (ord : AccOrd) (scope : Nat) (k : OutKind) (meter : Option Nat)
    (tdst : BitVec 64 := 0x1800) : Prop :=
  ScalarLeaves s1 t m ord scope k meter tdst ∧ t.sq = { s.sq with out := t.sq.out, pc := s.sq.pc + 4, latch := none, run := t.sq.run } ∧
  s1.squads = s.squads ∧ s1.clock = s.clock

/-- The atomics of the scalar stream with a width bit, and the number each has below. -/
def atomsRows : Rows (BitVec 1 → BitVec 6 → BitVec 6 → BitVec 6 → BitVec 1 → Instr) Nat := [
  (.atomsAdd, 0), (.atomsMin, 1), (.atomsMax, 2), (.atomsAnd, 3), (.atomsOr, 4), (.atomsXor, 5), (.atomsExch, 6), (.atomsCas, 7)]

/-- The FP32 atomics of the scalar stream. -/
def atomsFpRows : Rows (BitVec 1 → BitVec 6 → BitVec 6 → BitVec 6 → Instr) Nat := [(.atomsFadd, 8), (.atomsFamax, 9)]

/-- Address of the next record of a reticle's hot-page ring (15 R299, Table 15-3). -/
def State.hotSlot (s : State) (w : Walker) : Nat :=
  let c := (s.ret (48 * w.dev + w.ret)).tcb
  physAddr w.dev ((slice c.hotbuf 4 48).toNat * 16 + 16 * ((slice c.hotctl 0 20).toNat % 2 ^ (slice c.hotctl 50 6).toNat))

/-- A TLB of the walker's core, or of its column, holds a leaf for the address that serves this kind of access (15 R290, R292). -/
def TlbHit (s : State) (w : Walker) (kind : Kind) (va : BitVec 64) : Prop :=
  ∃ c, w.core = some c ∧ ∃ e, (e ∈ (s.core c).tlb ∨ e ∈ s.column (c / 4)) ∧ e.hits w.asid (va.toNat / 4096 % 2 ^ 45) kind = true

-- Results (02 R45, R46) -----------------------------------------------------------------------------------------------------------

/-- y is x with v written at destination d: a scalar register's cell, a vector register's lane or a pair's. -/
def PutsValue (x y : Squad) (d : Dst) (v : BitVec 64) : Prop :=
  (∀ c, cellGet y.sregs c = if d = .sreg c then v else cellGet x.sregs c) ∧
  (∀ c, cellGet y.vregs c = match d with
    | .vreg k => if c = k then v.setWidth 32 else cellGet x.vregs c
    | .vpair lo hi => if c = hi then (v >>> 32).setWidth 32 else if c = lo then v.setWidth 32 else cellGet x.vregs c
    | _ => cellGet x.vregs c)

/-- Nobody of a block waits at a barrier. -/
def QuietBlock (s : State) (b : Nat) : Prop :=
  (∀ q ∈ s.squadsOf b, ∀ k, (s.squad q).run ≠ .barrier k) ∧ ∀ k m, (s.block b).pacer.run ≠ .barrier k m

/-- Result k of squad q may be written now. -/
def MayWrite (s : State) (q k : Nat) (o : Outst) : Prop :=
  (s.squad q).out[k]? = some o ∧ s.canPerform q k = true ∧ s.readsBad q k = false ∧ QuietBlock s (blockOfSquad q) ∧
  ((s.squad q).run = .running ∨ (s.squad q).run = .parked)

/-- The results that stay outstanding as result o is performed: a strong access of a later word passes on, should it release, what
the performed one has given its squad to see (10 R215); nothing else of them changes. -/
def Stay (o : Outst) (xs ys : List Outst) : Prop :=
  List.Forall₂ (fun e f => f = { e with seen := f.seen } ∧ (∀ k ∈ e.seen, k ∈ f.seen) ∧
    (e.ord = .ordinary ∨ e.word ≤ o.word → f.seen = e.seen)) xs ys

/-- The squad after result k was written: the result is gone, the last of its word brings the word's flags, and a squad parked
goes on when nothing is left (02 R46; 06 R140). -/
def ResultWritten (x y : Squad) (k : Nat) (o : Outst) : Prop :=
  Stay o (x.out.take k ++ x.out.drop (k + 1)) y.out ∧
  y.fflags = (if y.out.any (fun e => e.word = o.word) then x.fflags else x.fflags ||| o.flags) ∧
  y.run = (if y.out = [] then .running else x.run) ∧
  y = { x with out := y.out, fflags := y.fflags, run := y.run, sregs := y.sregs, vregs := y.vregs, pend := y.pend }

/-- The squad after result k, whose access gave v for destination d, was performed: a pair's value is two results from then on,
one for each of its registers (02 R50), measured by what the access reached (18 R337). -/
def Delivered (x y : Squad) (k : Nat) (o : Outst) (d : Dst) (v : BitVec 64) (meter : Option Nat) : Prop :=
  match d with
  | .vpair lo hi =>
    ∃ rest, Stay o (x.out.take k ++ x.out.drop (k + 1)) rest ∧ y = { x with pend := y.pend, out := rest ++
      [{ o with kind := .value (.vreg lo) (v &&& 0xFFFFFFFF), ord := .ordinary, meter := meter },
       { o with kind := .value (.vreg hi) (v >>> 32), ord := .ordinary, meter := meter }] }
  | _ => ResultWritten x y k o ∧ PutsValue x y d v

/-- Which parties share a scope (00 R3): codes 1 to 6 are .sq, .blk, .gang, .fld, .dev and .sys; the host is in .sys alone, and a
device's service cluster in .dev and .sys. -/
def ScopeRules : Prop :=
  ∀ s : State,
    (∀ p q : Nat, let a := Party.squad p; let b := Party.squad q
      (s.shares a b 1 = true ↔ p = q) ∧ (s.shares a b 2 = true ↔ blockOfSquad p = blockOfSquad q) ∧
      (s.shares a b 3 = true ↔ gangOfSquad p = gangOfSquad q) ∧ (s.shares a b 4 = true ↔ s.fieldOf p = s.fieldOf q) ∧
      (s.shares a b 5 = true ↔ s.devOf p = s.devOf q) ∧ s.shares a b 6 = true) ∧
    (∀ q sc : Nat, (s.shares .host (.squad q) sc = true ↔ sc = 6) ∧
      ∀ d, (s.shares (.service d) (.squad q) sc = true ↔ sc = 6 ∨ (sc = 5 ∧ s.devOf q = d))) ∧
    (∀ (p q : Party) (ps qs : Nat), s.inclusive p ps q qs = true ↔ s.shares p q ps = true ∧ s.shares p q qs = true)

/-- New memory value of each atomic from the old one, the operand and the comparand, n bytes wide (09 Table 9-7). What an FP32 sum is
stands in NumberSums below. -/
def rmwRows : Rows Nat (Nat → Nat → Nat → Nat → Nat) := [
  (0, fun n old v _ => (old + v) % 2 ^ (8 * n)), (3, fun _ old v _ => old &&& v), (4, fun _ old v _ => old ||| v),
  (5, fun _ old v _ => old ^^^ v), (6, fun _ _ v _ => v), (7, fun _ old v c => if old = c then v else old),
  (8, fun _ old v _ => (fp32.sum 0 false [fp32.read false old, fp32.read false v]).v.toNat),
  (9, fun _ old v _ => max (old % 2 ^ 31) (v % 2 ^ 31)),
  (1, fun n old v _ => if (BitVec.ofNat (8 * n) v).toInt < (BitVec.ofNat (8 * n) old).toInt then v else old),
  (2, fun n old v _ => if (BitVec.ofNat (8 * n) old).toInt < (BitVec.ofNat (8 * n) v).toInt then v else old)]

/-- t's memory is s's but for n bytes at a, which hold v lowest first. -/
def Stores (s t : State) (a n v : Nat) : Prop :=
  ∀ x, t.byte x = if a ≤ x ∧ x < a + n then BitVec.ofNat 8 (v / 256 ^ (x - a)) else s.byte x

/-- A write of n bytes at a by squad q took its place as the newest of the coherence order of its bytes (10 R209): it undoes to what
stood there, and its squad has seen it. -/
def Performed (s t : State) (q a n : Nat) : Prop :=
  ∃ e rest, t.hist = e :: rest ∧ e.by_ = .squad q ∧ e.serial = s.writes + 1 ∧ t.writes = s.writes + 1 ∧
    (∀ i, tabGet? e.old i = if a ≤ i ∧ i < a + n then some (s.byte i) else none) ∧ (⟨.squad q, a, n⟩ : Mark) ∈ e.marks ∧
    rest.map (fun w => { w with marks := [] }) = s.hist.map (fun w => { w with marks := [] })

/-- The squad after store o took its place at its home as the write of this serial, not acknowledged yet: in its place among the
squad's results, in issue order, stands the acknowledgement it waits for. -/
def AwaitsAck (x y : Squad) (k : Nat) (o : Outst) (l : Loc) (serial : Nat) : Prop :=
  ∃ before after, Stay o (x.out.take k ++ x.out.drop (k + 1)) (before ++ after) ∧ (∀ e ∈ before, e.word ≤ o.word) ∧
    (∀ e ∈ after.head?, o.word < e.word) ∧
    y = { x with out := before ++ [{ o with kind := .ack l serial }] ++ after }

-- Lane words (07; 08 R169, R170) ---------------------------------------------------------------------------------------------------

/-- A lane word passes its checks: every vector register it names is below VWS, and its format is legal (16 R301). -/
def LaneOk (s : State) (op : LaneOp) (f : LaneForm) : Prop :=
  f.badIndex op s.sq.vws = none ∧
  ((laneShape op).use = EfUse.absent ∨ laneFormatOk op f (laneEf op f s.sq.fmt) = true)

/-- Active lanes of a word: m0 and the mask register it names (02 R41); of a replayed word the lanes of TLM under the mask of its first
enqueue (09 R206; 16 R310). -/
def Squad.runs (x : Squad) (mk : BitVec 4) : BitVec 32 :=
  match x.replay with
  | some r => r.tlm &&& r.wm
  | none => if mk = 0 then x.readM 0 else x.readM 0 &&& x.readM mk

/-- The mask a word ran under at its first enqueue. -/
def Squad.firstMask (x : Squad) (mk : BitVec 4) : BitVec 32 := match x.replay with | some r => r.wm | none => x.runs mk

/-- Where the squad stands after a lane word: the lane PC past it, the LANE's count reduced, the scalar stream going on after its
last word; a marker of either parks the squad (02 R46, R47). LCNT in a handler is that of the interrupted LANE (05 R126). -/
def LaneGoes (x y : Squad) (m : Bool) : Prop :=
  y.lpc = x.lpc + 12 ∧ y.replay = none ∧ y.latch = none ∧
  (∀ r, x.lane = some r → 1 < r.left → y.lane = some ⟨r.left - 1, r.s⟩ ∧ y.pc = x.pc ∧ y.lcnt = x.lcnt ∧
    y.run = if m then (if y.out = [] then .running else .parked) else x.run) ∧
  (∀ r, x.lane = some r → r.left ≤ 1 → y.lane = none ∧ y.pc = x.pc + 4 ∧ y.lcnt = (if x.handler.isSome then x.lcnt else 0) ∧
    y.run = if m || r.s then (if y.out = [] then .running else .parked) else x.run)

/-- Fields a lane word moves when it goes on. -/
def Squad.withLaneOf (x y : Squad) : Squad :=
  { x with lpc := y.lpc, replay := y.replay, latch := y.latch, lane := y.lane, pc := y.pc, lcnt := y.lcnt, run := y.run }

/-- y is x with res l written to each lane l of vector register r that is on, the pair of it for a 64-bit result, and the flags of
those lanes merged. -/
def WroteLanes (x y : Squad) (on : Nat → Bool) (r : Nat) (pair : Bool) (res : Nat → LaneRes) : Prop :=
  (∀ l, l < 32 → on l = true →
    (pair = false → y.readV r l = (res l).v.setWidth 32) ∧ (pair = true → 64 ≤ x.vws → y.readVP r l = (res l).v)) ∧
  (∀ c, (∀ l, l < 32 → on l = true → c ≠ x.vcell r l ∧ (pair = true → c ≠ x.vcell (r + 1) l)) →
    cellGet y.vregs c = cellGet x.vregs c) ∧
  (∀ i, i < 6 → y.fflags.getLsbD i = (x.fflags.getLsbD i || (List.range 32).any (fun l => on l && (res l).flags.getLsbD i)))

/-- The acting squad's lane word wrote res l to each active lane l of vd, merged the active lanes' flags, and went on; nothing else
changed. -/
def LaneWrites (s t : State) (f : LaneForm) (pair m : Bool) (res : Nat → LaneRes) : Prop :=
  WroteLanes s.sq t.sq (bitAt (s.sq.runs f.m)) f.vd.vreg pair res ∧
  LaneGoes s.sq t.sq m ∧ t.sq = { s.sq.withLaneOf t.sq with vregs := t.sq.vregs, fflags := t.sq.fflags } ∧ OnlySquad s t

/-- A result raises a flag that FMT.TE enables (06 R142). -/
def LaneRes.traps (r : LaneRes) (te : BitVec 5) : Bool := (List.range 5).any (fun i => te.getLsbD i && r.flags.getLsbD i)

/-- Some active lane of a word traps. -/
def SomeTraps (x : Squad) (f : LaneForm) (trap : Nat → Bool) : Prop := ∃ l, l < 32 ∧ bitAt (x.runs f.m) l = true ∧ trap l = true

/-- A trap of the lanes of trap that are active (06 R142): TLM names them, TVAL holds the flags they raised, and the squad, mid just
before its handler, has merged none of theirs. -/
def FloatTrap (s t : State) (mid : Squad) (f : LaneForm) (tdst : BitVec 64) (trap : Nat → Bool) (res : Nat → LaneRes) : Prop :=
  ∃ (tlm : BitVec 32) (tval : BitVec 64),
    (∀ l, l < 32 → bitAt tlm l = (bitAt (s.sq.runs f.m) l && trap l)) ∧
    (∀ i, tval.getLsbD i = (decide (i < 5) && (List.range 32).any (fun l => bitAt tlm l && (res l).flags.getLsbD i))) ∧
    TookTrap (s.setSq mid) t 0x08 false true tlm tval tdst s.sq.lanesLeft (s.sq.firstMask f.m)

/-- The acting squad's lane word trapped in the lanes of trap: the other active lanes of vd hold their results. -/
def LaneTook (s t : State) (f : LaneForm) (pair : Bool) (tdst : BitVec 64) (trap : Nat → Bool) (res : Nat → LaneRes) : Prop :=
  ∃ mid : Squad, WroteLanes s.sq mid (fun l => bitAt (s.sq.runs f.m) l && !trap l) f.vd.vreg pair res ∧
    mid = { s.sq with vregs := mid.vregs, fflags := mid.fflags } ∧ FloatTrap s t mid f tdst trap res

/-- Marker of a lane word: its own S, and as if it were set in majors 0x04 to 0x08 while a TE bit is 1 (06 R143). -/
def markerOf (op : LaneOp) (f : LaneForm) (x : Squad) : Bool :=
  f.s = 1 || (decide (0x40 ≤ op) && decide (op < 0x90) && decide (fmtTE x.fmt ≠ 0))

/-- A lane word that gives res in its lanes writes them and goes on, or, where an active lane raises an enabled flag, traps. -/
def LaneCompletes (s : State) (i : Instr) (op : LaneOp) (f : LaneForm) (e : Nat) (res : Nat → LaneRes) : Prop :=
  let trap := fun (l : Nat) => (res l).traps (fmtTE s.sq.fmt); let pair := (lanePairs op e).1
  (¬ SomeTraps s.sq f trap → ∃ t, exec i s = .next t ∧ LaneWrites s t f pair (markerOf op f s.sq) res) ∧
  (SomeTraps s.sq f trap → CanTrap s → ∃ t, exec i s = .next t ∧ LaneTook s t f pair (laneTdst op f e) trap res)

/-- An element moved as it is, its format's bits read and written extended (06 R131, R133; 07 R164); that FMT.FTZ flushes no subnormal
in such a move is log 48 (DESIGN CHOICE). -/
def movedRes (e : Nat) (a : BitVec 64) : LaneRes :=
  if e = 10 then ⟨a, 0⟩ else if 7 ≤ e then ⟨BitVec.ofNat 64 (a.toNat % 2 ^ efBits e), 0⟩ else intRes e (intRead e a)

/-- Elementwise words of fixed latency and what each gives in a lane (07 R154, R155, R159 to R164). -/
def elementRows : List (LaneOp × (LaneForm → Instr) × (Squad → LaneForm → Nat → Nat → LaneRes)) := [
  (0x10, .vadd, fun x f e l => x.fit f e (x.intA f e l + x.intB f e l)),
  (0x11, .vsub, fun x f e l => x.fit f e (x.intA f e l - x.intB f e l)),
  (0x12, .vmul, fun x f e l => x.fit f e (x.intA f e l * x.intB f e l)),
  (0x13, .vmulh, fun x f e l => intRes e (x.intA f e l * x.intB f e l / 2 ^ efBits e)),
  (0x14, .vmad, fun x f e l => x.fit f e (x.intA f e l * x.intB f e l + x.intC f e l)),
  (0x15, .vmin, fun x f e l => intRes e (min (x.intA f e l) (x.intB f e l))),
  (0x16, .vmax, fun x f e l => intRes e (max (x.intA f e l) (x.intB f e l))),
  (0x17, .vabs, fun x f e l => x.fit f e (x.intA f e l).natAbs),
  (0x18, .vneg, fun x f e l => x.fit f e (0 - x.intA f e l)),
  (0x19, .vadds, fun x f e l => fitInt e true (x.intA f e l + x.intB f e l)),
  (0x1a, .vsubs, fun x f e l => fitInt e true (x.intA f e l - x.intB f e l)),
  (0x1b, .vclz, fun x f e l => intRes e (clzNat (efBits e) (x.opnd f.va l false).toNat)),
  (0x1c, .vpopc, fun x f e l => intRes e (popcNat (efBits e) (x.opnd f.va l false).toNat)),
  (0x20, .vand, fun x f e l => ⟨x.rawA f e l &&& x.rawB f e l, 0⟩),
  (0x21, .vor, fun x f e l => ⟨x.rawA f e l ||| x.rawB f e l, 0⟩),
  (0x22, .vxor, fun x f e l => ⟨x.rawA f e l ^^^ x.rawB f e l, 0⟩),
  (0x23, .vnot, fun x f e l => ⟨~~~(x.rawA f e l), 0⟩),
  (0x24, .vshl, fun x f e l => laneShift 0 e (x.rawA f e l) ((x.opnd f.vb l false).toNat % 256)),
  (0x25, .vshr, fun x f e l => laneShift 1 e (x.rawA f e l) ((x.opnd f.vb l false).toNat % 256)),
  (0x26, .vsar, fun x f e l => laneShift 2 e (x.rawA f e l) ((x.opnd f.vb l false).toNat % 256)),
  (0x27, .vmov, fun x f e l => ⟨x.rawA f e l, 0⟩),
  (0x28, .vbcast, fun x f e _ => ⟨x.rawA f e (f.mod.arg.toNat % 32), 0⟩),
  (0x29, .vsel, fun x f e l => ⟨if bitAt (x.readM f.vc.mreg) l then x.rawA f e l else x.rawB f e l, 0⟩),
  (0x2a, .vlane, fun x _ _ l => ⟨(cellGet x.laneids l).setWidth 64, 0⟩),
  (0x40, .vfadd, fun x f e l => (ffmt e).sum (x.mode f) x.ftz [x.fval f.va e l, x.fval f.vb e l]),
  (0x41, .vfsub, fun x f e l => (ffmt e).sum (x.mode f) x.ftz [x.fval f.va e l, (x.fval f.vb e l).neg]),
  (0x42, .vfmul, fun x f e l => (ffmt e).mul (x.mode f) x.ftz (x.fval f.va e l) (x.fval f.vb e l)),
  (0x43, .vfma, fun x f e l => (ffmt e).fma (x.mode f) x.ftz (x.fval f.va e l) (x.fval f.vb e l) (x.fval f.vc e l)),
  (0x44, .vfms, fun x f e l => (ffmt e).fma (x.mode f) x.ftz (x.fval f.va e l) (x.fval f.vb e l) (x.fval f.vc e l).neg),
  (0x45, .vfnma, fun x f e l => (ffmt e).fma (x.mode f) x.ftz (x.fval f.va e l).neg (x.fval f.vb e l) (x.fval f.vc e l)),
  (0x46, .vfmin, fun x f e l => (ffmt e).minMax false x.ftz (x.fbits f.va e l) (x.fbits f.vb e l)),
  (0x47, .vfmax, fun x f e l => (ffmt e).minMax true x.ftz (x.fbits f.va e l) (x.fbits f.vb e l)),
  (0x48, .vfabs, fun x f e l => ⟨BitVec.ofNat 64 (x.fbits f.va e l % (ffmt e).signBit),
    if (ffmt e).read false (x.fbits f.va e l) = .snan then flagNV else 0⟩),
  (0x49, .vfneg, fun x f e l => ⟨BitVec.ofNat 64 (x.fbits f.va e l ^^^ (ffmt e).signBit),
    if (ffmt e).read false (x.fbits f.va e l) = .snan then flagNV else 0⟩),
  (0x4a, .vfclass, fun x f e l => ⟨(ffmt e).classBits (x.fbits f.va e l), 0⟩),
  (0x70, .vcvt, fun x f e l =>
    convert (f.mod.arg.toNat % 16) e (x.mode f) x.ftz (saturates f.mod x.fmt) (x.opnd f.va l false)),
  (0x72, .vbfpd, fun x f e l => let n := f.mod.arg.toNat % 16
    (ffmt e).bfpd (x.mode f) x.ftz ((x.readV f.va.vreg 31).toNat % 256) (x.mantissa f.va.vreg n l) n),
  (0x80, .vshfl, fun x f e l => movedRes e (x.rawA f e ((x.opnd f.vb l false).toNat % 32))),
  (0x81, .vrot, fun x f e l => movedRes e (x.rawA f e ((l + f.mod.arg.toNat) % 32)))]

/-- What VPACK gives in a lane: the element narrowed to w bits at position p of vb's register (07 R162). -/
def packRes (x : Squad) (f : LaneForm) (e l : Nat) : LaneRes :=
  let a := x.opnd f.va l false
  let r := if efInt e then fitInt e (saturates f.mod x.fmt) (intRead (if efSigned e then 3 else 6) a)
    else (ffmt e).ofVal (x.mode f) x.ftz (fp32.read x.ftz (a.toNat % 2 ^ 32))
  let p := efBits e * (f.mod.arg.toNat % 4)
  let b := (x.opnd f.vb l false).toNat
  ⟨BitVec.ofNat 64 (b % 2 ^ p + b / 2 ^ (p + efBits e) * 2 ^ (p + efBits e) + r.v.toNat % 2 ^ efBits e * 2 ^ p), r.flags⟩

/-- What VUNPK gives in a lane: the element at position p widened (07 R162). -/
def unpackRes (x : Squad) (f : LaneForm) (e l : Nat) : LaneRes :=
  let v := (x.opnd f.va l false).toNat / 2 ^ (efBits e * (f.mod.arg.toNat % 4)) % 2 ^ efBits e
  if efInt e then intRes e (intRead e (BitVec.ofNat 64 v)) else fp32.ofVal 0 x.ftz ((ffmt e).read x.ftz v)

/-- Compares and the bit and flags each gives in a lane (07 R156 to R158). -/
def compareRows : List (LaneOp × (LaneForm → Instr) × (Squad → LaneForm → Nat → Nat → LaneRes)) := [
  (0x30, .vcmpEq, fun x f e l => ⟨if x.intA f e l = x.intB f e l then 1 else 0, 0⟩),
  (0x31, .vcmpNe, fun x f e l => ⟨if x.intA f e l = x.intB f e l then 0 else 1, 0⟩),
  (0x32, .vcmpLt, fun x f e l => ⟨if x.intA f e l < x.intB f e l then 1 else 0, 0⟩),
  (0x33, .vcmpLe, fun x f e l => ⟨if x.intA f e l ≤ x.intB f e l then 1 else 0, 0⟩),
  (0x34, .vcmpGt, fun x f e l => ⟨if x.intB f e l < x.intA f e l then 1 else 0, 0⟩),
  (0x35, .vcmpGe, fun x f e l => ⟨if x.intB f e l ≤ x.intA f e l then 1 else 0, 0⟩),
  (0x36, .vcmpLtu, fun x f e l => ⟨if x.unsA f e l < x.unsB f e l then 1 else 0, 0⟩),
  (0x37, .vcmpLeu, fun x f e l => ⟨if x.unsA f e l ≤ x.unsB f e l then 1 else 0, 0⟩),
  (0x38, .vcmpGtu, fun x f e l => ⟨if x.unsB f e l < x.unsA f e l then 1 else 0, 0⟩),
  (0x39, .vcmpGeu, fun x f e l => ⟨if x.unsB f e l ≤ x.unsA f e l then 1 else 0, 0⟩),
  (0x60, .vfcmpEq, fun x f e l => (ffmt e).cmp 0 x.ftz (x.fbits f.va e l) (x.fbits f.vb e l)),
  (0x61, .vfcmpNe, fun x f e l => (ffmt e).cmp 1 x.ftz (x.fbits f.va e l) (x.fbits f.vb e l)),
  (0x62, .vfcmpLt, fun x f e l => (ffmt e).cmp 2 x.ftz (x.fbits f.va e l) (x.fbits f.vb e l)),
  (0x63, .vfcmpLe, fun x f e l => (ffmt e).cmp 3 x.ftz (x.fbits f.va e l) (x.fbits f.vb e l)),
  (0x64, .vfcmpUnord, fun x f e l => (ffmt e).cmp 4 x.ftz (x.fbits f.va e l) (x.fbits f.vb e l)),
  (0x65, .vfcmpOrd, fun x f e l => (ffmt e).cmp 5 x.ftz (x.fbits f.va e l) (x.fbits f.vb e l))]

/-- The acting squad's lane word set mask register d to v, merged flags fl and went on; nothing else changed. -/
def MaskWrites (s t : State) (d : BitVec 4) (v : BitVec 32) (fl : Nat → Bool) (m : Bool) : Prop :=
  t.sq.readM d = v ∧ (∀ n, n ≠ d → t.sq.readM n = s.sq.readM n) ∧
  (∀ i, i < 6 → t.sq.fflags.getLsbD i = (s.sq.fflags.getLsbD i || fl i)) ∧
  LaneGoes s.sq t.sq m ∧ t.sq = { s.sq.withLaneOf t.sq with masks := t.sq.masks, fflags := t.sq.fflags } ∧ OnlySquad s t

/-- The long words and what each gives in a lane (07 R160). -/
def longRows : List (LaneOp × (LaneForm → Instr) × (Squad → LaneForm → Nat → Nat → LaneRes)) := [
  (0x50, .vfdiv, fun x f e l => (ffmt e).div (x.mode f) x.ftz (x.fval f.va e l) (x.fval f.vb e l)),
  (0x51, .vfsqrt, fun x f e l => (ffmt e).sqrt (x.mode f) x.ftz (x.fval f.va e l)),
  (0x52, .vfrcp, fun x f e l => (ffmt e).div (x.mode f) x.ftz (.num false 1 0) (x.fval f.va e l)),
  (0x53, .vfrsq, fun x f e l => (ffmt e).rsqrt (x.mode f) x.ftz (x.fval f.va e l)),
  (0x54, .vfexp2, fun x f e l => (ffmt e).exp2 (x.mode f) x.ftz (x.fval f.va e l)),
  (0x55, .vflog2, fun x f e l => (ffmt e).log2 (x.mode f) x.ftz (x.fval f.va e l)),
  (0x56, .vdiv, fun x f e l =>
    if x.intB f e l = 0 then intRes e (-1) else x.fit f e ((x.intA f e l).tdiv (x.intB f e l))),
  (0x57, .vrem, fun x f e l =>
    if x.intB f e l = 0 then intRes e (x.intA f e l) else x.fit f e ((x.intA f e l).tmod (x.intB f e l)))]

/-- The active lanes, ascending. -/
def lanesOn (act : BitVec 32) : List Nat := (List.range 32).filter (fun l => bitAt act l)

/-- The acting squad's lane word left results outstanding, one per kind of ks or two where it is the value of a pair (02 R50), and
went on; nothing else changed. -/
def LaneLeaves (s t : State) (m : Bool) (ord : AccOrd) (scope : Nat) (ks : List (OutKind × Option Nat)) (flags : Nat → Bool)
    (tdst : BitVec 64) : Prop :=
  (∃ fl : BitVec 6, (∀ i, i < 6 → fl.getLsbD i = flags i) ∧
    t.sq.out = s.sq.out ++ ks.flatMap (fun k => k.1.halves.map (fun h =>
      ⟨s.clock, s.sq.pc, s.sq.region.isSome, ord, scope, h, fl, k.2, s.sq.lpc, h.dst.lane, tdst,
        if ord = .ordinary then [] else s.seenBy (.squad s.actor)⟩))) ∧
  LaneGoes s.sq t.sq m ∧ t.sq = { s.sq.withLaneOf t.sq with out := t.sq.out } ∧ OnlySquadTick s t

/-- The mask logic words and the bit each gives (08 R169). -/
def maskRows : Rows (LaneForm → Instr) (Bool → Bool → Bool) := [
  (.mand, fun a b => a && b), (.mor, fun a b => a || b), (.mxor, fun a b => a ^^ b), (.mnot, fun a _ => !a), (.mandn, fun a b => a && !b)]

/-- What VRED or VSCAN leaves in lane l, with the flags of the whole word (07 R165, R166). -/
def reduceRes (x : Squad) (f : LaneForm) (e : Nat) (scan : Bool) (l : Nat) : LaneRes :=
  let outs := reduceOuts x f e scan (lanesOn (x.runs f.m))
  let final : LaneRes := match outs.reverse with | [] => {} | o :: _ => o.2
  let fl := if efInt e ∧ !scan then final.flags else (outs.map (fun o => o.2.flags)).foldl (· ||| ·) 0
  ⟨if scan then (match outs.find? (fun o => o.1 = l) with | some o => o.2.v | none => 0) else final.v, fl⟩

/-- LANEIDs of the lanes of a mask, in lane order. -/
def Squad.ids (x : Squad) (a : BitVec 32) : List Nat := (lanesOn a).map (fun l => (cellGet x.laneids l).toNat)

/-- The words of major 0x09 that give a scalar register a value: the word, when the clause speaks of it, and what the value is,
from A, the active lanes with a bit in mA, and the active lanes (08 R169, R170). -/
def voteRows : List ((LaneForm → Instr) × (LaneForm → Prop) × (Squad → LaneForm → BitVec 32 → BitVec 32 → BitVec 64 → Prop)) := [
  (.vote, fun f => f.mod.arg.toNat % 8 = 0, fun _ _ a _ v => v = if a = 0 then 0 else 1),
  (.vote, fun f => f.mod.arg.toNat % 8 = 1, fun _ _ a act v => v = if a = act then 1 else 0),
  (.vote, fun f => f.mod.arg.toNat % 8 = 2, fun _ _ a act v => v = if a = 0 ∨ a = act then 1 else 0),
  (.vote, fun f => f.mod.arg.toNat % 8 = 3, fun _ _ a _ v => v.toNat = (lanesOn a).length),
  (.vote, fun f => f.mod.arg.toNat % 8 = 4, fun x _ a _ v =>
    (a = 0 → v = -1) ∧ (a ≠ 0 → v.toNat ∈ x.ids a ∧ ∀ i ∈ x.ids a, v.toNat ≤ i)),
  (.vote, fun f => f.mod.arg.toNat % 8 = 5, fun x _ a _ v =>
    (a = 0 → v = -1) ∧ (a ≠ 0 → v.toNat ∈ x.ids a ∧ ∀ i ∈ x.ids a, i ≤ v.toNat)),
  (.ballotLane, fun _ => True, fun _ _ a _ v => v = a.setWidth 64),
  (.ballotId, fun _ => True, fun x f a _ v =>
    ∀ i, i < 64 → v.getLsbD i = (x.ids a).contains ((x.readS f.vb.sreg).toNat + i)),
  (.mpopc, fun _ => True, fun x f _ _ v => v.toNat = (lanesOn (x.readM f.va.mreg)).length),
  (.mfirst, fun _ => True, fun x f _ _ v => v.toNat = (List.range 32).findIdx (fun l => bitAt (x.readM f.va.mreg) l))]

-- Lane memory (09 R201 to R205) -----------------------------------------------------------------------------------------------------

/-- The elements of a lane memory word checked in order, each at the state the last left: what those that pass leave, by lane, and
those that fail, t being the state after all. -/
def ElemsEnd (s : State) (es : List (Nat × BitVec 64 × (State → State × Elem))) (ks : List (Nat × OutKind × Option Nat))
    (fs : List LaneFail) (t : State) : Prop :=
  match es with
  | [] => ks = [] ∧ fs = [] ∧ t = s
  | e :: rest =>
    (∃ k meter u ks', e.2.2 s = (u, .ok k meter) ∧ ks = (e.1, k, meter) :: ks' ∧ ElemsEnd u rest ks' fs t) ∨
    (∃ c u fs', e.2.2 s = (u, .bad c) ∧ fs = ⟨e.1, e.2.1, c, false, 0, 0⟩ :: fs' ∧ ElemsEnd u rest ks fs' t) ∨
    (∃ w lv en u fs', e.2.2 s = (u, .absent w lv en) ∧ fs = ⟨e.1, e.2.1, 0x05, w, lv, en⟩ :: fs' ∧ ElemsEnd u rest ks fs' t)

/-- Address of lane l of a lane memory word by its form (09 R201): va of the lane, strided or gathered. -/
def laneVa (x : Squad) (form : Nat) (f : LaneForm) (l : Nat) : BitVec 64 :=
  match form with
  | 1 => x.readS f.va.sreg + BitVec.ofNat 64 l * x.readS f.vb.sreg + f.mod.arg.signExtend 64
  | 2 => x.readS f.va.sreg + (x.readV f.vb.vreg l).signExtend 64 + f.mod.arg.signExtend 64
  | _ => x.opnd f.va l true + f.mod.arg.signExtend 64

/-- Loads, by form. -/
def laneLoadRows : List (LaneOp × (LaneForm → Instr) × Nat) := [(0x100, .ld, 0), (0x101, .ldst, 1), (0x102, .ldg, 2)]
/-- Stores, by form. -/
def laneStoreRows : List (LaneOp × (LaneForm → Instr) × Nat) := [(0x110, .st, 0), (0x111, .stst, 1), (0x112, .stg, 2)]
/-- Atomics, by operation. -/
def laneAtomRows : List (LaneOp × (LaneForm → Instr) × Nat) := [
  (0x120, .atomAdd, 0), (0x121, .atomMin, 1), (0x122, .atomMax, 2), (0x123, .atomAnd, 3), (0x124, .atomOr, 4), (0x125, .atomXor, 5),
  (0x126, .atomExch, 6), (0x127, .atomCas, 7), (0x128, .atomFadd, 8), (0x129, .atomFamax, 9)]

/-- What the lanes that pass leave outstanding, of a lane word with failing lanes: a lane that fails in one element leaves nothing. -/
def passing (ks : List (Nat × OutKind × Option Nat)) (fs : List LaneFail) : List (OutKind × Option Nat) :=
  (ks.filter (fun k => fs.all (fun x => x.lane ≠ k.1))).map (·.2)

/-- A lane memory word failed in the lanes of fs, the checks having left the machine at u (09 R206): the passing lanes' results are
outstanding, and the word will run for the failing lanes alone. A cause other than page not present is a trap with the lowest such
lane's cause and address, taken once nothing is outstanding; with no such lane the gang leaves its core. -/
def LaneFaults (u t : State) (f : LaneForm) (ord : AccOrd) (scope : Nat) (tdst : BitVec 64) (ks : List (Nat × OutKind × Option Nat))
    (fs : List LaneFail) : Prop :=
  let x := u.sq
  let left := (passing ks fs).flatMap (fun k => k.1.halves.map (fun h =>
    (⟨u.clock, x.pc, x.region.isSome, ord, scope, h, 0, k.2, x.lpc, h.dst.lane, tdst,
      if ord = .ordinary then [] else u.seenBy (.squad u.actor)⟩ : Outst)))
  ∃ tlm : BitVec 32, (∀ l, l < 32 → bitAt tlm l = fs.any (fun a => a.lane = l)) ∧
    (∀ a, fs.find? (fun a => a.cause ≠ 0x05) = some a →
      (x.out ++ left = [] → CanTrap u → TookTrap u.tick t a.cause (rxOf a.cause) true tlm a.va tdst x.lanesLeft (x.firstMask f.m)) ∧
      (x.out ++ left ≠ [] → OnlySquadTick u t ∧ t.sq = { x with out := x.out ++ left, latch := none, run := (.trapping
        ⟨a.cause, false, rxOf a.cause, true, x.pc, x.lpc, tlm, a.va, tdst, x.lanesLeft, x.firstMask f.m, LaneRun.marker x.lane, none⟩) })) ∧
    (fs.find? (fun a => a.cause ≠ 0x05) = none → (u.gangOf u.actor).place = .resident →
      (t.gangOf u.actor).place = .leaving (.swap false) ∧ SameSquadsBut u.actor u t ∧
      t.sq = { x with out := x.out ++ left, replay := some ⟨tlm, x.firstMask f.m⟩ })

/-- Order of a lane memory word: its ORD code's, but an atomic is strong whatever its ORD (10 R207). -/
def ordFor (op : LaneOp) (f : LaneForm) : AccOrd :=
  if 0x120 ≤ op ∧ op < 0x130 ∧ ordOf f.mod.ord = .ordinary then .relaxed else ordOf f.mod.ord

/-- What the check of one element gives (09 R199 to R204; 15): a load that hits the L1, on no uncorrectable byte and with nothing of
its squad's outstanding on those bytes, has the line's value at its issue, which is log 9 (DEDUCED: the moment at which a hit reads); another load, a store and an atomic leave their access outstanding, at the machine address the
checks gave, of their width and data; and the element fails as its address did. -/
def ElementRules : Prop :=
  (∀ (v u : State) (q : Nat) (ord : AccOrd) (va : BitVec 64) (n : Nat) (sg : Bool) (d : Dst), let b := blockOfSquad q
    (ord ≠ .ordinary ∨ v.hitLine q va n = none →
      (∀ p c, v.access b .read va n = (u, .ok p c) →
        v.loadElem q ord va n sg d = (u, .ok (.load ⟨p, n, va, c⟩ sg d) (some (meterOf p)))) ∧
      (∀ c, v.access b .read va n = (u, .bad c) → v.loadElem q ord va n sg d = (u, .bad c)) ∧
      (∀ w l e, v.access b .read va n = (u, .absent w l e) → v.loadElem q ord va n sg d = (u, .absent w l e))) ∧
    (∀ line, ord = .ordinary → v.hitLine q va n = some line → canonical va = true → va.toNat % n = 0 → inWindow va = false →
      (v.squad q).out = [] → line.isBad (va.toNat % 128) n = false → ∃ h, v.loadElem q ord va n sg d =
        (v.setHist h, .ok (.value d (loadValue n sg (line.read (va.toNat % 128) n))) (some 0)) ∧
        OnlyLearns v (v.setHist h) (.squad q))) ∧
  (∀ (v u : State) (q : Nat) (va : BitVec 64) (n : Nat) (k : Loc → OutKind), let b := blockOfSquad q
    (∀ p c, v.access b .write va n = (u, .ok p c) → v.writeElem q va n k = (u, .ok (k ⟨p, n, va, c⟩) none)) ∧
    (∀ c, v.access b .write va n = (u, .bad c) → v.writeElem q va n k = (u, .bad c)) ∧
    (∀ w l e, v.access b .write va n = (u, .absent w l e) → v.writeElem q va n k = (u, .absent w l e))) ∧
  (∀ w, 1 ≤ w → w ≤ 6 → widthBytes w = [1, 2, 4, 8, 1, 2].getD (w - 1) 0 ∧ widthSigned w = decide (5 ≤ w))

/-- A lane memory word i whose elements es are checked from state s0 on: where all pass it went on with what they leave, at the state
fin makes of it; where some fail, it failed, from the state fin makes of it if a lane passes (16 R312: the passing lanes of an atomic
end the open region). The registers and, but for the checks' own walks, memory are unchanged. -/
def LaneChecks (s s0 : State) (i : Instr) (op : LaneOp) (f : LaneForm) (es : List (Nat × BitVec 64 × (State → State × Elem)))
    (fin : State → State) : Prop :=
  let tdst := laneTdst op f (laneEf op f s.sq.fmt); let ord := ordFor op f; let scope := scopeOf f.mod.scope
  (∀ ks u, ElemsEnd s0 es ks [] u → ∃ t, exec i s = .next t ∧ u.squads = s0.squads ∧ u.clock = s0.clock ∧
    LaneLeaves (fin u) t (f.s = 1) ord scope (ks.map (·.2)) (fun _ => false) tdst) ∧
  (∀ ks fs u, fs ≠ [] → (∀ a ∈ fs, a.cause ≠ 0x12) → ElemsEnd s0 es ks fs u → s.sq.run = .running → ∃ t, exec i s = .next t ∧ u.squads = s0.squads ∧
    LaneFaults (if passing ks fs = [] then u else fin u) t f ord scope tdst ks fs)

-- Divergence (08 R171 to R184) --------------------------------------------------------------------------------------------------------

/-- The four divergence words. -/
def divergeRows : List (LaneOp × (LaneForm → Instr)) := [(0xA0, .divb), (0xA1, .elseb), (0xA2, .recv), (0xA3, .regrp)]

/-- The unexited squads qs of block b all wait at one divergence word of form f, their gang running (08 R172). -/
def AllWait (s : State) (b : Nat) (op : LaneOp) (f : LaneForm) (qs : List Nat) : Prop :=
  s.unexited b = qs ∧ qs ≠ [] ∧ s.mayRun (qs.headD 0) = true ∧
  ∃ pc, ∀ q ∈ qs, (s.squad q).run = .diverge (encodeForm op f) ∧ (s.squad q).lpc = pc ∧ (s.squad q).lane.isSome = true ∧ (s.squad q).out = []

/-- Every participant went on past its word; of its state only what a divergence word moves differs, and nobody else's. -/
def AllGo (s t : State) (qs : List Nat) (f : LaneForm) : Prop :=
  SameBytes s t ∧ (∀ p, p ∉ qs → t.squad p = s.squad p) ∧ ∀ q ∈ qs, let x := s.squad q; let y := t.squad q
    LaneGoes { x with run := .running } y (f.s = 1) ∧
    y = { x.withLaneOf y with masks := y.masks, laneids := y.laneids, vregs := y.vregs, lanes := y.lanes, sregs := y.sregs, fmt := y.fmt }

/-- Lanes of masks of squads, in squad and lane order. -/
def lanesIn (ms : List (Nat × BitVec 32)) : List (Nat × Nat) := ms.flatMap (fun p => (lanesOn p.2).map (fun l => (p.1, l)))

/-- Position i of participants qs: the squad and the lane. -/
def posOf (qs : List Nat) (i : Nat) : Nat × Nat := (listAt qs (i / 32) 0, i % 32)

/-- Lane k of y holds what lane l of x carries under a live set of n registers: LANEID, the bits of m1..m15, v0..v(n-1) (08 R179). -/
def Carries (x : Squad) (l : Nat) (y : Squad) (k n : Nat) : Prop :=
  cellGet y.laneids k = cellGet x.laneids l ∧ (∀ i, 1 ≤ i → i < 16 → bitAt (cellGet y.masks i) k = bitAt (cellGet x.masks i) l) ∧
  ∀ r, r < n → y.readV r k = x.readV r l

/-- Lane h.l of y holds what the lane held aside as h carried. -/
def CarriesHeld (h : HeldLane) (y : Squad) (k n : Nat) : Prop :=
  cellGet y.laneids k = h.id ∧ (∀ i, 1 ≤ i → i < 16 → bitAt (cellGet y.masks i) k = bitAt h.bits i) ∧
  ∀ r, r < n → y.readV r k = cellGet h.regs r

/-- The first n positions of participants qs hold lanes, and those alone run (08 R174). -/
def RunsFirst (t : State) (qs : List Nat) (n : Nat) : Prop :=
  ∀ j, j < qs.length → ∀ l, l < 32 → bitAt ((t.squad (listAt qs j 0)).readM 0) l = decide (32 * j + l < n) ∧
    bitAt (t.squad (listAt qs j 0)).lanes l = decide (32 * j + l < n)

/-- s16 .. s(15+n) and FMT are the same in every participant (08 R177). -/
def Uniform (s : State) (qs : List Nat) (n : Nat) : Prop :=
  ∀ q ∈ qs, (s.squad q).fmt = (s.squad (qs.headD 0)).fmt ∧
    ∀ i, i < n → (s.squad q).readS (BitVec.ofNat 6 (16 + i)) = (s.squad (qs.headD 0)).readS (BitVec.ofNat 6 (16 + i))

/-- A participant's part of a construct, mN its condition. -/
def partOf (s : State) (m : BitVec 4) (q : Nat) : Part :=
  let x := s.squad q; ⟨q, x.readM 0, x.readM 0 &&& ~~~(x.readM m), x.fmt⟩

/-- Lanes of the path that a construct is on. -/
def Construct.onPath (c : Construct) : List (Nat × Nat) :=
  lanesIn (c.parts.map (fun p => (p.sq, if c.els then p.f else p.e &&& ~~~p.f)))

/-- A construct with a live set of n registers whose participants are qs, each position of theirs named once (08 R174). -/
def GoodConstruct (s : State) (c : Construct) (qs : List Nat) : Prop :=
  c.l ≠ 0 ∧ c.parts.map (·.sq) = qs ∧ c.lanes.map (·.1) = qs ∧ c.s ≤ 48 ∧ (∀ q ∈ qs, c.l ≤ (s.squad q).vws) ∧
  (∀ h ∈ c.held, h.sq ∈ qs ∧ h.l < 32) ∧ (c.onPath ++ c.held.map (fun h => (h.sq, h.l))).Nodup

/-- What broadcast_scalars leaves: with some lane on the path, s16 .. s(15+S) of every participant are the first one's (08 R177). -/
def Broadcast (s t : State) (c : Construct) (qs : List Nat) : Prop :=
  ∀ q ∈ qs, ∀ r : BitVec 6, (t.squad q).readS r =
    if 16 ≤ r.toNat ∧ r.toNat < 16 + c.s ∧ c.onPath ≠ [] then (s.squad (qs.headD 0)).readS r else (s.squad q).readS r

-- Tile words (11) -----------------------------------------------------------------------------------------------------------------

/-- The acting block's Pacer went on to address tpc with the changes f makes, held while S is set and instructions are in flight
(02 R60); nothing else changed. -/
def PacerGoes (s t : State) (m : BitVec 1) (tpc : BitVec 64) (p : Pacer) : Prop :=
  t.block s.actor = { s.block s.actor with pacer := { p with
    tpc := tpc, run := if m = 1 ∧ p.flight ≠ [] then .held else .running } } ∧ OnlyBlock s t

/-- y is x with ta register d holding v. -/
def TaWritten (x y : Pacer) (d : BitVec 4) (v : BitVec 64) : Prop :=
  y.readTa d = v ∧ (∀ r, r ≠ d → y.readTa r = x.readTa r) ∧ y = { x with ta := y.ta }

/-- The acting block's Pacer issued i to the arrays or load pipes with the ta values given, to start at the given panel, and went
on; only the block's record and the model's counter changed. -/
def TileIssued (s t : State) (m : BitVec 1) (i : Instr) (ta : List (BitVec 64)) (start : Nat) : Prop :=
  let p := s.pacer
  ∃ w, encodeTile i = some w ∧
    t.block s.actor = { s.block s.actor with pacer := { p with
      tpc := p.tpc + 8, run := if m = 1 then .held else .running
      flight := p.flight ++ [⟨i, w, p.tpc, s.clock, p.fmt, p.da, p.db, ta, start, start, [], false, none, none⟩] } } ∧
    (∀ b, b ≠ s.actor → t.block b = s.block b) ∧ SameBytes s t ∧ t = { s with blocks := t.blocks, clock := t.clock }

-- The arrays' work (11 R234 to R242) ----------------------------------------------------------------------------------------------------

/-- The arrays take a step of instruction o of block b now: it is the oldest not done, the block's images stand on its core, the arrays
are not in the middle of another block's, and it has been begun or its turn has come (01 R24). -/
def ArraysTake (s : State) (b : Nat) (o : TileOp) : Prop :=
  (s.block b).pacer.todo? = some o ∧ (s.gang (gangOfBlock b)).spilled = false ∧ (s.jointMembers b o).any s.arraysBusy = false ∧
  (o.begun = true ∨ (s.arraysReady b = true ∧ (s.jointMembers b o).any s.arraysTurn = true))

/-- Row i of o is the one a step may take that asks for row n (10 R219 orders none): n, or the first not done. -/
def TakesRow (o : TileOp) (n i : Nat) : Prop :=
  (n < 64 ∧ n ∉ o.rows ∧ i = n) ∨ (¬(n < 64 ∧ n ∉ o.rows) ∧ (List.range 64).find? (fun k => !(o.rows.contains k)) = some i)

/-- Instruction o of block b stands in flight with row i done. -/
def RowDone (t : State) (b : Nat) (o : TileOp) (i : Nat) : Prop :=
  { o with progress := o.progress + 1, rows := i :: o.rows, paused := false } ∈ (t.block b).pacer.flight

/-- Accesses of a tile instruction checked in order, each at the state the last left, u being the state after all: those that fail,
with their causes, 0x12 for a walk that reads uncorrectable data. -/
def TileFails (s : State) (b : Nat) (kind : Kind) (as : List (BitVec 64 × Nat)) (fs : List (BitVec 64 × BitVec 8)) (u : State) : Prop :=
  match as with
  | [] => fs = [] ∧ u = s
  | a :: rest =>
    (∃ v m c, s.access b kind a.1 a.2 = (v, .ok m c) ∧ TileFails v b kind rest fs u) ∨
    (∃ v c gs, s.access b kind a.1 a.2 = (v, .bad c) ∧ fs = (a.1, c) :: gs ∧ TileFails v b kind rest gs u) ∨
    (∃ v w l e gs, s.access b kind a.1 a.2 = (v, .absent w l e) ∧ fs = (a.1, 0x05) :: gs ∧ TileFails v b kind rest gs u) ∨
    (∃ v m gs, s.access b kind a.1 a.2 = (v, .corrupt m) ∧ fs = (a.1, 0x12) :: gs ∧ TileFails v b kind rest gs u)

/-- Instruction o of block b stopped at a fault with RPR rpr (11 R237, R239): it left the flight, the Pacer stands stopped at its word,
to execute it again, and the fault is pending in squad q with the address, the cause carried and the SUB, and RPR in TDST. -/
def TileStopped (s t : State) (b : Nat) (o : TileOp) (rpr : BitVec 32) (q : Nat) (va : BitVec 64) (carried sub : Nat) : Prop :=
  let p := (s.block b).pacer
  (t.block b).pacer = { p with run := .stopped, tpc := o.pc, rpr := rpr, met := p.met + 1, owed := p.owed + 1,
                               again := if p.run = .stopped then p.met + 1 else p.again,
                               flight := p.flight.filter (fun x => x.serial ≠ o.serial), served := (t.block b).pacer.served } ∧
  t.squad q = { s.squad q with faults := (s.squad q).faults ++ [⟨tileRank, false, 0x0C, va,
    BitVec.ofNat 64 (carried * 2 ^ 56 + sub * 2 ^ 48 + rpr.toNat), some ⟨p.met + 1, o.pc, some rpr⟩⟩] } ∧
  SameSquadsBut q s t ∧ (t.block b).accs = (s.block b).accs

/-- Accesses all pass, each checked at the state the last left: their machine addresses. -/
def PassAll (s : State) (b : Nat) (kind : Kind) (as : List (BitVec 64 × Nat)) (ms : List Nat) (u : State) : Prop :=
  match as with
  | [] => ms = [] ∧ u = s
  | a :: rest => ∃ v m c ms', s.access b kind a.1 a.2 = (v, .ok m c) ∧ ms = m :: ms' ∧ PassAll v b kind rest ms' u

/-- The bytes read at these accesses hold no uncorrectable data, and none of the reads stalls. -/
def GoodReads (u : State) (as : List (BitVec 64 × Nat)) (ms : List Nat) : Prop :=
  u.tileStalls ms = false ∧ ∀ i, i < as.length → u.isBad (listAt ms i 0) (listAt as i (0, 0)).2 = false

/-- Rows lo to lo + n - 1 of accumulator a of block b hold no uncorrectable data (16 R366). -/
def AccGood (s : State) (b a lo n : Nat) : Prop := s.isBad (2 ^ 120 + 3 * b * 2 ^ 18 + 4 * (4096 * a + 64 * lo)) (256 * n) = false

/-- The accumulator that member c's word k of a joint instruction names holds none. -/
def JointGood (s : State) (c : Nat) (k : TileOp) : Prop := ∀ m acc kp bar cnt, k.instr = .tmmaj m acc kp bar cnt → AccGood s c acc.toNat 0 64

/-- Accesses of row or column r of a descriptor for panel p: the exponent byte and the n planes of a BFP-n block, or the 32 elements
(11 Table 11-3). -/
def blockAccesses (d : Descr) (k : BitVec 3) (n r p : Nat) : List (BitVec 64 × Nat) :=
  let row := d.m + BitVec.ofNat 64 r * d.s
  let w := if k = 1 then 2 else 4
  if k = 0 then (d.x + BitVec.ofNat 64 r * d.xs + BitVec.ofNat 64 p, 1) ::
    (List.range n).map (fun j => (row + BitVec.ofNat 64 (4 * n * p + 4 * j), 4))
  else (List.range 32).map (fun j => (row + BitVec.ofNat 64 (w * (32 * p + j)), w))

/-- x is what a row reads at its machine addresses: of a BFP-n block the exponent and 32 mantissas, bit j of each in plane j, else 32
numbers. -/
def RowRead (u : State) (k : BitVec 3) (n : Nat) (ftz : Bool) (as : List Nat) (x : PanelRow) : Prop :=
  (k = 0 → x.exp = u.read (listAt as 0 0) 1 ∧ x.ms.length = 32 ∧ ∀ i, i < 32 → let m := listAt x.ms i 0;
    -(2 ^ (n - 1)) ≤ m ∧ m < 2 ^ (n - 1) ∧ ∀ j, j < n → (BitVec.ofInt 16 m).getLsbD j = (u.read (listAt as (j + 1) 0) 4).testBit i) ∧
  (k ≠ 0 → x.vs = as.map (fun a => (if k = 1 then bf16 else fp32).read ftz (u.read a (if k = 1 then 2 else 4))))

/-- Accumulator a of x with one panel added to each element, as y has it; every other accumulator is as it was, and ASAT notes a clamp
(11 Table 11-4). -/
def PanelAdded (x y : Block) (f : TileFormat) (a : Nat) (rows cols : List PanelRow) : Prop :=
  let r := fun (i c : Nat) => panelStep f (cellGet x.accs (4096 * a + 64 * i + c)) (listAt rows i default) (listAt cols c default)
  (∀ i c, i < 64 → c < 64 → cellGet y.accs (4096 * a + 64 * i + c) = (r i c).1) ∧
  (∀ k, k / 4096 ≠ a → cellGet y.accs k = cellGet x.accs k) ∧
  (∀ k, k < 4 → y.pacer.asat.getLsbD k =
    (x.pacer.asat.getLsbD k || (decide (k = a) && (List.range 64).any (fun i => (List.range 64).any (fun c => (r i c).2)))))

/-- Bytes after writes of (address, length, value), in order. -/
def bytesAfter (m : Nat → Byte) (ws : List (Nat × Nat × Nat)) : Nat → Byte :=
  ws.foldl (fun m w x => if w.1 ≤ x ∧ x < w.1 + w.2.1 then BitVec.ofNat 8 (w.2.2 / 256 ^ (x - w.1)) else m x) m

/-- Row i of an accumulator. -/
def accRowOf (x : Block) (a i : Nat) : List (BitVec 32) := (List.range 64).map (fun c => cellGet x.accs (4096 * a + 64 * i + c))

/-- An element of an accumulator as a value: the exact integer, or the FP32 number (11 R241). -/
def accumulated (f : TileFormat) (ftz : Bool) (w : BitVec 32) : FVal :=
  if f.acct = 1 then .num (decide (w.toInt < 0)) w.toInt.natAbs 0 else fp32.read ftz w.toNat

/-- What a TDRAIN writes for a row: each element rounded to FP32 or BF16, or two BFP-n blocks of planes and then their exponents
(11 R241; 06 R146). -/
def drained (f : TileFormat) (rm : BitVec 2) (ofm n : Nat) (row : List (BitVec 32)) : List Nat :=
  let q := fun (j : Nat) => bfpq (((row.drop (32 * j)).take 32).map (accumulated f (decide (f.ftz = 1 ∧ f.acct = 0)))) n
  if ofm = 2 then (List.range 2).flatMap (fun j => (List.range n).map (fun k => plane (q j).2.1 k)) ++ [(q 0).1, (q 1).1]
  else row.map (fun w => ((if ofm = 0 then fp32 else bf16).ofVal rm (decide (f.ftz = 1)) (accumulated f false w)).v.toNat)

/-- y is x after an arrival of a party at barrier k with count n was counted (11 R243). -/
def Counted (x y : Block) (party k n : Nat) : Prop :=
  ((x.bar k).cnt + 1 = n → (y.bar k).gen = (x.bar k).gen + 1 ∧ (y.bar k).cnt = 0) ∧
  ((x.bar k).cnt + 1 ≠ n → (y.bar k).gen = (x.bar k).gen ∧ (y.bar k).cnt = (x.bar k).cnt + 1 ∧ (y.bar k).exp = n) ∧
  tabGet? y.arrived (16 * party + k) = some (x.bar k).gen ∧ (∀ j, j ≠ k → y.bar j = x.bar j) ∧
  y = { x with bars := y.bars, arrived := y.arrived, passed := y.passed, arrivals := y.arrivals, pacer := y.pacer }

/-- Nobody of block b waits at a barrier but k, and there in its present generation with nothing outstanding. -/
def WaitersAt (s : State) (b k : Nat) : Prop :=
  let x := s.block b
  x.arrivals = [] ∧
  (∀ q ∈ s.squadsOf b, ∀ j, (s.squad q).run = .barrier j →
    j = k ∧ (s.squad q).out = [] ∧ tabGet? x.arrived (16 * sqidOf q + k) = some (x.bar k).gen) ∧
  (∀ j m, x.pacer.run = .barrier j m → j = k ∧ tabGet? x.arrived (256 + k) = some (x.bar k).gen)

/-- The present generation of barrier k ended with an arrival of party a, the last one counted (11 R243; 10 R224): the next begins with
no arrival, every squad that waited goes on behind its word, and the Pacer behind its TBARW; each has seen what those released who
arrived before, and the last. -/
def GenerationEnds (s t : State) (b k : Nat) (a : Party) : Prop :=
  let x := s.block b; let y := t.block b; let p := x.pacer
  (y.bar k).gen = (x.bar k).gen + 1 ∧ (y.bar k).cnt = 0 ∧ SameBytes s t ∧
  (∀ q ∈ s.squadsOf b, (s.squad q).run = .barrier k → tabGet? y.arrived (16 * sqidOf q + k) = none ∧
    t.squad q = { s.squad q with run := .running, pc := (s.squad q).pc + 4, latch := none } ∧
    HasSeen t (.squad q) ((x.bar k).seen ++ s.seenBy a)) ∧
  (∀ m, p.run = .barrier k m → tabGet? y.arrived (256 + k) = none ∧ HasSeen t (.pacer b) ((x.bar k).seen ++ s.seenBy a) ∧
    y.pacer = { p with tpc := p.tpc + 8, run := if m = 1 ∧ p.flight ≠ [] then .held else .running })

/-- An arrival with count n agrees with those counted before it and lies in 1..17. -/
def GoodCount (x : Block) (k n : Nat) : Prop := 1 ≤ n ∧ n ≤ 17 ∧ ((x.bar k).cnt ≠ 0 → (x.bar k).exp = n)

-- Posts (13 R267 to R273; 14 R281) --------------------------------------------------------------------------------------------------

/-- The acting squad ready to execute a word that waits for nothing: nothing is outstanding and no source is latched. s as it is
when the word's checks begin, and s with its region ended. -/
def Unparked (s : State) : Prop := s.sq.out = [] ∧ s.sq.latch = none
def State.unlatched (s : State) : State := s.setSq { s.sq with latch := none }
def State.regionEnded (s : State) : State := s.setSq { s.sq with region := none }

/-- The checks of a word left the machine at w, the squads as they were: it has seen what it read (10 R211). -/
def Checked (s w : State) : Prop :=
  w.actor = s.actor ∧ w.clock = s.clock ∧ SameSquadsBut s.actor s w ∧ w.sq = { s.sq with latch := none } ∧
  OnlyLearns s w (.squad s.actor)

/-- A post's local ranges pass, leaving the machine at w with storage and pins a, and its channel is declared, has slots and has
room in its queue (13 R267). -/
def PostPasses (u w : State) (ranges : List LocalRange) (a : Resolved) : Prop :=
  let q := u.actor
  let ch := tabGet (u.field (u.fieldOf q)).chans u.sq.chsel.toNat {}
  ch.posts ≠ 0 ∧ ch.rsv ≠ 0 ∧ u.localRanges q ranges {} = (w, a) ∧ a.fail = none ∧
  ch.queue.length + w.postsPending (u.retOf q) (u.gangOf q).job u.sq.chsel.toNat < ch.posts

/-- The acting squad's post is outstanding for acceptance into its channel, with what it asks for, its region has ended, and the
squad goes on. -/
def PostLeft (s w t : State) (m : BitVec 1) (kind : PostKind) (a : Resolved) : Prop :=
  ScalarLeaves w.regionEnded t m .ordinary 0 (.post s.sq.chsel.toNat
    { id := w.clock, squad := some s.actor, gang := some (gangOfSquad s.actor), kind := kind, segs := a.segs, pins := a.pins }) none ∧
  Checked s w ∧ SameSquadsBut s.actor s t

-- Operations carried out (13 R261 to R266, R269 to R278; 14 R281, R282) ---------------------------------------------------------------

/-- No collective is queued and no part has started on any channel. -/
def NoParts (s : State) : Prop :=
  ∀ e ∈ s.fields, ∀ c ∈ e.2.chans, ∀ p ∈ c.2.queue, p.kind.collective? = none ∧ p.started = false

/-- t's memory is v's but for a list of writes made in order, each an address and its bytes: a byte that none covers is as before,
and one that a write covers and no later one is that write's. -/
def Wrote (v t : State) (ws : List (Nat × List Byte)) : Prop :=
  (∀ x, (∀ w ∈ ws, x < w.1 ∨ w.1 + w.2.length ≤ x) → t.byte x = v.byte x) ∧
  ∀ pre w post, ws = pre ++ w :: post → ∀ i, i < w.2.length →
    (∀ z ∈ post, w.1 + i < z.1 ∨ z.1 + z.2.length ≤ w.1 + i) → t.byte (w.1 + i) = w.2.getD i 0

/-- Units of one element of an atomic, in bytes. -/
def amoBytes (dbl : Bool) : Nat := if dbl then 8 else 4

/-- The rank that a data operation's requests go to (the first of a group), its units in all, and whether a compiled transfer of it
is cut into requests of 4 KiB (13 R261, R268 to R272). -/
def wireOf (k : PostKind) : Option (Nat × Nat × Bool) :=
  match k with
  | .get _ _ rank F => some (rank, F, true)
  | .put _ _ rank F => some (rank, F, true)
  | .amo _ _ rank _ dbl F => some (rank, 32 * F / amoBytes dbl, false)
  | .mst _ g _ F => some ((groupOf g).first, (groupOf g).count * F, false)
  | .mld _ _ g _ _ F => some ((groupOf g).first, (groupOf g).count * F, false)
  | _ => none

/-- How many requests an operation of n units has, and the units of request k. -/
def requestCount (src : InjectSource) (n : Nat) (cut : Bool) : Nat :=
  match src with | .xfer _ => if cut then (n + 127) / 128 else 1 | .chan _ => 1
def requestUnits (src : InjectSource) (n : Nat) (cut : Bool) (k : Nat) : List Nat :=
  match src with
  | .xfer _ => if cut then (List.range (min 128 (n - 128 * k))).map (128 * k + ·) else List.range n
  | .chan _ => List.range n

/-- Local address and flits of the data that a request carries. -/
def carriedFlits (k : PostKind) (units : List Nat) : BitVec 64 × List Nat :=
  match k with
  | .put _ loc _ _ => (loc, units)
  | .mst _ _ loc F => (loc, List.range F)
  | .amo _ loc _ op _ F => (loc, List.range (if op = 7 then 2 * F else F))
  | _ => (0, [])

/-- Slots that a source's requests have in use. -/
def Field.slotsUsed (f : Field) (src : InjectSource) : Nat :=
  match src with | .chan c => (tabGet f.chans c {}).used | .xfer _ => f.xferUsed

/-- Rank, address and bytes of a unit at the far end, and whether the unit writes there (13 R269 to R272). -/
def farUnit (k : PostKind) (rank u : Nat) : Nat × BitVec 64 × Nat × Kind :=
  match k with
  | .get _ rem _ _ => (rank, rem + BitVec.ofNat 64 (32 * u), 32, .read)
  | .put rem _ _ _ => (rank, rem + BitVec.ofNat 64 (32 * u), 32, .write)
  | .amo rem _ _ _ dbl _ => (rank, rem + BitVec.ofNat 64 (amoBytes dbl * u), amoBytes dbl, .write)
  | .mst rem g _ F => ((groupOf g).first + u / F * (groupOf g).stride, rem + BitVec.ofNat 64 (32 * (u % F)), 32, .write)
  | .mld _ rem g _ _ F => ((groupOf g).first + u / F * (groupOf g).stride, rem + BitVec.ofNat 64 (32 * (u % F)), 32, .read)
  | _ => (rank, 0, 0, .read)

/-- combine(t, x) of 13 Table 13-7, op as its codes: integers of 32 bits, signed for ef 3, added modulo 2^32; else the floating sum, rounded
once by rm with subnormals kept, or the lesser or greater of 07 R159. -/
def combineStep (op ef : Nat) (rm : BitVec 2) (x y : Nat) : Nat :=
  let less := fun (a b : Nat) => if ef = 3 then decide ((BitVec.ofNat 32 a).toInt < (BitVec.ofNat 32 b).toInt) else decide (a < b)
  if ef = 3 ∨ ef = 6 then
    match op with
    | 0 => (x + y) % 2 ^ 32
    | 1 => if less y x then y else x
    | 2 => if less x y then y else x
    | 3 => x &&& y
    | 4 => x ||| y
    | _ => x ^^^ y
  else match op with
    | 0 => ((ffmt ef).sum rm false [(ffmt ef).read false x, (ffmt ef).read false y]).v.toNat
    | 1 => ((ffmt ef).minMax false false x y).v.toNat
    | _ => ((ffmt ef).minMax true false x y).v.toNat

/-- Values taken together in ascending order of the members, one rounding a step (13 R272). -/
def combineStepAll (op ef : Nat) (rm : BitVec 2) (xs : List Nat) : Nat :=
  match xs with
  | [] => 0
  | x :: rest => rest.foldl (combineStep op ef rm) x

/-- What the whole response of a request writes at the requester, in order (13 R266, R270, R272): the flits of a get, the old values of
an atomic, the combined flits of an XMLD. -/
def responseWrites (p : Posted) (q : Request) : List (Nat × List Byte) :=
  match p.kind with
  | .get loc _ _ _ => q.back.filterMap (fun u =>
      (p.place (loc + BitVec.ofNat 64 (32 * u))).map (fun a => (a, cellBytes q.data (32 * u) 32)))
  | .amo loc _ _ op dbl F => (List.range (32 * F / amoBytes dbl)).filterMap (fun i =>
      let o := (if op = 7 then 2 else 1) * (amoBytes dbl * i)
      (p.place (loc + BitVec.ofNat 64 o)).map (fun a => (a, cellBytes q.data o (amoBytes dbl))))
  | .mld loc _ g op ef F =>
    let b := efBits ef / 8
    (List.range F).filterMap (fun f => (p.place (loc + BitVec.ofNat 64 (32 * f))).map (fun a => (a,
      (List.range (32 / b)).flatMap (fun i => numBytes b (combineStepAll op ef 0
        ((List.range (groupOf g).count).map (fun m => cellNum q.data (32 * (m * F + f) + i * b) b)))))))
  | _ => []

/-- The carry-time fault that an operation of a source ends with (13 R278). -/
def Posted.failure (p : Posted) (src : InjectSource) (sub : BitVec 8) : Failure :=
  match src with
  | .chan c => ⟨p.squad, p.gang, false, sub, c⟩
  | .xfer _ => ⟨p.squad, p.gang, true, sub, 0⟩

/-- A data operation of a source of job j on reticle r leaves in requests (13 R261, R263, R264, R268, R270 to R272). In an exchange
superstep of its job, a slot free, its ranks valid and no device of theirs fenced, its next request leaves with the local bytes it
carries, and has the slot; a rank that is not valid ends the operation with SUB 0x08. -/
def RequestsLeave (s : State) (r j : Nat) (src : InjectSource) (p : Posted) : Prop :=
  let fk := fieldKey r j; let d := devOfRet r; let f := s.field fk
  ∀ rank n cut queued, wireOf p.kind = some (rank, n, cut) → s.carries d j = true → f.nextOp src = some p → f.slotFree src = true →
    (∀ c, src = .chan c → (tabGet f.chans c {}).ordered = false) →
    let units := requestUnits src n cut p.sent
    let good := fun (k : Nat) => rankValid (s.rankLatched d j k) && !((s.dev d).fenced.contains (rankDev (s.rankLatched d j k)))
    let far := fun (k : Nat) => State.external r (s.rankLatched d j k) queued
    let loc := carriedFlits p.kind units
    (∀ u p2, p.ranks.all good = true → p.ranks.any far = false ∨ s.mayLeave r = true →
      s.localPart r j src p ⟨rank, units⟩ = .ok u p2 →
      (∀ k ∈ loc.2, ∀ i, i < 32 → ∃ a, p2.place (loc.1 + BitVec.ofNat 64 (32 * k + i)) = some a ∧
        u.isBad a 1 = false ∧ u.wsLocked a = false ∧ u.wsRefreshing a = false) →
      ∃ t y, exec (.relayInject r j src queued) s = .next t ∧ SameBytes u t ∧ t.squads = s.squads ∧
        tabGet? (t.ret r).requests s.clock = some y ∧
        y = { job := j, chan := src, op := p.id, part := p.sent, exts := p.ranks.filter far, rank := rank, waiting := none,
              todo := units, back := [], data := y.data, failed := none } ∧
        (∀ k ∈ loc.2, ∀ i, i < 32 → ∀ a, p2.place (loc.1 + BitVec.ofNat 64 (32 * k + i)) = some a →
          cellGet y.data (32 * k + i) = u.byte a) ∧
        (t.field fk).slotsUsed src = f.slotsUsed src + 1 ∧ (t.field fk).op? src p.id = some { p2 with sent := p.sent + 1 }) ∧
    (p.ranks.all good = false →
      ∃ t, exec (.relayInject r j src queued) s = .next t ∧ SameBytes s t ∧ t.squads = s.squads ∧ (t.field fk).op? src p.id = none ∧
        (t.field fk).failures = f.failures ++ [p.failure src 8])

/-- The units of the operation write without reading. -/
def plainWrite (k : PostKind) : Bool := match k with | .put _ _ _ _ => true | .mst _ _ _ _ => true | _ => false

/-- A unit of a data operation's request arrives (13 R259, R265, R269 to R272): at a device that is the requester's own or in an
exchange superstep, its job there and its page present, it is performed at the storage its address translates to there. A put or an
XMST writes the flit it carries and no other byte; a get or an XMLD brings the flit that is there; an XAMO writes what its operation
gives and brings the old value. -/
def UnitsArrive (s : State) (r j : Nat) (src : InjectSource) (p : Posted) : Prop :=
  let d := devOfRet r; let f := s.field (fieldKey r j)
  ∀ k i u q v a ca w, wireOf p.kind = some w → tabGet? (s.ret r).requests k = some q → q.chan = src → q.job = j → f.op? src q.op = some p →
    q.todo[i]? = some u → q.waiting = none → q.failed = none →
    let far := farUnit p.kind q.rank u
    let e := s.rankLatched d j far.1
    let d2 := rankDev e
    (d2 ≠ d → s.computing d2 = false) → (s.dev d2).fenced.contains d = false → (s.dev d).fenced.contains d2 = false →
    s.jobLive d2 j = true → rankAt e < 48 → s.orderHolds r j src p.id far.1 = false →
    s.remoteAt j e far.2.1 far.2.2.2 = (v, .ok a ca) →
    plainWrite p.kind = true ∨ v.isBad a far.2.2.1 = false →
    ∃ t y, exec (.relayRequestArrival r k (some i)) s = .next t ∧ t.squads = s.squads ∧
      tabGet? (t.ret r).requests k = some y ∧ y.todo = q.todo.erase u ∧ y.back = q.back ++ [u] ∧ y.failed = none ∧
      match p.kind with
      | .put _ _ _ _ => ∀ b, t.byte b = if a ≤ b ∧ b < a + 32 then cellGet q.data (32 * u + (b - a)) else v.byte b
      | .mst _ _ _ F => ∀ b, t.byte b = if a ≤ b ∧ b < a + 32 then cellGet q.data (32 * (u % F) + (b - a)) else v.byte b
      | .amo _ _ _ op dbl _ =>
        let n := amoBytes dbl
        let o := (if op = 7 then 2 else 1) * (n * u)
        cellNum y.data o n = v.read a n ∧ ∀ x ∈ rmwRows, x.1 = op → Stores v t a n
          (x.2 n (v.read a n) (cellNum q.data (if op = 7 then o + n else o) n) (cellNum q.data o n))
      | _ => SameBytes v t ∧ ∀ b, b < 32 → cellGet y.data (32 * u + b) = v.byte (a + b)

/-- The response of a request that has done all its units writes what it brings and frees the request's slot, and the last one ends the
operation, whose pins are free; a get's response may come flit by flit; one that says the request failed ends the operation with SUB
0x08 (13 R264 to R266, R270, R272, R278). -/
def ResponsesArrive (s : State) (r j : Nat) (src : InjectSource) (p : Posted) : Prop :=
  let fk := fieldKey r j; let f := s.field fk
  ∀ k q cycles rank n cut, wireOf p.kind = some (rank, n, cut) → tabGet? (s.ret r).requests k = some q → q.chan = src → q.job = j →
    q.orphan = false → f.op? src q.op = some p →
    let left := fun (t : State) => (t.ret r).requests.map (·.1) = (tabDel (s.ret r).requests k).map (·.1) ∧
      (t.field fk).slotsUsed src = f.slotsUsed src - 1
    (q.failed = none → q.todo = [] →
      (∃ t, exec (.relayResponseArrival r k none cycles) s = .next t ∧ t.squads = s.squads ∧ Wrote s t (responseWrites p q) ∧ left t ∧
        (requestCount src n cut ≤ p.acked + 1 → (t.field fk).op? src p.id = none ∧ (t.ret r).pins = dropPins (s.ret r).pins p.pins) ∧
        (p.acked + 1 < requestCount src n cut → ∃ p2, (t.field fk).op? src p.id = some p2 ∧ p2.acked = p.acked + 1)) ∧
      (∀ i u loc rem x F, p.kind = .get loc rem x F → q.back[i]? = some u →
        ∃ t y, exec (.relayResponseArrival r k (some i) cycles) s = .next t ∧ t.squads = s.squads ∧
          Wrote s t (responseWrites p { q with back := [u] }) ∧
          tabGet? (t.ret r).requests k = some y ∧ y.back = q.back.erase u)) ∧
    (q.failed ≠ none → ∃ t, exec (.relayResponseArrival r k none cycles) s = .next t ∧ SameBytes s t ∧ t.squads = s.squads ∧ left t ∧
      (t.field fk).op? src p.id = none ∧
      (t.field fk).failures = f.failures ++ [p.failure src 8])

/-- The parts of a collective at position me of n members, their cards or maps agreeing, each member's part
having read its data; post p of member me holds the flits of each member s that the list names as they leave it. -/
def HoldsAll (p : Posted) (parts : Nat → Posted) (me n : Nat) (flits : Nat → List Nat) : Prop :=
  ∀ s f, s < n → f ∈ flits s → tabGet? p.got (gotKey 0 s f) = some (cellPutList [] 0 ((parts s).unitBytes me f))

/-- 13 R274, R275: what a member of a collective writes, its contributions at hand, C elements of b bytes of each member: REDUCE,
REDUCE_SCATTER and the own slice of an ALLREDUCE (23 R362; log 24) the members' elements combined in ascending order by Table 13-7, BROADCAST the
root's, ALLGATHER each member's in turn. -/
def CollectiveValues : Prop :=
  ∀ (p : Posted) (parts : Nat → Posted) (cards : Nat → List (BitVec 64)) (me n : Nat),
    let c := cards me
    let C := collCount c; let b := collBytes c; let k := collKind c
    n = (collGroup c).count → me < n → n ≤ 4096 → p.kind = .coll c → 0 < b → 32 % b = 0 → collFlits c ≤ 2 ^ 32 →
    (∀ s, s < n → (parts s).kind = .coll (cards s) ∧ ∀ i, i < 3 → dblAt (cards s) i = dblAt c i) →
    HoldsAll p parts me n (fun s => (List.range (collFlits c)).filter (fun f =>
      (k ≠ 0 || sliceOwner (collFlits c) n f = me) && (k ≠ 2 || s = collRootPos c))) →
    ∀ i, i < collRecv c → ∃ e, (collDest c)[i]? = some e ∧ e.va = dblAt c 4 + BitVec.ofNat 64 (i * b) ∧ e.len = b ∧
      (k = 1 ∨ (k = 0 ∧ sliceOwner (collFlits c) n (i * b / 32) = me) → p.elemValue e = combineStepAll (collOp c) (collEf c) (collRm c)
        ((List.range n).map (fun s => cellNum (parts s).data (i * b) b))) ∧
      (k = 2 → collRootPos c < n → p.elemValue e = cellNum (parts (collRootPos c)).data (i * b) b) ∧
      (k = 3 → p.elemValue e = cellNum (parts (i / C)).data (i % C * b) b) ∧
      (k = 4 → p.elemValue e = combineStepAll (collOp c) (collEf c) (collRm c)
        ((List.range n).map (fun s => cellNum (parts s).data ((me * C + i) * b) b)))

/-- Coordinate and local index of index g along a dimension of grid extent P and block size B (14 R280). -/
def gridCoord (g P B : Nat) : Nat := if P = 1 then 0 else g / B % P
def gridLocal (g P B : Nat) : Nat := if P = 1 then g else g / (B * P) * B + g % B

/-- Position of the member that owns the element of indices x in a distribution of D dimensions, the lowest dimension the fastest grid
coordinate (14 R280). -/
def gridOwner (D : Nat) (grid blk x : Nat → Nat) : Nat :=
  ((List.range D).map (fun d => gridCoord (x d) (grid d) (blk d) * ((List.range d).map grid).prod)).sum

/-- Bits [lo + n - 1 : lo] of word k of record t of a layout map, and its dimensions and element size (14 Table 14-1). -/
def mapBits (m : List (BitVec 64)) (t k lo n : Nat) : Nat := (dblAt m (8 + 4 * t + k)).toNat / 2 ^ lo % 2 ^ n
def mapD (m : List (BitVec 64)) : Nat := (dblAt m 0).toNat / 2 ^ 60 + 1
def mapE (m : List (BitVec 64)) : Nat := 2 ^ ((dblAt m 0).toNat / 2 ^ 58 % 4)

/-- PERM of a map names each of its dimensions once. -/
def PermOk (m : List (BitVec 64)) : Prop :=
  ((List.range (mapD m)).map (fun q => mapBits m q 0 32 4)).Nodup ∧ ∀ q, q < mapD m → mapBits m q 0 32 4 < mapD m

/-- Number of the element of indices x in ascending order of destination index tuples, destination dimension 0 the fastest
(14 R282). -/
def wireNumber (m : List (BitVec 64)) (x : Nat → Nat) : Nat :=
  ((List.range (mapD m)).map (fun q => x (mapBits m q 0 32 4) * ((List.range q).map (fun i => mapBits m (mapBits m i 0 32 4) 0 0 32)).prod)).sum

/-- x is a global index of a map: below its extent in each dimension. -/
def InExtents (m : List (BitVec 64)) (x : Nat → Nat) : Prop := ∀ d, d < mapD m → x d < mapBits m d 0 0 32

/-- Position of the source owner and of the destination owner of the element of indices x (14 R280). -/
def sourceOf (m : List (BitVec 64)) (x : Nat → Nat) : Nat := gridOwner (mapD m) (fun d => mapBits m d 0 51 13) (fun d => mapBits m d 1 32 32) x
def targetOf (m : List (BitVec 64)) (x : Nat → Nat) : Nat := gridOwner (mapD m) (fun d => mapBits m d 0 38 13) (fun d => mapBits m d 1 0 32) x

/-- Byte offset of the element of indices x from the source base, and from the destination base (14 R281). -/
def sourceOffset (m : List (BitVec 64)) (x : Nat → Nat) : Int :=
  ((List.range (mapD m)).map (fun d => (gridLocal (x d) (mapBits m d 0 51 13) (mapBits m d 1 32 32) : Int) * (dblAt m (8 + 4 * d + 2)).toInt)).sum
def targetOffset (m : List (BitVec 64)) (x : Nat → Nat) : Int :=
  ((List.range (mapD m)).map (fun q => let d := mapBits m q 0 32 4
    (gridLocal (x d) (mapBits m d 0 38 13) (mapBits m d 1 0 32) : Int) * (dblAt m (8 + 4 * q + 3)).toInt)).sum

/-- 14 R282: the piece from member s to member t is, in ascending order, exactly the elements that s owns at the source and t at the
destination. -/
def PieceElements : Prop :=
  ∀ (m : List (BitVec 64)) (s t : Nat), PermOk m →
    (piece m s t).Pairwise (· < ·) ∧
    ∀ g, g ∈ piece m s t ↔ ∃ x, InExtents m x ∧ wireNumber m x = g ∧ sourceOf m x = s ∧ targetOf m x = t

/-- 14 R280 to R282: the element of global indices x goes from the member that holds it, which reads it at its offset from that member's
source base, to the member that is to have it, at its offset from that one's destination base, with the value that was read. Strides
may differ from member to member. -/
def TransposeValues : Prop :=
  ∀ (p : Posted) (parts : Nat → Posted) (maps : Nat → List (BitVec 64)) (srcs dsts : Nat → BitVec 64) (me n : Nat) (x : Nat → Nat),
    let m := maps me; let e := mapE m; let s := sourceOf m x; let g := wireNumber m x
    n = (mapGroup m).count → me < n → n ≤ 4096 → p.kind = .txa m (srcs me) (dsts me) → PermOk m → InExtents m x →
    ((List.range (mapD m)).map (fun d => mapBits m d 0 0 32)).prod ≤ 2 ^ 32 → targetOf m x = me → s < n →
    (∀ k, k < n → (parts k).kind = .txa (maps k) (srcs k) (dsts k) ∧ (mapGroup m).position (mapSelf (maps k)) = k ∧
      ∀ i, i ≠ 2 → (i < 8 ∨ i % 4 < 2) → dblAt (maps k) i = dblAt m i) →
    HoldsAll p parts me n (fun k => List.range (flitCount ((piece m k me).length * e))) →
    (srcs s + BitVec.ofInt 64 (sourceOffset (maps s) x), g * e, e) ∈ (parts s).partSources ∧
    ∃ y ∈ txaDest m (dsts me), y.va = dsts me + BitVec.ofInt 64 (targetOffset m x) ∧ y.len = e ∧
      p.elemValue y = cellNum (parts s).data (g * e) e

/-- 13 R273; 14 R281: what a part of a collective or of a transpose reads when it starts is, byte for byte, what stands at the storage of
its local addresses. -/
def PartReads : Prop :=
  ∀ (t u : State) (q : Party) (p : Posted) (cs : Cells 8), p.kind.collective? ≠ none → t.readLocal q p p.partSources = .ok u cs → SameBytes t u ∧
    ∀ z ∈ p.partSources, ∀ i, i < z.2.2 → ∀ a, p.place (z.1 + BitVec.ofNat 64 i) = some a → cellGet cs (z.2.1 + i) = t.byte a

/-- 13 Table 13-8, Table 13-6: the fields of a card. -/
def CardFields : Prop :=
  ∀ (c : List (BitVec 64)), let w := fun (k lo n : Nat) => (dblAt c k).toNat / 2 ^ lo % 2 ^ n
    collKind c = w 0 60 4 ∧ collOp c = w 0 57 3 ∧ collEf c = w 0 53 4 ∧ (collRm c).toNat = w 0 51 2 ∧ collCount c = w 1 0 32 ∧
    collRoot c = w 2 37 12 ∧ collGroup c = ⟨w 2 0 12, w 2 12 13, w 2 25 12⟩ ∧ collSelf c = w 5 0 12

/-- 13 R275, R276: a collective whose group has one member, the only operation of the field, is carried out in one event of its
exchange superstep: SEND is written to RECV, no other byte, and the operation is complete. -/
def LoneCollective : Prop :=
  ∀ (s : State) (r j c queued a b : Nat) (p : Posted) (f : Field) (ch : Channel) (card : List (BitVec 64)),
    let d := devOfRet r; let fk := fieldKey r j; let L := collCount card * collBytes card
    j < 65536 → s.fields = [(fk, f)] → f.chans = [(c, ch)] → ch.queue = [p] → ch.ordered = false → f.begun = [] → s.mismatch = [] →
    p.kind = .coll card → p.started = false → p.sent = 0 → p.acked = 0 → p.got = [] → p.wrote = [] → s.carries d j = true →
    collGroup card = ⟨collSelf card, 1, (collGroup card).stride⟩ → collRoot card = collSelf card → collKind card < 5 →
    0 < collCount card → 0 < collBytes card → 32 % collBytes card = 0 → rankValid (s.rankLatched d j (collSelf card)) = true →
    (∀ i, i < L → p.place (dblAt card 3 + BitVec.ofNat 64 i) = some (a + i) ∧ p.place (dblAt card 4 + BitVec.ofNat 64 i) = some (b + i) ∧
      s.isBad (a + i) 1 = false ∧ s.wsLocked (a + i) = false ∧ s.wsRefreshing (a + i) = false) →
    ∃ t, exec (.relayInject r j (.chan c) queued) s = .next t ∧ t.squads = s.squads ∧ (t.field fk).op? (.chan c) p.id = none ∧
      ∀ x, t.byte x = if b ≤ x ∧ x < b + L then s.byte (a + (x - b)) else s.byte x

-- Copy engines (12) -------------------------------------------------------------------------------------------------------------------

/-- No service port of a reticle holds a chain back. -/
def NoPending (s : State) (r : Nat) : Prop := ∀ p, (tabGet (s.ret r).eports p {}).pending = []

/-- The card at the head of an engine's queue. -/
def HeadCard (s : State) (r e id : Nat) (rest : List Nat) (c : Card) : Prop :=
  tabGet (s.ret r).queues e [] = id :: rest ∧ tabGet? (s.ret r).cards id = some c

-- Gangs (03 R71; 04 R89 to R107; 11 R243, R244; 17 R329) -----------------------------------------------------------------------------

/-- A byte that is none of a gang's frame's (16 R319); a gang without a frame has none. -/
def OutsideFrame (x : Gang) (a : Nat) : Prop := ∀ o, x.frame = some o → a < x.frameAt o ∨ x.frameAt o + x.desc.frameSize ≤ a

/-- No squad of a block waits at a divergence word or a barrier, and the Pacer waits at none and has no fault to deliver. -/
def CalmBlock (s : State) (b : Nat) : Prop :=
  QuietBlock s b ∧ (∀ q ∈ s.squadsOf b, ∀ w, (s.squad q).run ≠ .diverge w) ∧ (s.block b).pacer.faults = []

/-- The acting squad may leave a superstep: outside its handler, no construct of its block open, nothing outstanding. -/
def MayLeave (s : State) : Prop :=
  Unparked s ∧ s.sq.handler = none ∧ (s.block (blockOfSquad s.actor)).stack = [] ∧ CalmBlock s (blockOfSquad s.actor)

/-- 11 R243, R244: a BARA or BARS that is the last arrival its generation expects, the others waiting for it: the generation ends, those
who waited go on, and so does the squad of the word. -/
def LastArrivals : Prop :=
  ∀ (s : State) (m : BitVec 1) (k : BitVec 4) (a : BitVec 6), let b := blockOfSquad s.actor; let y := s.block b
    Unparked s → WaitersAt s b k.toNat → s.sq.run = .running → squadKey b (sqidOf s.actor) = s.actor → s.actor ∈ s.squadsOf b →
    GoodCount y k.toNat (s.sq.readS a).toNat → (y.bar k.toNat).cnt + 1 = (s.sq.readS a).toNat →
    let others := fun (t : State) => ∀ q, q ≠ s.actor → ¬(q ∈ s.squadsOf b ∧ (s.squad q).run = .barrier k.toNat) → t.squad q = s.squad q
    (∃ t, exec (.bara m k a) s = .next t ∧ GenerationEnds s t b k.toNat (.squad s.actor) ∧ others t ∧
      t.sq = { s.sq with region := none, pc := s.sq.pc + 4 }) ∧
    (s.sq.bars = none →
      ∃ t, exec (.bars m k a) s = .next t ∧ GenerationEnds s t b k.toNat (.squad s.actor) ∧ others t ∧
        t.sq = { s.sq with region := none, pc := s.sq.pc + 4 } ∧
        HasSeen t (.squad s.actor) ((y.bar k.toNat).seen ++ s.seenBy (.squad s.actor)))

-- Supersteps (03) -----------------------------------------------------------------------------------------------------------------------

/-- Every gang of a device stands on its cores, with nothing outstanding and nobody at a barrier. -/
def Settled (s : State) (d : Nat) : Prop :=
  ∀ g ∈ s.gangsOn d, devOfRet (s.gang g).ret = d ∧ (s.gang g).place = .resident ∧ (∀ q ∈ s.gangSquads g, (s.squad q).out = [] ∧ ∀ k, (s.squad q).run ≠ .barrier k) ∧
    ∀ b ∈ s.blocksOf g, ∀ k m, (s.block b).pacer.run ≠ .barrier k m

/-- PHASE of device d is one more than before, and no other device's changes (03 R68). -/
def PhaseSteps (s t : State) (d : Nat) : Prop := (t.dev d).phase = (s.dev d).phase + 1 ∧ ∀ k, k ≠ d → (t.dev k).phase = (s.dev k).phase

/-- What a compute-to-exchange boundary leaves of the device's jobs, gangs and L1s, its gangs settled (03 R69, R73, R76; 09 R190): a
job all of whose gangs have synced, those terminated aside, goes one step on; a gang that has not synced is carried; every L1 is empty. -/
def StepsTaken (s t : State) (d : Nat) : Prop :=
  let late := (s.gangsOn d).filter (fun g => (s.gang g).term = none && !(s.gangSynced g))
  (∀ j x, tabGet? s.jobs (65536 * d + j) = some x → j < 65536 → let gs := (s.gangsOn d).filter (fun g => (s.gang g).job = j)
    let on := gs.all (fun g => (s.gang g).term.isSome || s.gangSynced g) && gs.any (fun g => (s.gang g).term = none)
    t.job (65536 * d + j) = { x with advanced := on, jstep := if on then x.jstep + 1 else x.jstep }) ∧
  (∀ g ∈ s.gangsOn d, (s.gang g).term = none → s.gangExited g = false →
    (t.gang g).carried = !(s.gangSynced g) ∧ (t.gang g).residence = (s.gang g).residence + 1) ∧
  (t.dev d).carried = BitVec.ofNat 16 (min late.length 65535) ∧
  ∀ g ∈ s.gangsOn d, ∀ b ∈ s.blocksOf g, (t.block b).l1 = []

/-- A device whose one reticle with work has a single launch and nothing else: no gang, no card, no transfer, no report held back. -/
def OneLaunch (s : State) (d r : Nat) (e : Entry) : Prop :=
  let x := s.ret r
  devOfRet r = d ∧ s.gangs = [] ∧ s.fields = [] ∧ s.liveRets d = [r] ∧ (s.dev d).held = [] ∧ x.entries = [e] ∧ x.outgoing = [] ∧
  x.cards = [] ∧ x.eports = [] ∧ x.ports = [] ∧ x.mailboxes = [] ∧ x.requests = [] ∧ checkDesc e.desc false = 0

/-- 04 R93, R94, R96; 16 R319: the plan made at a compute-to-exchange boundary places the one gang of a lone launch, for which a frame
and a spill area are free (log 42), on the lowest cores of column 0, in its launch's name. -/
def PlansLaunch : Prop :=
  ∀ (s : State) (d r ticks fr sp : Nat) (e : Entry), OneLaunch s d r e → s.computing d = true → e.left = 1 → e.desc.cores = 0 → e.desc.xplan = 0 →
    roomsFor (s.ret r).reserved [] [] e.desc.frameSize (s.spillBytes r e.desc) 1 = [(fr, sp)] →
    ∃ t, exec (.computeToExchangeBoundary d ticks) s = .next t ∧ (t.ret r).plan =
      some ⟨[⟨none, e.launch, e.desc, e.next, e.mbox, List.range e.desc.nblocks, some fr, some sp⟩], [], (s.ret r).age⟩

/-- A squad as its gang's launch starts it (04 R90): s1, s2 and s3 hold ARGS, the index and the mailbox's word, every other register
zero, m0 all ones, its lanes numbered from 32 SQID, at SENTRY and LENTRY with FMT0 and VWS. -/
def StartsAs (y : Squad) (p : Placement) (sqid : Nat) : Prop :=
  let d := p.desc
  y = { sregs := y.sregs, masks := y.masks, laneids := y.laneids, fmt := d.fmt0, pc := d.sentry, lpc := d.lentry, vws := d.nvws,
        slot := y.slot } ∧
  (∀ c, cellGet y.sregs c = if c = 1 then d.args else if c = 2 then BitVec.ofNat 64 p.index else if c = 3 then p.mbox else 0) ∧
  (∀ k, cellGet y.masks k = if k = 0 then 0xFFFFFFFF else 0) ∧ ∀ l, l < 32 → cellGet y.laneids l = BitVec.ofNat 32 (32 * sqid + l)

/-- 04 R90, R93, R97; 13 R260: an exchange-to-compute boundary carries out the plan of a lone launch: its gang stands on the cores of
the plan, GANGID 0, every squad as it starts, and each Pacer at TENTRY, idle where that is 0; the launch has one gang fewer to place. -/
def PlacesLaunch : Prop :=
  ∀ (s : State) (d r ticks : Nat) (e : Entry) (p : Placement) (age : BitVec 8), OneLaunch s d r e → s.computing d = false →
    (s.dev d).limited = false → (s.ret r).plan = some ⟨[p], [], age⟩ → p.gang = none → p.launch = e.launch → p.desc = e.desc →
    e.planned = true → (∀ c ∈ p.cores, (s.core (128 * r + c)).draining = false) →
    ∃ t g, exec (.exchangeToComputeBoundary d ticks) s = .next t ∧
      t.gang g = { ret := r, job := p.desc.job.toNat, desc := p.desc, launch := p.launch, index := p.index, gangid := 0, cores := p.cores,
                   placedAt := g, frame := p.frame, spill := p.spill } ∧
      (∀ b, b < p.desc.nblocks →
        t.block (4 * g + b) = { pacer := { tpc := p.desc.tentry, run := if p.desc.tentry = 0 then .idle else .running } } ∧
        ∀ q, q < p.desc.nsquads → StartsAs (t.squad (squadKey (4 * g + b) q)) p q) ∧
      (t.ret r).entries.map (·.left) = if e.left ≤ 1 then [] else [e.left - 1]

/-- A reticle with no work but its gangs. -/
def IdleReticle (x : Reticle) : Prop :=
  x.entries = [] ∧ x.outgoing = [] ∧ x.cards = [] ∧ x.eports = [] ∧ x.ports = [] ∧ x.mailboxes = [] ∧ x.requests = []

/-- A squad goes on from a wait for its job's step at address pc, and takes there what is pending (16 R308). -/
def Squad.goesOn (x : Squad) (pc : BitVec 64) : Squad :=
  { x with run := .running, pc := pc, faults := x.faults.map (fun f => { f with carry := false }) }

/-- 03 R71; 17 R329: at an exchange-to-compute boundary that nothing but gangs on their cores meet, a squad parked in SYNC goes on at
the next word with JSTEP in sd when its job's step has advanced, one parked in SYSC with its count in sd and each lane's reply in
registers A and A + 1 when it has every reply as well; every other squad stays as it is. -/
def ResumesParked : Prop :=
  ∀ (s : State) (d ticks : Nat), s.computing d = false → Settled s d → s.fields = [] →
    (∀ r ∈ s.liveRets d, IdleReticle (s.ret r) ∧ ∀ p, (s.ret r).plan = some p → p.placements = [] ∧ p.victims = []) →
    (∀ g ∈ s.gangsOn d, (s.gang g).term = none ∧ s.gangExited g = false) →
    (s.dev d).limited = false ∨ max 1024 (s.dev d).xlimitNow.toNat ≤ ticks →
    ∃ t, exec (.exchangeToComputeBoundary d ticks) s = .next t ∧ ∀ g ∈ s.gangsOn d, ∀ q ∈ s.gangSquads g,
      let x := s.squad q; let y := t.squad q; let now := (s.job (s.jobOf q)).jstep
      (∀ sd since, x.run = .sync sd since → (now = since → y = x) ∧
        (now ≠ since → y = { x.goesOn (x.pc + 4) with sregs := y.sregs } ∧
          ∀ r, y.readS r = if r = sd ∧ r ≠ 0 then now else x.readS r)) ∧
      (∀ c, x.run = .sysc c → (now = c.since ∨ c.todo ≠ [] → y = x) ∧
        (now ≠ c.since → c.todo = [] → c.a.toNat + 1 < x.vws → (c.got.map (·.1)).Nodup → (∀ e ∈ c.got, e.1 < 32) →
          y = { x.goesOn (x.pc + 4) with sregs := y.sregs, vregs := y.vregs } ∧
          (∀ r, y.readS r = if r = c.sd ∧ r ≠ 0 then BitVec.ofNat 64 c.count else x.readS r) ∧
          ∀ k l, k < x.vws → l < 32 → y.readV k l = match c.got.find? (fun e => e.1 = l) with
            | some e => if k = c.a.toNat then e.2.setWidth 32 else if k = c.a.toNat + 1 then (e.2 >>> 32).setWidth 32 else x.readV k l
            | none => x.readV k l)) ∧
      ((∀ sd since, x.run ≠ .sync sd since) → (∀ c, x.run ≠ .sysc c) → y = x)

/-- 04 R103; 16 R317: a gang away in YIELD that the plan places again returns at an exchange-to-compute boundary once the word of
every unexited squad of it has reached its value: each goes on at its continuation, its registers as its frame gives them back. It is here
the only gang of its device, nothing of its frame rewritten by the host or uncorrectable, and its images are back. -/
def ResumesYield : Prop :=
  ∀ (s : State) (d g ticks o : Nat) (p : Placement) (age : BitVec 8), let x := s.gang g; let r := x.ret
    s.gangs = [(g, x)] → s.liveRets d = [r] → devOfRet r = d → s.computing d = false → s.fields = [] → IdleReticle (s.ret r) → s.bad = [] →
    (s.dev d).limited = false → (s.ret r).plan = some ⟨[p], [], age⟩ → p.gang = some g →
    (∀ c ∈ p.cores, (s.core (128 * r + c)).draining = false) →
    x.place = .away .yield → (∀ w ∈ x.more, w ≠ .swap false ∧ w ≠ .repair false) → x.term = none → checkDesc x.desc false = 0 → x.frame = some o → x.frameAt o + x.desc.frameSize ≤ 2 ^ 80 →
    x.staged = [] → x.spilled = false → x.overS = [] → x.overB = [] → x.overH = false →
    (∀ b ∈ s.blocksOf g, ∀ k m, (s.block b).pacer.run ≠ .barrier k m) →
    let rec_ := fun (q : Nat) => x.desc.recordAt (x.frameAt o) (blkidOfSquad q) (sqidOf q)
    (∀ q ∈ s.gangSquads g, (s.squad q).out = [] ∧ s.read (rec_ q + 0x458) 8 / 2 ^ 20 % 8 = (s.squad q).run.code ∧
      ((s.squad q).exited = true ∨ ∃ a v c, (s.squad q).run = .yield a v c ∧ v.toNat ≤ s.read a 8 ∧ s.wsLocked a = false ∧
        s.wsRefreshing a = false)) →
    ∃ t, exec (.exchangeToComputeBoundary d ticks) s = .next t ∧ (t.gang g).place = .resident ∧ (t.gang g).cores = p.cores ∧
      ∀ q ∈ s.gangSquads g, let y := t.squad q
        (∀ k, 1 ≤ k → k < 128 → cellGet y.sregs k = BitVec.ofNat 64 (s.read (rec_ q + 8 * (k - 1)) 8)) ∧
        y.lpc = BitVec.ofNat 64 (s.read (rec_ q + 0x448) 8) ∧
        (∀ a v c, (s.squad q).run = .yield a v c → y.run = .running ∧ y.pc = c) ∧
        ((s.squad q).exited = true → y.run = (s.squad q).run)

/-- A gang's record is changed to x, and nothing else of the machine. -/
def OnlyGang (s t : State) (g : Nat) (x : Gang) : Prop :=
  t = { s with gangs := t.gangs } ∧ t.gang g = x ∧ ∀ k, k ≠ g → t.gang k = s.gang k

/-- Memory at a and n bytes on holds in t what s held at b. -/
def Copied (s t : State) (a b n : Nat) : Prop := ∀ i, i < n → t.byte (a + i) = s.byte (b + i)

-- Translation control, power, monitors (15; 18; 09 R194) -----------------------------------------------------------------------------------

/-- A shoot-down covers a leaf, or a line, of an address space (none: of all of them) and a run of pages (15 Table 15-4). -/
def Covered (x : Shoot) (asid : Option Nat) (page n : Nat) : Bool :=
  (bitAt x.ctl 47 || asid = some (x.ctl.toNat / 2 ^ 48)) &&
  (bitAt x.ctl 46 || (decide (page < x.sdva.toNat / 4096 % 2 ^ 45 + x.ctl.toNat % 2 ^ 36) && decide (x.sdva.toNat / 4096 % 2 ^ 45 < page + n)))

/-- Steps 1 and 2 of 15 R294 on reticles rs: first-level and column TLBs lose the leaves covered, the L1s of the address space's blocks
the lines of the range, and nothing else of them. -/
def Dropped (s t : State) (x : Shoot) (rs : List Nat) : Prop :=
  (∀ k, t.core k = { s.core k with
    tlb := (s.core k).tlb.filter (fun e => !(rs.contains (k / 128) && Covered x e.asid e.vpn e.pages)) }) ∧
  (∀ c, t.column c = (s.column c).filter (fun e => !(rs.contains (c / 32) && Covered x e.asid e.vpn e.pages))) ∧
  (∀ b, let g := s.gang (gangOfBlock b)
    t.block b = { s.block b with
      l1 := (s.block b).l1.filter (fun l => !(rs.contains g.ret && Covered x (some g.desc.asid.toNat) (l.vline / 32 % 2 ^ 45) 1)) })

/-- The leaves that a shoot-down has dropped, a reticle's own among them (15 R293, R294): those of its cores' and columns' TLBs. -/
def LeavesDropped (s : State) (x x1 : Shoot) (rs : List Nat) : Prop :=
  x1 = { x with leaves := x1.leaves } ∧
  ∀ k e, (k, e) ∈ x1.leaves ↔ (k, e) ∈ x.leaves ∨ (k ∈ rs ∧ Covered x e.asid e.vpn e.pages = true ∧
    ((∃ c ∈ s.cores, c.1 / 128 = k ∧ e ∈ c.2.tlb) ∨ ∃ c ∈ s.columns, c.1 / 32 = k ∧ e ∈ c.2))

/-- A squad of reticle k has an access outstanding that a dropped leaf translated, its page itself in the range or not. -/
def UsesLeaf (s : State) (x1 : Shoot) (k : Nat) : Prop :=
  ∃ g y q o l e, (g, y) ∈ s.gangs ∧ y.ret = k ∧ q ∈ s.gangSquads g ∧ o ∈ (s.squad q).out ∧ o.kind.loc? = some l ∧ isPhys l.addr = true ∧
    (bitAt x1.ctl 47 = true ∨ y.desc.asid.toNat = x1.ctl.toNat / 2 ^ 48) ∧
    (k, e) ∈ x1.leaves ∧ (e.asid = none ∨ e.asid = some y.desc.asid.toNat) ∧
    e.vpn ≤ l.va.toNat / 4096 % 2 ^ 45 ∧ l.va.toNat / 4096 % 2 ^ 45 < e.vpn + e.pages

/-- A reticle's record is changed to x, and nothing else of the machine. -/
def OnlyReticle (s t : State) (r : Nat) (x : Reticle) : Prop :=
  t = { s with rets := t.rets } ∧ t.ret r = x ∧ ∀ k, k ≠ r → t.ret k = s.ret k

/-- A device's record is changed to x, and nothing else of the machine. -/
def OnlyDevice (s t : State) (d : Nat) (x : Device) : Prop :=
  t = { s with devs := t.devs } ∧ t.dev d = x ∧ ∀ k, k ≠ d → t.dev k = s.dev k

/-- The 32-byte unit of machine address a comes to hold uncorrectable data, and nothing else changes (16 R366). -/
def Spoils (s t : State) (a : Nat) : Prop :=
  t = { s with bad := t.bad } ∧ ∀ b n, t.isBad b n = (s.isBad b n || (decide (a / 32 * 32 < b + n) && decide (b < a / 32 * 32 + 32)))

-- Host, service cluster, resets (10 R225, R226; 16 R366; 17) -----------------------------------------------------------------------------------

/-- What is read of n bytes at machine address m of reticle r: the bytes there, those the spec gives no layout for, and that the host has
not written, left open (17 R323). -/
def ReadsBytes (s : State) (r m n : Nat) (bs : List Byte) : Prop :=
  bs.length = n ∧ ∀ i, i < n → s.unlaid r ((m + i) % 2 ^ 46) = false ∨ s.wrote.contains (m + i) = true → bs[i]? = some (s.byte (m + i))

/-- t's memory is s's but for the bytes bs at m. -/
def PutBytes (s t : State) (m : Nat) (bs : List Byte) : Prop :=
  ∀ x, t.byte x = if m ≤ x ∧ x < m + bs.length then listAt bs (x - m) 0 else s.byte x

/-- Control registers that a write sets and a read shows, with the bits they have: those of a device, and those of reticle r by their
offset in its part of control space (03 Table 3-2; 04 Table 4-4; 12 Table 12-4; 15 Table 15-4; 17 Tables 17-2 and 17-4; 18 Table 18-1;
13 Tables 13-1 and 13-6). PHASE and BSTAT are not written. -/
def deviceRows : Rows Nat (BitVec 64) :=
  [(0x0, 0xFFFFFFFF), (0x8, 0xFFFFFFFF), (0x1010, BitVec.allOnes 64), (0x2000, BitVec.allOnes 64), (0x2020, BitVec.allOnes 64)] ++
  (List.range 4).map (fun i => (0x1020 + 8 * i, BitVec.allOnes 64)) ++ (List.range 16).map (fun i => (0x2108 + 16 * i, BitVec.allOnes 64))
def reticleRows : Rows Nat (BitVec 64) :=
  [(0x0, 0xFFFF00000001), (0x1000, 0x000FFFFFFFF80000), (0x1008, 0x01FFFFFFFFFFF000), (0x1010, 0xFFFFE00FFFFFFFFF),
   (0x1028, 0xFFFFFFFF), (0x1048, 0x000FFFFFFFFFFFF0), (0x6000, 0x7FF)] ++ (List.range 16).map (fun i => (0x8000 + 32 * i, 0x7FFFF))

/-- 00 R11, R12; 17 R326: a write to a control register sets the bits it has, which a read then shows; nothing but the record of its
device or reticle changes. -/
def RegistersWritten (s : State) (d : Nat) : Prop :=
  (∀ e ∈ deviceRows, ∀ v, ∃ t, exec (.registerWrite d e.1 v) s = .next t ∧ t = { s with devs := t.devs } ∧
    (∀ k, k ≠ d → t.dev k = s.dev k) ∧ t.ctlRead d e.1 = v &&& e.2) ∧
  (∀ e ∈ reticleRows, ∀ r v, r < 48 → let o := 0x1000000 + 0x10000 * r + e.1
    ∃ t, exec (.registerWrite d o v) s = .next t ∧ t = { s with rets := t.rets } ∧
      (∀ k, k ≠ 48 * d + r → t.ret k = s.ret k) ∧ t.ctlRead d o = v &&& e.2) ∧
  (∀ r e v, r < 48 → e < 1024 → let o := 0x1000000 + 0x10000 * r + 0x2000 + 16 * e
    (∃ t, exec (.registerWrite d o v) s = .next t ∧ t = { s with rets := t.rets } ∧ (∀ k, k ≠ 48 * d + r → t.ret k = s.ret k) ∧
      t.ctlRead d o = v &&& 0x000FFFFFFFFFFFFB) ∧
    (∃ t, exec (.registerWrite d (o + 8) v) s = .next t ∧ t = { s with rets := t.rets } ∧ (∀ k, k ≠ 48 * d + r → t.ret k = s.ret k) ∧
      t.ctlRead d (o + 8) = v &&& 0x000FFFFFFFFFFFC0)) ∧
  (∀ k v, k < 2 ^ 28 → ∃ t, exec (.registerWrite d (0x40000000 + 8 * k) v) s = .next t ∧
    OnlyDevice s t d { s.dev d with ranks := cellPut (s.dev d).ranks k (v &&& 0xC000FFFF00003F03) }) ∧
  (∀ k v, k < 2 ^ 26 → ∃ t w, exec (.registerWrite d (0xC0000000 + 8 * k) v) s = .next t ∧
    OnlyDevice s t d { s.dev d with apertures := cellPut (s.dev d).apertures k w } ∧
    w = if k % 4 = 0 then v &&& 0x8000001FFFFFFFFF else if k % 4 = 3 then 0 else v) ∧
  (∀ v, (∃ t, exec (.registerWrite d 0x10 v) s = .next t ∧ OnlyDevice s t d (s.dev d)) ∧
    (∃ t, exec (.registerWrite d 0x18 v) s = .next t ∧ OnlyDevice s t d (s.dev d)) ∧
    (∃ t, exec (.registerWrite d 0x1000 v) s = .next t ∧ OnlyDevice s t d
      { s.dev d with boot := { (s.dev d).boot with adone := (s.dev d).boot.adone && !(bitAt v 4) } }))

/-- 16 R366: service software's repair of a 32-byte unit of the weight store or another SRAM that holds uncorrectable data rewrites it;
of one that holds none it does nothing. -/
def UnitRepairs (s : State) (d : Nat) : Prop :=
  ∀ (data : List Byte), data.length = 32 → let go := fun (a : Nat) => exec (.serviceClusterMemoryAccess d a (.repair data)) s
    let word := fun (i : Nat) => BitVec.ofNat 32 (leValue ((data.drop (4 * i)).take 4))
    (∀ a, 2 ^ 80 ≤ a → a < 2 ^ 120 → a % 32 = 0 → (s.isBad a 32 = false → go a = .next s) ∧
      (s.isBad a 32 = true → ∃ t, go a = .next t ∧ t.squads = s.squads ∧ PutBytes s t a data ∧ t.isBad a 32 = false)) ∧
    (∀ b i, i < 16384 → i % 8 = 0 → let a := 2 ^ 120 + 3 * b * 2 ^ 18 + 4 * i
      (s.isBad a 32 = false → go a = .next s) ∧
      (s.isBad a 32 = true → ∃ t y, go a = .next t ∧ t = { s with blocks := t.blocks, bad := t.bad } ∧ t.isBad a 32 = false ∧
        t.block b = { s.block b with accs := y } ∧ (∀ c, c ≠ b → t.block c = s.block c) ∧
        ∀ k, cellGet y k = if i ≤ k ∧ k < i + 8 then word (k - i) else cellGet (s.block b).accs k)) ∧
    (∀ q i, i < 65536 → i % 8 = 0 → let a := 2 ^ 120 + (3 * q + 1) * 2 ^ 18 + 4 * i
      (s.isBad a 32 = false → go a = .next s) ∧
      (s.isBad a 32 = true → ∃ t y, go a = .next t ∧ t = { s with squads := t.squads, bad := t.bad } ∧ t.isBad a 32 = false ∧
        t.squad q = { s.squad q with vregs := y } ∧ SameSquadsBut q s t ∧
        ∀ k, cellGet y k = if i ≤ k ∧ k < i + 8 then word (k - i) else cellGet (s.squad q).vregs k)) ∧
    (∀ b k o line, o < 4 → k < 2048 → (s.block b).l1[k]? = some line → let a := 2 ^ 120 + (3 * b + 2) * 2 ^ 18 + 128 * k + 32 * o
      (line.isBad (32 * o) 32 = false → go a = .next s) ∧
      (line.isBad (32 * o) 32 = true → ∃ t y, go a = .next t ∧ t = { s with blocks := t.blocks } ∧ (∀ c, c ≠ b → t.block c = s.block c) ∧
        t.block b = { s.block b with l1 := (s.block b).l1.set k y } ∧ y = { line with bytes := y.bytes, bad := y.bad } ∧
        (y.isBad (32 * o) 32 = false) ∧
        ∀ z, cellGet y.bytes z = if 32 * o ≤ z ∧ z < 32 * o + 32 then listAt data (z - 32 * o) 0 else cellGet line.bytes z))

/-- The weight-store allotments that a job asks for are in range and free of those of the device's other jobs (01 Table 1-3; 09 R193). -/
def AllotmentsFree (s : State) (d : Nat) (p : JobParams) : Prop :=
  ∀ w ∈ p.ws, w.2.1 < 64 ∧ w.2.2 ≤ 64 ∧ (w.2.2 = 0 ∨ ∀ e ∈ s.jobs, e.1 / 65536 = d → e.1 % 65536 ≠ p.job.toNat →
    let f := s.field (fieldKey (48 * d + w.1) (e.1 % 65536))
    f.wssize = 0 ∨ f.wsbase + f.wssize ≤ w.2.1 ∨ w.2.1 + w.2.2 ≤ f.wsbase)

-- Encodings and steps -----------------------------------------------------------------------------------------------------

/-- What the bytes fetched are (02 R33, R35): those that the translated pieces of the word hold now; where they differ from
those of the start of the superstep, those or these, whole. Which of the two is free (log 5). -/
def FetchIs (s t : State) (b : Nat) (st : Stream) (pc : BitVec 64) (bs : List Byte) : Prop :=
  ∃ as, s.fetchWhere b (fetchParts st pc) [] = (t, .ok as) ∧ as.find? (fun a => t.isBad a.1 a.2) = none ∧
    bs = fetchBytes t.mem as ∧ fetchBytes t.code as = fetchBytes t.mem as

/-- The squad's record once a word of stream lane is fetched: lanes left over from a fault wait only for a word that is
replayed (09 R206). -/
def State.afterFetch (t : State) (lane : Bool) (i : Instr) : State :=
  if lane = true ∧ replayable i = true then t else t.setSq { t.sq with replay := none }

/-- 12 R253; 10 R214: at an issue turn a squad parked in WAITSEQ, with no fault to take, goes on behind its word once the doubleword has
reached the value, an acquire at the word's scope that empties the L1 from .gang on; until then it stays parked. -/
def WaitseqWakes : Prop :=
  ∀ (s : State) (q a scope : Nat) (v : BitVec 64), (s.squad q).run = .waitseq a v scope → s.mayRun q = true → (s.squad q).canTake = false →
    s.wsLocked a = false → s.wsRefreshing a = false → s.isBad a 8 = false → let t := s.wake q
    SameBytes s t ∧ OnlyLearns s t (.squad q) ∧ (∀ e ∈ s.readFrom seesAll a 8, HasSeen t (.squad q) [⟨e.serial, a, 8⟩]) ∧
    (s.read a 8 < v.toNat → t.squads = s.squads) ∧
    (v.toNat ≤ s.read a 8 → SameSquadsBut q s t ∧
      t.squad q = { s.squad q with run := .running, pc := (s.squad q).pc + 4, latch := none } ∧
      (3 ≤ scope → (t.block (blockOfSquad q)).l1 = []) ∧
      ∀ h ∈ s.headsAt seesAll a 8, s.inclusive h.party h.scope (.squad q) scope = true → HasSeen t (.squad q) h.seen)

/-- 16 R366: badSource names a unit with uncorrectable data that a lane word reads, of a vector register of its sources in an active lane, or in
any lane where it reads across lanes; it names one wherever an active lane's source lies in such a unit. -/
def SourcesGood : Prop :=
  ∀ (u : State) (i : Instr) (op : LaneOp) (f : LaneForm), i.lane? = some (op, f) →
    let unit := fun (r l : Nat) => 2 ^ 120 + (3 * u.actor + 1) * 2 ^ 18 + 4 * u.sq.vcell r l
    (∀ a, u.badSource i = some a → u.isBad a 4 = true ∧ ∃ r l, r ∈ (i.regs u.sq.fmt).2.2.1 ∧ l < 32 ∧ a = unit r l ∧
      (bitAt (u.sq.runs f.m) l = true ∨ op = 0x28 ∨ op / 16 = 8)) ∧
    (u.badSource i = none → f.badIndex op u.sq.vws = none → ∀ r ∈ (i.regs u.sq.fmt).2.2.1, ∀ l, l < 32 →
      bitAt (u.sq.runs f.m) l = true → u.isBad (unit r l) 4 = false)

/-- The windows of a squad are within what its job allots and hold 7 segments at most (05 R112, R113, R115). -/
def WindowsLegal (s : State) (q : Nat) : Prop :=
  let x := s.squad q
  let j := s.job (s.jobOf q)
  x.rlo ≤ x.swb ∧ x.swb + 3 ≤ x.rlo + 7 ∧ x.swb ≤ j.sseg ∧ x.vwb ≤ j.vseg

/-- No LANE has more than 4,096 words left, in progress, interrupted, or about to be; one in progress has a word left, or one to be
replayed (05 R126; 16 R310). -/
def LanesLegal (s : State) (q : Nat) : Prop :=
  let x := s.squad q
  x.lcnt.toNat ≤ 4096 ∧ (∀ r, x.lane = some r → r.left ≤ 4096 ∧ (r.left = 0 → x.replay ≠ none)) ∧
  (∀ k, x.handler = some k → k.lcnt.toNat ≤ 4096) ∧ ∀ u, x.run = .trapping u → u.lcnt.toNat ≤ 4096

/-- At most 32 entries of every block's reconvergence stack are in use (08 R171). -/
def StacksLegal (s : State) : Prop := ∀ b, s.entriesInUse b ≤ 32

/-- The count of a barrier is below what its generation expects (11 R243). -/
def BarriersLegal (s : State) : Prop := ∀ b k, ((s.block b).bar k).cnt = 0 ∨ ((s.block b).bar k).cnt < ((s.block b).bar k).exp

/-- What a reticle keeps free, and every channel's PRSV, together stay as they are: one channel gains what its reticle gives
(13 R263). -/
def SlotsMoved (s t : State) : Prop :=
  ∃ r j c, let prsv := fun (u : State) (k n : Nat) => (tabGet (u.field k).chans n {}).prsv
    let fk := fieldKey r j
    (t.ret r).freeSlots + prsv t fk c = (s.ret r).freeSlots + prsv s fk c ∧ (∀ k, k ≠ r → (t.ret k).freeSlots = (s.ret k).freeSlots) ∧
      ∀ k n, (k ≠ fk ∨ n ≠ c) → prsv t k n = prsv s k n

/-- The words that write windows, LANE counts, stacks, barriers and slots keep them within what the spec says they hold, from
any state: 05 R113, R116, R118 for CALL, CALLR and RET; R126 and 16 R310 for LANE, TRAP, RETT and the block's collective; 08 R171 for
divergence words and returns; 11 R243 for the barriers; 13 R263 for XCHAN. -/
def WordsKeepLegal : Prop :=
  (∀ (s t : State) (m : BitVec 1) (v : BitVec 5) (w : BitVec 2) (o : BitVec 18) (a : BitVec 6),
    exec (.call m v w o) s = .next t ∨ exec (.callr m v w a) s = .next t ∨ exec (.ret m) s = .next t →
    ∀ q, WindowsLegal s q → WindowsLegal t q) ∧
  (∀ (s t : State) (m : BitVec 1) (n : BitVec 19) (o : BitVec 18) (b : Nat), 1 ≤ n.toNat → n.toNat ≤ 4096 →
    exec (.lane m n) s = .next t ∨ exec (.trap m o) s = .next t ∨ exec (.rett m) s = .next t ∨
      exec (.divergenceCollectiveComplete b) s = .next t →
    (∀ q, LanesLegal s q) → ∀ q, LanesLegal t q) ∧
  (∀ (s t : State) (m : BitVec 1) (f : LaneForm) (o : BitVec 18) (b : Nat),
    exec (.divb f) s = .next t ∨ exec (.elseb f) s = .next t ∨ exec (.recv f) s = .next t ∨ exec (.regrp f) s = .next t ∨
      exec (.divergenceCollectiveComplete b) s = .next t ∨ exec (.trap m o) s = .next t ∨ exec (.rett m) s = .next t →
    StacksLegal s → StacksLegal t) ∧
  (∀ (s t : State) (m : BitVec 1) (k : BitVec 4) (a : BitVec 6) (c : BitVec 5) (b n : Nat),
    exec (.bara m k a) s = .next t ∨ exec (.barw m k) s = .next t ∨ exec (.bars m k a) s = .next t ∨ exec (.tbara m k c) s = .next t ∨
      exec (.tbarw m k) s = .next t ∨ exec (.barrierArrivalCount b n) s = .next t →
    BarriersLegal s → BarriersLegal t) ∧
  (∀ (s t : State) (m : BitVec 1) (a b : BitVec 6), exec (.xchan m a b) s = .next t ∨ exec (.xchanOrd m a b) s = .next t → SlotsMoved s t)

end Sys2Proof.Machine

open Sys2Proof Sys2Proof.Machine

/-- 05 R119, Table 5-3: each of the 23 three-register integer words of fixed latency, in every state, writes the value the
table gives for sa and sb and goes on. -/
def Obligations.IntegerRegisterWords : Prop :=
  ∀ e ∈ intRows, ∀ (s : State) (m : BitVec 1) (d a b : BitVec 6),
    ∃ t v, exec (e.1 m d a b) s = .next t ∧ e.2 (s.sq.readS a) (s.sq.readS b) v ∧ ScalarWrites s t m d v

/-- 05 R120, Table 5-4: the register-immediate words, whose immediate is extended with its sign, and the shifts by an
immediate, in every state. -/
def Obligations.IntegerImmediateWords : Prop :=
  (∀ e ∈ immRows, ∀ (s : State) (m : BitVec 1) (d a : BitVec 6) (i : BitVec 13),
    ∃ t v, exec (e.1 m d a i) s = .next t ∧ e.2 (s.sq.readS a) (i.signExtend 64) v ∧ ScalarWrites s t m d v) ∧
  (∀ e ∈ shiftRows, ∀ (s : State) (m : BitVec 1) (d a i : BitVec 6),
    ∃ t v, exec (e.1 m d a i) s = .next t ∧ e.2 (s.sq.readS a) i.toNat v ∧ ScalarWrites s t m d v)

/-- 05 R119: CLZ counts the zero bits above the highest one, CTZ those below the lowest, POPC the ones; 64 for zero. The
divisions are of variable latency (02 R45): in every state the word goes on with its value outstanding for sd, and no register has
changed yet. -/
def Obligations.CountAndDivisionWords : Prop :=
  (∀ (s : State) (m : BitVec 1) (d a : BitVec 6),
      (∃ t v, exec (.clz m d a) s = .next t ∧ ScalarWrites s t m d v ∧ v.toNat ≤ 64 ∧
        (∀ i, 64 - v.toNat ≤ i → (s.sq.readS a).getLsbD i = false) ∧
        (v.toNat < 64 → (s.sq.readS a).getLsbD (63 - v.toNat) = true)) ∧
      (∃ t v, exec (.ctz m d a) s = .next t ∧ ScalarWrites s t m d v ∧ v.toNat ≤ 64 ∧
        (∀ i, i < v.toNat → (s.sq.readS a).getLsbD i = false) ∧
        (v.toNat < 64 → (s.sq.readS a).getLsbD v.toNat = true)) ∧
      (∃ t v, exec (.popc m d a) s = .next t ∧ ScalarWrites s t m d v ∧
        v.toNat = ((List.range 64).filter (fun i => (s.sq.readS a).getLsbD i)).length)) ∧
  (∀ e ∈ divRows, ∀ (s : State) (m : BitVec 1) (d a b : BitVec 6),
      ∃ t v, exec (e.1 m d a b) s = .next t ∧ e.2 (s.sq.readS a) (s.sq.readS b) v ∧
        ScalarLeaves s t m .ordinary 0 (.value (s.sq.dstS d) v) none)

/-- 05 R121, Table 5-5; 05 R125: LIS and LUI write a constant, PCREL an address relative to the PC and LPCR the lane PC to a
scalar register, in every state. -/
def Obligations.ConstantAndMoveWords : Prop :=
  ∀ (s : State) (m : BitVec 1) (d : BitVec 6),
    (∀ i : BitVec 19, ∃ t, exec (.lis m d i) s = .next t ∧ ScalarWrites s t m d (BitVec.ofInt 64 i.toInt)) ∧
    (∀ i : BitVec 19, ∃ t, exec (.lui m d i) s = .next t ∧ ScalarWrites s t m d (BitVec.ofInt 64 (i.toInt * 2 ^ 13))) ∧
    (∀ i : BitVec 19, ∃ t, exec (.pcrel m d i) s = .next t ∧
      ScalarWrites s t m d (s.sq.pc + BitVec.ofInt 64 (i.toInt * 2 ^ 13))) ∧
    (∃ t, exec (.lpcr m d) s = .next t ∧ ScalarWrites s t m d s.sq.lpc)

/-- 05 R123: a branch whose condition holds goes to the PC of the branch plus four times its offset, any other to the next
word; JMP always goes. No register changes. -/
def Obligations.BranchWords : Prop :=
  ∀ (s : State) (m : BitVec 1),
    (∀ e ∈ branchRows, ∀ (a : BitVec 6) (o : BitVec 15), ∃ t, exec (e.1 m a o) s = .next t ∧
      (e.2 (s.sq.readS a) → ScalarGoes s t m (s.sq.pc + BitVec.ofInt 64 (4 * o.toInt))) ∧
      (¬ e.2 (s.sq.readS a) → ScalarGoes s t m (s.sq.pc + 4))) ∧
    (∀ e ∈ maskBranchRows, ∀ (k : BitVec 4) (o : BitVec 15), ∃ t, exec (e.1 m k o) s = .next t ∧
      (e.2 (s.sq.readM k) → ScalarGoes s t m (s.sq.pc + BitVec.ofInt 64 (4 * o.toInt))) ∧
      (¬ e.2 (s.sq.readM k) → ScalarGoes s t m (s.sq.pc + 4))) ∧
    (∀ o : BitVec 25, ∃ t, exec (.jmp m o) s = .next t ∧ ScalarGoes s t m (s.sq.pc + BitVec.ofInt 64 (4 * o.toInt)))

/-- 05 R124, R125: JR goes to sa plus its immediate when that is a multiple of 4; LJR sets the lane PC to it; LJMP moves the
lane PC by twelve times its offset. -/
def Obligations.IndirectJumpWords : Prop :=
  ∀ (s : State) (m : BitVec 1),
    (∀ (a : BitVec 6) (i : BitVec 13), (s.sq.readS a + i.signExtend 64).toNat % 4 = 0 →
      (∃ t, exec (.jr m a i) s = .next t ∧ ScalarGoes s t m (s.sq.readS a + i.signExtend 64)) ∧
      (∃ t, exec (.ljr m a i) s = .next t ∧ OnlySquad s t ∧
        t.sq = { s.sq with lpc := s.sq.readS a + i.signExtend 64, pc := s.sq.pc + 4, latch := none, run := s.sq.runAfter (m = 1) })) ∧
    (∀ o : BitVec 25, ∃ t, exec (.ljmp m o) s = .next t ∧ OnlySquad s t ∧
      t.sq = { s.sq with lpc := s.sq.lpc + BitVec.ofInt 64 (12 * o.toInt), pc := s.sq.pc + 4, latch := none,
                         run := s.sq.runAfter (m = 1) })

/-- 05 R125, 02 R47: LANE n, n in 1 to 4,096, hands the next n words to the lane stream and keeps its PC until the last is
enqueued. -/
def Obligations.LaneWord : Prop :=
  ∀ (s : State) (m : BitVec 1) (n : BitVec 19), 1 ≤ n.toNat → n.toNat ≤ 4096 → ∃ t, exec (.lane m n) s = .next t ∧ OnlySquad s t ∧
    t.sq = { s.sq with lane := some ⟨n.toNat, decide (m = 1)⟩, latch := none }

/-- 05 R127, R130: MSET writes the low 32 bits of sa to a mask register and MGET a mask register, zero-extended, to sd; SETF
replaces the bits of FMT that sb selects, ignoring bits 63 to 14 of sa and sb, and GETF writes FMT, zero-extended, to sd. -/
def Obligations.MaskAndFormatWords : Prop :=
  ∀ (s : State) (m : BitVec 1),
    (∀ (n : BitVec 4) (a : BitVec 6), ∃ t, exec (.mset m n a) s = .next t ∧ OnlySquad s t ∧
      t.sq.readM n = (s.sq.readS a).setWidth 32 ∧ (∀ k, k ≠ n → t.sq.readM k = s.sq.readM k) ∧
      t.sq = { s.sq with masks := t.sq.masks, pc := s.sq.pc + 4, latch := none, run := s.sq.runAfter (m = 1) }) ∧
    (∀ (d : BitVec 6) (n : BitVec 4), ∃ t, exec (.mget m d n) s = .next t ∧
      ScalarWrites s t m d (BitVec.ofNat 64 (s.sq.readM n).toNat)) ∧
    (∀ a b : BitVec 6, ∃ t, exec (.setf m a b) s = .next t ∧ OnlySquad s t ∧
      (∀ i, i < 14 → t.sq.fmt.getLsbD i =
        if (s.sq.readS b).getLsbD i then (s.sq.readS a).getLsbD i else s.sq.fmt.getLsbD i) ∧
      t.sq = { s.sq with fmt := t.sq.fmt, pc := s.sq.pc + 4, latch := none, run := s.sq.runAfter (m = 1) }) ∧
    (∀ d : BitVec 6, ∃ t, exec (.getf m d) s = .next t ∧ ScalarWrites s t m d (BitVec.ofNat 64 s.sq.fmt.toNat))

/-- 05 R128, Table 5-8; 09 R195, Table 9-3: GETX writes the control register of its number to sd; one that the table does not list
traps with 0x01, the word as TVAL. WSREF reads the job's allotment and
the refresh counter, which lies less than one half-window past the edge the machine holds, and never back of what an earlier
GETX read there: which tick of the two hundred it is, is a free value (log 28). The device number of row 0x008 is the model's
choice (log 40). -/
def Obligations.GetxReads : Prop :=
  (∀ e ∈ controlRows, ∀ (s : State) (m : BitVec 1) (d : BitVec 6),
    ∃ t, exec (.getx m d e.1) s = .next t ∧ ScalarWrites s t m d (e.2 s)) ∧
  (∀ (s : State) (m : BitVec 1) (d : BitVec 6), let D := s.devOf s.actor; let f := s.field (s.fieldOf s.actor)
    (s.dev D).fine < 200 →
    ∃ t k, exec (.getx m d 0x016) s = .next t ∧ (s.dev D).fine ≤ k ∧ k < 200 ∧
      (let p := (s.dev D).pos.toNat + k
       t.sq.readS d = if d = 0 then 0 else BitVec.ofNat 64
         (f.wssize * 2 ^ 40 + f.wsbase * 2 ^ 32 + (if p % 400 < 200 then 2 ^ 17 else 0) + p / 400 * 2 ^ 13 + p)) ∧
      (∀ r, r ≠ d → t.sq.readS r = s.sq.readS r) ∧
      t.sq = { s.sq with sregs := t.sq.sregs, pc := s.sq.pc + 4, latch := none, run := s.sq.runAfter (m = 1) } ∧
      t = { s with squads := t.squads, devs := t.devs } ∧ SameSquadsBut s.actor s t ∧
      t.dev D = { s.dev D with fine := k } ∧ ∀ j, j ≠ D → t.dev j = s.dev j) ∧
  (∀ s : State, CanTrap s → ∀ (m : BitVec 1) (d : BitVec 6) (n : BitVec 12), n ∉ controlNumbers →
    ∃ t, exec (.getx m d n) s = .next t ∧
      TookTrap s t 0x01 false false 0 ((0#6 ++ m ++ d ++ n ++ 0x0A#7).setWidth 64) (d.setWidth 64) 0 (s.sq.readM 0))

/-- 05 R128: SETX writes sa to the writable fields of a control register, and nothing else of the machine; of a register that has none,
or that Table 5-8 does not list, it traps with 0x01, the word as TVAL. -/
def Obligations.SetxWrites : Prop :=
  (∀ e ∈ setxRows, ∀ (s : State) (m : BitVec 1) (a : BitVec 6),
    ∃ t, exec (.setx m a e.1) s = .next t ∧ OnlySquad s t ∧
      t.sq = { e.2 s.sq (s.sq.readS a) with pc := s.sq.pc + 4, latch := none, run := s.sq.runAfter (m = 1) }) ∧
  (∀ s : State, CanTrap s → ∀ (m : BitVec 1) (a : BitVec 6) (n : BitVec 12), n ∉ setxRows.map (·.1) →
    ∃ t, exec (.setx m a n) s = .next t ∧
      TookTrap s t 0x01 false false 0 ((0#6 ++ m ++ a ++ n ++ 0x0B#7).setWidth 64) 0x1800 0 (s.sq.readM 0))

/-- 05 R115 to R117; 16 R313: a call whose target is aligned and whose windows fit the squad's spill area slides the windows, spills
what leaves them, writes the link word to s15, ends the open region and goes to its target: CALL to the PC plus four times its
offset, CALLR to sa. One that shifts vectors or spills scalars, or ends an open region, first waits at its PC, with sa as it stood at
issue, while the squad has results outstanding. -/
def Obligations.CallWords : Prop :=
  ∀ (s : State) (m : BitVec 1) (v : BitVec 5) (w : BitVec 2), s.sq.latch = none → 64 * v.toNat ≤ s.sq.vws →
    s.sq.vwb + v.toNat ≤ (s.job (s.jobOf s.actor)).vseg → s.sq.swb + w.toNat ≤ (s.job (s.jobOf s.actor)).sseg →
    let link := BitVec.ofNat 64 (v.toNat * 2 ^ 59 + w.toNat * 2 ^ 57 + (s.sq.pc + 4).toNat % 2 ^ 57)
    let waits := 0 < v.toNat ∨ 7 < s.sq.swb + w.toNat + 3 - s.sq.rlo ∨ s.sq.region ≠ none
    (s.sq.out ≠ [] → waits →
      (s.sq.pc.toNat % 4 = 0 → ∀ o : BitVec 18, ∃ t, exec (.call m v w o) s = .next t ∧ OnlySquad s t ∧
        t.sq = { s.sq with latch := some [], run := .parked }) ∧
      (∀ a : BitVec 6, (s.sq.readS a).toNat % 4 = 0 → ∃ t, exec (.callr m v w a) s = .next t ∧ OnlySquad s t ∧
        t.sq = { s.sq with latch := some [s.sq.readS a], run := .parked })) ∧
    (s.sq.out = [] ∨ ¬ waits → s.sq.pc.toNat % 4 = 0 → ∀ o : BitVec 18, ∃ t, exec (.call m v w o) s = .next t ∧
      SlidUp s t v.toNat w.toNat ∧ t.sq.readS 15 = link ∧ t.sq.pc = s.sq.pc + BitVec.ofInt 64 (4 * o.toInt) ∧
      t.sq.run = s.sq.runAfter (m = 1)) ∧
    (s.sq.out = [] ∨ ¬ waits → ∀ a : BitVec 6, (s.sq.readS a).toNat % 4 = 0 → ∃ t, exec (.callr m v w a) s = .next t ∧
      SlidUp s t v.toNat w.toNat ∧ t.sq.readS 15 = link ∧ t.sq.pc = s.sq.readS a ∧ t.sq.run = s.sq.runAfter (m = 1))

/-- 05 R118: a RET whose link word fits, whose squad has nothing outstanding and whose spill area reads well slides the windows back by
the link word's counts, refills from the spill area the segments that had left, ends the open region and goes to the link
address; memory is unchanged. -/
def Obligations.ReturnWord : Prop :=
  ∀ (s : State) (m : BitVec 1) (k j : Nat) (a : BitVec 55), s.sq.readS 15 = BitVec.ofNat 5 k ++ (BitVec.ofNat 2 j ++ (a ++ 0#2)) →
    k < 32 → j < 4 → s.sq.out = [] → s.sq.latch = none → k ≤ s.sq.vwb → j ≤ s.sq.swb → 64 * k ≤ s.sq.vws →
    s.fillBad s.actor k j = none →
    ∃ t, exec (.ret m) s = .next t ∧ OnlySquad s t ∧ t.sq.pc = (a ++ 0#2).signExtend 64 ∧
      t.sq.swb + j = s.sq.swb ∧ t.sq.vwb + k = s.sq.vwb ∧ t.sq.rlo = min s.sq.rlo t.sq.swb ∧
      (∀ r : BitVec 6, r.toNat < 16 → t.sq.readS r = s.sq.readS r) ∧
      (s.sq.rlo ≤ t.sq.swb + 7 → ∀ n i, n < 3 → i < 16 → t.sq.readS (BitVec.ofNat 6 (16 + (16 * n + i))) =
        if t.sq.swb + n < s.sq.rlo then BitVec.ofNat 64 (s.read (s.scalarSpill s.actor (t.sq.swb + n) + 8 * i) 8)
        else cellGet s.sq.sregs (16 + 16 * ((t.sq.swb + n) % 7) + i)) ∧
      (s.sq.vws % 64 = 0 → 0 < s.sq.vws → ∀ r l, r < s.sq.vws → l < 32 → t.sq.readV r l =
        if r < 64 * k then BitVec.ofNat 32 (s.read (s.vectorSpill s.actor (t.sq.vwb + r / 64) + (128 * (r % 64) + 4 * l)) 4)
        else s.sq.readV (r - 64 * k) l) ∧
      t.sq = { s.sq with sregs := t.sq.sregs, vregs := t.sq.vregs, swb := t.sq.swb, vwb := t.sq.vwb, rlo := t.sq.rlo,
                         pc := t.sq.pc, run := s.sq.runAfter (m = 1), region := none, latch := none }

/-- 16 R304, R305, R307, R309, R310; 02 R61, R63, R64: TRAP takes trap 0x10 with its operand as TVAL; UDF and LANE_UDF take trap 0x01 with
the word's bits as TVAL; a RETT outside a handler takes trap 0x01 with TVAL 0. A trap that no handler can take, that RETT's and one of
a scalar or of a lane word, ends the gang. -/
def Obligations.TrapWords : Prop :=
  (∀ s : State, s.sq.out = [] → (s.gangOf s.actor).term = none →
    (∀ (m : BitVec 1) (n : BitVec 18), TrapUntaken (.trap m n) s 0x10 (n.setWidth 64) 0x1800) ∧
    (∀ n : BitVec 25, TrapUntaken (.udf n) s 0x01 (BitVec.ofNat 64 (0xFC000000 + n.toNat)) 0x1800) ∧
    (∀ n : BitVec 32, TrapUntaken (.laneUdf n) s 0x01 0xFF0000000000 0x1800) ∧
    (∀ (i : Instr) (op : LaneOp) (f : LaneForm) (r : Nat), i.wf = true → i.lane? = some (op, f) → f.badIndex op s.sq.vws = some r →
      TrapUntaken i s 0x02 (BitVec.ofNat 64 r) (laneTdst op f (laneEf op f s.sq.fmt))) ∧
    (s.sq.handler = none → ∀ m : BitVec 1, TrapUntaken (.rett m) s 0x01 0 0x1800)) ∧
  ∀ s : State, CanTrap s →
    (∀ (m : BitVec 1) (n : BitVec 18), ∃ t, exec (.trap m n) s = .next t ∧
      TookTrap s t 0x10 false false 0 (n.setWidth 64) 0x1800 0 (s.sq.readM 0)) ∧
    (∀ n : BitVec 25, ∃ t, exec (.udf n) s = .next t ∧
      TookTrap s t 0x01 false false 0 (BitVec.ofNat 64 (0xFC000000 + n.toNat)) 0x1800 0 (s.sq.readM 0)) ∧
    (s.sq.replay = none → ∀ n : BitVec 32, ∃ t, exec (.laneUdf n) s = .next t ∧
      TookTrap s t 0x01 false true 0 0xFF0000000000 0x1800 s.sq.lanesLeft (s.sq.readM 0)) ∧
    (∀ m : BitVec 1, ∃ t, exec (.rett m) s = .next t ∧ TookTrap s t 0x01 false false 0 0 0x1800 0 (s.sq.readM 0))

/-- 02 R33, R39, R61; 05 R116, R118, R124; 09 R198: what traps instead of running: a jump to an address that is no multiple of 4 (0x04,
the address as TVAL, RX), a scalar memory word whose address is no multiple of its width (0x04; the lane words' are in
LaneMemoryWords), a call whose target is no multiple of 4 (0x04), of more vector registers than VWS (0x02) or past a spill limit
(0x14), a RET below the launch window or beyond VWS (0x14), any lane word that names a vector register at or beyond VWS (0x02, the
register as TVAL), be it vd, or one of the k that an LDW writes, va, vb or vc, and one within VWS whose format is that of FMT.EF
while FMT.EF is 0 or a reserved code (0x01; 02 R43, 06 R148). That vd is reported where va, vb or vc lies beyond VWS too is the
model's reading (log 11). -/
def Obligations.OperandTraps : Prop :=
  ∀ s : State, CanTrap s → s.sq.replay = none →
    (∀ (m : BitVec 1) (a : BitVec 6) (i : BitVec 13), (s.sq.readS a + i.signExtend 64).toNat % 4 ≠ 0 →
      (∃ t, exec (.jr m a i) s = .next t ∧
        TookTrap s t 0x04 true false 0 (s.sq.readS a + i.signExtend 64) 0x1800 0 (s.sq.readM 0)) ∧
      (∃ t, exec (.ljr m a i) s = .next t ∧
        TookTrap s t 0x04 true false 0 (s.sq.readS a + i.signExtend 64) 0x1800 0 (s.sq.readM 0))) ∧
    (∀ (m : BitVec 1) (d a : BitVec 6) (w : BitVec 2) (i : BitVec 11), let va := s.sq.smAddr a w i
      canonical va = true → va.toNat % 2 ^ w.toNat ≠ 0 →
      (∃ t, exec (.lds m d a w i) s = .next t ∧ TookTrap s t 0x04 true false 0 va (d.setWidth 64) 0 (s.sq.readM 0)) ∧
      (∃ t, exec (.sts m d a w i) s = .next t ∧ TookTrap s t 0x04 true false 0 va 0x1800 0 (s.sq.readM 0))) ∧
    (∀ (m : BitVec 1) (d a : BitVec 6) (w : BitVec 2) (p : BitVec 3) (i : BitVec 8), let va := s.sq.smAddr a w i
      canonical va = true → va.toNat % 2 ^ w.toNat ≠ 0 →
      (∃ t, exec (.ldsa m d a w p i) s = .next t ∧ TookTrap s t 0x04 true false 0 va (d.setWidth 64) 0 (s.sq.readM 0)) ∧
      (∃ t, exec (.stsl m d a w p i) s = .next t ∧ TookTrap s t 0x04 true false 0 va 0x1800 0 (s.sq.readM 0))) ∧
    (s.sq.latch = none → ∀ (m : BitVec 1) (a b c : BitVec 6), let va := s.sq.readS a
      canonical va = true →
      (∀ e ∈ atomsRows, ∀ w : BitVec 1, va.toNat % (if w = 0 then 4 else 8) ≠ 0 → ∃ t, exec (e.1 m a b c w) s = .next t ∧
        TookTrap s t 0x04 true false 0 va (c.setWidth 64) 0 (s.sq.readM 0)) ∧
      (∀ e ∈ atomsFpRows, va.toNat % 4 ≠ 0 → ∃ t, exec (e.1 m a b c) s = .next t ∧
        TookTrap s t 0x04 true false 0 va (c.setWidth 64) 0 (s.sq.readM 0))) ∧
    (s.sq.latch = none → ∀ (m : BitVec 1) (v : BitVec 5) (w : BitVec 2) (i : Instr) (target : BitVec 64),
      (∃ o : BitVec 18, i = .call m v w o ∧ target = s.sq.pc + BitVec.ofInt 64 (4 * o.toInt)) ∨
        (∃ a : BitVec 6, i = .callr m v w a ∧ target = s.sq.readS a) →
      let job := s.job (s.jobOf s.actor)
      (target.toNat % 4 ≠ 0 → ∃ t, exec i s = .next t ∧
        TookTrap s t 0x04 true false 0 target 15 0 (s.sq.readM 0)) ∧
      (target.toNat % 4 = 0 → s.sq.vws < 64 * v.toNat → ∃ t, exec i s = .next t ∧
        TookTrap s t 0x02 false false 0 (BitVec.ofNat 64 (64 * v.toNat)) 15 0 (s.sq.readM 0)) ∧
      (target.toNat % 4 = 0 → 64 * v.toNat ≤ s.sq.vws → job.vseg < s.sq.vwb + v.toNat → ∃ t, exec i s = .next t ∧
        TookTrap s t 0x14 true false 0 (BitVec.ofNat 64 (0x0200000000000000 + (s.sq.vwb + v.toNat))) 15 0 (s.sq.readM 0)) ∧
      (target.toNat % 4 = 0 → 64 * v.toNat ≤ s.sq.vws → s.sq.vwb + v.toNat ≤ job.vseg → job.sseg < s.sq.swb + w.toNat →
        ∃ t, exec i s = .next t ∧
        TookTrap s t 0x14 true false 0 (BitVec.ofNat 64 (0x0100000000000000 + (s.sq.swb + w.toNat))) 15 0 (s.sq.readM 0))) ∧
    (s.sq.latch = none → ∀ m : BitVec 1, let k := (s.sq.readS 15).toNat / 2 ^ 59; let j := (s.sq.readS 15).toNat / 2 ^ 57 % 4
      s.sq.vwb < k ∨ s.sq.swb < j ∨ s.sq.vws < 64 * k → ∃ t, exec (.ret m) s = .next t ∧
        TookTrap s t 0x14 true false 0 (BitVec.ofNat 64 (0x0300000000000000 + (s.sq.readS 15).toNat / 2 ^ 57)) 0x1800 0 (s.sq.readM 0)) ∧
    (∀ (i : Instr) (op : LaneOp) (f : LaneForm), i.wf = true → i.lane? = some (op, f) →
      let k := if op = 0x103 then f.mod.arg.toNat / 4096 else 0
      (f.badIndex op s.sq.vws = none ↔ (∀ r, f.vd = .vec r → r.toNat + k < s.sq.vws) ∧
        ∀ o ∈ [f.va, f.vb, f.vc], ∀ r, o = .vec r → r.toNat < s.sq.vws) ∧
      (∀ r, f.badIndex op s.sq.vws = some r → s.sq.vws ≤ r ∧
        ((∃ v, f.vd = .vec v ∧ (r = v.toNat ∨ r = v.toNat + k)) ∨ ∃ o ∈ [f.va, f.vb, f.vc], ∃ v, o = .vec v ∧ r = v.toNat) ∧
        ∃ t, exec i s = .next t ∧
          TookTrap s t 0x02 false true 0 (BitVec.ofNat 64 r) (laneTdst op f (laneEf op f s.sq.fmt)) s.sq.lanesLeft
            (if f.m = 0 then s.sq.readM 0 else s.sq.readM 0 &&& s.sq.readM f.m))) ∧
    (∀ (i : Instr) (op : LaneOp) (f : LaneForm), i.wf = true → i.lane? = some (op, f) → f.badIndex op s.sq.vws = none →
      (laneShape op).use ≠ .absent → f.mod.ef = 0 → fmtEF s.sq.fmt = 0 ∨ 10 < (fmtEF s.sq.fmt).toNat →
        ∃ t, exec i s = .next t ∧
          TookTrap s t 0x01 false true 0 (((encodeForm op f) >>> 48).setWidth 64) (laneTdst op f (laneEf op f s.sq.fmt)) s.sq.lanesLeft
            (if f.m = 0 then s.sq.readM 0 else s.sq.readM 0 &&& s.sq.readM f.m)) ∧
    (∀ (m : BitVec 1) (k : BitVec 4) (r : BitVec 11) (n : BitVec 32), s.sq.vws ≤ r.toNat → ∃ t, exec (.vimm m k r n) s = .next t ∧
      TookTrap s t 0x02 false true 0 (r.setWidth 64) (BitVec.ofNat 64 (0x800 + r.toNat + (if fmtEF s.sq.fmt = 10 then 0x2000 else 0)))
        s.sq.lanesLeft (if k = 0 then s.sq.readM 0 else s.sq.readM 0 &&& s.sq.readM k))

/-- 16 R310; 09 R206; 11 R240: RETT in a handler whose segment holds an entry is a double fault of cause 0x0A; with an empty one it
leaves the handler. After a scalar word the squad goes on behind it, or
at it when RX is 1, the lane PC that of the marker. After a lane word the LANE goes on with the words it had left: behind TLPC, or
at it when RX is 1, the word there running for the lanes of TLM alone when TLM is not 0. After an asynchronous fault it goes on at
TPC; after a tile fault, all others delivered and done, the Pacer restarts: with another TLPC than the fault's own, there, RPR 0; with
its own TLPC the faulting word executes again, a TMMA or TMMAJ from the RPR it stopped with, but a word of a later fault that is to
execute again comes first, since it stands earlier in the stream. Two clauses are the model's reading, not the rules' words: which
word a restart after several tile faults takes, with which RPR (log 12), and what a replay for some lanes keeps (log 11). -/
def Obligations.HandlerReturn : Prop :=
  (∀ (s : State) (m : BitVec 1), s.sq.handler ≠ none → s.sq.seg ≠ [] → (s.gangOf s.actor).term = none →
    ∃ t, exec (.rett m) s = .next t ∧ EndsGang s t 0x13 0x0A [s.sq.pc, s.sq.lpc, 0, 0x1800]) ∧
  ∀ (s : State) (m : BitVec 1) (k : Marker), s.sq.handler = some k → s.sq.seg = [] → s.sq.out = [] →
    let y := s.block (blockOfSquad s.actor); let c := s.sq.trap.tcause; let pc := s.sq.trap.tpc; let n := k.lcnt.toNat
    y.pacer.faults = [] →
    (bitAt c 15 = false → bitAt c 14 = false → ∃ t, exec (.rett m) s = .next t ∧ OnlySquad s t ∧
      Returned s t k k.lpc (pc + (if bitAt c 13 then 0 else 4)) none none) ∧
    (bitAt c 15 = false → bitAt c 14 = true → bitAt c 13 = false → ∃ t, exec (.rett m) s = .next t ∧ OnlySquad s t ∧
      Returned s t k (s.sq.trap.tlpc + 12) (if n ≤ 1 then pc + 4 else pc) (laneOf (n - 1) k.ls) none) ∧
    (bitAt c 15 = false → bitAt c 14 = true → bitAt c 13 = true → s.sq.trap.tlm = 0 → ∃ t, exec (.rett m) s = .next t ∧ OnlySquad s t ∧
      Returned s t k s.sq.trap.tlpc (if n = 0 then pc + 4 else pc) (laneOf n k.ls) none) ∧
    (bitAt c 15 = false → bitAt c 14 = true → bitAt c 13 = true → s.sq.trap.tlm ≠ 0 → ∃ t, exec (.rett m) s = .next t ∧ OnlySquad s t ∧
      Returned s t k s.sq.trap.tlpc pc (some ⟨n, k.ls⟩) (some ⟨s.sq.trap.tlm, k.wm⟩)) ∧
    (bitAt c 15 = true → c.toNat % 256 ≠ 0x0C → ∃ t, exec (.rett m) s = .next t ∧ OnlySquad s t ∧ Returned s t k k.lpc pc none none) ∧
    (bitAt c 15 = true → c.toNat % 256 = 0x0C → y.pacer.run = .stopped → y.pacer.owed = 1 → ∃ t, exec (.rett m) s = .next t ∧
      Returned s t k k.lpc pc none none ∧ t = { s with squads := t.squads, blocks := t.blocks } ∧
      (∀ b, b ≠ blockOfSquad s.actor → t.block b = s.block b) ∧
      let p := y.pacer; let a := s.sq.trap.tlpc; let f : TileRet := k.tile.getD ⟨0, p.tpc, none⟩
      t.block (blockOfSquad s.actor) = { y with pacer := { p with
        run := .running, owed := 0, again := 0, tpc := if a = f.tlpc ∧ f.num < p.again then p.tpc else a,
        rpr := if a ≠ f.tlpc then 0 else if f.num < p.again then p.rpr else f.part.getD p.rpr } })

/-- 02 R63; 10 R217; 16 R310, R312, R313: NOP only goes on. FENCE goes on once nothing is outstanding: an acquire takes what the
squad's relaxed reads have read from releases that share its scope, an acquire-release also what earlier FENCEs of that kind
release, a release makes the squad's strong writes after it releases, each of what happens before it, and an acquire at .gang or wider empties the
block's L1 (10 R214, R218). IREG opens an idempotent region whose checkpoint is the next word's state; with a region open it waits
until nothing is outstanding, with none open it goes on at once. In a handler, where no region is open (R310), it opens none
either: that is the model's reading (log 11). -/
def Obligations.PlainWords : Prop :=
  ∀ (s : State) (m : BitVec 1),
    (∃ t, exec (.nop m) s = .next t ∧ ScalarGoes s t m (s.sq.pc + 4)) ∧
    (s.sq.out = [] →
      (∀ p o : BitVec 3, ∃ t, exec (.fence m p o) s = .next t ∧ SameSquadsBut s.actor s t ∧ SameBytes s t ∧
        t.sq = { s.sq with pc := s.sq.pc + 4, latch := none, run := .running, fenced := t.sq.fenced } ∧
        t.sq.fenced = (if o = 3 ∨ o = 4 then
          ⟨.squad s.actor, p.toNat, []⟩ :: s.sq.fenced.filter (fun h => h.scope ≠ p.toNat) else s.sq.fenced) ∧
        t.fences = (if o = 4 then ⟨.squad s.actor, p.toNat, t.seenBy (.squad s.actor)⟩ :: s.fences else s.fences) ∧
        (o ≠ 2 → o ≠ 4 → t.hist = s.hist) ∧ OnlyLearns s t (.squad s.actor) ∧
        (o = 2 ∨ o = 4 → ∀ h ∈ s.sq.pend, s.shares h.2.party (.squad s.actor) p.toNat = true →
          s.inclusive h.2.party h.2.scope (.squad s.actor) h.1 = true → HasSeen t (.squad s.actor) h.2.seen) ∧
        (o = 4 → ∀ h ∈ s.fences, s.inclusive h.party h.scope (.squad s.actor) p.toNat = true → HasSeen t (.squad s.actor) h.seen) ∧
        t = { s with squads := t.squads, blocks := t.blocks, hist := t.hist, fences := t.fences } ∧ (∀ b, b ≠ blockOfSquad s.actor → t.block b = s.block b) ∧
        t.block (blockOfSquad s.actor) = { s.block (blockOfSquad s.actor) with
          l1 := if (o = 2 ∨ o = 4) ∧ 3 ≤ p.toNat then [] else (s.block (blockOfSquad s.actor)).l1 })) ∧
    (s.sq.out ≠ [] → s.sq.latch = none → ∀ p o : BitVec 3, ∃ t, exec (.fence m p o) s = .next t ∧ OnlySquad s t ∧
      t.sq = { s.sq with latch := some [], run := .parked }) ∧
    (s.sq.latch = none → s.sq.out = [] ∨ s.sq.region = none → ∃ t, exec (.ireg m) s = .next t ∧ OnlySquad s t ∧
      t.sq = { s.sq with pc := s.sq.pc + 4, run := s.sq.runAfter (m = 1),
                         region := if s.sq.handler = none then
                           some ⟨s.sq.pc + 4, s.sq.lpc, s.sq.masks, s.sq.fmt, s.sq.fflags, s.sq.chsel⟩ else none }) ∧
    (s.sq.latch = none → s.sq.out ≠ [] → s.sq.region ≠ none → ∃ t, exec (.ireg m) s = .next t ∧ OnlySquad s t ∧
      t.sq = { s.sq with latch := some [], run := .parked })

/-- 02 R33, R34, R61; 03 R87; 05 R124; 11 R239; 16 R367: what becomes of a word that is no instruction or cannot be fetched: trap 0x01 with
the word's bits, the fetch's cause with the fetch address as TVAL, a tile fault, or, for uncorrectable data, the gang leaving its cores to
be repaired. The word is not executed. TPC of a lane fetch fault is the LANE's own address (Table 16-1) and TVAL the lane address; an
undecodable word names no destination: these are the model's readings (log 11). -/
def Obligations.BadWords : Prop :=
  ∀ s : State,
    (CanTrap s → s.sq.replay = none →
      (∀ w : BitVec 32, ∃ t, exec (.illegalInstruction s.actor (.scalar w)) s = .next t ∧
        TookTrap s t 0x01 false false 0 (w.setWidth 64) 0x1800 0 (s.sq.readM 0)) ∧
      (∀ w : BitVec 96, ∃ t, exec (.illegalInstruction s.actor (.lane w)) s = .next t ∧
        TookTrap s t 0x01 false true 0 ((w >>> 48).setWidth 64) 0x1800 s.sq.lanesLeft (s.sq.readM 0)) ∧
      (∀ (c : BitVec 8) (pc : BitVec 64), c ≠ 0x05 →
        (∃ t, exec (.instructionFetchFault s.actor .scalar c pc) s = .next t ∧
          TookTrap s t c (rxOf c) false 0 pc 0x1800 0 (s.sq.readM 0)) ∧
        (∃ t, exec (.instructionFetchFault s.actor .lane c pc) s = .next t ∧
          TookTrap s t c (rxOf c) true 0 pc 0x1800 s.sq.lanesLeft (s.sq.readM 0)))) ∧
    (let p := s.pacer
     (∀ w : BitVec 64, s.unexited s.actor = [] → p.faults = [] → ∃ t, exec (.illegalInstruction s.actor (.tile w)) s = .next t ∧
       (t.block s.actor).pacer = { p with run := .stopped, met := p.met + 1, flight := (t.block s.actor).pacer.flight } ∧ (t.gang (gangOfBlock s.actor)).term.isSome) ∧
     (∀ (w : BitVec 64) (q : Nat), p.faults = [] → (s.unexited s.actor).find? (fun k => (s.squad k).handler = none) = some q →
       (s.squad q).run = .running → ∃ t, exec (.illegalInstruction s.actor (.tile w)) s = .next t ∧
         (t.block s.actor).pacer = { p with run := .stopped, met := p.met + 1, owed := p.owed + 1 } ∧
         t.squad q = { s.squad q with faults := (s.squad q).faults ++ [
           ⟨tileRank, false, 0x0C, w, BitVec.ofNat 64 (0x0C * 2 ^ 56 + 2 ^ 48 + p.rpr.toNat), some ⟨p.met + 1, p.tpc, none⟩⟩] } ∧
         SameSquadsBut q s t ∧ SameBytes s t) ∧
     (∀ (c : BitVec 8) (pc : BitVec 64) (q : Nat), c ≠ 0x05 → p.faults = [] →
       (s.unexited s.actor).find? (fun k => (s.squad k).handler = none) = some q → (s.squad q).run = .running →
       ∃ t, exec (.instructionFetchFault s.actor .tile c pc) s = .next t ∧
         (t.block s.actor).pacer = { p with run := .stopped, met := p.met + 1, owed := p.owed + 1 } ∧
         t.squad q = { s.squad q with faults := (s.squad q).faults ++ [
           ⟨tileRank, false, 0x0C, pc, BitVec.ofNat 64 (c.toNat * 2 ^ 56 + 5 * 2 ^ 48 + p.rpr.toNat), some ⟨p.met + 1, p.tpc, none⟩⟩] } ∧
         SameSquadsBut q s t ∧ SameBytes s t)) ∧
    (∀ unit pa, (s.gangOf unit).place = .resident → ∃ t, exec (.uncorrectableFetch unit pa) s = .next t ∧
      (t.gangOf unit).place = .leaving (.repair false) ∧ (t.squad unit).pc = (s.squad unit).pc ∧
      (t.squad unit).lpc = (s.squad unit).lpc ∧ (t.squad unit).run = (s.squad unit).run)

/-- 09 R199; 02 R45; 10 R209: a scalar load or store whose address passes its checks goes on with one result outstanding: a load
of its width from the address the checks gave, or a store of sd to it. An LDS hits a line of the block's L1 that holds every write to
those bytes that its squad must see (hitLine, which ResultWriteback describes), and has their value at its issue while the line
holds no uncorrectable data there, which is the model's reading (log 9). No register and no byte of memory changes but by the
checks' own walk. -/
def Obligations.ScalarAccesses : Prop :=
  ∀ (s : State) (m : BitVec 1) (d a : BitVec 6) (w : BitVec 2),
    let b := blockOfSquad s.actor
    let n := 2 ^ w.toNat
    (∀ (i : BitVec 11) (s1 : State) (p : Nat) (c : Bool), let va := s.sq.readS a + (i.signExtend 64 <<< w.toNat)
      (s.access b .read va n = (s1, .ok p c) → s.hitLine s.actor va n = none →
        ∃ t, exec (.lds m d a w i) s = .next t ∧
          MemLeaves s s1 t m .ordinary 0 (.load ⟨p, n, va, c⟩ false (s.sq.dstS d)) (some (meterOf p)) (d.setWidth 64)) ∧
      (s.access b .write va n = (s1, .ok p c) → ∃ t, exec (.sts m d a w i) s = .next t ∧
        MemLeaves s s1 t m .ordinary 0 (.store ⟨p, n, va, c⟩ (s.sq.readS d)) none)) ∧
    (∀ (i : BitVec 11) (line : L1Line), let va := s.sq.readS a + (i.signExtend 64 <<< w.toNat)
      s.hitLine s.actor va n = some line → canonical va = true → va.toNat % n = 0 → inWindow va = false → s.sq.out = [] →
        line.isBad (va.toNat % 128) n = false →
        ∃ t, exec (.lds m d a w i) s = .next t ∧
          ScalarLeaves (s.setHist t.hist) t m .ordinary 0 (.value (s.sq.dstS d) (BitVec.ofNat 64 (line.read (va.toNat % 128) n))) (some 0)
            (d.setWidth 64)) ∧
    (∀ (i : BitVec 8) (sc : BitVec 3) (s1 : State) (p : Nat) (c : Bool), let va := s.sq.readS a + (i.signExtend 64 <<< w.toNat)
      (s.access b .read va n = (s1, .ok p c) → ∃ t, exec (.ldsa m d a w sc i) s = .next t ∧
        MemLeaves s s1 t m .acquire sc.toNat (.load ⟨p, n, va, c⟩ false (s.sq.dstS d)) (some (meterOf p)) (d.setWidth 64)) ∧
      (s.access b .write va n = (s1, .ok p c) → ∃ t, exec (.stsl m d a w sc i) s = .next t ∧
        MemLeaves s s1 t m .release sc.toNat (.store ⟨p, n, va, c⟩ (s.sq.readS d)) none))

/-- 09 R200, 16 R312, R313: an atomic, with nothing outstanding or no region open and its address at sa passing the checks of a
store, ends the open region and goes on with one read-modify-write outstanding, of sb and the comparand sc, its destination sc. -/
def Obligations.AtomicWords : Prop :=
  ∀ (s : State) (m : BitVec 1) (a b c : BitVec 6) (s1 : State) (p : Nat) (k : Bool), s.sq.out = [] ∨ s.sq.region = none →
    s.sq.latch = none →
    let u := s.setSq { s.sq with latch := none }
    let s2 := s1.setSq { s1.sq with region := none }
    (∀ e ∈ atomsRows, ∀ w : BitVec 1, let n := if w = 0 then 4 else 8
      u.access (blockOfSquad s.actor) .write (s.sq.readS a) n = (s1, .ok p k) →
      ∃ t, exec (e.1 m a b c w) s = .next t ∧ ScalarLeaves s2 t m .relaxed 6
        (.rmw ⟨p, n, s.sq.readS a, k⟩ e.2 (s.sq.readS b) (s.sq.readS c) (s.sq.dstS c)) none (c.setWidth 64) ∧ s1.squads = u.squads) ∧
    (∀ e ∈ atomsFpRows, u.access (blockOfSquad s.actor) .write (s.sq.readS a) 4 = (s1, .ok p k) →
      ∃ t, exec (e.1 m a b c) s = .next t ∧ ScalarLeaves s2 t m .relaxed 6
        (.rmw ⟨p, 4, s.sq.readS a, k⟩ e.2 (s.sq.readS b) (s.sq.readS c) (s.sq.dstS c)) none (c.setWidth 64) ∧ s1.squads = u.squads)

/-- 15 R290, R292, R299; 17 R324: a translation changes nothing but the TLBs of the walker's core and column, the A and D bits of
the leaf it walked to, the hot-page sampler of its reticle, and what the home agents track of the lines it writes: of memory,
the 8 bytes of that leaf and the 16 of one record alone. After a walk to a legal leaf it stands with A set, and D on a write; after
a TLB hit, and where the leaf is not legal, it stands as it was. -/
def Obligations.TranslationFrame : Prop :=
  ∀ (s : State) (w : Walker) (kind : Kind) (va : BitVec 64),
    let t := (s.translate w kind va).1
    let home := 48 * w.dev + w.ret
    t = { s with mem := t.mem, rets := t.rets, cores := t.cores, columns := t.columns } ∧
    (∀ k, t.core k = { s.core k with tlb := (t.core k).tlb } ∧ (w.core ≠ some k → t.core k = s.core k)) ∧
    (∀ c, (∀ k, w.core = some k → k / 4 ≠ c) → t.column c = s.column c) ∧
    (∀ r, (∀ l ∈ (t.ret r).snoop, l ∈ (s.ret r).snoop) ∧
      t.ret r = { s.ret r with snoop := (t.ret r).snoop, tcb := { (s.ret r).tcb with
        hotctl := (t.ret r).tcb.hotctl, misses := (t.ret r).tcb.misses, hotcount := (t.ret r).tcb.hotcount } } ∧
      (r ≠ home ∨ w.core = none → (t.ret r).tcb = (s.ret r).tcb)) ∧
    (t.ret home).tcb.hotctl &&& 0xBFFFFFFFFFF00000#64 = (s.ret home).tcb.hotctl &&& 0xBFFFFFFFFFF00000#64 ∧
    (∀ a, (a < s.hotSlot w ∨ s.hotSlot w + 16 ≤ a) →
      (∀ level entry pte, walk s w va = .leaf level entry pte → a < physAddr w.dev entry ∨ physAddr w.dev entry + 8 ≤ a) →
      t.byte a = s.byte a) ∧
    (w.core = none → ∀ level entry pte pages, walk s w va = .leaf level entry pte → leafPages level pte = some pages →
      t.read (physAddr w.dev entry) 8 = (pte ||| 0x40#64 ||| (if kind = .write then 0x80#64 else 0)).toNat) ∧
    (∀ level entry pte, walk s w va = .leaf level entry pte → ∀ i, i < 8 → let a := physAddr w.dev entry + i
      (a < s.hotSlot w ∨ s.hotSlot w + 16 ≤ a) →
      (TlbHit s w kind va ∨ leafPages level pte = none → t.byte a = s.byte a) ∧
      (¬ TlbHit s w kind va → leafPages level pte ≠ none →
        t.byte a = BitVec.ofNat 8 ((pte ||| 0x40#64 ||| (if kind = .write then 0x80#64 else 0)).toNat / 256 ^ i)))

/-- 02 R45, R50; 09 R199; 10 R208, R209, R211, R212, R214, R215; 00 R3: writing a value writes it to its destination, and performing a load
writes what a reader of the home finds who misses no write that the squad must see, one it has seen before, a store of its own block,
or for a strong load a write of a party that shares its scope, unless it is a store not acknowledged yet; where it must see all of them, what memory holds. A load issued as an
L1 hit returns its line's bytes while it hits: that a hit reads at its issue, or as it is performed, is the model's choice (log 9). The
value is extended as the load's form says, the registers of a pair apart. The squad has then seen the writes it read from, and an
acquire what happened before the releases among them that share both scopes; what it has newly seen goes with every strong access
of a later word. No byte of memory changes. -/
def Obligations.ResultWriteback : Prop :=
  ∀ (s : State) (q k cycles : Nat) (o : Outst), MayWrite s q k o →
    (∀ d v, o.kind = .value d v → ∃ t, exec (.variableResultWriteback q k cycles) s = .next t ∧
      ResultWritten (s.squad q) (t.squad q) k o ∧ PutsValue (s.squad q) (t.squad q) d v ∧ SameSquadsBut q s t ∧ SameBytes s t) ∧
    (∀ l sg d, o.kind = .load l sg d → ∃ t, exec (.variableResultWriteback q k cycles) s = .next t ∧
      SameSquadsBut q s t ∧ SameBytes s t ∧ OnlyLearns s t (.squad q) ∧
      (∀ line, s.hitNow q o l = some line →
        Delivered (s.squad q) (t.squad q) k o d (loadValue l.len sg (line.read (l.addr % 128) l.len)) o.meter) ∧
      (∀ e ∈ (t.squad q).out, o.word < e.word → e.ord ≠ .ordinary → ∀ x ∈ t.seenBy (.squad q), x ∈ s.seenBy (.squad q) ∨ x ∈ e.seen) ∧
      (s.hitNow q o l = none → ∃ see : Write → Bool,
        (∀ e, s.mustSee q (o.ord ≠ .ordinary) o.scope l.addr l.len e = true → see e = true) ∧
        Delivered (s.squad q) (t.squad q) k o d (loadValue l.len sg (s.readSeen see l.addr l.len))
          (o.meter.map (fun src => if src = 0 then meterOf l.addr else src)) ∧
        (s.current q (o.ord ≠ .ordinary) o.scope l.addr l.len = true → s.readSeen see l.addr l.len = s.read l.addr l.len) ∧
        HasSeen t (.squad q) ((s.readFrom see l.addr l.len).map (fun e => ⟨e.serial, l.addr, l.len⟩)) ∧
        (o.ord = .acquire ∨ o.ord = .acqrel → ∀ h ∈ s.headsAt see l.addr l.len,
          s.inclusive h.party h.scope (.squad q) o.scope = true → HasSeen t (.squad q) h.seen))) ∧
    ScopeRules ∧
    (∀ (p : Nat) (strong : Bool) (sc a n : Nat) (e : Write), s.mustSee p strong sc a n e = true ↔
      (∃ m ∈ e.marks, (m.party = .squad p ∨ m.party = .every) ∧ m.lo < a + n ∧ a < m.lo + m.n) ∨
      (∃ r, e.by_ = .squad r ∧ e.store = true ∧ blockOfSquad r = blockOfSquad p) ∨ (strong = true ∧ s.shares e.by_ (.squad p) sc = true ∧
        ¬∃ r, e.by_ = .squad r ∧ ∃ x ∈ (s.squad r).out, ∃ l, x.kind = .ack l e.serial)) ∧
    (∀ (p : Nat) (va : BitVec 64) (n : Nat) (line : L1Line), s.hitLine p va n = some line →
      (s.block (blockOfSquad p)).line? va = some line ∧ ∀ e ∈ s.hist, let a := line.pline * 128 + va.toNat % 128
        (∃ b ∈ e.old, a ≤ b.1 ∧ b.1 < a + n) → s.mustSee p false 0 a n e = true →
        e.serial ≤ line.asof ∨ ∃ r, e.by_ = .squad r ∧ e.store = true ∧ blockOfSquad r = blockOfSquad p)

/-- 02 R45; 09 R199, R200; 10 R208, R209: performing a store writes the low bytes of its value at its address and no other byte; it is
acknowledged at once, or by a later write-back, which changes no byte (log 47); performing an atomic writes what its operation gives there, and the old value to its destination; that a word atomic's old value is
zero-extended into a scalar register is the model's choice (log 9). The write is the newest of its bytes, every squad of the block
must see a store from then on, and its own squad an atomic (09 R190; 10 R209). A release passes on what happens before it, and
itself (10 R214, R215). -/
def Obligations.StoreWriteback : Prop :=
  ∀ (s : State) (q k cycles : Nat) (o : Outst), MayWrite s q k o →
    (∀ l v, o.kind = .store l v → ∃ t, exec (.variableResultWriteback q k cycles) s = .next t ∧
      ((ResultWritten (s.squad q) (t.squad q) k o ∧ PutsValue (s.squad q) (t.squad q) .none 0) ∨
        AwaitsAck (s.squad q) (t.squad q) k o l (s.writes + 1)) ∧ SameSquadsBut q s t ∧
      Stores s t l.addr l.len v.toNat ∧ Performed s t q l.addr l.len ∧
      (o.ord = .release → (⟨.squad q, o.scope, o.seen ++ [⟨s.writes + 1, l.addr, l.len⟩]⟩ : Head) ∈ (listAt t.hist 0 default).heads) ∧
      ∀ p, blockOfSquad p = blockOfSquad q → ∀ strong sc, t.mustSee p strong sc l.addr l.len (listAt t.hist 0 default) = true) ∧
    (∀ l serial, o.kind = .ack l serial → ∃ t, exec (.variableResultWriteback q k cycles) s = .next t ∧
      ResultWritten (s.squad q) (t.squad q) k o ∧ PutsValue (s.squad q) (t.squad q) .none 0 ∧ SameSquadsBut q s t ∧ SameBytes s t ∧
      t.hist = s.hist) ∧
    (∀ l op v c d, o.kind = .rmw l op v c d → l.len = 4 ∨ l.len = 8 → ∃ t, exec (.variableResultWriteback q k cycles) s = .next t ∧
      Delivered (s.squad q) (t.squad q) k o d (BitVec.ofNat 64 (s.read l.addr l.len)) o.meter ∧ SameSquadsBut q s t ∧
      Performed s t q l.addr l.len ∧ ∀ e ∈ rmwRows, e.1 = op → Stores s t l.addr l.len
        (e.2 l.len (s.read l.addr l.len) (v.toNat % 2 ^ (8 * l.len)) (c.toNat % 2 ^ (8 * l.len))))

/-- 16 R307, R308, R314, R316, R318: a result that meets uncorrectable data outside a region halts its squad and terminates the gang
with cause 0x12 and the physical address of the read; within the open region it sets the squad back to the checkpoint, nothing
outstanding, and the gang leaves to be repaired; in a handler it is a double fault, which keeps the first trap's registers and
names the second's. R305: a squad at a scalar word boundary with one pending fault, its gang running, enters its handler with the
fault's cause and ASYNC set, to go on at the interrupted word. -/
def Obligations.LateAndPendingFaults : Prop :=
  (∀ (s : State) (q k : Nat) (o : Outst) (l : Loc), s.canPerform q k = true → s.readsBad q k = true →
      (s.squad q).out[k]? = some o → o.reads = some l → l.addr < 2 ^ 120 → let x := s.squad q
      (x.handler = none → (o.region = false ∨ x.region = none) → (s.gangOf q).term = none →
        ∃ t, exec (.lateFault q k) s = .next t ∧ (t.squad q).run = .halted ∧ (t.squad q).out = [] ∧ SameSquadsBut q s t ∧
          (t.gangOf q).term = some ⟨0x12, blkidOfSquad q, sqidOf q, BitVec.ofNat 64 (l.addr % 2 ^ 52), [o.pc]⟩) ∧
      (x.handler ≠ none → (s.gangOf q).term = none →
        ∃ t, exec (.lateFault q k) s = .next t ∧ (t.squad q).run = .halted ∧ (t.squad q).trap = x.trap ∧ SameSquadsBut q s t ∧
          (t.gangOf q).term = some ⟨0x13, blkidOfSquad q, sqidOf q, 0x12, [o.pc, o.tlpc, o.lane.setWidth 64, o.tdst]⟩) ∧
      (∀ c : Checkpoint, x.handler = none → o.region = true → x.region = some c → (s.gangOf q).place = .resident →
        ∃ t, exec (.lateFault q k) s = .next t ∧ (t.gangOf q).place = .leaving (.repair false) ∧ SameSquadsBut q s t ∧
          t.squad q = { x with out := [], latch := none, lane := none, replay := none, lcnt := 0, pc := c.pc, lpc := c.lpc,
                               masks := c.masks, fmt := c.fmt, fflags := c.fflags, chsel := c.chsel, run := .running })) ∧
  (∀ (s : State) (f : PendFault), CanTrap s → s.mayRun s.actor = true → s.sq.lane = none → s.sq.faults = [f] → f.carry = false →
      ∃ t, exec (.asyncFaultTake s.actor) s = .next t ∧ OnlySquad s t ∧ t.sq.pc = s.sq.trap.thandler ∧ t.sq.faults = [] ∧
        t.sq.handler.isSome = true ∧ t.sq.trap.tpc = s.sq.pc ∧ t.sq.trap.tval = f.tval ∧ t.sq.trap.tdst = f.tdst ∧
        t.sq.trap.tcause = BitVec.ofNat 64 (f.cause.toNat + 2 ^ 15))

/-- 07 R151 and each word's rule; 06 R140, R142, R143: an elementwise lane word that passes its checks writes its result to every
active lane of vd, merges the flags of the active lanes and goes on; where active lanes raise a flag that FMT.TE enables, those
lanes are not written and the squad takes trap 0x08. Two readings in it are the model's choice (log 48, DESIGN CHOICE): VSHFL and
VROT move a subnormal as it is whatever FMT.FTZ says, which R138 read widely would flush (movedRes), and the va of VPACK and of VUNPK
has the class that log 48 gives it (packRes, unpackRes). -/
def Obligations.ElementwiseWords : Prop :=
  ∀ e ∈ elementRows ++ [(0x73, .vpack, packRes), (0x74, .vunpk, unpackRes)], ∀ (s : State) (f : LaneForm),
    LaneOk s e.1 f → s.sq.lane.isSome = true → let ef := laneEf e.1 f s.sq.fmt
    LaneCompletes s (e.2.1 f) e.1 f ef (e.2.2 s.sq f ef)

/-- 07 R156 to R158; 06 R142: a compare that passes its checks sets bit l of its mask register to the result of each active lane l
and to 0 for each inactive one, and goes on; where active lanes raise a flag that FMT.TE enables, their bits stay and the squad
takes trap 0x08. -/
def Obligations.CompareWords : Prop :=
  ∀ e ∈ compareRows, ∀ (s : State) (f : LaneForm) (d : BitVec 4),
    f.vd = .msk d → LaneOk s e.1 f → s.sq.lane.isSome = true →
    let res := e.2.2 s.sq f (laneEf e.1 f s.sq.fmt); let on := bitAt (s.sq.runs f.m)
    let trap := fun (l : Nat) => (res l).traps (fmtTE s.sq.fmt)
    (¬ SomeTraps s.sq f trap → ∃ t v, exec (e.2.1 f) s = .next t ∧
      MaskWrites s t d v (fun i => (List.range 32).any (fun l => on l && (res l).flags.getLsbD i)) (markerOf e.1 f s.sq) ∧
      ∀ l, l < 32 → bitAt v l = (on l && (res l).v = 1)) ∧
    (SomeTraps s.sq f trap → CanTrap s → ∃ t mid, exec (e.2.1 f) s = .next t ∧
      FloatTrap s t mid f (laneTdst e.1 f (laneEf e.1 f s.sq.fmt)) trap res ∧
      (∀ l, l < 32 → bitAt (mid.readM d) l = (on l && (if trap l then bitAt (s.sq.readM d) l else (res l).v = 1))) ∧
      (∀ n, n ≠ d → mid.readM n = s.sq.readM n) ∧
      (∀ i, i < 6 → mid.fflags.getLsbD i =
        (s.sq.fflags.getLsbD i || (List.range 32).any (fun l => on l && !trap l && (res l).flags.getLsbD i))) ∧
      mid = { s.sq with masks := mid.masks, fflags := mid.fflags })

/-- 07 R160; 02 R45; 06 R140, R143: a long word that passes its checks goes on with one result outstanding for each active lane of
vd and the flags of all of them, no register having changed yet. The second clause is the model's choice (log 11, DEDUCED; R143
says only that FMT.TE makes it act as if its set marker were 1): while FMT.TE enables a flag it is decided at once, as an
elementwise word is. -/
def Obligations.LongWords : Prop :=
  ∀ e ∈ longRows, ∀ (s : State) (f : LaneForm), LaneOk s e.1 f → s.sq.lane.isSome = true →
    let ef := laneEf e.1 f s.sq.fmt; let res := e.2.2 s.sq f ef
    (fmtTE s.sq.fmt = 0 → ∃ t, exec (e.2.1 f) s = .next t ∧
      LaneLeaves s t (f.s = 1) .ordinary 0
        ((lanesOn (s.sq.runs f.m)).map (fun l => (.value (.vreg (s.sq.vcell f.vd.vreg l)) (res l).v, none)))
        (fun i => (List.range 32).any (fun l => bitAt (s.sq.runs f.m) l && (res l).flags.getLsbD i)) 0x1800) ∧
    (fmtTE s.sq.fmt ≠ 0 → LaneCompletes s (e.2.1 f) e.1 f ef res)

/-- 08 R169; 07 R155; 06 R131, R133: a mask logic word sets all 32 bits of its mask register, whatever the active lanes; VIMM writes
its immediate, as FMT.EF has it, to the active lanes, a narrow one extended. -/
def Obligations.MaskLogicAndImmediate : Prop :=
  (∀ e ∈ maskRows, ∀ (s : State) (f : LaneForm) (d : BitVec 4), f.vd = .msk d → s.sq.lane.isSome = true →
    ∃ t v, exec (e.1 f) s = .next t ∧ MaskWrites s t d v (fun _ => false) (f.s = 1) ∧
      ∀ l, l < 32 → v.getLsbD l = e.2 ((s.sq.readM f.va.mreg).getLsbD l) ((s.sq.readM f.vb.mreg).getLsbD l)) ∧
  (∀ (s : State) (m : BitVec 1) (mk : BitVec 4) (vd : BitVec 11) (imm : BitVec 32), vd.toNat < s.sq.vws →
    s.sq.lane.isSome = true → let e := (fmtEF s.sq.fmt).toNat
    1 ≤ e → e ≤ 10 → (e = 10 → vd.toNat % 2 = 0) →
    ∃ t v, exec (.vimm m mk vd imm) s = .next t ∧
      LaneWrites s t ⟨m, mk, .vec vd, .unused, .unused, .unused, ⟨0, 0, 0, 0, 0, 0⟩⟩ (e = 10) (m = 1) (fun _ => ⟨v, 0⟩) ∧
      (e = 10 → v = imm.signExtend 64) ∧ (e = 3 ∨ e = 6 ∨ e = 9 → v = imm.setWidth 64) ∧
      (e = 1 → v = ((imm.setWidth 8).signExtend 32).setWidth 64) ∧ (e = 2 → v = ((imm.setWidth 16).signExtend 32).setWidth 64) ∧
      (e = 4 → v = (imm.setWidth 8).setWidth 64) ∧ (e = 5 ∨ e = 7 ∨ e = 8 → v = (imm.setWidth 16).setWidth 64))

/-- 06 R131, R132: fitting an integer to a format gives it when it is in range, else wraps modulo two to the width, or under
saturation the nearest end of the range with SAT; a narrow one is held extended to 32 bits. R133 to R139, R146, R147; 07 R154,
R155, R158 to R161, R165, R166: and what the numbers of the other lane words are: the reading of a datum, sums, products, quotients, roots and
conversions rounded once with the flags of that rounding, comparisons, the lesser and the greater, class bits, shifts and
bit counts, powers of two and logarithms, quantised blocks and reductions. One clause is the model's choice (log 44, DESIGN CHOICE):
NumberReductions enters no 0 for an absent running value of a sum, so that a sum of -0 alone stays -0, where 07 R165 writes
(t or 0). -/
def Obligations.IntegerFit : Prop :=
  (∀ (e : Nat) (sat : Bool) (x : Int), 1 ≤ e → e ≤ 6 →
    let r := fitInt e sat x
    let y := intRead e r.v
    intMin e ≤ y ∧ y ≤ intMax e ∧ r.v.toNat < 2 ^ 32 ∧ (r.v.setWidth 32).toInt = (if 2 ^ 31 ≤ y then y - 2 ^ 32 else y) ∧
    (intMin e ≤ x → x ≤ intMax e → y = x ∧ r.flags = 0) ∧
    (sat = false → (2 ^ efBits e : Int) ∣ (y - x) ∧ r.flags = 0) ∧
    (sat = true → intMax e < x → y = intMax e ∧ r.flags = flagSAT) ∧
    (sat = true → x < intMin e → y = intMin e ∧ r.flags = flagSAT)) ∧
  NumberReads ∧ NumberSums ∧ NumberProducts ∧ NumberQuotients ∧ NumberConversions ∧ NumberCompares ∧ NumberBlocks ∧ NumberReductions ∧
  NumberExtremes ∧ NumberBits ∧ NumberPowers

/-- 07 R152, R163, R165, R166; 06 R142: VRED writes the combination of the active lanes to all of them and VSCAN the running
combination, as NumberReductions has it (with log 44's choice for the first group of a grouped sum); VBFPQ, with some lane active, writes the planes and the exponent of the block to every lane
of vd, active or not. Their flags are the whole squad's: where one that FMT.TE enables is raised, no lane is written and every active
lane traps. -/
def Obligations.WholeSquadWords : Prop :=
  ∀ (s : State) (f : LaneForm), s.sq.lane.isSome = true →
    (LaneOk s 0x82 f → let e := laneEf 0x82 f s.sq.fmt; LaneCompletes s (.vred f) 0x82 f e (reduceRes s.sq f e false)) ∧
    (LaneOk s 0x83 f → let e := laneEf 0x83 f s.sq.fmt; LaneCompletes s (.vscan f) 0x83 f e (reduceRes s.sq f e true)) ∧
    (LaneOk s 0x71 f →
      let n := f.mod.arg.toNat % 16
      let e := laneEf 0x71 f s.sq.fmt
      let q := bfpq ((List.range 32).map (fun l => if bitAt (s.sq.runs f.m) l then s.sq.fval f.va e l else .num false 0 0)) n
      let res := fun (_ : Nat) => (⟨0, q.2.2⟩ : LaneRes)
      let trap := fun (l : Nat) => (res l).traps (fmtTE s.sq.fmt)
      (s.sq.runs f.m = 0 → ∃ t, exec (.vbfpq f) s = .next t ∧ OnlySquad s t ∧ LaneGoes s.sq t.sq (markerOf 0x71 f s.sq) ∧
        t.sq = s.sq.withLaneOf t.sq) ∧
      (s.sq.runs f.m ≠ 0 → ¬ SomeTraps s.sq f trap →
        ∃ t, exec (.vbfpq f) s = .next t ∧ OnlySquad s t ∧ LaneGoes s.sq t.sq (markerOf 0x71 f s.sq) ∧
        (∀ j, j < 32 → t.sq.readV f.vd.vreg j = BitVec.ofNat 32 (if j < n then plane q.2.1 j else if j = 31 then q.1 else 0)) ∧
        (∀ c, (∀ l, l < 32 → c ≠ s.sq.vcell f.vd.vreg l) → cellGet t.sq.vregs c = cellGet s.sq.vregs c) ∧
        t.sq = { s.sq.withLaneOf t.sq with vregs := t.sq.vregs, fflags := s.sq.fflags ||| q.2.2 }) ∧
      (SomeTraps s.sq f trap → CanTrap s → ∃ t, exec (.vbfpq f) s = .next t ∧
        FloatTrap s t s.sq f (laneTdst 0x71 f e) trap res))

/-- 08 R169, R170; 02 R48: the words of major 0x09 that write a scalar register go on with their value outstanding for it, and
park the squad as if S were set. -/
def Obligations.VoteWords : Prop :=
  ∀ e ∈ voteRows, ∀ (s : State) (f : LaneForm), e.2.1 f → s.sq.lane.isSome = true →
    ∃ t v, exec (e.1 f) s = .next t ∧ e.2.2 s.sq f (s.sq.runs f.m &&& s.sq.readM f.va.mreg) (s.sq.runs f.m) v ∧
      LaneLeaves s t true .ordinary 0 [(.value (s.sq.dstS f.vd.sreg) v, none)] (fun _ => false) 0x1800

/-- 09 R201 to R206; 16 R312, R313: a lane load, store or atomic that passes its checks in every active lane goes on with one result
outstanding per element, of the lane's own address, width and data; LDW loads k words a lane; an atomic then ends the open
region. Where lanes fail, the passing lanes alone go on, and the word traps or its gang leaves, to run again for the failing lanes.
What each element leaves is in ElementRules: its address,
width and data as the checks of its address gave them; that an element which hits the L1 takes its line's value at its issue is
the model's choice (log 9, DEDUCED). PREF leaves nothing outstanding and changes no byte of memory and no register: it may bring lines into the block's L1. -/
def Obligations.LaneMemoryWords : Prop :=
  ElementRules ∧ ∀ (s : State) (f : LaneForm), s.sq.lane.isSome = true →
    (∀ e ∈ laneLoadRows, LaneOk s e.1 f → let w := laneEf e.1 f s.sq.fmt
      LaneChecks s s (e.2.1 f) e.1 f ((lanesOn (s.sq.runs f.m)).map (fun l => (l, laneVa s.sq e.2.2 f l, fun v =>
        v.loadElem v.actor (ordOf f.mod.ord) (laneVa s.sq e.2.2 f l) (widthBytes w) (widthSigned w) (s.sq.dstV f.vd.vreg l (w = 4))))) id) ∧
    (∀ e ∈ laneStoreRows, LaneOk s e.1 f → let w := laneEf e.1 f s.sq.fmt
      LaneChecks s s (e.2.1 f) e.1 f ((lanesOn (s.sq.runs f.m)).map (fun l => (l, laneVa s.sq e.2.2 f l, fun v =>
        v.writeElem v.actor (laneVa s.sq e.2.2 f l) (widthBytes w) (fun loc => .store loc (s.sq.opnd f.vc l (w = 4)))))) id) ∧
    (∀ e ∈ laneAtomRows, LaneOk s e.1 f → s.sq.out = [] ∨ s.sq.region = none → s.sq.latch = none → let w := laneEf e.1 f s.sq.fmt
      LaneChecks s (s.setSq { s.sq with latch := none }) (e.2.1 f) e.1 f ((lanesOn (s.sq.runs f.m)).map (fun l => (l, laneVa s.sq 0 f l,
        fun v => v.writeElem v.actor (laneVa s.sq 0 f l) (widthBytes w) (fun loc =>
          .rmw loc e.2.2 (s.sq.opnd f.vc l (w = 4)) (s.sq.opnd f.vb l (w = 4)) (s.sq.dstV f.vd.vreg l (w = 4))))))
        (fun u => u.setSq { u.sq with region := none })) ∧
    (LaneOk s 0x103 f → f.mod.ord = 0 →
      let base := s.sq.readS f.va.sreg + BitVec.ofInt 64 (128 * (f.mod.arg.setWidth 12).toInt)
      LaneChecks s s (.ldw f) 0x103 f ((lanesOn (s.sq.runs f.m)).flatMap (fun l => (List.range (f.mod.arg.toNat / 4096 + 1)).map (fun j =>
        (l, base + BitVec.ofNat 64 (128 * j + 4 * l), fun v =>
          v.loadElem v.actor .ordinary (base + BitVec.ofNat 64 (128 * j + 4 * l)) 4 false (s.sq.dstV (f.vd.vreg + j) l false))))) id) ∧
    (LaneOk s 0x130 f → ∃ t, exec (.pref f) s = .next t ∧ LaneGoes s.sq t.sq (f.s = 1) ∧ t.sq = s.sq.withLaneOf t.sq ∧
      SameSquadsBut s.actor s t ∧ SameBytes s t ∧ t = { s with squads := t.squads, blocks := t.blocks } ∧
      (∀ b, b ≠ blockOfSquad s.actor → t.block b = s.block b) ∧
      t.block (blockOfSquad s.actor) = { s.block (blockOfSquad s.actor) with l1 := (t.block (blockOfSquad s.actor)).l1 })

/-- 08 R172, R173: a squad outside a handler with nothing outstanding, its live set within VWS, arrives at its divergence word:
it waits there, its region ended, and its registers, masks and PCs stand; no lane moves before the last participant has come.
R175, R176, R183: within a handler the words take effect at once for the one squad: DIVB, its live set empty, runs the
lanes of its mask and keeps the rest; ELSEB runs those; RECV brings m0 and FMT back. -/
def Obligations.DivergenceWords : Prop :=
  (∀ e ∈ divergeRows, ∀ (s : State) (f : LaneForm), LaneOk s e.1 f → divL f ≤ s.sq.vws → s.sq.out = [] → s.sq.handler = none →
      (s.squadsOf (blockOfSquad s.actor)).all (fun q => !(s.squad q).absent) = true →
      ∃ t, exec (e.2 f) s = .next t ∧ OnlySquad s t ∧ t.sq = { s.sq with region := none, run := .diverge (encodeForm e.1 f) }) ∧
  (∀ (s : State) (f : LaneForm) (k : Marker), s.sq.handler = some k → s.sq.out = [] → s.sq.lane.isSome = true →
      (LaneOk s 0xA0 f → divL f = 0 → s.entriesInUse (blockOfSquad s.actor) ≠ 32 → ∃ t, exec (.divb f) s = .next t ∧
        OnlySquad s t ∧ LaneGoes s.sq t.sq (f.s = 1) ∧ t.sq.readM 0 = s.sq.readM 0 &&& s.sq.readM f.va.mreg ∧
        t.sq.seg = ⟨s.sq.readM 0, s.sq.readM 0 &&& ~~~(s.sq.readM f.va.mreg), s.sq.fmt, false⟩ :: s.sq.seg) ∧
      (∀ x rest, s.sq.seg = x :: rest → x.els = false → LaneOk s 0xA1 f → divL f ≤ s.sq.vws → ∃ t, exec (.elseb f) s = .next t ∧
        OnlySquad s t ∧ LaneGoes s.sq t.sq (f.s = 1) ∧ t.sq.readM 0 = x.f ∧ t.sq.fmt = x.fmt ∧ t.sq.seg = { x with els := true } :: rest) ∧
      (∀ x rest, s.sq.seg = x :: rest → LaneOk s 0xA2 f → divL f ≤ s.sq.vws → ∃ t, exec (.recv f) s = .next t ∧
        OnlySquad s t ∧ LaneGoes s.sq t.sq (f.s = 1) ∧ t.sq.readM 0 = x.e ∧ t.sq.fmt = x.fmt ∧ t.sq.seg = rest))

/-- 08 R172 to R179, R184: once every participant of a block has arrived, the collective takes effect in all of them. DIVB with an
empty live set runs in each the lanes of E and mN and stacks E, the others and FMT; ELSEB runs the others, and RECV brings m0
and FMT back. With a live set DIVB, the participants' registers below S and FMT agreeing, packs the lanes of its path into the
first positions and holds the rest aside; ELSEB brings every lane back and packs those of the other path; RECV brings every
lane back, the path's scalar registers given to all. REGRP packs and numbers all lanes and retires the participants left without
one. Participants whose registers differ all take fault 0x0A with SUB 4. One part of the REGRP clause is the model's choice (log 43,
DESIGN CHOICE): with L = 0, of which R179 says nothing, the bits of m1 to m15 and the LANEID move with the lanes as they do with
L > 0. -/
def Obligations.DivergenceCompletes : Prop :=
  ∀ (s : State) (b : Nat) (qs : List Nat) (f : LaneForm), let n := divL f; let go := Instr.divergenceCollectiveComplete b
    let parts := qs.map (partOf s f.va.mreg)
    let path := lanesIn (qs.map (fun q => (q, (s.squad q).readM 0 &&& (s.squad q).readM f.va.mreg)))
    (AllWait s b 0xA0 f qs → (Instr.divb f).wf = true → s.entriesInUse b ≠ 32 →
      (n = 0 → ∃ t c, exec go s = .next t ∧ AllGo s t qs f ∧ (t.block b).stack = c :: (s.block b).stack ∧ c.els = false ∧ c.l = 0 ∧
        c.parts = parts ∧ ∀ q ∈ qs, let x := s.squad q; let y := t.squad q
          y.readM 0 = x.readM 0 &&& x.readM f.va.mreg ∧ (∀ k, k ≠ 0 → y.readM k = x.readM k) ∧
          y = { x.withLaneOf y with masks := y.masks }) ∧
      (n ≠ 0 → (∀ q ∈ qs, n ≤ (s.squad q).vws) → Uniform s qs (divS f) →
        ∃ t c, exec go s = .next t ∧ AllGo s t qs f ∧ (t.block b).stack = c :: (s.block b).stack ∧ c.els = false ∧ c.l = n ∧ c.s = divS f ∧
          c.parts = parts ∧ RunsFirst t qs path.length ∧
          (∀ i, i < path.length → let p := listAt path i (0, 0); let z := posOf qs i
            Carries (s.squad p.1) p.2 (t.squad z.1) z.2 n) ∧
          c.held = ((lanesIn (qs.map (fun q => (q, (s.squad q).lanes)))).filter (fun p => !path.contains p)).map
            (fun p => (s.squad p.1).takeLane p.1 p.2 n) ∧
          ∀ q ∈ qs, (t.squad q).sregs = (s.squad q).sregs ∧ (t.squad q).fmt = (s.squad q).fmt) ∧
      (n ≠ 0 → ∀ d, (∃ i, i < divS f ∧ d = 16 + i ∧ Uniform s qs 0 ∧ (∀ k, k < i → Uniform s qs (k + 1)) ∧ ¬ Uniform s qs (i + 1)) →
        (∀ q ∈ qs, (s.squad q).handler = none ∧ (s.squad q).trap.thandler ≠ 0) → s.entriesInUse b + qs.length ≤ 32 →
        ∃ t, exec go s = .next t ∧ ∀ q ∈ qs, let y := t.squad q
          y.handler.isSome = true ∧ y.pc = (s.squad q).trap.thandler ∧ y.trap.tcause = 0x600A ∧ y.trap.tpc = (s.squad q).pc ∧
          y.trap.tval = BitVec.ofNat 64 (d * 65536 + 4))) ∧
    (∀ c rest, AllWait s b 0xA1 f qs → (Instr.elseb f).wf = true → (s.block b).stack = c :: rest → c.els = false →
      (c.l = 0 → c.parts.map (·.sq) = qs → ∃ t, exec go s = .next t ∧ AllGo s t qs f ∧
        (t.block b).stack = { c with els := true, held := [] } :: rest ∧
        ∀ p ∈ c.parts, let x := s.squad p.sq; let y := t.squad p.sq
          y.readM 0 = p.f ∧ y.fmt = p.fmt ∧ (∀ k, k ≠ 0 → y.readM k = x.readM k) ∧
          y = { x.withLaneOf y with masks := y.masks, fmt := y.fmt }) ∧
      (GoodConstruct s c qs → let other := lanesIn (c.parts.map (fun p => (p.sq, p.f)))
        (∀ p ∈ other, ∃ h ∈ c.held, (h.sq, h.l) = p) →
        ∃ t k, exec go s = .next t ∧ AllGo s t qs f ∧ (t.block b).stack = k :: rest ∧ k = { c with els := true, held := k.held } ∧
          RunsFirst t qs other.length ∧ Broadcast s t c qs ∧ (∀ p ∈ c.parts, (t.squad p.sq).fmt = p.fmt) ∧
          (∀ i, i < other.length → ∀ h ∈ c.held, (h.sq, h.l) = listAt other i (0, 0) → let z := posOf qs i
            CarriesHeld h (t.squad z.1) z.2 c.l))) ∧
    (∀ c rest, AllWait s b 0xA2 f qs → (Instr.recv f).wf = true → (s.block b).stack = c :: rest →
      (c.l = 0 → c.parts.map (·.sq) = qs → ∃ t, exec go s = .next t ∧ AllGo s t qs f ∧ (t.block b).stack = rest ∧
        ∀ p ∈ c.parts, let x := s.squad p.sq; let y := t.squad p.sq
          y.readM 0 = p.e ∧ y.fmt = p.fmt ∧ (∀ k, k ≠ 0 → y.readM k = x.readM k) ∧
          y = { x.withLaneOf y with masks := y.masks, fmt := y.fmt }) ∧
      (GoodConstruct s c qs → ∃ t, exec go s = .next t ∧ AllGo s t qs f ∧ (t.block b).stack = rest ∧ Broadcast s t c qs ∧
        (∀ p ∈ c.parts, (t.squad p.sq).readM 0 = p.e ∧ (t.squad p.sq).fmt = p.fmt) ∧
        (∀ m ∈ c.lanes, (t.squad m.1).lanes = m.2) ∧
        (∀ i, i < c.onPath.length → let p := listAt c.onPath i (0, 0); let z := posOf qs i
          Carries (s.squad z.1) z.2 (t.squad p.1) p.2 c.l) ∧
        ∀ h ∈ c.held, CarriesHeld h (t.squad h.sq) h.l c.l)) ∧
    (AllWait s b 0xA3 f qs → (Instr.regrp f).wf = true → (s.block b).stack = [] → Uniform s qs (divS f) →
      (∀ q ∈ qs, n ≤ (s.squad q).vws) → (s.block b).pacer.faults = [] → (∀ k m, (s.block b).pacer.run ≠ .barrier k m) →
      let all := lanesIn (qs.map (fun q => (q, (s.squad q).readM 0)))
      ∃ t, exec go s = .next t ∧ SameBytes s t ∧ (∀ p, p ∉ qs → t.squad p = s.squad p) ∧ RunsFirst t qs all.length ∧
        (∀ i, i < all.length → let p := listAt all i (0, 0); let z := posOf qs i; let x := s.squad p.1; let y := t.squad z.1
          cellGet y.laneids z.2 = BitVec.ofNat 32 i ∧ (∀ k, 1 ≤ k → k < 16 → bitAt (cellGet y.masks k) z.2 = bitAt (cellGet x.masks k) p.2) ∧
          ∀ r, r < n → y.readV r z.2 = x.readV r p.2) ∧
        ∀ j, j < qs.length → let x := s.squad (listAt qs j 0); let y := t.squad (listAt qs j 0)
          (∀ k l, 1 ≤ k → k < 16 → l < 32 → all.length ≤ 32 * j + l → bitAt (cellGet y.masks k) l = false) ∧
          (32 * j < max 1 all.length → LaneGoes { x with run := .running } y (f.s = 1)) ∧
          (max 1 all.length ≤ 32 * j → y.run = .exited ∧ y.fused = true))

/-- 11 R231 to R233: the Pacer's fixed words, in every state: TFMT of a legal combination sets the format state, TDESA and TDESB
latch a descriptor, TLI, TLI.H and TADD write a ta register, TLOOP counts one down and jumps while it is not zero, TNOP only goes
on. -/
def Obligations.PacerWords : Prop :=
  ∀ (s : State) (m : BitVec 1), let p := s.pacer
    (∀ (ak : BitVec 3) (an : BitVec 4) (bk : BitVec 3) (bn : BitVec 4) (acct ord : BitVec 1) (rm : BitVec 2) (ftz : BitVec 1),
      ak = bk → ak.toNat ≤ 2 → (ak = 0 → 2 ≤ an.toNat ∧ an.toNat ≤ 8 ∧ 2 ≤ bn.toNat ∧ bn.toNat ≤ 8 ∧ ord = 0) →
      (ak ≠ 0 → an = 0 ∧ bn = 0 ∧ acct = 0) →
      ∃ t, exec (.tfmt m ak an bk bn acct ord rm ftz) s = .next t ∧
        PacerGoes s t m (p.tpc + 8) { p with fmt := ⟨ak, an, bk, bn, acct, ord, rm, ftz⟩ }) ∧
    (∀ (tm ts tx : BitVec 4) (xs : BitVec 20), let d : Descr := ⟨p.readTa tm, p.readTa ts, p.readTa tx, xs.setWidth 64⟩
      (∃ t, exec (.tdesa m tm ts tx xs) s = .next t ∧ PacerGoes s t m (p.tpc + 8) { p with da := d }) ∧
      (∃ t, exec (.tdesb m tm ts tx xs) s = .next t ∧ PacerGoes s t m (p.tpc + 8) { p with db := d })) ∧
    (∀ (d : BitVec 4) (i : BitVec 48), ∃ t y, exec (.tli m d i) s = .next t ∧
      TaWritten p y d (BitVec.ofInt 64 i.toInt) ∧ PacerGoes s t m (p.tpc + 8) y) ∧
    (∀ (d : BitVec 4) (i : BitVec 16), ∃ t y, exec (.tliH m d i) s = .next t ∧
      TaWritten p y d (i ++ (p.readTa d).setWidth 48) ∧ PacerGoes s t m (p.tpc + 8) y) ∧
    (∀ (d a b : BitVec 4) (ub : BitVec 1) (sh : BitVec 4) (i : BitVec 38), ∃ t y, exec (.tadd m d a b ub sh i) s = .next t ∧
      TaWritten p y d (p.readTa a + (if ub = 1 then BitVec.ofNat 64 ((p.readTa b).toNat * 2 ^ sh.toNat) else 0) +
        BitVec.ofInt 64 i.toInt) ∧ PacerGoes s t m (p.tpc + 8) y) ∧
    (∀ (c : BitVec 4) (off : BitVec 24), ∃ t y, exec (.tloop m c off) s = .next t ∧ TaWritten p y c (p.readTa c - 1) ∧
      PacerGoes s t m (p.tpc + (if p.readTa c - 1 ≠ 0 then BitVec.ofInt 64 (8 * off.toInt) else 8)) y) ∧
    (∃ t, exec (.tnop m) s = .next t ∧ PacerGoes s t m (p.tpc + 8) p)

/-- 11 R230, R235, R241, R242; 02 R59: a tile instruction whose accumulator the gang has and whose fields are legal issues with
what it reads then; TMMA and TMMAJ start at the panel that RPR names. The arrays' work follows. -/
def Obligations.TileIssueWords : Prop :=
  ∀ (s : State) (m : BitVec 1) (acc : BitVec 2), let p := s.pacer
    acc.toNat < s.tiles s.actor →
    (∀ kp : BitVec 16, kp ≠ 0 → ∃ t, exec (.tmma m acc kp) s = .next t ∧ TileIssued s t m (.tmma m acc kp) [] (p.rpr.toNat / 32)) ∧
    (∃ t, exec (.tzero m acc) s = .next t ∧ TileIssued s t m (.tzero m acc) [] 0) ∧
    (∀ tm ts : BitVec 4,
      (∃ t, exec (.tldc m acc tm ts) s = .next t ∧ TileIssued s t m (.tldc m acc tm ts) [p.readTa tm, p.readTa ts] 0) ∧
      (∃ t, exec (.tstc m acc tm ts) s = .next t ∧ TileIssued s t m (.tstc m acc tm ts) [p.readTa tm, p.readTa ts] 0)) ∧
    (∀ (tm ts tx tw : BitVec 4) (amx clr : BitVec 1) (ofm : BitVec 3) (n : BitVec 4) (rm : BitVec 2) (xs : BitVec 20),
      ofm.toNat ≤ 2 → (ofm = 2 → 2 ≤ n.toNat ∧ n.toNat ≤ 8) → ∃ t, exec (.tdrain m acc tm ts tx tw amx clr ofm n rm xs) s = .next t ∧
        TileIssued s t m (.tdrain m acc tm ts tx tw amx clr ofm n rm xs) [p.readTa tm, p.readTa ts, p.readTa tx, p.readTa tw] 0) ∧
    (∀ (kp : BitVec 16) (bar : BitVec 4) (cnt : BitVec 5), kp ≠ 0 → 1 ≤ cnt.toNat → cnt.toNat ≤ 17 →
      (s.gang (gangOfBlock s.actor)).desc.nblocks = 4 →
      (∀ b, gangOfBlock b = gangOfBlock s.actor → (s.block b).pacer.joint? = none ∧ (s.block b).pacer.run ≠ .idle) →
      ∃ t, exec (.tmmaj m acc kp bar cnt) s = .next t ∧ TileIssued s t m (.tmmaj m acc kp bar cnt) [] (p.rpr.toNat / 32))

/-- 11 R235, Table 11-4: the panel step into an INT32 accumulator adds the dot product of the mantissas, none of it where an
exponent is 0, and clamps to plus or minus 2^31 - 1, which it reports; into FP32 it leaves the element where an exponent is 0, gives
the canonical NaN where one is 255, and else adds the scaled dot product and rounds once, to nearest; of BF16 and FP32 elements it
adds the products one by one, or in groups of four, each addition or group rounded once. 11 R234 to R238, R241, R242: what the arrays
do in one step of an instruction (whose turn StepRunsDecoded ties to a step): a panel of TMMA or TMMAJ, the check and the rows of TLDC,
TSTC and TDRAIN, in any order, the merge and the clear of TDRAIN, TZERO. R237 to R239: a panel whose fetch fails stops the instruction
with RPR at the panel's first k, all four members of a TMMAJ; the fault is pending in the first squad of the block out of its
handler, with what it says; where pages alone are missing the gang leaves its cores. 16 R366: a panel into an accumulator that holds
uncorrectable data, and a row read from one, is a tile fault of SUB 10; a row written whole clears it.
Of these the model's choices are: that TLDC, TSTC and TDRAIN check all their accesses before the first row and then go row by row, and
what the Pacer keeps of a stop (met, owed, again; log 12, DEDUCED); that a walk over uncorrectable data is SUB 10 (log 31, DEDUCED); which
Pacer of a core the arrays take next (ArraysTake, log 46, DEDUCED); and the address that a fault over an accumulator
reports, which is free, and that it comes before the checks of the panel (log 37). -/
def Obligations.TileArithmetic : Prop :=
  (∀ (f : TileFormat) (acc : BitVec 32) (a b : PanelRow), f.ak = 0 → f.acct = 1 →
    let v := acc.toInt + (if a.exp = 0 ∨ b.exp = 0 then 0 else ((a.ms.zip b.ms).map (fun x => x.1 * x.2)).sum)
    let r := panelStep f acc a b
    (-(2 ^ 31 - 1) ≤ v → v ≤ 2 ^ 31 - 1 → r.1.toInt = v ∧ r.2 = false) ∧
    (2 ^ 31 - 1 < v → r.1.toInt = 2 ^ 31 - 1 ∧ r.2 = true) ∧ (v < -(2 ^ 31 - 1) → r.1.toInt = -(2 ^ 31 - 1) ∧ r.2 = true)) ∧
  (∀ (f : TileFormat) (acc : BitVec 32) (a b : PanelRow), f.ak = 0 → f.acct = 0 →
    (a.exp = 255 ∨ b.exp = 255 → panelStep f acc a b = (0x7FC00000, false)) ∧
    (a.exp ≠ 255 → b.exp ≠ 255 → a.exp = 0 ∨ b.exp = 0 → panelStep f acc a b = (acc, false)) ∧
    (1 ≤ a.exp → a.exp ≤ 254 → 1 ≤ b.exp → b.exp ≤ 254 → let P := ((a.ms.zip b.ms).map (fun x => x.1 * x.2)).sum
      panelStep f acc a b = ((fp32.sum 0 (f.ftz = 1) [fp32.read (f.ftz = 1) acc.toNat, .num (decide (P < 0)) P.natAbs
        ((a.exp : Int) + b.exp - 254 - ((f.an.toNat : Int) - 2) - ((f.bn.toNat : Int) - 2))]).v.setWidth 32, false))) ∧
  (∀ (f : TileFormat) (acc : BitVec 32) (a b : PanelRow), f.ak ≠ 0 → a.vs.length = 32 → b.vs.length = 32 →
    let z := f.ftz = 1; let x := fun (k : Nat) => listAt a.vs k .qnan; let y := fun (k : Nat) => listAt b.vs k .qnan
    ∃ w : Nat → BitVec 32, w 0 = acc ∧
      (f.ord = 0 → panelStep f acc a b = (w 32, false) ∧
        ∀ k, k < 32 → w (k + 1) = (fp32.fma f.rm z (x k) (y k) (fp32.read z (w k).toNat)).v.setWidth 32) ∧
      (f.ord = 1 → panelStep f acc a b = (w 8, false) ∧
        ∀ g, g < 8 → w (g + 1) = (fp32.sum f.rm z (fp32.read z (w g).toNat ::
          (List.range 4).map (fun j => (fmulVal (x (4 * g + j)) (y (4 * g + j))).1))).v.setWidth 32)) ∧
  (∀ (s u : State) (b nrows p : Nat) (o : TileOp) (ms : List Nat) (ea eb : BitVec 8), nrows = 64 ∨ nrows = 32 → let f := o.fmt
    let as := (List.range nrows).flatMap (fun r => blockAccesses o.da f.ak f.an.toNat r p) ++
      (List.range nrows).flatMap (fun r => blockAccesses o.db f.bk f.bn.toNat r p)
    let wa := if f.ak = 0 then 1 + f.an.toNat else 32; let wb := if f.bk = 0 then 1 + f.bn.toNat else 32
    PassAll s b .read as ms u → GoodReads u as ms →
    (f.acct = 1 → f.ak = 0 ∧ f.bk = 0 ∧ ea ≠ 255 ∧ eb ≠ 255 ∧ (o.expA = none ∨ o.expA = some ea) ∧ (o.expB = none ∨ o.expB = some eb) ∧
      ∀ r, r < nrows → u.read (listAt ms (wa * r) 0) 1 = ea.toNat ∧ u.read (listAt ms (wa * nrows + wb * r) 0) 1 = eb.toNat) →
    ∃ h rows cols, OnlyLearns u (u.setHist h) (.pacer b) ∧ s.fetchPanel b o nrows p =
        .got (u.setHist h) rows cols (if f.acct = 1 then some ea else o.expA) (if f.acct = 1 then some eb else o.expB) ∧
      rows.length = nrows ∧ cols.length = nrows ∧ ∀ r, r < nrows →
        RowRead u f.ak f.an.toNat (f.ftz = 1) ((ms.drop (wa * r)).take wa) (listAt rows r default) ∧
        RowRead u f.bk f.bn.toNat (f.ftz = 1) ((ms.drop (wa * nrows + wb * r)).take wb) (listAt cols r default)) ∧
  (∀ (s : State) (b n0 : Nat) (o : TileOp), ArraysTake s b o → let p := o.progress; let t := s.tileWork b n0; let x := s.block b
    (∀ m acc kp u rows cols ea eb, o.instr = .tmma m acc kp → AccGood s b acc.toNat 0 64 → s.fetchPanel b o 64 p = .got u rows cols ea eb →
      PanelAdded (u.block b) (t.block b) o.fmt acc.toNat rows cols ∧ SameBytes u t ∧
      (t.block b).pacer.rpr = (if p + 1 = kp.toNat then 0 else BitVec.ofNat 32 (32 * (p + 1)))) ∧
    (∀ m acc kp u, o.instr = .tmma m acc kp → AccGood s b acc.toNat 0 64 → s.fetchPanel b o 64 p = .fault u → t = u ∨ t = u.serve [b]) ∧
    (∀ m acc kp q, o.instr = .tmma m acc kp → x.pacer.faults = [] →
      (s.unexited b).find? (fun k => (s.squad k).handler = none) = some q → (s.squad q).run = .running →
      let f := o.fmt; let rpr := BitVec.ofNat 32 (32 * p)
      let as := (List.range 64).flatMap (fun r => blockAccesses o.da f.ak f.an.toNat r p) ++
        (List.range 64).flatMap (fun r => blockAccesses o.db f.bk f.bn.toNat r p)
      (¬ AccGood s b acc.toNat 0 64 →
        TileStopped s t b o rpr q (Config.unitAddress (2 ^ 120 + 3 * b * 2 ^ 18)) 0x0C 10) ∧
      (∀ fs u va c, AccGood s b acc.toNat 0 64 → TileFails s b .read as fs u → fs.find? (fun a => a.2 ≠ 0x05) = some (va, c) →
        TileStopped s t b o rpr q va (if c = 0x12 then 0x0C else c.toNat) (if c = 0x12 then 10 else 4)) ∧
      (∀ fs u, AccGood s b acc.toNat 0 64 → TileFails s b .read as fs u → fs ≠ [] → (∀ a ∈ fs, a.2 = 0x05) → x.pacer.run ≠ .stopped →
        (s.gang (gangOfBlock b)).place = .resident →
        (t.gang (gangOfBlock b)).place = .leaving (.swap false) ∧ t.squads = s.squads ∧ (t.block b).pacer = { x.pacer with
          run := .running, tpc := o.pc, rpr := rpr, flight := x.pacer.flight.filter (fun k => k.serial ≠ o.serial),
          served := (t.block b).pacer.served }) ∧
      (∀ ms u i, AccGood s b acc.toNat 0 64 → PassAll s b .read as ms u → u.tileStalls ms = false → i < as.length →
        u.isBad (listAt ms i 0) (listAt as i (0, 0)).2 = true → (∀ j, j < i → u.isBad (listAt ms j 0) (listAt as j (0, 0)).2 = false) →
        TileStopped s t b o rpr q (listAt as i (0, 0)).1 0x0C 10)) ∧
    (∀ m acc kp bar cnt u rows cols ea eb, o.instr = .tmmaj m acc kp bar cnt →
      let bs := s.blocksOf (gangOfBlock b); bs.length = 4 →
      (∀ c ∈ bs, ∃ k, (s.block c).pacer.joint? = some k ∧ k.progress = p ∧ k.jointKey = o.jointKey ∧ JointGood s c k) →
      (∀ k, (s.block (4 * gangOfBlock b)).pacer.joint? = some k → s.fetchJoint bs p k.expA k.expB [] [] = .got u rows cols ea eb) →
      u.blocks = s.blocks → ∀ c ∈ bs, ∀ m' a' bar' cnt' k, (s.block c).pacer.joint? = some k → k.instr = .tmmaj m' a' kp bar' cnt' →
        (PanelAdded (s.block c) (t.block c) k.fmt a'.toNat ((rows.drop (64 * (c % 4 / 2))).take 64) ((cols.drop (64 * (c % 4 % 2))).take 64)) ∧
        (t.block c).pacer.rpr = (if p + 1 = kp.toNat then 0 else BitVec.ofNat 32 (32 * (p + 1))) ∧
        (t.block c).pacer.jseq = (if p + 1 = kp.toNat then (s.block c).pacer.jseq + 1 else (s.block c).pacer.jseq)) ∧
    (∀ m acc kp bar cnt u, o.instr = .tmmaj m acc kp bar cnt → let bs := s.blocksOf (gangOfBlock b); bs.length = 4 →
      (∀ c ∈ bs, (s.block c).pacer.run ≠ .stopped ∧ ∃ k, (s.block c).pacer.joint? = some k ∧ k.progress = p ∧ JointGood s c k) →
      (∀ k, (s.block (4 * gangOfBlock b)).pacer.joint? = some k → s.fetchJoint bs p k.expA k.expB [] [] = .fault u) →
      ∀ c ∈ bs, ∀ k, (s.block c).pacer.joint? = some k → (t.block c).pacer.rpr = BitVec.ofNat 32 (32 * p) ∧
        (t.block c).pacer.tpc = k.pc ∧ (t.block c).pacer.flight = (s.block c).pacer.flight.filter (fun y => y.serial ≠ k.serial)) ∧
    (∀ m acc, o.instr = .tzero m acc → SameBytes s t ∧ AccGood t b acc.toNat 0 64 ∧ (t.block b).pacer.asat = x.pacer.asat &&& ~~~(BitVec.ofNat 4 (2 ^ acc.toNat)) ∧
      (∀ i c, i < 64 → c < 64 → cellGet (t.block b).accs (4096 * acc.toNat + 64 * i + c) = 0) ∧
      (∀ k, k / 4096 ≠ acc.toNat → cellGet (t.block b).accs k = cellGet x.accs k)) ∧
    (∀ m acc tm ts, let row := fun (i : Nat) => (List.range 64).map (fun c => (argAt o.ta 0 + BitVec.ofNat 64 i * argAt o.ta 1 + BitVec.ofNat 64 (4 * c), 4))
      (∀ kind ms u, (o.instr = .tldc m acc tm ts ∧ kind = .read) ∨ (o.instr = .tstc m acc tm ts ∧ kind = .write) → p = 0 →
        PassAll s b kind ((List.range 64).flatMap row) ms u → (t.block b).accs = (u.block b).accs ∧ SameBytes u t) ∧
      (∀ ms u i, o.instr = .tldc m acc tm ts → 1 ≤ p → p ≤ 64 → TakesRow o n0 i → PassAll s b .read (row i) ms u →
        GoodReads u (row i) ms →
        SameBytes u t ∧ RowDone t b o i ∧
        (∀ c, c < 64 → cellGet (t.block b).accs (4096 * acc.toNat + 64 * i + c) = BitVec.ofNat 32 (u.read (listAt ms c 0) 4)) ∧
        AccGood t b acc.toNat i 1 ∧ (∀ k, k / 64 ≠ 64 * acc.toNat + i → cellGet (t.block b).accs k = cellGet (u.block b).accs k) ∧
        (t.block b).pacer.asat = (u.block b).pacer.asat &&& ~~~(BitVec.ofNat 4 (2 ^ acc.toNat))) ∧
      (∀ ms u i, o.instr = .tstc m acc tm ts → 1 ≤ p → p ≤ 64 → TakesRow o n0 i → AccGood s b acc.toNat i 1 → PassAll s b .write (row i) ms u →
        (t.block b).accs = (u.block b).accs ∧ RowDone t b o i ∧
        ∀ a, t.byte a = bytesAfter u.byte ((ms.zip (accRowOf (u.block b) acc.toNat i)).map (fun x => (x.1, 4, x.2.toNat))) a)) ∧
    (∀ m acc tm ts tx tw amx clr ofm n rm xs, o.instr = .tdrain m acc tm ts tx tw amx clr ofm n rm xs → ofm.toNat ≤ 2 →
      let at_ := fun (i : Nat) => argAt o.ta 0 + BitVec.ofNat 64 i * argAt o.ta 1
      let row := fun (i : Nat) => if ofm = 0 then (List.range 64).map (fun c => (at_ i + BitVec.ofNat 64 (4 * c), 4))
        else if ofm = 1 then (List.range 64).map (fun c => (at_ i + BitVec.ofNat 64 (2 * c), 2))
        else (List.range (2 * n.toNat)).map (fun k => (at_ i + BitVec.ofNat 64 (4 * k), 4)) ++
          (List.range 2).map (fun j => (argAt o.ta 2 + BitVec.ofNat 64 i * xs.setWidth 64 + BitVec.ofNat 64 j, 1))
      (∀ ms u i, 1 ≤ p → p ≤ 64 → TakesRow o n0 i → AccGood s b acc.toNat i 1 → PassAll s b .write (row i) ms u → (t.block b).accs = (u.block b).accs ∧
        RowDone t b o i ∧ ∀ a, t.byte a = bytesAfter u.byte ((ms.zip ((row i).zip (drained o.fmt rm ofm.toNat n.toNat
          (accRowOf (u.block b) acc.toNat i)))).map (fun x => (x.1, x.2.1.2, x.2.2))) a) ∧
      (amx = 0 → p = 65 → SameBytes s t ∧ (clr = 0 → (t.block b).accs = x.accs) ∧
        (clr = 1 → AccGood t b acc.toNat 0 64 ∧ (t.block b).pacer.asat = x.pacer.asat &&& ~~~(BitVec.ofNat 4 (2 ^ acc.toNat)) ∧
          (∀ i c, i < 64 → c < 64 → cellGet (t.block b).accs (4096 * acc.toNat + 64 * i + c) = 0) ∧
          (∀ k, k / 4096 ≠ acc.toNat → cellGet (t.block b).accs k = cellGet x.accs k))) ∧
      (∀ u v k k' c c', amx = 1 → p = 65 → AccGood s b acc.toNat 0 64 → s.access b .write (argAt o.ta 3) 4 = (u, .ok k c) → u.isBad k 4 = false →
        u.access b .write (argAt o.ta 3) 4 = (v, .ok k' c') → let es := (List.range 64).flatMap (accRowOf x acc.toNat)
        let isNan := fun (w : BitVec 32) => (fp32.read false w.toNat).isNan
        ∃ big : Nat, Stores v t k' 4 (max (v.read k' 4 % 2 ^ 31) big +
            (if v.read k' 4 / 2 ^ 31 = 1 ∨ bitAt x.pacer.asat acc.toNat = true ∨ (o.fmt.acct = 0 ∧ es.any isNan = true) then 2 ^ 31 else 0)) ∧
          (o.fmt.acct = 1 → fp32.RoundsTo 3 false ((es.foldl (fun a w => max a w.toInt.natAbs) 0 : Nat) : ℝ) big) ∧
          (o.fmt.acct = 0 → (∀ w ∈ es, isNan w = false → w.toNat % 2 ^ 31 ≤ big) ∧
            (big = 0 ∨ ∃ w ∈ es, isNan w = false ∧ w.toNat % 2 ^ 31 = big)))))

/-- 11 R233, R243, R244: the Pacer's barrier words and its end, nobody of the block waiting at a barrier: TBARA with nothing in
flight counts its arrival at once, TBARW waits while the generation it arrived in lasts and goes on when it has ended, TEND makes
the Pacer idle once nothing is in flight. A TBARA that is the last arrival of a generation ends it, and the squads that waited go on.
02 R60; 11 R235: the oldest tile instruction in flight, its work done, leaves the flight;
a Pacer held by a marker goes on when none is left, and one in TEND is idle. -/
def Obligations.TileBarriersAndCompletion : Prop :=
  (∀ (s : State) (m : BitVec 1), let b := s.actor; let p := s.pacer
      QuietBlock s b → (s.block b).arrivals = [] →
      (∀ (k : BitVec 4) (n : BitVec 5), p.flight = [] → GoodCount (s.block b) k.toNat n.toNat →
        ∃ t, exec (.tbara m k n) s = .next t ∧ Counted (s.block b) (t.block b) 16 k.toNat n.toNat ∧ (t.block b).arrivals = [] ∧
          (t.block b).pacer = { p with tpc := p.tpc + 8, run := .running } ∧ SameBytes s t ∧ t.squads = s.squads) ∧
      (∀ (k : BitVec 4) (g : Nat), tabGet? (s.block b).arrived (256 + k.toNat) = some g →
        ∃ t, exec (.tbarw m k) s = .next t ∧
          (((s.block b).bar k.toNat).gen = g → OnlyBlock s t ∧
            t.block b = { s.block b with pacer := { p with run := .barrier k.toNat m } }) ∧
          (((s.block b).bar k.toNat).gen ≠ g → t = { s with blocks := t.blocks, hist := t.hist } ∧ SameBytes s t ∧
            OnlyLearns s t (.pacer b) ∧ (∀ c, c ≠ b → t.block c = s.block c) ∧
            HasSeen t (.pacer b) (tabGet (s.block b).passed (256 + k.toNat) []) ∧ (t.block b).arrived = tabDel (s.block b).arrived (256 + k.toNat) ∧
            (t.block b).pacer = { p with tpc := p.tpc + 8, run := if m = 1 ∧ p.flight ≠ [] then .held else .running })) ∧
      (p.flight ≠ [] ∨ (∀ c, gangOfBlock c = gangOfBlock b → (s.block c).pacer.joint? = none) →
        ∃ t, exec (.tend m) s = .next t ∧ OnlyBlock s t ∧
          t.block b = { s.block b with pacer := { p with run := if p.flight = [] then .idle else .ending } })) ∧
  (∀ (s : State) (m : BitVec 1) (k : BitVec 4) (n : BitVec 5), let b := s.actor; let p := s.pacer
      WaitersAt s b k.toNat → p.flight = [] → (∀ j m', p.run ≠ .barrier j m') → GoodCount (s.block b) k.toNat n.toNat →
      ((s.block b).bar k.toNat).cnt + 1 = n.toNat →
      ∃ t, exec (.tbara m k n) s = .next t ∧ GenerationEnds s t b k.toNat (.pacer b) ∧
        (t.block b).pacer = { p with tpc := p.tpc + 8, run := .running }) ∧
  (∀ (s : State) (b : Nat) (o : TileOp) (rest : List TileOp), let p := (s.block b).pacer
      p.flight = o :: rest → o.total ≤ o.progress → QuietBlock s b →
      (∀ c, gangOfBlock c = gangOfBlock b → c ≠ b → (s.block c).pacer.joint? = none) →
      ∃ t, exec (.tileInstructionComplete b) s = .next t ∧ SameBytes s t ∧ (∀ c, c ≠ b → t.block c = s.block c) ∧
        t.block b = { s.block b with pacer := { p with flight := rest, run :=
          if rest = [] then (match p.run with | .held => .running | .ending => .idle | r => r) else p.run } })

/-- 13 R267, R268, R270: XGET, XPUT and XAMO whose operands are legal, whose rank is valid and whose local range passes leave a post
for the selected channel with the addresses, the rank, the flits and, of an atomic, its operation and width. That a post which then
waits for its pins has ended its region is the model's reading (log 15). -/
def Obligations.DataPosts : Prop :=
  ∀ (s w : State) (m : BitVec 1) (a b c : BitVec 6) (n : BitVec 7) (x : Resolved), Unparked s →
    let u := s.unlatched
    let d := s.devOf s.actor; let j := (s.gangOf s.actor).job; let F := n.toNat + 1
    let va := s.sq.readS a; let vb := s.sq.readS b; let vc := s.sq.readS c
    let rank := vc.toNat % 4096
    let remoteOk := fun (r : BitVec 64) => canonical r = true ∧ inWindow r = false ∧ r.toNat % 32 = 0
    rankValid (s.rankNow d j rank) = true →
    (vc.toNat < 4096 → remoteOk vb → PostPasses u w [⟨va, 32 * F, false, true, 32⟩] x →
      ∃ t, exec (.xget m a b c n) s = .next t ∧ PostLeft s w t m (.get va vb rank F) x) ∧
    (vc.toNat < 4096 → remoteOk va → PostPasses u w [⟨vb, 32 * F, true, false, 32⟩] x →
      ∃ t, exec (.xput m a b c n) s = .next t ∧ PostLeft s w t m (.put va vb rank F) x) ∧
    (let op := vc.toNat / 4096 % 16; let dbl := decide (vc.toNat / 65536 % 2 = 1)
      vc.toNat < 131072 → remoteOk va → op < 10 → (8 ≤ op → dbl = false) → (op = 7 → F ≤ 64) →
      PostPasses u w [⟨vb, (if op = 7 then 64 else 32) * F, true, true, 32⟩] x →
      ∃ t, exec (.xamo m a b c n) s = .next t ∧ PostLeft s w t m (.amo va vb rank op dbl F) x)

/-- 13 R271 to R273, R276; 14 R281, R286: XMST, XMLD, XCOLL and XTXA whose aperture, card or map passes its checks leave their post
for the selected channel; the aperture's base, group and address are those at the post, a card or map what its record held. That a
post which then waits for its pins has ended its region is the model's reading (log 15). -/
def Obligations.GroupPosts : Prop :=
  ∀ (s w : State) (m : BitVec 1) (a b c : BitVec 6) (n : BitVec 7) (x : Resolved), Unparked s →
    let u := s.unlatched
    let r := s.retOf s.actor; let d := s.devOf s.actor; let j := (s.gangOf s.actor).job; let F := n.toNat + 1
    let va := s.sq.readS a; let vb := s.sq.readS b; let vc := s.sq.readS c
    let base := fun (ap : BitVec 64) => s.aperture d j (ap.toNat / 2 ^ 40 % 256) 1 + BitVec.ofNat 64 (ap.toNat % 2 ^ 40)
    let group := fun (ap : BitVec 64) => s.aperture d j (ap.toNat / 2 ^ 40 % 256) 0
    (s.checkAperture d j va F = none → PostPasses u w [⟨vb, 32 * F, true, false, 32⟩] x →
      ∃ t, exec (.xmst m a b n) s = .next t ∧ PostLeft s w t m (.mst (base va) (group va) vb F) x) ∧
    (s.checkAperture d j vb F = none → combineOk (vc.toNat % 8) (vc.toNat / 16 % 16) = true → vc.toNat < 256 → vc.toNat / 8 % 2 = 0 →
      PostPasses u w [⟨va, 32 * F, false, true, 32⟩] x →
      ∃ t, exec (.xmld m a b c n) s = .next t ∧ PostLeft s w t m (.mld va (base vb) (group vb) (vc.toNat % 8) (vc.toNat / 16 % 16) F) x) ∧
    (∀ v ds ranges, u.readRecord va 8 tdstNone = .ok v ds → v.checkColl r j ds = .ok v (.coll ds) ranges →
      PostPasses v w ranges x →
      ∃ t, exec (.xcoll m a) s = .next t ∧ PostLeft s w t m (.coll ds) x) ∧
    (∀ v v2 hd ds ranges, u.readRecord va 8 tdstNone = .ok v hd → mapDims hd ≤ 14 →
      v.readRecord va (8 + 4 * mapDims hd) tdstNone = .ok v2 ds → let mp := hd ++ ds.drop 8
      v2.checkTxa r j mp vb vc = .ok v2 (.txa mp vb vc) ranges → PostPasses v2 w ranges x → x.pins.length ≤ 256 →
      ∃ t, exec (.xtxa m a b c) s = .next t ∧ PostLeft s w t m (.txa mp vb vc) x)

/-- 13 R263: XCHAN on a declared channel, asking for at most 4,096 slots that are free, moves them between the reticle's free slots
and the channel's promise and leaves the change of the channel outstanding. 03 R78; 13 R267: a post whose pins are free and whose
squad has no earlier one waiting is appended to its channel's queue. -/
def Obligations.ChannelWords : Prop :=
  (∀ (s : State) (m : BitVec 1) (a b : BitVec 6), let c := (s.sq.readS a).toNat; let n := (s.sq.readS b).toNat
    let f := s.field (s.fieldOf s.actor); let r := s.retOf s.actor
    let ch := tabGet f.chans c {}
    c < 256 → n ≤ 4096 → ch.posts ≠ 0 → n ≤ (s.ret r).freeSlots + ch.prsv →
    ∀ e ∈ ([(.xchan, false), (.xchanOrd, true)] : Rows (BitVec 1 → BitVec 6 → BitVec 6 → Instr) Bool),
      ∃ t, exec (e.1 m a b) s = .next t ∧ SameBytes s t ∧ SameSquadsBut s.actor s t ∧
        (t.ret r).freeSlots + n = (s.ret r).freeSlots + ch.prsv ∧
        t.field (s.fieldOf s.actor) = { f with chans := tabPut f.chans c { ch with prsv := n } } ∧
        t.sq = { s.sq with
          out := s.sq.out ++ [⟨s.clock, s.sq.pc, s.sq.region.isSome, .ordinary, 0, .channel c n e.2, 0, none, s.sq.lpc, 0, 0x1800, []⟩],
          pc := s.sq.pc + 4, latch := none, run := if m = 1 then .parked else s.sq.run }) ∧
  (∀ (s : State) (q k c : Nat) (o : Outst) (p : Posted), s.mayRun q = true → (s.squad q).out[k]? = some o → o.kind = .post c p →
    p.kind.collective? = none → ((s.squad q).out.take k).any (fun e => match e.kind with | .post _ _ => true | _ => false) = false →
    (s.ret (s.retOf q)).pinsFit p.pins = true → (s.squad q).run = .running → QuietBlock s (blockOfSquad q) →
    ∃ t, exec (.postAccept q k) s = .next t ∧ SameBytes s t ∧ SameSquadsBut q s t ∧
      t.squad q = { s.squad q with out := (s.squad q).out.take k ++ (s.squad q).out.drop (k + 1) } ∧
      (tabGet (t.field (s.fieldOf q)).chans c {}).queue =
        (tabGet (s.field (s.fieldOf q)).chans c {}).queue ++ [{ p with seq := 0 }] ∧
      (t.ret (s.retOf q)).pins = addPins (s.ret (s.retOf q)).pins p.pins)

/-- 13 R261, R263 to R266, R269 to R278; 14 R281, R282: how the operations of a field are carried out: the requests of gets, puts,
atomics, multicast stores and loads and compiled transfers leave, arrive and are answered, no collective being queued; and what
collectives and transposes read and write, element by element. The model's choices among these are log 15 (DESIGN CHOICE): that the
local data of a put, a multicast store or an atomic are read when its request is injected (RequestsLeave), and those of a collective
or a transpose when its part starts (PartReads); and log 24: how long operations are cut, and when their parts start. -/
def Obligations.PutRequests : Prop :=
  (∀ (s : State) (r j : Nat) (src : InjectSource) (p : Posted), NoParts s →
    RequestsLeave s r j src p ∧ UnitsArrive s r j src p ∧ ResponsesArrive s r j src p) ∧
  CardFields ∧ CollectiveValues ∧ PieceElements ∧ TransposeValues ∧ PartReads ∧ LoneCollective

/-- 13 R257, Table 18-1: a packet sent again, some request being outside, counts once, up to the counter's end. 04 R104: a job card
whose way is over, its descriptor good and the neighbour's queue having room, joins that queue. -/
def Obligations.FieldEvents : Prop :=
  (∀ (s : State) (r : Nat), s.rets.any (fun e => e.2.requests.any (fun q => q.2.exts ≠ [])) = true →
    ∃ t, exec (.packetRetransmit r) s = .next t ∧ SameBytes s t ∧ t = { s with rets := t.rets } ∧
      (∀ k, k ≠ r → t.ret k = s.ret k) ∧ ∃ v, t.ret r = { s.ret r with retx := v } ∧
      ((s.ret r).retx.toNat + 1 < 2 ^ 64 → v.toNat = (s.ret r).retx.toNat + 1) ∧
      ((s.ret r).retx.toNat + 1 = 2 ^ 64 → v = (s.ret r).retx)) ∧
  (∀ (s : State) (r k : Nat) (c : CarriedCard), (s.ret r).outgoing[k]? = some c → c.moving = true → c.arrived = false →
    s.computing (devOfRet r) = false → checkDesc c.desc false = 0 → (s.ret c.target).queueFree c.desc.prio = true → c.target ≠ r →
    s.heldBack (devOfRet r) kindRefusedCard (fun y => y.ret = retNo c.target) = false →
    ∃ t, exec (.neighbourCardArrival r k) s = .next t ∧ SameBytes s t ∧ t.squads = s.squads ∧
      (t.ret r).outgoing = (s.ret r).outgoing.take k ++ (s.ret r).outgoing.drop (k + 1) ∧
      ∃ e, (t.ret c.target).entries = (s.ret c.target).entries ++ [e] ∧ e.desc = c.desc ∧ e.left = c.desc.gcount.toNat ∧ e.next = 0)

/-- 12 R250, R253; 16 R312: ENQ of a chain that is not refused, whose regions and tokens translate in its gang's address space and whose
pins are free, ends its region and enters the chain: its cards take the job's next sequence numbers, and the last one is outstanding
for sd; a chain that is refused leaves its code there with bit 63. WAITSEQ on a readable token word parks the squad on it. -/
def Obligations.EngineWords : Prop :=
  ∀ (s : State) (m : BitVec 1) (d a b : BitVec 6), Unparked s →
    let u := s.unlatched; let r := s.retOf s.actor; let j := (s.gangOf s.actor).job; let fk := fieldKey r j
    (∀ v cs, u.readChain 65 (s.sq.readS a) (tdstScalar d) [] = .ok v cs →
      let k := v.refuseChain r j (s.sq.readS b).toNat cs false; let w := v.gangWalker (gangOfSquad s.actor)
      Checked s v ∧
      (k ≠ 0 → ∃ t, exec (.enq m d a b) s = .next t ∧
        ScalarLeaves v.regionEnded t m .ordinary 0 (.value (s.sq.dstS d) (BitVec.ofNat 64 (2 ^ 63 + k))) none) ∧
      (k = 0 → ∀ x y c1 c2, v.resolveCards w (some s.actor) r j (cs.map parseCard) [] = (x, .ok c1) →
        x.resolveTokens w (some s.actor) r j c1 [] = (y, .ok c2) →
        (overPinned c2 = true → ∃ t, exec (.enq m d a b) s = .next t ∧
          ScalarLeaves y.regionEnded t m .ordinary 0 (.value (s.sq.dstS d) (BitVec.ofNat 64 (2 ^ 63 + 4))) none) ∧
        (overPinned c2 = false → (y.ret r).pinsFit (c2.flatMap Card.allPins) = true →
        ∃ t o, exec (.enq m d a b) s = .next t ∧ SameSquadsBut s.actor s t ∧ SameBytes y t ∧ t.sq.region = none ∧
          t.sq.out = [o] ∧ (∃ id, o.kind = .chain id ((y.field fk).cseq + BitVec.ofNat 64 c2.length - 1) (s.sq.dstS d)) ∧
          t.sq.pc = s.sq.pc + 4 ∧ (t.field fk).cseq = (y.field fk).cseq + BitVec.ofNat 64 c2.length ∧
          (∀ i c, c2[i]? = some c → ∃ e, tabGet? (t.ret r).cards (s.clock + i) = some e ∧
            e.seq = (y.field fk).cseq + BitVec.ofNat 64 i ∧ e.op = c.op ∧ e.pins = c.pins ∧ e.entered = c.entered)))) ∧
    (∀ (p : BitVec 3) (v : State) (k : Nat) (ca : Bool), (s.sq.readS a).toNat % 8 = 0 →
      u.access (blockOfSquad s.actor) .read (s.sq.readS a) 8 = (v, .ok k ca) →
      ∃ t, exec (.waitseq m p a b) s = .next t ∧ SameSquadsBut s.actor s t ∧ SameBytes v t ∧
        t.sq = { s.sq with latch := none, run := .waitseq k (s.sq.readS b) p.toNat })

/-- 12 R246, R248, R250 to R252; 10 R210: a card enters its engine's queue in order while there is room, the last of its chain ending
the ENQ; its engine fills or copies a flit of its head card, whichever element's the event names, all the elements of its that go to
those aligned 32 bytes, into places of the write regions, and nothing else; a card that has moved all its elements leaves the queue, and the pages of its regions its pins; then its token word
is made at least its sequence number and the card is gone. The elements that make up a flit are the model's reading (log 13). -/
def Obligations.CardEvents : Prop :=
  (∀ (s : State) (r e : Nat),
    (∀ id c, (s.ret r).cards.find? (fun c => c.2.engine = e && !c.2.entered) = some (id, c) → (tabGet (s.ret r).queues e []).length < 64 →
      let last := !((s.ret r).cards.any (fun x => x.2.chain = c.chain && decide (id < x.1)))
      let entered := fun (t : State) => SameBytes s t ∧ tabGet (t.ret r).queues e [] = tabGet (s.ret r).queues e [] ++ [id] ∧
        tabGet? (t.ret r).cards id = some { c with entered := true }
      (last = false → ∃ t, exec (.cardEnqueue r e) s = .next t ∧ entered t ∧ t.squads = s.squads) ∧
      (∀ q o n z, last = true → c.squad = some q → (s.squad q).run = .running → QuietBlock s (blockOfSquad q) →
        (s.squad q).out.find? (fun o => match o.kind with | .chain i _ _ => i = c.chain | _ => false) = some o → o.kind = .chain c.chain n z →
        ∃ t, exec (.cardEnqueue r e) s = .next t ∧ entered t ∧ SameSquadsBut q s t ∧ PutsValue (s.squad q) (t.squad q) z n ∧
          (t.squad q).out = (s.squad q).out.filter (fun x => x.word ≠ o.word))) ∧
    (∀ id rest c n, HeadCard s r e id rest c → s.engineHeld r e = false → c.running = true ∨ s.cardReady r c = true →
      s.cardPhase r c = true → c.progress < c.total → c.op.toNat < 2 →
      let k := if n < c.total ∧ c.moved n = false then n else c.progress
      let b := 2 ^ c.esize
      let used := c.dims.take (c.ndim + 1)
      let to_ := fun (i : Nat) => (c.dst + elemOffset (used.map (fun x => (x.1, x.2.2))) i).toNat
      let ks := (List.range c.total).filter (fun i => to_ i / 32 = to_ k / 32)
      ∀ w x : Nat → Nat, (∀ i ∈ ks, segAddr b c.writes c.wsegs (c.dst + elemOffset (used.map (fun x => (x.1, x.2.2))) i) = .ok (w i) ∧
          (c.op = 0 → segAddr b c.reads c.rsegs (c.src + elemOffset (used.map (fun x => (x.1, x.2.1))) i) = .ok (x i) ∧
            s.wsLocked (x i) = false ∧ s.wsRefreshing (x i) = false ∧ s.isBad (x i) b = false)) →
        ∃ t y, exec (.cardStart r e n) s = .next t ∧ t.squads = s.squads ∧
          Wrote s t (ks.map (fun i => (w i, if c.op = 0 then s.bytes (x i) b else numBytes b (c.fillv.toNat % 2 ^ (8 * b))))) ∧
          tabGet? (t.ret r).cards id = some y ∧ y.running = true ∧ ∀ i, y.moved i = (c.moved i || ks.contains i)) ∧
    (∀ id rest c, HeadCard s r e id rest c → s.engineHeld r e = false → c.running = true → c.total ≤ c.progress → c.ended = false →
      NoPending s r → id ∉ rest →
      ∃ t, exec (.cardComplete r e) s = .next t ∧ SameBytes s t ∧ t.squads = s.squads ∧ tabGet (t.ret r).queues c.engine [] =
          (if c.engine = e then rest else (tabGet (s.ret r).queues c.engine []).filter (· ≠ id)) ∧
        (t.ret r).pins = dropPins (s.ret r).pins c.pins ∧ tabGet? (t.ret r).cards id = some { c with ended := true, entered := true }) ∧
    (∀ id c, s.engineHeld r e = false → (∀ i rest x, HeadCard s r e i rest x → ¬(x.running = true ∧ x.total ≤ x.progress)) → NoPending s r →
      (s.ret r).cards.find? (fun d => decide (d.2.engine = e) && d.2.ended && s.tokenMay r d.2) = some (id, c) → c.tokenFault = none →
      (∀ a, c.tokenAddr = some a → s.isBad a 8 = false ∧ (isWs a && s.liveOn r c.job) = false) →
      ∃ t, exec (.cardComplete r e) s = .next t ∧ t.squads = s.squads ∧ (t.ret r).cards = tabDel (s.ret r).cards id ∧
        (c.tokenAddr = none → SameBytes s t) ∧ ∀ a, c.tokenAddr = some a → Stores s t a 8 (max (s.read a 8) c.seq.toNat))) ∧
  (∀ (s : State) (r p : Nat) (value : BitVec 64), p < 16 → (tabGet (s.ret r).eports p {}).done = true →
      let e := tabGet (s.ret r).eports p {}
      let j := e.ctl.toNat % 65536
      let e0 : EnginePort := { e with done := false, refused := false, value := 0, chain := none }
      let t0 := s.setRet r { s.ret r with eports := tabPut (s.ret r).eports p e0 }
      let addr : BitVec 64 := (value &&& 0x000FFFFFFFFFFFC0#64)
      (∀ k, t0.readPhysChain r 65 addr [] = .error k → ∃ t, exec (.engineServiceSubmit r p value) s = .next t ∧ SameBytes s t ∧
        t.squads = s.squads ∧ ∃ y, tabGet (t.ret r).eports p {} = y ∧ y.done = true ∧ y.refused = true ∧ y.value = BitVec.ofNat 64 k) ∧
      (∀ cs u v c1 c2, t0.readPhysChain r 65 addr [] = .ok cs → s.jobLive (devOfRet r) j = true →
        t0.refuseChain r j (e.ctl.toNat / 65536 % 8) cs true = 0 →
        t0.resolveCards (t0.jobWalker r j) none r j (cs.map (fun ds => { parseCard ds with job := j })) [] = (u, .ok c1) →
        u.resolveTokens (t0.jobWalker r j) none r j c1 [] = (v, .ok c2) → overPinned c2 = false → c2 ≠ [] →
        (v.ret r).pinsFit (c2.flatMap Card.allPins) = true →
        ∃ t, exec (.engineServiceSubmit r p value) s = .next t ∧ SameBytes v t ∧
          (t.field (fieldKey r j)).cseq = (v.field (fieldKey r j)).cseq + BitVec.ofNat 64 c2.length ∧
          ∃ y, tabGet (t.ret r).eports p {} = y ∧ y.done = false ∧ y.pending = []))

/-- 03 R71; 04 R103, R107: SYNC parks its squad until the job's step has advanced, EXIT ends it, and YIELD on a readable word parks
it with the word, the value and the continuation; the gang leaves its core when every unexited squad has yielded. Each ends the
open region. A yield that takes the gang away stores its registers to its frame (16 R317). -/
def Obligations.SyncExitYield : Prop :=
  ∀ (s : State) (m : BitVec 1), MayLeave s →
    (∀ d : BitVec 6, ∃ t, exec (.sync m d) s = .next t ∧ OnlySquad s t ∧
      t.sq = { s.sq with region := none, run := .sync d (s.job (s.jobOf s.actor)).jstep }) ∧
    (∃ t, exec (.exit m) s = .next t ∧ OnlySquad s t ∧ t.sq = { s.sq with region := none, run := .exited }) ∧
    (∀ (a b c : BitVec 6) (v : State) (k : Nat) (ca : Bool), (s.sq.readS a).toNat % 8 = 0 → (s.sq.readS c).toNat % 4 = 0 →
      s.unlatched.access (blockOfSquad s.actor) .read (s.sq.readS a) 8 = (v, .ok k ca) →
      ∃ t, exec (.yield m a b c) s = .next t ∧ SameSquadsBut s.actor s t ∧
        ((s.gangOf s.actor).frame = none ∨ (t.gangOf s.actor).place = (s.gangOf s.actor).place → SameBytes v t) ∧
        (checkDesc (s.gangOf s.actor).desc false = 0 → ∀ i, OutsideFrame (s.gangOf s.actor) i → t.byte i = v.byte i) ∧
        t.sq = { s.sq with region := none, run := .yield k (s.sq.readS b) (s.sq.readS c) } ∧
        ((∀ q ∈ s.gangSquads (gangOfSquad s.actor), q ≠ s.actor → (s.squad q).exited = true ∨ ∃ x y z, (s.squad q).run = .yield x y z) →
          (s.gangOf s.actor).place = .resident → (t.gangOf s.actor).place = .leaving .yield) ∧
        ((∃ q ∈ s.gangSquads (gangOfSquad s.actor), q ≠ s.actor ∧ (s.squad q).run = .running) →
          (t.gangOf s.actor).place = (s.gangOf s.actor).place))

/-- 17 R329: SYSC with an even first register whose four registers lie below VWS parks its squad with one request per active lane,
of that lane's 16 bytes, and delivers the first as a report while the ring has room, with the ring's head as its number; with no
active lane none is delivered. The number of a request, and that it is a report, are the model's choice (logs 17 and 4). -/
def Obligations.SystemCall : Prop :=
  ∀ (s : State) (m : BitVec 1) (d a b : BitVec 6), Unparked s → CalmBlock s (blockOfSquad s.actor) →
    let A := (s.sq.readS b).toNat
    let lanes := lanesOn (s.sq.readM 0)
    let args := fun l => s.sq.readV (A + 3) l ++ s.sq.readV (A + 2) l ++ s.sq.readV (A + 1) l ++ s.sq.readV A l
    A % 2 = 0 → A + 3 < s.sq.vws →
    ∃ t c, exec (.sysc m d a b) s = .next t ∧ SameSquadsBut s.actor s t ∧ t.sq = { s.sq with region := none, run := .sysc c } ∧
      c.sd = d ∧ c.a.toNat = A % 2048 ∧ c.service = (s.sq.readS a).setWidth 16 ∧ c.count = lanes.length ∧
      c.todo = lanes.map (fun l => (l, args l)) ∧ c.got = [] ∧ c.since = (s.job (s.jobOf s.actor)).jstep ∧
      (lanes = [] → t = { s with squads := t.squads, hist := t.hist } ∧ SameBytes s t ∧ OnlyLearns s t (.service (s.devOf s.actor)) ∧
        c.waiting = none) ∧
      (∀ l rest, lanes = l :: rest → let x := s.dev (s.devOf s.actor)
        x.held = [] → (x.rhead - x.rtail).toNat < x.ringSize →
        c.waiting = some (x.rhead.toNat, l) ∧ (t.dev (s.devOf s.actor)).rhead = x.rhead + 1)

/-- 11 R243, R244: BARA with a good count, none of the squad's accesses outstanding, counts its arrival at once; BARW and BARS wait
while the generation they arrived in lasts, and a BARW goes on where it has ended; a BARS that a trap interrupted does not arrive again; an
arrival whose accesses have been performed counts. A BARA or BARS that is the last arrival of its generation ends it: everyone who
waited goes on, the BARS itself too, and each has seen what those who arrived released (10 R224). -/
def Obligations.BarrierWords : Prop :=
  (∀ (s : State) (m : BitVec 1) (k : BitVec 4), let b := blockOfSquad s.actor; let y := s.block b
    Unparked s → QuietBlock s b → y.arrivals = [] → s.sq.run = .running → y.pacer.run = .running → squadKey b (sqidOf s.actor) = s.actor →
    (∀ a : BitVec 6, GoodCount y k.toNat (s.sq.readS a).toNat →
      (∃ t, exec (.bara m k a) s = .next t ∧ SameBytes s t ∧ SameSquadsBut s.actor s t ∧
        Counted y (t.block b) (sqidOf s.actor) k.toNat (s.sq.readS a).toNat ∧
        t.sq = { s.sq with region := none, pc := s.sq.pc + 4 }) ∧
      ((y.bar k.toNat).cnt + 1 ≠ (s.sq.readS a).toNat → s.sq.bars = none →
        ∃ t, exec (.bars m k a) s = .next t ∧ SameBytes s t ∧ SameSquadsBut s.actor s t ∧
          Counted y (t.block b) (sqidOf s.actor) k.toNat (s.sq.readS a).toNat ∧
          t.sq = { s.sq with region := none, run := .barrier k.toNat })) ∧
    (tabGet? y.arrived (16 * sqidOf s.actor + k.toNat) = some (y.bar k.toNat).gen →
      ∃ t, exec (.barw m k) s = .next t ∧ OnlySquad s t ∧
        t.sq = { s.sq with region := none, run := .barrier k.toNat, bars := if s.sq.handler.isSome then s.sq.bars else none }) ∧
    (∀ g, tabGet? y.arrived (16 * sqidOf s.actor + k.toNat) = some g → g ≠ (y.bar k.toNat).gen → s.actor ∈ s.squadsOf b →
      ∃ t, exec (.barw m k) s = .next t ∧ SameBytes s t ∧ SameSquadsBut s.actor s t ∧ OnlyLearns s t (.squad s.actor) ∧
        t.sq = { s.sq with region := none, pc := s.sq.pc + 4, bars := if s.sq.handler.isSome then s.sq.bars else none } ∧
        HasSeen t (.squad s.actor) (tabGet y.passed (16 * sqidOf s.actor + k.toNat) []) ∧
        (t.block b).arrived = tabDel y.arrived (16 * sqidOf s.actor + k.toNat)) ∧
    (∀ a : BitVec 6, s.sq.bars = some s.sq.pc → s.sq.handler = none →
      (∀ g, tabGet? y.arrived (16 * sqidOf s.actor + k.toNat) = some g → g = (y.bar k.toNat).gen) →
      ∃ t, exec (.bars m k a) s = .next t ∧ OnlySquad s t ∧ t.sq = { s.sq with region := none, run := .barrier k.toNat, bars := none }) ∧
    (∀ (c : Nat) (z : Block) (a : Arrival), z = s.block c → QuietBlock s c → z.arrivals = [a] → a.party ≠ 16 →
      ((s.squad (squadKey c a.party)).out.any (fun o => o.kind.loc?.isSome && decide (o.word < a.serial))) = false →
      GoodCount z a.bar a.count → ∃ t, exec (.barrierArrivalCount c 0) s = .next t ∧ SameBytes s t ∧ t.squads = s.squads ∧
        Counted z (t.block c) a.party a.bar a.count ∧ (t.block c).arrivals = [])) ∧
  LastArrivals

/-- 04 R89, R91, R92, R104: POST of a card that passes its checks, to the own reticle with room in its queue, appends its launch, with
the poster's job and address space and no higher priority, and leaves 0 for sd; SUBMIT through a port that is done of a descriptor
of a live job appends its launch and reports status 0, and reports the status of a descriptor that fails a check. What a
descriptor with uncorrectable data reports is left open (log 18); its launch is not queued. -/
def Obligations.PostAndSubmit : Prop :=
  (∀ (s : State) (m : BitVec 1) (d a b : BitVec 6) (v : State) (ds : List (BitVec 64)), Unparked s →
    s.unlatched.readRecord (s.sq.readS a) 8 (tdstScalar d) = .ok v ds → s.sq.readS b = 0 →
    let g := s.gangOf s.actor
    let c0 := parseDesc ds
    let c := { c0 with job := BitVec.ofNat 16 g.job, asid := g.desc.asid, prio := if g.desc.prio < c0.prio then g.desc.prio else c0.prio }
    checkDesc c (descReserved ds) = 0 → (v.ret g.ret).queueFree c.prio = true →
    ∃ t o e, exec (.post m d a b) s = .next t ∧ SameBytes v t ∧ SameSquadsBut s.actor s t ∧ t.sq.out = [o] ∧ t.sq.region = none ∧
      o.kind = .value (s.sq.dstS d) 0 ∧ t.sq.pc = s.sq.pc + 4 ∧ (t.ret g.ret).entries = (v.ret g.ret).entries ++ [e] ∧ e.desc = c ∧
      e.left = c.gcount.toNat ∧ e.next = 0) ∧
  (∀ (s : State) (r n : Nat) (value : BitVec 64), n < 16 → (tabGet (s.ret r).ports n {}).done = true →
    let d := devOfRet r
    let pa := value.toNat / 64 % 2 ^ 46 * 64
    let ds := s.readDesc d pa
    let c := parseDesc ds
    s.descBad d pa = false →
    (s.liveJob d c = true → checkDesc c (descReserved ds) = 0 → (s.ret r).queueFree c.prio = true →
      ∃ t e, exec (.submit r n value) s = .next t ∧ SameBytes s t ∧ t.squads = s.squads ∧
        (t.ret r).entries = (s.ret r).entries ++ [e] ∧ e.desc = c ∧ tabGet (t.ret r).ports n {} = ⟨true, 0, none⟩) ∧
    (s.liveJob d c = true → checkDesc c (descReserved ds) ≠ 0 → ∃ t, exec (.submit r n value) s = .next t ∧ SameBytes s t ∧
      t.squads = s.squads ∧ (t.ret r).entries = (s.ret r).entries ∧
      tabGet (t.ret r).ports n {} = ⟨true, BitVec.ofNat 8 (checkDesc c (descReserved ds)), none⟩) ∧
    (s.liveJob d c = false → ∃ t, exec (.submit r n value) s = .next t ∧ SameBytes s t ∧ t.squads = s.squads ∧
      (t.ret r).entries = (s.ret r).entries ∧ tabGet (t.ret r).ports n {} = ⟨true, 0x15, none⟩)) ∧
  (∀ (s : State) (r n : Nat) (value : BitVec 64), n < 16 → (tabGet (s.ret r).ports n {}).done = true →
    s.descBad (devOfRet r) (value.toNat / 64 % 2 ^ 46 * 64) = true → ∃ t st, exec (.submit r n value) s = .next t ∧ SameBytes s t ∧
      t.squads = s.squads ∧ (t.ret r).entries = (s.ret r).entries ∧ tabGet (t.ret r).ports n {} = ⟨true, st, none⟩)

/-- 03 R68, R69, R73 to R76, R80 to R83; 04 R90, R93, R96; 09 R190: each boundary increases the device's PHASE by one, and no other
device's: a compute superstep ends once every resident gang has synced, or at its limit, which CLIM records; an exchange superstep once
its transfers and image moves have ended and every request has its response, XLIM recording that its limit was met. At the exchange limit
the transfers that are left end, and PHASE stands. What a boundary does to steps, carried gangs, L1s, plans, launches and parked squads
stands above. -/
def Obligations.Boundaries : Prop :=
  (∀ (s : State) (d ticks : Nat),
    (s.computing d = true → s.allSynced d = true → ∃ t, exec (.computeToExchangeBoundary d ticks) s = .next t ∧
      PhaseSteps s t d ∧ (t.dev d).clim = false ∧ (Settled s d → StepsTaken s t d)) ∧
    (s.computing d = true → s.allSynced d = false → max 1024 (s.dev d).climitNow.toNat ≤ ticks →
      ∃ t, exec (.computeLimitExpiry d ticks) s = .next t ∧
        PhaseSteps s t d ∧ (t.dev d).clim = true ∧ (Settled s d → StepsTaken s t d)) ∧
    (s.computing d = false → s.unfinished d = [] → s.allAnswered d = true → (s.liveRets d).all s.imagesMoved = true →
      (s.dev d).limited = false ∨ max 1024 (s.dev d).xlimitNow.toNat ≤ ticks →
      ∃ t, exec (.exchangeToComputeBoundary d ticks) s = .next t ∧
        PhaseSteps s t d ∧ (t.dev d).xlim = (s.dev d).limited ∧ (t.dev d).limited = false) ∧
    (s.computing d = false → s.unfinished d ≠ [] → ∃ t, exec (.exchangeLimitExpiry d) s = .next t ∧
      (t.dev d).phase = (s.dev d).phase ∧ (t.dev d).limited = true ∧ (t.dev d).abandNow = (s.dev d).abandNow + (s.unfinished d).length)) ∧
  PlansLaunch ∧ PlacesLaunch ∧ ResumesParked ∧ ResumesYield

/-- 04 R93; 16 R314, R317 to R321, R366, R367: the images of a gang that the plan takes away, or that has left its cores, are spilled to
its frame once nothing works on them, and filled from it for its return, each part at its place of Table 16-4; a core's shadow bank
drains; a gang that waits for its page, or for a repair, becomes ready when service software says so, whose report has reached it; one
it terminates carries its cause. Where frames lie is the model's choice (log 42), and what has no place in a frame stays as it is
(log 41). -/
def Obligations.GangEvents : Prop :=
  ∀ (s : State) (g : Nat), let x := s.gang g
    let planned := (s.planOf x.ret).placements.any (fun p => p.gang = some g)
    let fits := fun (f : Nat) => f + x.desc.frameSize ≤ 2 ^ 80
    let rest := fun (t : State) => ∀ a, OutsideFrame x a → t.byte a = s.byte a
    (tabGet? s.gangs g).isSome = true → checkDesc x.desc false = 0 →
    (s.computing (devOfRet x.ret) = false → planned = false → (s.planOf x.ret).victims.contains g = true ∨ x.place.isAway = true →
      x.spilled = false → s.imagesQuiet g = true →
      ∃ t, exec (.imageSpillFill g) s = .next t ∧ t.squads = s.squads ∧ t.gang g = { x with spilled := true, overB := [] } ∧
        (∀ k, k ≠ g → t.gang k = s.gang k) ∧ rest t ∧
        ∀ o, x.frame = some o → let f := x.frameAt o
          fits f → ∀ b ∈ s.blocksOf g, Copied s t (x.desc.scratchAt f (b % 4)) (localAddr b 0) x.desc.scratchBytes ∧
            Copied s t (x.desc.poolAt f (b % 4)) (poolAddr b 0) x.desc.poolBytes ∧
            ∀ i, i < 16384 → t.read (x.desc.accsAt f (b % 4) + 4 * i) 4 = (cellGet (s.block b).accs i).toNat) ∧
    (s.computing (devOfRet x.ret) = false → planned = true → x.spilled = true → x.overB = [] →
      ∃ t, exec (.imageSpillFill g) s = .next t ∧ t.squads = s.squads ∧ t.gang g = { x with spilled := false } ∧
        (∀ k, k ≠ g → t.gang k = s.gang k) ∧ (x.frame = none → SameBytes s t) ∧
        ∀ o, x.frame = some o → let f := x.frameAt o
          fits f → ∀ b ∈ s.blocksOf g, Copied s t (localAddr b 0) (x.desc.scratchAt f (b % 4)) x.desc.scratchBytes ∧
            Copied s t (poolAddr b 0) (x.desc.poolAt f (b % 4)) x.desc.poolBytes ∧
            ∀ i, i < 16384 → cellGet (t.block b).accs i = BitVec.ofNat 32 (s.read (x.desc.accsAt f (b % 4) + 4 * i) 4)) ∧
    (s.computing (devOfRet x.ret) = false → planned = true → x.spilled = false → exec (.imageSpillFill g) s = .next s) ∧
    (∀ c, ∃ t, exec (.shadowBankDrain c) s = .next t ∧ t.squads = s.squads ∧ t.core c = { s.core c with draining := false } ∧
      (∀ k, k ≠ c → t.core k = s.core k) ∧ ((∀ e ∈ s.gangs, e.2.staged = []) → t = { s with cores := t.cores }) ∧
      ((∀ e ∈ s.gangs, s.gang e.1 = e.2 ∧ checkDesc e.2.desc false = 0 ∧ ∀ b ∈ e.2.staged, b ∈ s.blocksOf e.1) →
        ∀ a, (∀ e ∈ s.gangs, OutsideFrame e.2 a) → t.byte a = s.byte a)) ∧
    (s.computing (devOfRet x.ret) = false → s.gangHeld g = false → x.place = .away (.swap false) →
      ∃ t, exec (.pageFetchCompletion (.gang g)) s = .next t ∧ OnlyGang s t g { x with
        place := .away (.swap true), more := x.more.map (fun w => match w with | .swap _ => .swap true | k => k) }) ∧
    (s.gangHeld g = false → x.place = .away (.repair false) →
      ∃ t, exec (.makeGangReady g) s = .next t ∧ OnlyGang s t g { x with
        place := .away (.repair true), more := x.more.map (fun w => match w with | .repair _ => .repair true | k => k) }) ∧
    (s.gangHeld g = false → x.place = .away (.swap false) → (∀ w ∈ x.more, w ≠ .repair false) → ∃ t, exec (.makeGangReady g) s = .next t ∧
      OnlyGang s t g x) ∧
    (∀ cause, x.term = none → ∃ t, exec (.serviceSoftwareTermination g cause) s = .next t ∧ (t.gang g).term = some ⟨cause, 0, 0, 0, []⟩ ∧
      (t.gang g).place = x.place ∧ t.squads = s.squads ∧ rest t ∧ ∀ k, k ≠ g → t.gang k = s.gang k)

/-- 15 R293 to R295: writing SDCMD starts a shoot-down that waits for every reticle of its device, and for the devices it names; a node
drops the TLB leaves and L1 lines of the range, and once the accesses it translated before, by a leaf it dropped, have been performed
it acknowledges, and
with the last of them the shoot-down is done, nothing happening while the reticle's fence report is held back (17 R328); at the time-out the devices that have not acknowledged are fenced, their requests fail,
but for one whose response is being written (13 R278), and no longer counted; writing FCLR lifts a fence. Each completes on every state. Which devices a shoot-down names, and what counts
as performed, are the model's reading (log 29). -/
def Obligations.ShootdownEvents : Prop :=
  ∀ (s : State) (r : Nat), let c := (s.ret r).tcb; let d := devOfRet r
    (c.shoot ≠ none → exec (.shootdown r) s = .next s) ∧
    (c.shoot = none → ∃ t x, exec (.shootdown r) s = .next t ∧ SameBytes s t ∧ t = { s with rets := t.rets } ∧
      (∀ k, k ≠ r → t.ret k = s.ret k) ∧ t.ret r = { s.ret r with tcb := { c with shoot := some x } } ∧ x.sdva = c.sdva ∧ x.ctl = c.sdctl ∧
      (∀ n, n < 48 → n ∈ x.waiting) ∧ (bitAt c.sdctl 45 = false → x.waiting = List.range 48) ∧
      x.leaves = []) ∧
    (∀ n, (∀ x, c.shoot = some x → n ∉ x.waiting) → exec (.shootdownAck r n) s = .next s) ∧
    (∀ x n, c.shoot = some x → n ∈ x.waiting → s.rootHeld r = false →
      let rs := if n < 48 then [48 * d + n] else (List.range 48).map (48 * (n - 48) + ·)
      let left := x.waiting.filter (· ≠ n)
      ∃ t x1, let acked := (∀ k ∈ rs, s.shootPerformed x1 k = true) ∧ (n < 48 ∨ (s.dev d).fenced.contains (n - 48) = false)
        exec (.shootdownAck r n) s = .next t ∧ SameBytes s t ∧ Dropped s t x rs ∧ LeavesDropped s x x1 rs ∧
        (∀ k ∈ rs, UsesLeaf s x1 k → ¬acked) ∧ t.gangs = s.gangs ∧ t.devs = s.devs ∧
        (∀ q, (t.squad q).out = (s.squad q).out) ∧ (∀ k, k ≠ r → t.ret k = s.ret k) ∧
        (¬acked → t.ret r = { s.ret r with tcb := { c with shoot := some x1 } }) ∧
        (acked → left ≠ [] → t.ret r = { s.ret r with tcb := { c with shoot := some { x1 with waiting := left } } }) ∧
        (acked → left = [] → t.ret r = { s.ret r with tcb := { c with shoot := none, done := true } })) ∧
    (c.shoot = none → exec (.shootdownTimeout r) s = .next s) ∧
    (s.rootHeld r = true → ∀ n, exec (.shootdownAck r n) s = .next s ∧ exec (.shootdownTimeout r) s = .next s) ∧
    (∀ x, c.shoot = some x → s.rootHeld r = false → let late := x.waiting.filter (48 ≤ ·); let left := x.waiting.filter (· < 48)
      ∃ t, exec (.shootdownTimeout r) s = .next t ∧ t.squads = s.squads ∧
        (∀ D, D ∈ (t.dev d).fenced ↔ D ∈ (s.dev d).fenced ∨ 48 + D ∈ late) ∧
        (late = [] → t = s) ∧
        (late ≠ [] → (t.ret r).tcb.fenced = true ∧ (∀ z, late.getLast? = some z → (t.ret r).tcb.fdev = BitVec.ofNat 16 (z - 48)) ∧
          (left = [] → (t.ret r).tcb.shoot = none ∧ (t.ret r).tcb.done = true) ∧
          (left ≠ [] → (t.ret r).tcb.shoot = some { x with waiting := left })) ∧
        ∀ D k i q, 48 + D ∈ late → D ≠ d → devOfRet k = d → tabGet? (s.ret k).requests i = some q → s.goesTo k D q = true →
          ∃ y, tabGet? (t.ret k).requests i = some y ∧ if q.landing then y = q else y.todo = [] ∧ y.failed = some 8) ∧
    (∀ value : BitVec 64, ∃ t, exec (.fenceClear r value) s = .next t ∧ t = { s with devs := t.devs } ∧
      t.dev d = { s.dev d with fenced := (s.dev d).fenced.filter (· ≠ value.toNat % 65536) } ∧ ∀ k, k ≠ d → t.dev k = s.dev k)

/-- 09 R194; 18 R333, R334, R337; 13 R258; 16 R366: the refresh counter goes from edge to edge of its windows; a power window sets
PWR and steps FDIV down above the limit and up 25 W below it; a core on which no tile instruction is in execution adopts FDIV; a droop's cycles accumulate, and its end
forgets the stretch; SWCTL with CLR empties a Stopwatch; a lost endpoint is marked, and a unit that comes to hold uncorrectable data, in
a memory, an accumulator, a vector register or an L1 line (the numbers of units that no address names are the model's own, log 37). When windows end, and that the counter shows edges alone, are
the model's choice (log 28). -/
def Obligations.MonitorEvents : Prop :=
  ∀ (s : State) (r : Nat), let x := s.ret r
    (∀ d, ∃ t, exec (.wsRefreshWindow d) s = .next t ∧
      OnlyDevice s t d { s.dev d with pos := BitVec.ofNat 13 (((s.dev d).pos.toNat / 200 + 1) * 200 % 6400), fine := 0 }) ∧
    (∀ watts, let lim := min 625 (max 200 x.plim.toNat)
      ∃ t f, exec (.powerWindowEnd r watts) s = .next t ∧
        OnlyReticle s t r { x with pwr := BitVec.ofNat 10 (min watts 1023), fdiv := f } ∧
        (x.thr = false → f = 16) ∧ (x.thr = true → lim < watts → f.toNat = max 8 (x.fdiv.toNat - 1)) ∧
        (x.thr = true → watts + 25 < lim → f.toNat = min 16 (x.fdiv.toNat + 1)) ∧
        (x.thr = true → watts ≤ lim → lim ≤ watts + 25 → f = x.fdiv)) ∧
    (∀ c, let gone := fun (b : Nat) => let y := s.gang (gangOfBlock b); y.place.isAway = true ∧ y.spilled = true
      ((∀ b ∈ s.blocksOn c, (s.block b).pacer.flight = [] ∨ gone b) → ∃ t, exec (.fdivAdopt c) s = .next t ∧
        t = { s with cores := t.cores } ∧ t.core c = { s.core c with fdiv := (s.ret (c / 128)).fdiv } ∧ ∀ k, k ≠ c → t.core k = s.core k) ∧
      ((∃ b ∈ s.blocksOn c, (s.block b).pacer.flight ≠ [] ∧ (s.gang (gangOfBlock b)).place.isAway = false) →
        exec (.fdivAdopt c) s = .next s)) ∧
    (∀ col cycles, x.droop.toNat + cycles < 2 ^ 32 → ∃ t, exec (.droopStretch r col cycles) s = .next t ∧
      OnlyReticle s t r { x with droop := x.droop + BitVec.ofNat 32 cycles,
                                 stretch := tabPut x.stretch col (tabGet x.stretch col 0 + cycles) }) ∧
    (∀ col n, tabGet? x.stretch col = some n → ∃ t w, exec (.droopStretchEnd r col) s = .next t ∧
      OnlyReticle s t r { x with stretch := tabDel x.stretch col, watches := w }) ∧
    (∀ (u : Nat) (v : BitVec 64), u < 4 → bitAt v 2 = true → (slice v 4 4).toNat < 10 → slice v 4 4 = 7 ∨ (slice v 24 8).toNat < 128 →
      let w : Stopwatch := { sel := slice v 24 8, src := slice v 4 4, frz := bitAt v 1, en := bitAt v 0 }
      ∃ t, exec (.stopwatchClear r u v) s = .next t ∧ OnlyReticle s t r { x with watches := tabPut x.watches u w }) ∧
    (∃ t, exec (.endpointLost r) s = .next t ∧ OnlyReticle s t r { x with lost := true }) ∧
    (∀ a, hasStorage a = true → a < 2 ^ 120 → ∃ t, exec (.uncorrectableData a) s = .next t ∧ Spoils s t a) ∧
    (∀ b i, i < 16384 → (tabGet? s.blocks b).isSome = true → let a := 2 ^ 120 + 3 * b * 2 ^ 18 + 4 * i
      ∃ t, exec (.uncorrectableData a) s = .next t ∧ Spoils s t a) ∧
    (∀ q i, i < 65536 → (tabGet? s.squads q).isSome = true → let a := 2 ^ 120 + (3 * q + 1) * 2 ^ 18 + 4 * i
      ∃ t, exec (.uncorrectableData a) s = .next t ∧ Spoils s t a) ∧
    (∀ b k o line, o < 128 → k < 2048 → (tabGet? s.blocks b).isSome = true → (s.block b).l1[k]? = some line →
      ∃ t y, exec (.uncorrectableData (2 ^ 120 + (3 * b + 2) * 2 ^ 18 + 128 * k + o)) s = .next t ∧
        t.block b = { s.block b with l1 := (s.block b).l1.set k y } ∧ y = { line with bad := y.bad } ∧
        (∀ n m, y.isBad n m = (line.isBad n m || (decide (o / 32 * 32 < n + m) && decide (n < o / 32 * 32 + 32)))) ∧
        t = { s with blocks := t.blocks } ∧ ∀ c, c ≠ b → t.block c = s.block c)

/-- 17 R323 to R326, R330; 10 R225 to R227: after boot's MEMREADY a host access to an address that a reticle's decoder covers acts on its
memory: a read returns its bytes, poisoned where they are uncorrectable; a write stores its bytes and no other; an atomic within a
line whose bytes are the old ones stores the new ones. Before MEMREADY a read is poisoned and a write is lost. Elsewhere below 2^46 the
host reads and writes its own memory, as devices see it at home 62 (log 30). What the host reads of a frame's fields that have no layout,
and the order of its accesses, are the model's choice (logs 42 and 17). -/
def Obligations.HostMemory : Prop :=
  (∀ (s : State) (d a r m : Nat), s.hostPlace d a = some (r, m) → a < 2 ^ 64 →
    ((s.dev d).boot.memready = false → ∀ n data,
      (∃ t, exec (.hostMemRead d a n) s = .next t ∧ t = { s with reply := [], poisoned := true }) ∧
      exec (.hostMemWrite d a data) s = .next s) ∧
    ((s.dev d).boot.memready = true →
      (∀ n, s.isBad m n = false → ∃ t, exec (.hostMemRead d a n) s = .next t ∧ SameBytes s t ∧ t.squads = s.squads ∧
        ReadsBytes s r m n t.reply ∧ t.poisoned = false) ∧
      (∀ n, s.isBad m n = true → ∃ t, exec (.hostMemRead d a n) s = .next t ∧ t = { s with reply := [], poisoned := true }) ∧
      (∀ data, data ≠ [] → ∃ t, exec (.hostMemWrite d a data) s = .next t ∧ t.squads = s.squads ∧ PutBytes s t m data) ∧
      (∀ old new, old ≠ [] → old.length = new.length → m / 64 = (m + old.length - 1) / 64 → s.isBad m old.length = false →
        old = (List.range old.length).map (fun i => s.byte (m + i)) → ∃ t, exec (.hostAtomic d a old new) s = .next t ∧
          t.squads = s.squads ∧ t.reply = old ∧ PutBytes s t m new))) ∧
  (∀ (s : State) (d a : Nat), s.hostPlace d a = none → let m := d * 2 ^ 52 + (62 * 2 ^ 46 + a)
    (∀ n, a + n ≤ 2 ^ 46 → ∃ t, exec (.hostMemRead d a n) s = .next t ∧
      t = { s with reply := (List.range n).map (fun i => s.byte (m + i)), poisoned := false, hist := t.hist } ∧ OnlyLearns s t .host) ∧
    (∀ data, data ≠ [] → a + data.length ≤ 2 ^ 46 → ∃ t, exec (.hostMemWrite d a data) s = .next t ∧ t.squads = s.squads ∧ PutBytes s t m data))

/-- 00 R11, R12; 17 R326 to R329, R331; 16 R366; 03 R75: a write to a control register sets its writable fields, and a read through BAR0
shows them; the service cluster reads and writes device memory by physical address and control space by its doubles, and repairs a
unit that holds uncorrectable data, of whatever memory, and no other; a reply to a SYSC's last request is taken; RTAIL frees the ring; an attestation starts once, one in progress ignoring another
start, and its completion writes the report with the nonce first and sets ADONE. How a SYSC's requests are told apart, and how BAR0 is
reached, are the model's choice (logs 17 and 30). -/
def Obligations.HostControl : Prop :=
  ∀ (s : State) (d : Nat), let x := s.dev d
    RegistersWritten s d ∧
    (∀ off, off % 8 = 0 → ∃ t, exec (.hostMemRead d (2 ^ 64 + off) 8) s = .next t ∧
      t = { s with reply := numBytes 8 (s.ctlRead d off).toNat, poisoned := false }) ∧
    (∀ off data, off % 8 = 0 → data.length = 8 →
      exec (.hostMemWrite d (2 ^ 64 + off) data) s = exec (.registerWrite d off (BitVec.ofNat 64 (leValue data))) s ∧
      (off < 2 ^ 32 → exec (.serviceClusterMemoryAccess d (63 * 2 ^ 46 + off) (.write data)) s =
        exec (.registerWrite d off (BitVec.ofNat 64 (leValue data))) s)) ∧
    (∀ off, off % 8 = 0 → off < 2 ^ 32 → ∃ t, exec (.serviceClusterMemoryAccess d (63 * 2 ^ 46 + off) (.read 8)) s = .next t ∧
      t = { s with reply := numBytes 8 (s.ctlRead d off).toNat, poisoned := false }) ∧
    (∀ pa n, pa < 2 ^ 52 → pa / 2 ^ 46 < 48 → let m := d * 2 ^ 52 + pa
      (s.isBad m n = false → ∃ t, exec (.serviceClusterMemoryAccess d pa (.read n)) s = .next t ∧ SameBytes s t ∧ t.squads = s.squads ∧
        ReadsBytes s (48 * d + pa / 2 ^ 46) m n t.reply ∧ t.poisoned = false) ∧
      (s.isBad m n = true → ∃ t, exec (.serviceClusterMemoryAccess d pa (.read n)) s = .next t ∧ t = { s with reply := [], poisoned := true }) ∧
      (∀ data, data ≠ [] → ∃ t, exec (.serviceClusterMemoryAccess d pa (.write data)) s = .next t ∧ t.squads = s.squads ∧
        PutBytes s t m data) ∧
      (∀ data, data.length = 32 → pa % 32 = 0 → s.isBad m 32 = true → ∃ t, exec (.serviceClusterMemoryAccess d pa (.repair data)) s = .next t ∧
        t.squads = s.squads ∧ PutBytes s t m data ∧ t.isBad m 32 = false) ∧
      (∀ data, s.isBad m 32 = false → exec (.serviceClusterMemoryAccess d pa (.repair data)) s = .next s)) ∧
    UnitRepairs s d ∧
    (∀ core (value : BitVec 64) q l c args, core < 16 → tabGet? x.requests value.toNat = some (q, l) → (s.squad q).run = .sysc c →
      c.waiting = some (value.toNat, l) → c.todo = [(l, args)] → ∃ t, exec (.syscReply d core value) s = .next t ∧ SameBytes s t ∧
        SameSquadsBut q s t ∧ t.squad q = { s.squad q with
          run := .sysc { c with got := c.got ++ [(l, cellGet x.rreplyv core)], todo := [], waiting := none } }) ∧
    (∀ value : BitVec 64, x.held = [] → ∃ t, exec (.reportRingTailWrite d value) s = .next t ∧
      OnlyDevice s t d { x with rtail := value, interrupt := false }) ∧
    (∀ value : BitVec 64, value.toNat % 2 = 1 → x.boot.attesting = false → ∃ t, exec (.attestationStart d value) s = .next t ∧
      OnlyDevice s t d { x with boot := { x.boot with attesting := true } }) ∧
    (∀ value : BitVec 64, x.boot.attesting = true →
      exec (.attestationStart d value) s = .next s ∧ exec (.registerWrite d 0x1008 value) s = .next s) ∧
    (x.boot.attesting = true → ∃ t, exec (.attestationComplete d) s = .next t ∧ t.squads = s.squads ∧
      (t.dev d).boot = { x.boot with attesting := false, adone := true, attestations := x.boot.attestations + 1 } ∧
      let m := d * 2 ^ 52 + x.boot.abuf.toNat % 2 ^ 52
      (∀ i, i < 32 → t.byte (m + i) = BitVec.ofNat 8 (x.boot.anonce.toNat / 256 ^ i)) ∧
      (∀ k i, k < 4 → i < 64 → t.byte (m + 32 + 64 * k + i) = BitVec.ofNat 8 ((tabGet x.boot.meas k 0).toNat / 256 ^ i)) ∧
      ∀ a, a < m ∨ m + 30144 ≤ a → t.byte a = s.byte a)

/-- 17 R330, R332; 03 R69; 12 R252; 01 R21: a cold reset leaves a device without work and its memory zero, with the boot block as its boot
steps leave it; a warm reset keeps its memory, what the host wrote in it and what its snoop filter holds, the limits and the fields marked kept; other devices keep everything. A job is created
with step 0 and its next sequence number 1, and not where another job of the device has some of the weight store it asks for. Reset
values that the spec does not give are the model's (logs 3, 4 and 16), and the other conditions of a creation (log 27). -/
def Obligations.Resets : Prop :=
  ∀ (s : State) (d : Nat),
    (∀ fail, ∃ t, exec (.coldReset d fail) s = .next t ∧ t.dev d = { boot := bootRun d (s.dev d).boot fail } ∧
      (∀ k, k ≠ d → t.dev k = s.dev k) ∧ (∀ r, r / 48 = d → t.ret r = {}) ∧ (∀ r, r / 48 ≠ d → t.ret r = s.ret r) ∧
      (∀ e ∈ t.gangs, e.2.ret / 48 ≠ d) ∧
      (∀ a, a < 2 ^ 80 → a / 2 ^ 52 = d → a / 2 ^ 46 % 64 ≠ 62 → t.byte a = 0) ∧
      (∀ a, a < 2 ^ 80 → a / 2 ^ 52 ≠ d → t.byte a = s.byte a)) ∧
    (∀ fail, ∃ t, exec (.warmReset d fail) s = .next t ∧ t.wrote = s.wrote ∧
      t.dev d = { climit := (s.dev d).climit, climitNow := (s.dev d).climit, xlimit := (s.dev d).xlimit, xlimitNow := (s.dev d).xlimit,
                  boot := bootRun d (s.dev d).boot fail } ∧
      (∀ k, k ≠ d → t.dev k = s.dev k) ∧ (∀ a, a < 2 ^ 81 → t.byte a = s.byte a) ∧
      (∀ r, r / 48 = d → (t.ret r).entries = [] ∧ (t.ret r).cards = [] ∧
        ((∀ y, (r, y) ∈ s.rets → y = s.ret r) → (t.ret r).tcb.atbase = (s.ret r).tcb.atbase ∧ (t.ret r).snoop = (s.ret r).snoop ∧
          (t.ret r).reserved = (s.ret r).reserved)) ∧
      (∀ e ∈ t.gangs, e.2.ret / 48 ≠ d)) ∧
    (∀ n fail, (bootRun d n none).bstate = 5 ∧ (bootRun d n none).err = false ∧ (bootRun d n none).memready = true ∧
      (bootRun d n none).rready = true ∧
      (1 ≤ fail → fail ≤ 5 → (bootRun d n (some fail)).bstate = BitVec.ofNat 4 fail ∧ (bootRun d n (some fail)).err = true ∧
        (bootRun d n (some fail)).rready = decide (2 < fail) ∧ (bootRun d n (some fail)).memready = decide (3 < fail))) ∧
    (∀ p : JobParams, p.ranks ≤ 4096 → p.sseg ≤ 8192 → p.vseg ≤ 4096 → AllotmentsFree s d p →
      (∀ g ∈ s.gangsOn d, (s.gang g).job ≠ p.job.toNat) → ∃ t, exec (.jobCreation d p) s = .next t ∧ SameBytes s t ∧ t.squads = s.squads ∧
      t.job (65536 * d + p.job.toNat) = { asid := p.asid, jstep := 0, sseg := p.sseg, vseg := p.vseg, ranks := p.ranks } ∧
      (∀ k, k ≠ 65536 * d + p.job.toNat → t.job k = s.job k) ∧
      (∀ r, r < 48 → (t.field (fieldKey (48 * d + r) p.job.toNat)).cseq = 1) ∧
      (∀ r w, r < 48 → p.ws.find? (fun w => w.1 = r) = some w → (t.field (fieldKey (48 * d + r) p.job.toNat)).wsbase = w.2.1 ∧
        (t.field (fieldKey (48 * d + r) p.job.toNat)).wssize = w.2.2)) ∧
    (∀ p : JobParams, ¬AllotmentsFree s d p → exec (.jobCreation d p) s = .next s)

/-- Every well-formed instruction of a stream is read back from its word, and every word that is read is the word of the
instruction it is read as, which is well formed: no bit of an encoding is dropped, and no word has two readings (02 R37 to
R44, R61, R64). -/
def Obligations.DecodeAndEncodeAgree : Prop :=
  (∀ i w, i.wf = true → encodeScalar i = some w → decodeScalar w = .ok i) ∧
  (∀ i w, i.wf = true → encodeLane i = some w → decodeLane w = .ok i) ∧
  (∀ i w, i.wf = true → encodeTile i = some w → decodeTile w = .ok i) ∧
  (∀ i w, decodeScalar w = .ok i → encodeScalar i = some w ∧ i.wf = true) ∧
  (∀ i w, decodeLane w = .ok i → encodeLane i = some w ∧ i.wf = true) ∧
  (∀ i w, decodeTile w = .ok i → encodeTile i = some w ∧ i.wf = true)

/-- Words written out bit by bit from the encoding tables decode to the instructions they stand for (02 Tables 2-2 to 2-13;
11 Table 11-2). -/
def Obligations.DecodedWords : Prop :=
  -- ADD.s s3, s1, s2: major 000001, S 1, sd, sa, sb, minor 0000000
  decodeScalar 0b000001_1_000011_000001_000010_0000000 = .ok (.add 1 3 1 2) ∧
  -- B.ltz s5, -4: major 010000, S 0, condition 0010, sa, offset
  decodeScalar 0b010000_0_0010_000101_111111111111100 = .ok (.bLtz 0 5 0x7FFC) ∧
  -- LDS of 8 bytes s7, [s6 + 16]: major 100000, width 11
  decodeScalar 0b100000_0_000111_000110_11_00000010000 = .ok (.lds 0 7 6 3 16) ∧
  -- ATOMS.add of 8 bytes: minor 0110000
  decodeScalar 0b100100_0_000001_000010_000011_0110000 = .ok (.atomsAdd 0 1 2 3 1) ∧
  -- FENCE GPU scope, order ACQ_REL: minor 0001000
  decodeScalar 0b000000_0_100_100_000000000000_0001000 = .ok (.fence 0 4 4) ∧
  -- XCHAN of major 101111, and the ordered form with bit 0 set
  decodeScalar 0b101111_0_000001_000010_0000000000001 = .ok (.xchanOrd 0 1 2) ∧
  -- a word of major 001111, of a SYS minor 0010011, and a NOP with a bit set that must be zero
  decodeScalar 0b001111_0_0000000000000000000000000 = .error .reservedMajor ∧
  decodeScalar 0b000000_0_000000000000000000_0010011 = .error .reservedMinor ∧
  decodeScalar 0b000000_0_000000000000000001_0000000 = .error .mustBeZero ∧
  -- VADD v4, v5, v6 under m1, EF 3: major 00000001 minor 0000
  decodeLane 0b00000001_0000_0_0001_0_0_0_00000000100_00000000101_00000000110_00000000000_0011_000_00_000_000_0_0000000000000000
    = .ok (.vadd ⟨0, 1, .vec 4, .vec 5, .vec 6, .unused, ⟨3, 0, 0, 0, 0, 0⟩⟩) ∧
  -- the same with a scalar vb
  decodeLane 0b00000001_0000_0_0001_0_1_0_00000000100_00000000101_00000000110_00000000000_0011_000_00_000_000_0_0000000000000000
    = .ok (.vadd ⟨0, 1, .vec 4, .vec 5, .sca 6, .unused, ⟨3, 0, 0, 0, 0, 0⟩⟩) ∧
  -- VIMM v2: major 00000010 minor 1011, the immediate in the modifier word
  decodeLane 0b00000010_1011_0_0000_000_00000000010_000000000000000000000000000000000_11011110101011011011111011101111
    = .ok (.vimm 0 0 2 0xDEADBEEF) ∧
  -- TMMA accumulator 2, KP 64: opcode 00000110
  decodeTile 0b00000110_0_10_0000000001000000_0000000000000000000000000000000000000 = .ok (.tmma 0 2 64) ∧
  -- TLOOP t1, -8: opcode 00001100
  decodeTile 0b00001100_0_0001_000000000000000000000000000_111111111111111111111000 = .ok (.tloop 0 1 0xFFFFF8)

/-- A step runs the instruction that is decoded. In a compute superstep the issue turn of a cluster wakes its squads, chooses one
(04 R100, R101), and with no pending fault to take runs what the bytes at its PC decode to, hazards checked (02 R52), those of a word
whose registers there are, unless it is an access that waits (10 R207), or a LANE that a RETT resumed for a replay alone meets no word
to replay (16 R310); what decodes to nothing runs the illegal instruction (02 R61). The Pacer's turn runs what the bytes at TPC decode
to; a turn of the arrays works on a block's tile instruction (11 R235); an event's turn runs the event; a squad in WAITSEQ wakes at an
issue turn. A step answers what the meaning answers, with memory put into its canonical form and an access without storage turned into a
fault. A lane word that would read a vector register holding uncorrectable data takes a late fault and does not run (16 R366).
The model's choices are: that one party acts at a time in an order without rule, which of two codes a fetch sees, and the fault of an
access without storage (logs 1, 3, 5 and 35); log 11 (DEDUCED): that hazards are checked only of a word whose registers pass their
check (namesRegisters), that TDST of a hazard names the word's own destination (hazardTdst), and that a word which cannot be replayed
drops the lanes left over from a fault (afterFetch); and log 37: that a vector register's unit is met as the word issues. -/
def Obligations.StepRunsDecoded : Prop :=
  (∀ s s1 core cluster lane q t bs, s.nextTurn = (.issue core cluster lane, s1) → s1.computing (devOfRet (retOfCore core)) = true →
    let all := s1.clusterSquads core cluster
    let s2 := all.foldl State.wake s1
    s2.choose (all.filter (fun p => s2.ready p lane)) lane = some q →
    let v : State := { s2.countChoice all (some q) lane with actor := q }
    let st : Stream := if lane then .lane else .scalar
    v.sq.canTake = false → FetchIs v t (blockOfSquad q) st (if lane then v.sq.lpc else v.sq.pc) bs →
    (∀ i, decodeBytes st bs = .ok i → t.sq.accessWaits i = false →
      ¬(replayable i = false ∧ lane = true ∧ t.sq.lane.map LaneRun.left = some 0) → (t.afterFetch lane i).hazardOf i = none →
      ((t.afterFetch lane i).badSource i = none → step s = endStep (exec i (t.afterFetch lane i))) ∧
      (∀ a op f, (t.afterFetch lane i).badSource i = some a → i.lane? = some (op, f) → let u := t.afterFetch lane i
        step s = endStep (.next (u.lateLane 0 (laneTdst op f (laneEf op f u.sq.fmt)) a)))) ∧
    (∀ i tv, decodeBytes st bs = .ok i → t.sq.accessWaits i = false →
      ¬(replayable i = false ∧ lane = true ∧ t.sq.lane.map LaneRun.left = some 0) → let u := t.afterFetch lane i
      u.hazardOf i = some tv → u.namesRegisters i = true ∧ (u.gangOf q).desc.hchk ≠ 0 ∧ hazard? i u.sq = some tv ∧
        (lane = false → step s = endStep (.next (u.trapS 0x01 tv (hazardTdst i u.sq.fmt)))) ∧
        (lane = true → ∃ k, step s = endStep (.next (u.trapL k 0x01 0 tv (hazardTdst i u.sq.fmt))))) ∧
    (∀ e, decodeBytes st bs = .error e →
      step s = endStep (exec (.illegalInstruction q (if lane then .lane (BitVec.ofNat 96 (leValue bs)) else .scalar (BitVec.ofNat 32 (leValue bs))))
        (if lane then t else t.setSq { t.sq with replay := none })))) ∧
  (∀ s s1 b t bs, s.nextTurn = (.pacer b, s1) →
    let v : State := { s1 with actor := b }
    (v.gang (gangOfBlock b)).issues = true → v.computing (devOfRet (v.gang (gangOfBlock b)).ret) = true →
    v.pacer.run = .running → v.pacer.flight.all TileOp.worked = true →
    FetchIs v t b .tile v.pacer.tpc bs → (∀ i, decodeBytes .tile bs = .ok i → step s = endStep (exec i t)) ∧
      (∀ e, decodeBytes .tile bs = .error e → step s = endStep (exec (.illegalInstruction b (.tile (BitVec.ofNat 64 (leValue bs)))) t))) ∧
  (∀ s s1 b n, s.nextTurn = (.tileWork b n, s1) → step s = endStep (.next (s1.tileWork b n))) ∧
  (∀ s s1 i, s.nextTurn = (.event i, s1) → isEvent i = true → step s = endStep (exec i s1)) ∧
  WaitseqWakes ∧
  (∀ s t, s.stop = none → endStep (.next s) = .next t → t.mem = cellsCanon s.mem ∧ t = { s with mem := t.mem }) ∧
  SourcesGood ∧
  (∀ s f, s.stop = some f → endStep (.next s) = .fault f)

/-- The invariant holds after every step from any state, reached or not: memory stays in its canonical form, so that equal
memories are equal data, and no state that is answered has an access to an address without storage behind it. The form of the list, and
the fault of such an access, are the model's own (logs 3 and 35). What the words write stays within its bounds: stated of them and
not of every step, because a host that writes over a gang's frame may bring back any value (log 42). -/
def Obligations.StepKeepsInvariant : Prop := (∀ s t, step s = .next t → t.Inv) ∧ WordsKeepLegal

/-- The state at reset has it. -/
def Obligations.ResetHasInvariant : Prop := State.reset.Inv ∧ State.reset.mem = [] ∧ ∀ a, State.reset.byte a = 0
end

