-- ==== Sys2Proof/Laws/Cells.lean ====
section
/-! SUPPORT. Laws of the sparse tables: a read after a write, and the canonical form. -/

namespace Sys2Proof.Machine

theorem tabGet?_tabPut_same {α : Type} (t : Tab α) (k : Nat) (a : α) : tabGet? (tabPut t k a) k = some a := by
  induction t with
  | nil => simp [tabPut, tabGet?]
  | cons e rest ih =>
    obtain ⟨j, b⟩ := e
    simp only [tabPut]
    split
    · simp [tabGet?]
    · split <;> simp [tabGet?, *]

theorem tabGet?_tabPut_ne {α : Type} (t : Tab α) (k i : Nat) (a : α) (h : i ≠ k) :
    tabGet? (tabPut t k a) i = tabGet? t i := by
  induction t with
  | nil => simp [tabPut, tabGet?, Ne.symm h]
  | cons e rest ih =>
    obtain ⟨j, b⟩ := e
    simp only [tabPut]
    split
    · next hj => subst hj; simp [tabGet?, Ne.symm h]
    · split
      · simp [tabGet?, Ne.symm h]
      · simp only [tabGet?, ih]

@[simp] theorem tabGet_tabPut_same {α : Type} (t : Tab α) (k : Nat) (a d : α) : tabGet (tabPut t k a) k d = a := by
  simp [tabGet, tabGet?_tabPut_same]

theorem tabGet_tabPut_ne {α : Type} (t : Tab α) (k i : Nat) (a d : α) (h : i ≠ k) :
    tabGet (tabPut t k a) i d = tabGet t i d := by simp [tabGet, tabGet?_tabPut_ne t k i a h]

theorem cellGet_filter_ne {w : Nat} (t : Cells w) (k i : Nat) :
    cellGet (t.filter (fun e => e.1 != k)) i = if i = k then 0 else cellGet t i := by
  induction t with
  | nil => simp [cellGet]
  | cons e rest ih =>
    obtain ⟨j, b⟩ := e
    by_cases hj : j = k
    · subst hj
      simp only [List.filter_cons, bne_self_eq_false, Bool.false_eq_true, if_false, ih, cellGet]
      by_cases hi : i = j
      · simp [hi]
      · simp [hi, Ne.symm hi]
    · simp only [List.filter_cons, bne_iff_ne, ne_eq, hj, not_false_eq_true, if_true, cellGet, ih]
      by_cases hi : i = k
      · subst hi; simp [hj]
      · simp [hi]

theorem cellGet_cellIns {w : Nat} (t : Cells w) (k i : Nat) (a : BitVec w) :
    cellGet (cellIns t k a) i = if i = k then a else cellGet t i := by
  induction t with
  | nil => simp [cellIns, cellGet, eq_comm]
  | cons e rest ih =>
    obtain ⟨j, b⟩ := e
    simp only [cellIns]
    split
    · next h => subst h; by_cases hi : i = j <;> simp [cellGet, hi, eq_comm]
    · next h =>
      split
      · by_cases hi : i = k
        · simp [cellGet, hi]
        · simp [cellGet, hi, Ne.symm hi]
      · by_cases hi : i = k
        · subst hi; simp [cellGet, h, ih]
        · simp [cellGet, ih, hi]

/-- What a read after a write gives. -/
theorem cellGet_cellPut {w : Nat} (t : Cells w) (k i : Nat) (a : BitVec w) :
    cellGet (cellPut t k a) i = if i = k then a else cellGet t i := by
  unfold cellPut
  split
  · next h => subst h; exact cellGet_filter_ne t k i
  · exact cellGet_cellIns t k i a

@[simp] theorem cellGet_cellPut_same {w : Nat} (t : Cells w) (k : Nat) (a : BitVec w) : cellGet (cellPut t k a) k = a := by
  simp [cellGet_cellPut]

theorem cellGet_cellPut_ne {w : Nat} (t : Cells w) (k i : Nat) (a : BitVec w) (h : i ≠ k) :
    cellGet (cellPut t k a) i = cellGet t i := by simp [cellGet_cellPut, h]

/-- What a read after a write of consecutive words gives. -/
theorem cellGet_cellPutList {w : Nat} (as : List (BitVec w)) (t : Cells w) (k i : Nat) :
    cellGet (cellPutList t k as) i = if k ≤ i ∧ i < k + as.length then as.getD (i - k) 0 else cellGet t i := by
  induction as generalizing t k with
  | nil => simp [cellPutList]
  | cons a rest ih =>
    simp only [cellPutList, ih, cellGet_cellPut, List.length_cons]
    by_cases h1 : i = k
    · subst h1; simp
    · by_cases h2 : k + 1 ≤ i ∧ i < k + 1 + rest.length
      · have h3 : k ≤ i ∧ i < k + (rest.length + 1) := by omega
        have h4 : i - k = (i - (k + 1)) + 1 := by omega
        simp [h2, h3, h4]
      · have h3 : ¬ (k ≤ i ∧ i < k + (rest.length + 1)) := by omega
        rw [if_neg h2, if_neg h1, if_neg h3]

/-- A canonical list whose first key exceeds a bound. -/
def cellsAbove {w : Nat} (n : Nat) (t : Cells w) : Prop := ∀ e ∈ t, n < e.1

theorem cellsWf_cons {w : Nat} (k : Nat) (a : BitVec w) (t : Cells w) :
    cellsWf ((k, a) :: t) = true ↔ a ≠ 0 ∧ cellsAbove k t ∧ cellsWf t = true := by
  induction t generalizing k a with
  | nil => simp [cellsWf, cellsAbove]
  | cons e rest ih =>
    obtain ⟨j, b⟩ := e
    have hr := ih j b
    constructor
    · intro h
      simp only [cellsWf, Bool.and_eq_true, bne_iff_ne, decide_eq_true_eq] at h
      obtain ⟨⟨h1, h2⟩, h3⟩ := h
      have h4 : cellsWf ((j, b) :: rest) = true := by simpa [cellsWf] using h3
      refine ⟨h1, ?_, h4⟩
      intro e he
      rcases List.mem_cons.mp he with rfl | he
      · exact h2
      · exact Nat.lt_trans h2 ((hr.mp h4).2.1 e he)
    · rintro ⟨h1, h2, h3⟩
      have h4 : k < j := h2 (j, b) List.mem_cons_self
      have h5 : ¬ a = 0#w := h1
      rw [cellsWf]
      simp [h5, h4, h3]

theorem cellsWf_filter {w : Nat} (p : Nat × BitVec w → Bool) (t : Cells w) (h : cellsWf t = true) :
    cellsWf (t.filter p) = true := by
  induction t with
  | nil => rfl
  | cons e rest ih =>
    obtain ⟨k, a⟩ := e
    rw [cellsWf_cons] at h
    rw [List.filter_cons]
    split
    · rw [cellsWf_cons]
      exact ⟨h.1, fun e he => h.2.1 e (List.mem_of_mem_filter he), ih h.2.2⟩
    · exact ih h.2.2

theorem mem_cellIns {w : Nat} (t : Cells w) (k : Nat) (a : BitVec w) (e : Nat × BitVec w) (h : e ∈ cellIns t k a) :
    e = (k, a) ∨ e ∈ t := by
  induction t with
  | nil => simp only [cellIns, List.mem_singleton] at h; exact .inl h
  | cons d rest ih =>
    obtain ⟨j, b⟩ := d
    simp only [cellIns] at h
    split at h
    · rcases List.mem_cons.mp h with h | h
      · exact .inl h
      · exact .inr (List.mem_cons_of_mem _ h)
    · split at h
      · rcases List.mem_cons.mp h with h | h
        · exact .inl h
        · exact .inr h
      · rcases List.mem_cons.mp h with h | h
        · exact .inr (h ▸ List.mem_cons_self)
        · rcases ih h with h | h
          · exact .inl h
          · exact .inr (List.mem_cons_of_mem _ h)

theorem cellsWf_cellIns {w : Nat} (t : Cells w) (k : Nat) (a : BitVec w) (ha : a ≠ 0) (h : cellsWf t = true) :
    cellsWf (cellIns t k a) = true := by
  induction t with
  | nil =>
    have h5 : ¬ a = 0#w := ha
    simp [cellIns, cellsWf, h5]
  | cons e rest ih =>
    obtain ⟨j, b⟩ := e
    have hc := (cellsWf_cons j b rest).mp h
    simp only [cellIns]
    split
    · next hj => subst hj; rw [cellsWf_cons]; exact ⟨ha, hc.2.1, hc.2.2⟩
    · split
      · next _ hk =>
        rw [cellsWf_cons]
        refine ⟨ha, ?_, h⟩
        intro e he
        rcases List.mem_cons.mp he with rfl | he
        · exact hk
        · exact Nat.lt_trans hk (hc.2.1 e he)
      · next hj hk =>
        rw [cellsWf_cons]
        refine ⟨hc.1, ?_, ih hc.2.2⟩
        intro e he
        rcases mem_cellIns rest k a e he with rfl | he
        · exact Nat.lt_of_le_of_ne (Nat.le_of_not_lt hk) hj
        · exact hc.2.1 e he

/-- A write keeps the canonical form. -/
theorem cellsWf_cellPut {w : Nat} (t : Cells w) (k : Nat) (a : BitVec w) (h : cellsWf t = true) :
    cellsWf (cellPut t k a) = true := by
  unfold cellPut
  split
  · exact cellsWf_filter _ t h
  · next ha => exact cellsWf_cellIns t k a ha h

theorem cellsWf_cellPutList {w : Nat} (as : List (BitVec w)) (t : Cells w) (k : Nat) (h : cellsWf t = true) :
    cellsWf (cellPutList t k as) = true := by
  induction as generalizing t k with
  | nil => exact h
  | cons a rest ih => exact ih _ _ (cellsWf_cellPut t k a h)

theorem cellsWf_cellClear {w : Nat} (t : Cells w) (lo n : Nat) (h : cellsWf t = true) : cellsWf (cellClear t lo n) = true :=
  cellsWf_filter _ t h

theorem cellsWf_cellPaste {w : Nat} (src t : Cells w) (lo n : Nat) (h : cellsWf t = true) :
    cellsWf (cellPaste t lo n src) = true := by
  unfold cellPaste
  suffices ∀ (u : Cells w), cellsWf u = true → cellsWf (src.foldl (fun acc e => cellPut acc (lo + e.1) e.2) u) = true from
    this _ (cellsWf_cellClear t lo n h)
  induction src with
  | nil => exact fun u hu => hu
  | cons e rest ih => exact fun u hu => ih _ (cellsWf_cellPut u _ _ hu)

/-- Any list is brought into canonical form. -/
theorem cellsWf_cellsCanon {w : Nat} (t : Cells w) : cellsWf (cellsCanon t) = true := by
  induction t with
  | nil => rfl
  | cons e rest ih => exact cellsWf_cellPut _ _ _ ih

/-- Bringing a list into canonical form changes no word of it. -/
theorem cellGet_cellsCanon {w : Nat} (t : Cells w) (i : Nat) : cellGet (cellsCanon t) i = cellGet t i := by
  induction t with
  | nil => rfl
  | cons e rest ih =>
    obtain ⟨k, a⟩ := e
    simp only [cellsCanon, cellGet_cellPut, cellGet, ih, eq_comm]

theorem cellIns_of_above {w : Nat} (t : Cells w) (k : Nat) (a : BitVec w) (h : cellsAbove k t) :
    cellIns t k a = (k, a) :: t := by
  cases t with
  | nil => rfl
  | cons e rest =>
    obtain ⟨j, b⟩ := e
    have hk : k < j := h (j, b) List.mem_cons_self
    simp [cellIns, hk, (Nat.ne_of_lt hk).symm]

/-- A list in canonical form stays as it is. -/
theorem cellsCanon_of_wf {w : Nat} (t : Cells w) (h : cellsWf t = true) : cellsCanon t = t := by
  induction t with
  | nil => rfl
  | cons e rest ih =>
    obtain ⟨k, a⟩ := e
    have hc := (cellsWf_cons k a rest).mp h
    have h5 : ¬ a = 0#w := hc.1
    simp [cellsCanon, ih hc.2.2, cellPut, h5, cellIns_of_above rest k a hc.2.1]

end Sys2Proof.Machine
end

