-- ==== Sys2Proof/Laws/State.lean ====
section
/-! SUPPORT. What each record update of the state leaves, field by field, and what it reads back. -/

namespace Sys2Proof.Machine

-- setDev
@[simp] theorem setDev_turns (s : State) (k : Nat) (x : Device) : (s.setDev k x).turns = s.turns := rfl
@[simp] theorem setDev_clock (s : State) (k : Nat) (x : Device) : (s.setDev k x).clock = s.clock := rfl
@[simp] theorem setDev_actor (s : State) (k : Nat) (x : Device) : (s.setDev k x).actor = s.actor := rfl
@[simp] theorem setDev_mem (s : State) (k : Nat) (x : Device) : (s.setDev k x).mem = s.mem := rfl
@[simp] theorem setDev_code (s : State) (k : Nat) (x : Device) : (s.setDev k x).code = s.code := rfl
@[simp] theorem setDev_hist (s : State) (k : Nat) (x : Device) : (s.setDev k x).hist = s.hist := rfl
@[simp] theorem setDev_writes (s : State) (k : Nat) (x : Device) : (s.setDev k x).writes = s.writes := rfl
@[simp] theorem setDev_fences (s : State) (k : Nat) (x : Device) : (s.setDev k x).fences = s.fences := rfl
@[simp] theorem setDev_bad (s : State) (k : Nat) (x : Device) : (s.setDev k x).bad = s.bad := rfl
@[simp] theorem setDev_wrote (s : State) (k : Nat) (x : Device) : (s.setDev k x).wrote = s.wrote := rfl
@[simp] theorem setDev_rets (s : State) (k : Nat) (x : Device) : (s.setDev k x).rets = s.rets := rfl
@[simp] theorem setDev_jobs (s : State) (k : Nat) (x : Device) : (s.setDev k x).jobs = s.jobs := rfl
@[simp] theorem setDev_fields (s : State) (k : Nat) (x : Device) : (s.setDev k x).fields = s.fields := rfl
@[simp] theorem setDev_gangs (s : State) (k : Nat) (x : Device) : (s.setDev k x).gangs = s.gangs := rfl
@[simp] theorem setDev_blocks (s : State) (k : Nat) (x : Device) : (s.setDev k x).blocks = s.blocks := rfl
@[simp] theorem setDev_squads (s : State) (k : Nat) (x : Device) : (s.setDev k x).squads = s.squads := rfl
@[simp] theorem setDev_cores (s : State) (k : Nat) (x : Device) : (s.setDev k x).cores = s.cores := rfl
@[simp] theorem setDev_columns (s : State) (k : Nat) (x : Device) : (s.setDev k x).columns = s.columns := rfl
@[simp] theorem setDev_mismatch (s : State) (k : Nat) (x : Device) : (s.setDev k x).mismatch = s.mismatch := rfl
@[simp] theorem setDev_reply (s : State) (k : Nat) (x : Device) : (s.setDev k x).reply = s.reply := rfl
@[simp] theorem setDev_poisoned (s : State) (k : Nat) (x : Device) : (s.setDev k x).poisoned = s.poisoned := rfl
@[simp] theorem setDev_stop (s : State) (k : Nat) (x : Device) : (s.setDev k x).stop = s.stop := rfl
@[simp] theorem ret_setDev (s : State) (k i : Nat) (x : Device) : (s.setDev k x).ret i = s.ret i := rfl
@[simp] theorem job_setDev (s : State) (k i : Nat) (x : Device) : (s.setDev k x).job i = s.job i := rfl
@[simp] theorem field_setDev (s : State) (k i : Nat) (x : Device) : (s.setDev k x).field i = s.field i := rfl
@[simp] theorem gang_setDev (s : State) (k i : Nat) (x : Device) : (s.setDev k x).gang i = s.gang i := rfl
@[simp] theorem block_setDev (s : State) (k i : Nat) (x : Device) : (s.setDev k x).block i = s.block i := rfl
@[simp] theorem squad_setDev (s : State) (k i : Nat) (x : Device) : (s.setDev k x).squad i = s.squad i := rfl
@[simp] theorem core_setDev (s : State) (k i : Nat) (x : Device) : (s.setDev k x).core i = s.core i := rfl
@[simp] theorem column_setDev (s : State) (k i : Nat) (x : Device) : (s.setDev k x).column i = s.column i := rfl
@[simp] theorem dev_setDev_same (s : State) (k : Nat) (x : Device) : (s.setDev k x).dev k = x := tabGet_tabPut_same _ _ _ _
theorem dev_setDev_ne (s : State) (k i : Nat) (x : Device) (h : i ≠ k) : (s.setDev k x).dev i = s.dev i := tabGet_tabPut_ne _ _ _ _ _ h

-- setRet
@[simp] theorem setRet_turns (s : State) (k : Nat) (x : Reticle) : (s.setRet k x).turns = s.turns := rfl
@[simp] theorem setRet_clock (s : State) (k : Nat) (x : Reticle) : (s.setRet k x).clock = s.clock := rfl
@[simp] theorem setRet_actor (s : State) (k : Nat) (x : Reticle) : (s.setRet k x).actor = s.actor := rfl
@[simp] theorem setRet_mem (s : State) (k : Nat) (x : Reticle) : (s.setRet k x).mem = s.mem := rfl
@[simp] theorem setRet_code (s : State) (k : Nat) (x : Reticle) : (s.setRet k x).code = s.code := rfl
@[simp] theorem setRet_hist (s : State) (k : Nat) (x : Reticle) : (s.setRet k x).hist = s.hist := rfl
@[simp] theorem setRet_writes (s : State) (k : Nat) (x : Reticle) : (s.setRet k x).writes = s.writes := rfl
@[simp] theorem setRet_fences (s : State) (k : Nat) (x : Reticle) : (s.setRet k x).fences = s.fences := rfl
@[simp] theorem setRet_bad (s : State) (k : Nat) (x : Reticle) : (s.setRet k x).bad = s.bad := rfl
@[simp] theorem setRet_wrote (s : State) (k : Nat) (x : Reticle) : (s.setRet k x).wrote = s.wrote := rfl
@[simp] theorem setRet_devs (s : State) (k : Nat) (x : Reticle) : (s.setRet k x).devs = s.devs := rfl
@[simp] theorem setRet_jobs (s : State) (k : Nat) (x : Reticle) : (s.setRet k x).jobs = s.jobs := rfl
@[simp] theorem setRet_fields (s : State) (k : Nat) (x : Reticle) : (s.setRet k x).fields = s.fields := rfl
@[simp] theorem setRet_gangs (s : State) (k : Nat) (x : Reticle) : (s.setRet k x).gangs = s.gangs := rfl
@[simp] theorem setRet_blocks (s : State) (k : Nat) (x : Reticle) : (s.setRet k x).blocks = s.blocks := rfl
@[simp] theorem setRet_squads (s : State) (k : Nat) (x : Reticle) : (s.setRet k x).squads = s.squads := rfl
@[simp] theorem setRet_cores (s : State) (k : Nat) (x : Reticle) : (s.setRet k x).cores = s.cores := rfl
@[simp] theorem setRet_columns (s : State) (k : Nat) (x : Reticle) : (s.setRet k x).columns = s.columns := rfl
@[simp] theorem setRet_mismatch (s : State) (k : Nat) (x : Reticle) : (s.setRet k x).mismatch = s.mismatch := rfl
@[simp] theorem setRet_reply (s : State) (k : Nat) (x : Reticle) : (s.setRet k x).reply = s.reply := rfl
@[simp] theorem setRet_poisoned (s : State) (k : Nat) (x : Reticle) : (s.setRet k x).poisoned = s.poisoned := rfl
@[simp] theorem setRet_stop (s : State) (k : Nat) (x : Reticle) : (s.setRet k x).stop = s.stop := rfl
@[simp] theorem dev_setRet (s : State) (k i : Nat) (x : Reticle) : (s.setRet k x).dev i = s.dev i := rfl
@[simp] theorem job_setRet (s : State) (k i : Nat) (x : Reticle) : (s.setRet k x).job i = s.job i := rfl
@[simp] theorem field_setRet (s : State) (k i : Nat) (x : Reticle) : (s.setRet k x).field i = s.field i := rfl
@[simp] theorem gang_setRet (s : State) (k i : Nat) (x : Reticle) : (s.setRet k x).gang i = s.gang i := rfl
@[simp] theorem block_setRet (s : State) (k i : Nat) (x : Reticle) : (s.setRet k x).block i = s.block i := rfl
@[simp] theorem squad_setRet (s : State) (k i : Nat) (x : Reticle) : (s.setRet k x).squad i = s.squad i := rfl
@[simp] theorem core_setRet (s : State) (k i : Nat) (x : Reticle) : (s.setRet k x).core i = s.core i := rfl
@[simp] theorem column_setRet (s : State) (k i : Nat) (x : Reticle) : (s.setRet k x).column i = s.column i := rfl
@[simp] theorem ret_setRet_same (s : State) (k : Nat) (x : Reticle) : (s.setRet k x).ret k = x := tabGet_tabPut_same _ _ _ _
theorem ret_setRet_ne (s : State) (k i : Nat) (x : Reticle) (h : i ≠ k) : (s.setRet k x).ret i = s.ret i := tabGet_tabPut_ne _ _ _ _ _ h

-- setJob
@[simp] theorem setJob_turns (s : State) (k : Nat) (x : Job) : (s.setJob k x).turns = s.turns := rfl
@[simp] theorem setJob_clock (s : State) (k : Nat) (x : Job) : (s.setJob k x).clock = s.clock := rfl
@[simp] theorem setJob_actor (s : State) (k : Nat) (x : Job) : (s.setJob k x).actor = s.actor := rfl
@[simp] theorem setJob_mem (s : State) (k : Nat) (x : Job) : (s.setJob k x).mem = s.mem := rfl
@[simp] theorem setJob_code (s : State) (k : Nat) (x : Job) : (s.setJob k x).code = s.code := rfl
@[simp] theorem setJob_hist (s : State) (k : Nat) (x : Job) : (s.setJob k x).hist = s.hist := rfl
@[simp] theorem setJob_writes (s : State) (k : Nat) (x : Job) : (s.setJob k x).writes = s.writes := rfl
@[simp] theorem setJob_fences (s : State) (k : Nat) (x : Job) : (s.setJob k x).fences = s.fences := rfl
@[simp] theorem setJob_bad (s : State) (k : Nat) (x : Job) : (s.setJob k x).bad = s.bad := rfl
@[simp] theorem setJob_wrote (s : State) (k : Nat) (x : Job) : (s.setJob k x).wrote = s.wrote := rfl
@[simp] theorem setJob_devs (s : State) (k : Nat) (x : Job) : (s.setJob k x).devs = s.devs := rfl
@[simp] theorem setJob_rets (s : State) (k : Nat) (x : Job) : (s.setJob k x).rets = s.rets := rfl
@[simp] theorem setJob_fields (s : State) (k : Nat) (x : Job) : (s.setJob k x).fields = s.fields := rfl
@[simp] theorem setJob_gangs (s : State) (k : Nat) (x : Job) : (s.setJob k x).gangs = s.gangs := rfl
@[simp] theorem setJob_blocks (s : State) (k : Nat) (x : Job) : (s.setJob k x).blocks = s.blocks := rfl
@[simp] theorem setJob_squads (s : State) (k : Nat) (x : Job) : (s.setJob k x).squads = s.squads := rfl
@[simp] theorem setJob_cores (s : State) (k : Nat) (x : Job) : (s.setJob k x).cores = s.cores := rfl
@[simp] theorem setJob_columns (s : State) (k : Nat) (x : Job) : (s.setJob k x).columns = s.columns := rfl
@[simp] theorem setJob_mismatch (s : State) (k : Nat) (x : Job) : (s.setJob k x).mismatch = s.mismatch := rfl
@[simp] theorem setJob_reply (s : State) (k : Nat) (x : Job) : (s.setJob k x).reply = s.reply := rfl
@[simp] theorem setJob_poisoned (s : State) (k : Nat) (x : Job) : (s.setJob k x).poisoned = s.poisoned := rfl
@[simp] theorem setJob_stop (s : State) (k : Nat) (x : Job) : (s.setJob k x).stop = s.stop := rfl
@[simp] theorem dev_setJob (s : State) (k i : Nat) (x : Job) : (s.setJob k x).dev i = s.dev i := rfl
@[simp] theorem ret_setJob (s : State) (k i : Nat) (x : Job) : (s.setJob k x).ret i = s.ret i := rfl
@[simp] theorem field_setJob (s : State) (k i : Nat) (x : Job) : (s.setJob k x).field i = s.field i := rfl
@[simp] theorem gang_setJob (s : State) (k i : Nat) (x : Job) : (s.setJob k x).gang i = s.gang i := rfl
@[simp] theorem block_setJob (s : State) (k i : Nat) (x : Job) : (s.setJob k x).block i = s.block i := rfl
@[simp] theorem squad_setJob (s : State) (k i : Nat) (x : Job) : (s.setJob k x).squad i = s.squad i := rfl
@[simp] theorem core_setJob (s : State) (k i : Nat) (x : Job) : (s.setJob k x).core i = s.core i := rfl
@[simp] theorem column_setJob (s : State) (k i : Nat) (x : Job) : (s.setJob k x).column i = s.column i := rfl
@[simp] theorem job_setJob_same (s : State) (k : Nat) (x : Job) : (s.setJob k x).job k = x := tabGet_tabPut_same _ _ _ _
theorem job_setJob_ne (s : State) (k i : Nat) (x : Job) (h : i ≠ k) : (s.setJob k x).job i = s.job i := tabGet_tabPut_ne _ _ _ _ _ h

-- setField
@[simp] theorem setField_turns (s : State) (k : Nat) (x : Field) : (s.setField k x).turns = s.turns := rfl
@[simp] theorem setField_clock (s : State) (k : Nat) (x : Field) : (s.setField k x).clock = s.clock := rfl
@[simp] theorem setField_actor (s : State) (k : Nat) (x : Field) : (s.setField k x).actor = s.actor := rfl
@[simp] theorem setField_mem (s : State) (k : Nat) (x : Field) : (s.setField k x).mem = s.mem := rfl
@[simp] theorem setField_code (s : State) (k : Nat) (x : Field) : (s.setField k x).code = s.code := rfl
@[simp] theorem setField_hist (s : State) (k : Nat) (x : Field) : (s.setField k x).hist = s.hist := rfl
@[simp] theorem setField_writes (s : State) (k : Nat) (x : Field) : (s.setField k x).writes = s.writes := rfl
@[simp] theorem setField_fences (s : State) (k : Nat) (x : Field) : (s.setField k x).fences = s.fences := rfl
@[simp] theorem setField_bad (s : State) (k : Nat) (x : Field) : (s.setField k x).bad = s.bad := rfl
@[simp] theorem setField_wrote (s : State) (k : Nat) (x : Field) : (s.setField k x).wrote = s.wrote := rfl
@[simp] theorem setField_devs (s : State) (k : Nat) (x : Field) : (s.setField k x).devs = s.devs := rfl
@[simp] theorem setField_rets (s : State) (k : Nat) (x : Field) : (s.setField k x).rets = s.rets := rfl
@[simp] theorem setField_jobs (s : State) (k : Nat) (x : Field) : (s.setField k x).jobs = s.jobs := rfl
@[simp] theorem setField_gangs (s : State) (k : Nat) (x : Field) : (s.setField k x).gangs = s.gangs := rfl
@[simp] theorem setField_blocks (s : State) (k : Nat) (x : Field) : (s.setField k x).blocks = s.blocks := rfl
@[simp] theorem setField_squads (s : State) (k : Nat) (x : Field) : (s.setField k x).squads = s.squads := rfl
@[simp] theorem setField_cores (s : State) (k : Nat) (x : Field) : (s.setField k x).cores = s.cores := rfl
@[simp] theorem setField_columns (s : State) (k : Nat) (x : Field) : (s.setField k x).columns = s.columns := rfl
@[simp] theorem setField_mismatch (s : State) (k : Nat) (x : Field) : (s.setField k x).mismatch = s.mismatch := rfl
@[simp] theorem setField_reply (s : State) (k : Nat) (x : Field) : (s.setField k x).reply = s.reply := rfl
@[simp] theorem setField_poisoned (s : State) (k : Nat) (x : Field) : (s.setField k x).poisoned = s.poisoned := rfl
@[simp] theorem setField_stop (s : State) (k : Nat) (x : Field) : (s.setField k x).stop = s.stop := rfl
@[simp] theorem dev_setField (s : State) (k i : Nat) (x : Field) : (s.setField k x).dev i = s.dev i := rfl
@[simp] theorem ret_setField (s : State) (k i : Nat) (x : Field) : (s.setField k x).ret i = s.ret i := rfl
@[simp] theorem job_setField (s : State) (k i : Nat) (x : Field) : (s.setField k x).job i = s.job i := rfl
@[simp] theorem gang_setField (s : State) (k i : Nat) (x : Field) : (s.setField k x).gang i = s.gang i := rfl
@[simp] theorem block_setField (s : State) (k i : Nat) (x : Field) : (s.setField k x).block i = s.block i := rfl
@[simp] theorem squad_setField (s : State) (k i : Nat) (x : Field) : (s.setField k x).squad i = s.squad i := rfl
@[simp] theorem core_setField (s : State) (k i : Nat) (x : Field) : (s.setField k x).core i = s.core i := rfl
@[simp] theorem column_setField (s : State) (k i : Nat) (x : Field) : (s.setField k x).column i = s.column i := rfl
@[simp] theorem field_setField_same (s : State) (k : Nat) (x : Field) : (s.setField k x).field k = x := tabGet_tabPut_same _ _ _ _
theorem field_setField_ne (s : State) (k i : Nat) (x : Field) (h : i ≠ k) : (s.setField k x).field i = s.field i := tabGet_tabPut_ne _ _ _ _ _ h

-- setGang
@[simp] theorem setGang_turns (s : State) (k : Nat) (x : Gang) : (s.setGang k x).turns = s.turns := rfl
@[simp] theorem setGang_clock (s : State) (k : Nat) (x : Gang) : (s.setGang k x).clock = s.clock := rfl
@[simp] theorem setGang_actor (s : State) (k : Nat) (x : Gang) : (s.setGang k x).actor = s.actor := rfl
@[simp] theorem setGang_mem (s : State) (k : Nat) (x : Gang) : (s.setGang k x).mem = s.mem := rfl
@[simp] theorem setGang_code (s : State) (k : Nat) (x : Gang) : (s.setGang k x).code = s.code := rfl
@[simp] theorem setGang_hist (s : State) (k : Nat) (x : Gang) : (s.setGang k x).hist = s.hist := rfl
@[simp] theorem setGang_writes (s : State) (k : Nat) (x : Gang) : (s.setGang k x).writes = s.writes := rfl
@[simp] theorem setGang_fences (s : State) (k : Nat) (x : Gang) : (s.setGang k x).fences = s.fences := rfl
@[simp] theorem setGang_bad (s : State) (k : Nat) (x : Gang) : (s.setGang k x).bad = s.bad := rfl
@[simp] theorem setGang_wrote (s : State) (k : Nat) (x : Gang) : (s.setGang k x).wrote = s.wrote := rfl
@[simp] theorem setGang_devs (s : State) (k : Nat) (x : Gang) : (s.setGang k x).devs = s.devs := rfl
@[simp] theorem setGang_rets (s : State) (k : Nat) (x : Gang) : (s.setGang k x).rets = s.rets := rfl
@[simp] theorem setGang_jobs (s : State) (k : Nat) (x : Gang) : (s.setGang k x).jobs = s.jobs := rfl
@[simp] theorem setGang_fields (s : State) (k : Nat) (x : Gang) : (s.setGang k x).fields = s.fields := rfl
@[simp] theorem setGang_blocks (s : State) (k : Nat) (x : Gang) : (s.setGang k x).blocks = s.blocks := rfl
@[simp] theorem setGang_squads (s : State) (k : Nat) (x : Gang) : (s.setGang k x).squads = s.squads := rfl
@[simp] theorem setGang_cores (s : State) (k : Nat) (x : Gang) : (s.setGang k x).cores = s.cores := rfl
@[simp] theorem setGang_columns (s : State) (k : Nat) (x : Gang) : (s.setGang k x).columns = s.columns := rfl
@[simp] theorem setGang_mismatch (s : State) (k : Nat) (x : Gang) : (s.setGang k x).mismatch = s.mismatch := rfl
@[simp] theorem setGang_reply (s : State) (k : Nat) (x : Gang) : (s.setGang k x).reply = s.reply := rfl
@[simp] theorem setGang_poisoned (s : State) (k : Nat) (x : Gang) : (s.setGang k x).poisoned = s.poisoned := rfl
@[simp] theorem setGang_stop (s : State) (k : Nat) (x : Gang) : (s.setGang k x).stop = s.stop := rfl
@[simp] theorem dev_setGang (s : State) (k i : Nat) (x : Gang) : (s.setGang k x).dev i = s.dev i := rfl
@[simp] theorem ret_setGang (s : State) (k i : Nat) (x : Gang) : (s.setGang k x).ret i = s.ret i := rfl
@[simp] theorem job_setGang (s : State) (k i : Nat) (x : Gang) : (s.setGang k x).job i = s.job i := rfl
@[simp] theorem field_setGang (s : State) (k i : Nat) (x : Gang) : (s.setGang k x).field i = s.field i := rfl
@[simp] theorem block_setGang (s : State) (k i : Nat) (x : Gang) : (s.setGang k x).block i = s.block i := rfl
@[simp] theorem squad_setGang (s : State) (k i : Nat) (x : Gang) : (s.setGang k x).squad i = s.squad i := rfl
@[simp] theorem core_setGang (s : State) (k i : Nat) (x : Gang) : (s.setGang k x).core i = s.core i := rfl
@[simp] theorem column_setGang (s : State) (k i : Nat) (x : Gang) : (s.setGang k x).column i = s.column i := rfl
@[simp] theorem gang_setGang_same (s : State) (k : Nat) (x : Gang) : (s.setGang k x).gang k = x := tabGet_tabPut_same _ _ _ _
theorem gang_setGang_ne (s : State) (k i : Nat) (x : Gang) (h : i ≠ k) : (s.setGang k x).gang i = s.gang i := tabGet_tabPut_ne _ _ _ _ _ h

-- setBlock
@[simp] theorem setBlock_turns (s : State) (k : Nat) (x : Block) : (s.setBlock k x).turns = s.turns := rfl
@[simp] theorem setBlock_clock (s : State) (k : Nat) (x : Block) : (s.setBlock k x).clock = s.clock := rfl
@[simp] theorem setBlock_actor (s : State) (k : Nat) (x : Block) : (s.setBlock k x).actor = s.actor := rfl
@[simp] theorem setBlock_mem (s : State) (k : Nat) (x : Block) : (s.setBlock k x).mem = s.mem := rfl
@[simp] theorem setBlock_code (s : State) (k : Nat) (x : Block) : (s.setBlock k x).code = s.code := rfl
@[simp] theorem setBlock_hist (s : State) (k : Nat) (x : Block) : (s.setBlock k x).hist = s.hist := rfl
@[simp] theorem setBlock_writes (s : State) (k : Nat) (x : Block) : (s.setBlock k x).writes = s.writes := rfl
@[simp] theorem setBlock_fences (s : State) (k : Nat) (x : Block) : (s.setBlock k x).fences = s.fences := rfl
@[simp] theorem setBlock_bad (s : State) (k : Nat) (x : Block) : (s.setBlock k x).bad = s.bad := rfl
@[simp] theorem setBlock_wrote (s : State) (k : Nat) (x : Block) : (s.setBlock k x).wrote = s.wrote := rfl
@[simp] theorem setBlock_devs (s : State) (k : Nat) (x : Block) : (s.setBlock k x).devs = s.devs := rfl
@[simp] theorem setBlock_rets (s : State) (k : Nat) (x : Block) : (s.setBlock k x).rets = s.rets := rfl
@[simp] theorem setBlock_jobs (s : State) (k : Nat) (x : Block) : (s.setBlock k x).jobs = s.jobs := rfl
@[simp] theorem setBlock_fields (s : State) (k : Nat) (x : Block) : (s.setBlock k x).fields = s.fields := rfl
@[simp] theorem setBlock_gangs (s : State) (k : Nat) (x : Block) : (s.setBlock k x).gangs = s.gangs := rfl
@[simp] theorem setBlock_squads (s : State) (k : Nat) (x : Block) : (s.setBlock k x).squads = s.squads := rfl
@[simp] theorem setBlock_cores (s : State) (k : Nat) (x : Block) : (s.setBlock k x).cores = s.cores := rfl
@[simp] theorem setBlock_columns (s : State) (k : Nat) (x : Block) : (s.setBlock k x).columns = s.columns := rfl
@[simp] theorem setBlock_mismatch (s : State) (k : Nat) (x : Block) : (s.setBlock k x).mismatch = s.mismatch := rfl
@[simp] theorem setBlock_reply (s : State) (k : Nat) (x : Block) : (s.setBlock k x).reply = s.reply := rfl
@[simp] theorem setBlock_poisoned (s : State) (k : Nat) (x : Block) : (s.setBlock k x).poisoned = s.poisoned := rfl
@[simp] theorem setBlock_stop (s : State) (k : Nat) (x : Block) : (s.setBlock k x).stop = s.stop := rfl
@[simp] theorem dev_setBlock (s : State) (k i : Nat) (x : Block) : (s.setBlock k x).dev i = s.dev i := rfl
@[simp] theorem ret_setBlock (s : State) (k i : Nat) (x : Block) : (s.setBlock k x).ret i = s.ret i := rfl
@[simp] theorem job_setBlock (s : State) (k i : Nat) (x : Block) : (s.setBlock k x).job i = s.job i := rfl
@[simp] theorem field_setBlock (s : State) (k i : Nat) (x : Block) : (s.setBlock k x).field i = s.field i := rfl
@[simp] theorem gang_setBlock (s : State) (k i : Nat) (x : Block) : (s.setBlock k x).gang i = s.gang i := rfl
@[simp] theorem squad_setBlock (s : State) (k i : Nat) (x : Block) : (s.setBlock k x).squad i = s.squad i := rfl
@[simp] theorem core_setBlock (s : State) (k i : Nat) (x : Block) : (s.setBlock k x).core i = s.core i := rfl
@[simp] theorem column_setBlock (s : State) (k i : Nat) (x : Block) : (s.setBlock k x).column i = s.column i := rfl
@[simp] theorem block_setBlock_same (s : State) (k : Nat) (x : Block) : (s.setBlock k x).block k = x := tabGet_tabPut_same _ _ _ _
theorem block_setBlock_ne (s : State) (k i : Nat) (x : Block) (h : i ≠ k) : (s.setBlock k x).block i = s.block i := tabGet_tabPut_ne _ _ _ _ _ h

-- setSquad
@[simp] theorem setSquad_turns (s : State) (k : Nat) (x : Squad) : (s.setSquad k x).turns = s.turns := rfl
@[simp] theorem setSquad_clock (s : State) (k : Nat) (x : Squad) : (s.setSquad k x).clock = s.clock := rfl
@[simp] theorem setSquad_actor (s : State) (k : Nat) (x : Squad) : (s.setSquad k x).actor = s.actor := rfl
@[simp] theorem setSquad_mem (s : State) (k : Nat) (x : Squad) : (s.setSquad k x).mem = s.mem := rfl
@[simp] theorem setSquad_code (s : State) (k : Nat) (x : Squad) : (s.setSquad k x).code = s.code := rfl
@[simp] theorem setSquad_hist (s : State) (k : Nat) (x : Squad) : (s.setSquad k x).hist = s.hist := rfl
@[simp] theorem setSquad_writes (s : State) (k : Nat) (x : Squad) : (s.setSquad k x).writes = s.writes := rfl
@[simp] theorem setSquad_fences (s : State) (k : Nat) (x : Squad) : (s.setSquad k x).fences = s.fences := rfl
@[simp] theorem setSquad_bad (s : State) (k : Nat) (x : Squad) : (s.setSquad k x).bad = s.bad := rfl
@[simp] theorem setSquad_wrote (s : State) (k : Nat) (x : Squad) : (s.setSquad k x).wrote = s.wrote := rfl
@[simp] theorem setSquad_devs (s : State) (k : Nat) (x : Squad) : (s.setSquad k x).devs = s.devs := rfl
@[simp] theorem setSquad_rets (s : State) (k : Nat) (x : Squad) : (s.setSquad k x).rets = s.rets := rfl
@[simp] theorem setSquad_jobs (s : State) (k : Nat) (x : Squad) : (s.setSquad k x).jobs = s.jobs := rfl
@[simp] theorem setSquad_fields (s : State) (k : Nat) (x : Squad) : (s.setSquad k x).fields = s.fields := rfl
@[simp] theorem setSquad_gangs (s : State) (k : Nat) (x : Squad) : (s.setSquad k x).gangs = s.gangs := rfl
@[simp] theorem setSquad_blocks (s : State) (k : Nat) (x : Squad) : (s.setSquad k x).blocks = s.blocks := rfl
@[simp] theorem setSquad_cores (s : State) (k : Nat) (x : Squad) : (s.setSquad k x).cores = s.cores := rfl
@[simp] theorem setSquad_columns (s : State) (k : Nat) (x : Squad) : (s.setSquad k x).columns = s.columns := rfl
@[simp] theorem setSquad_mismatch (s : State) (k : Nat) (x : Squad) : (s.setSquad k x).mismatch = s.mismatch := rfl
@[simp] theorem setSquad_reply (s : State) (k : Nat) (x : Squad) : (s.setSquad k x).reply = s.reply := rfl
@[simp] theorem setSquad_poisoned (s : State) (k : Nat) (x : Squad) : (s.setSquad k x).poisoned = s.poisoned := rfl
@[simp] theorem setSquad_stop (s : State) (k : Nat) (x : Squad) : (s.setSquad k x).stop = s.stop := rfl
@[simp] theorem dev_setSquad (s : State) (k i : Nat) (x : Squad) : (s.setSquad k x).dev i = s.dev i := rfl
@[simp] theorem ret_setSquad (s : State) (k i : Nat) (x : Squad) : (s.setSquad k x).ret i = s.ret i := rfl
@[simp] theorem job_setSquad (s : State) (k i : Nat) (x : Squad) : (s.setSquad k x).job i = s.job i := rfl
@[simp] theorem field_setSquad (s : State) (k i : Nat) (x : Squad) : (s.setSquad k x).field i = s.field i := rfl
@[simp] theorem gang_setSquad (s : State) (k i : Nat) (x : Squad) : (s.setSquad k x).gang i = s.gang i := rfl
@[simp] theorem block_setSquad (s : State) (k i : Nat) (x : Squad) : (s.setSquad k x).block i = s.block i := rfl
@[simp] theorem core_setSquad (s : State) (k i : Nat) (x : Squad) : (s.setSquad k x).core i = s.core i := rfl
@[simp] theorem column_setSquad (s : State) (k i : Nat) (x : Squad) : (s.setSquad k x).column i = s.column i := rfl
@[simp] theorem squad_setSquad_same (s : State) (k : Nat) (x : Squad) : (s.setSquad k x).squad k = x := tabGet_tabPut_same _ _ _ _
theorem squad_setSquad_ne (s : State) (k i : Nat) (x : Squad) (h : i ≠ k) : (s.setSquad k x).squad i = s.squad i := tabGet_tabPut_ne _ _ _ _ _ h

-- setCore
@[simp] theorem setCore_turns (s : State) (k : Nat) (x : Core) : (s.setCore k x).turns = s.turns := rfl
@[simp] theorem setCore_clock (s : State) (k : Nat) (x : Core) : (s.setCore k x).clock = s.clock := rfl
@[simp] theorem setCore_actor (s : State) (k : Nat) (x : Core) : (s.setCore k x).actor = s.actor := rfl
@[simp] theorem setCore_mem (s : State) (k : Nat) (x : Core) : (s.setCore k x).mem = s.mem := rfl
@[simp] theorem setCore_code (s : State) (k : Nat) (x : Core) : (s.setCore k x).code = s.code := rfl
@[simp] theorem setCore_hist (s : State) (k : Nat) (x : Core) : (s.setCore k x).hist = s.hist := rfl
@[simp] theorem setCore_writes (s : State) (k : Nat) (x : Core) : (s.setCore k x).writes = s.writes := rfl
@[simp] theorem setCore_fences (s : State) (k : Nat) (x : Core) : (s.setCore k x).fences = s.fences := rfl
@[simp] theorem setCore_bad (s : State) (k : Nat) (x : Core) : (s.setCore k x).bad = s.bad := rfl
@[simp] theorem setCore_wrote (s : State) (k : Nat) (x : Core) : (s.setCore k x).wrote = s.wrote := rfl
@[simp] theorem setCore_devs (s : State) (k : Nat) (x : Core) : (s.setCore k x).devs = s.devs := rfl
@[simp] theorem setCore_rets (s : State) (k : Nat) (x : Core) : (s.setCore k x).rets = s.rets := rfl
@[simp] theorem setCore_jobs (s : State) (k : Nat) (x : Core) : (s.setCore k x).jobs = s.jobs := rfl
@[simp] theorem setCore_fields (s : State) (k : Nat) (x : Core) : (s.setCore k x).fields = s.fields := rfl
@[simp] theorem setCore_gangs (s : State) (k : Nat) (x : Core) : (s.setCore k x).gangs = s.gangs := rfl
@[simp] theorem setCore_blocks (s : State) (k : Nat) (x : Core) : (s.setCore k x).blocks = s.blocks := rfl
@[simp] theorem setCore_squads (s : State) (k : Nat) (x : Core) : (s.setCore k x).squads = s.squads := rfl
@[simp] theorem setCore_columns (s : State) (k : Nat) (x : Core) : (s.setCore k x).columns = s.columns := rfl
@[simp] theorem setCore_mismatch (s : State) (k : Nat) (x : Core) : (s.setCore k x).mismatch = s.mismatch := rfl
@[simp] theorem setCore_reply (s : State) (k : Nat) (x : Core) : (s.setCore k x).reply = s.reply := rfl
@[simp] theorem setCore_poisoned (s : State) (k : Nat) (x : Core) : (s.setCore k x).poisoned = s.poisoned := rfl
@[simp] theorem setCore_stop (s : State) (k : Nat) (x : Core) : (s.setCore k x).stop = s.stop := rfl
@[simp] theorem dev_setCore (s : State) (k i : Nat) (x : Core) : (s.setCore k x).dev i = s.dev i := rfl
@[simp] theorem ret_setCore (s : State) (k i : Nat) (x : Core) : (s.setCore k x).ret i = s.ret i := rfl
@[simp] theorem job_setCore (s : State) (k i : Nat) (x : Core) : (s.setCore k x).job i = s.job i := rfl
@[simp] theorem field_setCore (s : State) (k i : Nat) (x : Core) : (s.setCore k x).field i = s.field i := rfl
@[simp] theorem gang_setCore (s : State) (k i : Nat) (x : Core) : (s.setCore k x).gang i = s.gang i := rfl
@[simp] theorem block_setCore (s : State) (k i : Nat) (x : Core) : (s.setCore k x).block i = s.block i := rfl
@[simp] theorem squad_setCore (s : State) (k i : Nat) (x : Core) : (s.setCore k x).squad i = s.squad i := rfl
@[simp] theorem column_setCore (s : State) (k i : Nat) (x : Core) : (s.setCore k x).column i = s.column i := rfl
@[simp] theorem core_setCore_same (s : State) (k : Nat) (x : Core) : (s.setCore k x).core k = x := tabGet_tabPut_same _ _ _ _
theorem core_setCore_ne (s : State) (k i : Nat) (x : Core) (h : i ≠ k) : (s.setCore k x).core i = s.core i := tabGet_tabPut_ne _ _ _ _ _ h

-- setColumn
@[simp] theorem setColumn_turns (s : State) (k : Nat) (x : List TlbEntry) : (s.setColumn k x).turns = s.turns := rfl
@[simp] theorem setColumn_clock (s : State) (k : Nat) (x : List TlbEntry) : (s.setColumn k x).clock = s.clock := rfl
@[simp] theorem setColumn_actor (s : State) (k : Nat) (x : List TlbEntry) : (s.setColumn k x).actor = s.actor := rfl
@[simp] theorem setColumn_mem (s : State) (k : Nat) (x : List TlbEntry) : (s.setColumn k x).mem = s.mem := rfl
@[simp] theorem setColumn_code (s : State) (k : Nat) (x : List TlbEntry) : (s.setColumn k x).code = s.code := rfl
@[simp] theorem setColumn_hist (s : State) (k : Nat) (x : List TlbEntry) : (s.setColumn k x).hist = s.hist := rfl
@[simp] theorem setColumn_writes (s : State) (k : Nat) (x : List TlbEntry) : (s.setColumn k x).writes = s.writes := rfl
@[simp] theorem setColumn_fences (s : State) (k : Nat) (x : List TlbEntry) : (s.setColumn k x).fences = s.fences := rfl
@[simp] theorem setColumn_bad (s : State) (k : Nat) (x : List TlbEntry) : (s.setColumn k x).bad = s.bad := rfl
@[simp] theorem setColumn_wrote (s : State) (k : Nat) (x : List TlbEntry) : (s.setColumn k x).wrote = s.wrote := rfl
@[simp] theorem setColumn_devs (s : State) (k : Nat) (x : List TlbEntry) : (s.setColumn k x).devs = s.devs := rfl
@[simp] theorem setColumn_rets (s : State) (k : Nat) (x : List TlbEntry) : (s.setColumn k x).rets = s.rets := rfl
@[simp] theorem setColumn_jobs (s : State) (k : Nat) (x : List TlbEntry) : (s.setColumn k x).jobs = s.jobs := rfl
@[simp] theorem setColumn_fields (s : State) (k : Nat) (x : List TlbEntry) : (s.setColumn k x).fields = s.fields := rfl
@[simp] theorem setColumn_gangs (s : State) (k : Nat) (x : List TlbEntry) : (s.setColumn k x).gangs = s.gangs := rfl
@[simp] theorem setColumn_blocks (s : State) (k : Nat) (x : List TlbEntry) : (s.setColumn k x).blocks = s.blocks := rfl
@[simp] theorem setColumn_squads (s : State) (k : Nat) (x : List TlbEntry) : (s.setColumn k x).squads = s.squads := rfl
@[simp] theorem setColumn_cores (s : State) (k : Nat) (x : List TlbEntry) : (s.setColumn k x).cores = s.cores := rfl
@[simp] theorem setColumn_mismatch (s : State) (k : Nat) (x : List TlbEntry) : (s.setColumn k x).mismatch = s.mismatch := rfl
@[simp] theorem setColumn_reply (s : State) (k : Nat) (x : List TlbEntry) : (s.setColumn k x).reply = s.reply := rfl
@[simp] theorem setColumn_poisoned (s : State) (k : Nat) (x : List TlbEntry) : (s.setColumn k x).poisoned = s.poisoned := rfl
@[simp] theorem setColumn_stop (s : State) (k : Nat) (x : List TlbEntry) : (s.setColumn k x).stop = s.stop := rfl
@[simp] theorem dev_setColumn (s : State) (k i : Nat) (x : List TlbEntry) : (s.setColumn k x).dev i = s.dev i := rfl
@[simp] theorem ret_setColumn (s : State) (k i : Nat) (x : List TlbEntry) : (s.setColumn k x).ret i = s.ret i := rfl
@[simp] theorem job_setColumn (s : State) (k i : Nat) (x : List TlbEntry) : (s.setColumn k x).job i = s.job i := rfl
@[simp] theorem field_setColumn (s : State) (k i : Nat) (x : List TlbEntry) : (s.setColumn k x).field i = s.field i := rfl
@[simp] theorem gang_setColumn (s : State) (k i : Nat) (x : List TlbEntry) : (s.setColumn k x).gang i = s.gang i := rfl
@[simp] theorem block_setColumn (s : State) (k i : Nat) (x : List TlbEntry) : (s.setColumn k x).block i = s.block i := rfl
@[simp] theorem squad_setColumn (s : State) (k i : Nat) (x : List TlbEntry) : (s.setColumn k x).squad i = s.squad i := rfl
@[simp] theorem core_setColumn (s : State) (k i : Nat) (x : List TlbEntry) : (s.setColumn k x).core i = s.core i := rfl
@[simp] theorem column_setColumn_same (s : State) (k : Nat) (x : List TlbEntry) : (s.setColumn k x).column k = x := tabGet_tabPut_same _ _ _ _
theorem column_setColumn_ne (s : State) (k i : Nat) (x : List TlbEntry) (h : i ≠ k) : (s.setColumn k x).column i = s.column i := tabGet_tabPut_ne _ _ _ _ _ h

-- The acting squad
@[simp] theorem sq_setSq (s : State) (x : Squad) : (s.setSq x).sq = x := tabGet_tabPut_same _ _ _ _
theorem setSq_eq (s : State) (x : Squad) : s.setSq x = s.setSquad s.actor x := rfl
theorem sq_eq (s : State) : s.sq = s.squad s.actor := rfl
theorem squad_setSq_ne (s : State) (x : Squad) (q : Nat) (h : q ≠ s.actor) : (s.setSq x).squad q = s.squad q :=
  squad_setSquad_ne _ _ _ _ h
@[simp] theorem setSq_turns (s : State) (x : Squad) : (s.setSq x).turns = s.turns := rfl
@[simp] theorem setSq_clock (s : State) (x : Squad) : (s.setSq x).clock = s.clock := rfl
@[simp] theorem setSq_actor (s : State) (x : Squad) : (s.setSq x).actor = s.actor := rfl
@[simp] theorem setSq_mem (s : State) (x : Squad) : (s.setSq x).mem = s.mem := rfl
@[simp] theorem setSq_code (s : State) (x : Squad) : (s.setSq x).code = s.code := rfl
@[simp] theorem setSq_hist (s : State) (x : Squad) : (s.setSq x).hist = s.hist := rfl
@[simp] theorem setSq_writes (s : State) (x : Squad) : (s.setSq x).writes = s.writes := rfl
@[simp] theorem setSq_fences (s : State) (x : Squad) : (s.setSq x).fences = s.fences := rfl
@[simp] theorem setSq_bad (s : State) (x : Squad) : (s.setSq x).bad = s.bad := rfl
@[simp] theorem setSq_wrote (s : State) (x : Squad) : (s.setSq x).wrote = s.wrote := rfl
@[simp] theorem setSq_devs (s : State) (x : Squad) : (s.setSq x).devs = s.devs := rfl
@[simp] theorem setSq_rets (s : State) (x : Squad) : (s.setSq x).rets = s.rets := rfl
@[simp] theorem setSq_jobs (s : State) (x : Squad) : (s.setSq x).jobs = s.jobs := rfl
@[simp] theorem setSq_fields (s : State) (x : Squad) : (s.setSq x).fields = s.fields := rfl
@[simp] theorem setSq_gangs (s : State) (x : Squad) : (s.setSq x).gangs = s.gangs := rfl
@[simp] theorem setSq_blocks (s : State) (x : Squad) : (s.setSq x).blocks = s.blocks := rfl
@[simp] theorem setSq_cores (s : State) (x : Squad) : (s.setSq x).cores = s.cores := rfl
@[simp] theorem setSq_columns (s : State) (x : Squad) : (s.setSq x).columns = s.columns := rfl
@[simp] theorem setSq_mismatch (s : State) (x : Squad) : (s.setSq x).mismatch = s.mismatch := rfl
@[simp] theorem setSq_reply (s : State) (x : Squad) : (s.setSq x).reply = s.reply := rfl
@[simp] theorem setSq_poisoned (s : State) (x : Squad) : (s.setSq x).poisoned = s.poisoned := rfl
@[simp] theorem setSq_stop (s : State) (x : Squad) : (s.setSq x).stop = s.stop := rfl

-- setHist
@[simp] theorem setHist_turns (s : State) (h : List Write) : (s.setHist h).turns = s.turns := rfl
@[simp] theorem setHist_clock (s : State) (h : List Write) : (s.setHist h).clock = s.clock := rfl
@[simp] theorem setHist_actor (s : State) (h : List Write) : (s.setHist h).actor = s.actor := rfl
@[simp] theorem setHist_mem (s : State) (h : List Write) : (s.setHist h).mem = s.mem := rfl
@[simp] theorem setHist_code (s : State) (h : List Write) : (s.setHist h).code = s.code := rfl
@[simp] theorem setHist_writes (s : State) (h : List Write) : (s.setHist h).writes = s.writes := rfl
@[simp] theorem setHist_fences (s : State) (h : List Write) : (s.setHist h).fences = s.fences := rfl
@[simp] theorem setHist_bad (s : State) (h : List Write) : (s.setHist h).bad = s.bad := rfl
@[simp] theorem setHist_wrote (s : State) (h : List Write) : (s.setHist h).wrote = s.wrote := rfl
@[simp] theorem setHist_devs (s : State) (h : List Write) : (s.setHist h).devs = s.devs := rfl
@[simp] theorem setHist_rets (s : State) (h : List Write) : (s.setHist h).rets = s.rets := rfl
@[simp] theorem setHist_jobs (s : State) (h : List Write) : (s.setHist h).jobs = s.jobs := rfl
@[simp] theorem setHist_fields (s : State) (h : List Write) : (s.setHist h).fields = s.fields := rfl
@[simp] theorem setHist_gangs (s : State) (h : List Write) : (s.setHist h).gangs = s.gangs := rfl
@[simp] theorem setHist_blocks (s : State) (h : List Write) : (s.setHist h).blocks = s.blocks := rfl
@[simp] theorem setHist_squads (s : State) (h : List Write) : (s.setHist h).squads = s.squads := rfl
@[simp] theorem setHist_cores (s : State) (h : List Write) : (s.setHist h).cores = s.cores := rfl
@[simp] theorem setHist_columns (s : State) (h : List Write) : (s.setHist h).columns = s.columns := rfl
@[simp] theorem setHist_mismatch (s : State) (h : List Write) : (s.setHist h).mismatch = s.mismatch := rfl
@[simp] theorem setHist_reply (s : State) (h : List Write) : (s.setHist h).reply = s.reply := rfl
@[simp] theorem setHist_poisoned (s : State) (h : List Write) : (s.setHist h).poisoned = s.poisoned := rfl
@[simp] theorem setHist_stop (s : State) (h : List Write) : (s.setHist h).stop = s.stop := rfl
@[simp] theorem dev_setHist (s : State) (h : List Write) (i : Nat) : (s.setHist h).dev i = s.dev i := rfl
@[simp] theorem ret_setHist (s : State) (h : List Write) (i : Nat) : (s.setHist h).ret i = s.ret i := rfl
@[simp] theorem job_setHist (s : State) (h : List Write) (i : Nat) : (s.setHist h).job i = s.job i := rfl
@[simp] theorem field_setHist (s : State) (h : List Write) (i : Nat) : (s.setHist h).field i = s.field i := rfl
@[simp] theorem gang_setHist (s : State) (h : List Write) (i : Nat) : (s.setHist h).gang i = s.gang i := rfl
@[simp] theorem block_setHist (s : State) (h : List Write) (i : Nat) : (s.setHist h).block i = s.block i := rfl
@[simp] theorem squad_setHist (s : State) (h : List Write) (i : Nat) : (s.setHist h).squad i = s.squad i := rfl
@[simp] theorem core_setHist (s : State) (h : List Write) (i : Nat) : (s.setHist h).core i = s.core i := rfl
@[simp] theorem column_setHist (s : State) (h : List Write) (i : Nat) : (s.setHist h).column i = s.column i := rfl
@[simp] theorem setHist_hist (s : State) (h : List Write) : (s.setHist h).hist = h := rfl
@[simp] theorem setHist_setHist (s : State) (h k : List Write) : (s.setHist h).setHist k = s.setHist k := rfl
theorem setHist_self (s : State) : s.setHist s.hist = s := rfl

/-- Writing a record twice is writing it once. -/
theorem tabPut_tabPut {α : Type} (t : Tab α) (k : Nat) (a b : α) : tabPut (tabPut t k a) k b = tabPut t k b := by
  induction t with
  | nil => simp [tabPut]
  | cons e rest ih =>
    obtain ⟨j, c⟩ := e
    simp only [tabPut]
    split
    · simp [tabPut]
    · next h =>
      split
      · simp [tabPut]
      · next h2 => simp [tabPut, h, h2, ih]

@[simp] theorem setSquad_setSquad (s : State) (k : Nat) (x y : Squad) : (s.setSquad k x).setSquad k y = s.setSquad k y := by
  simp [State.setSquad, tabPut_tabPut]
@[simp] theorem setBlock_setBlock (s : State) (k : Nat) (x y : Block) : (s.setBlock k x).setBlock k y = s.setBlock k y := by
  simp [State.setBlock, tabPut_tabPut]
@[simp] theorem setSq_setSq (s : State) (x y : Squad) : (s.setSq x).setSq y = s.setSq y := by
  simp [State.setSq, State.setSquad, tabPut_tabPut]

end Sys2Proof.Machine
end

