-- ==== Sys2Proof/Laws/Memory.lean ====
section
/-! SUPPORT. Memory: what a byte reads after each operation that writes memory, and that each of them keeps its canonical
form. -/

namespace Sys2Proof.Machine

/-- What a byte reads after bytes are written. -/
theorem byte_writeBytes (s : State) (a i : Nat) (bs : List Byte) :
    (s.writeBytes a bs).byte i = if a ≤ i ∧ i < a + bs.length then bs.getD (i - a) 0 else s.byte i :=
  cellGet_cellPutList bs s.mem a i

@[simp] theorem numBytes_length (n v : Nat) : (numBytes n v).length = n := by
  induction n generalizing v with
  | zero => rfl
  | succ k ih => simp [numBytes, ih]

/-- A byte outside the bytes written reads as before. -/
theorem byte_write_outside (s : State) (a n v i : Nat) (h : ¬ (a ≤ i ∧ i < a + n)) : (s.write a n v).byte i = s.byte i := by
  rw [State.write, byte_writeBytes, numBytes_length, if_neg h]

theorem read_congr (s t : State) (n : Nat) : ∀ a, (∀ i, a ≤ i → i < a + n → s.byte i = t.byte i) → s.read a n = t.read a n := by
  induction n with
  | zero => intros; rfl
  | succ k ih =>
    intro a h
    simp only [State.read]
    rw [h a (Nat.le_refl _) (by omega), ih (a + 1) (fun i h1 h2 => h i (by omega) (by omega))]

/-- Reading the bytes just written gives the number written. -/
theorem read_write_same (s : State) (n : Nat) : ∀ a v, (s.write a n v).read a n = v % 2 ^ (8 * n) := by
  induction n generalizing s with
  | zero => intro a v; simp [State.read, Nat.mod_one]
  | succ k ih =>
    intro a v
    have h0 : (s.write a (k + 1) v).byte a = BitVec.ofNat 8 v := by
      rw [State.write, byte_writeBytes]; simp [numBytes]
    have h1 : (s.write a (k + 1) v).read (a + 1) k = ((s.writeBytes a [BitVec.ofNat 8 v]).write (a + 1) k (v / 256)).read (a + 1) k := rfl
    rw [State.read, h0, h1, ih]
    simp only [BitVec.toNat_ofNat]
    have : 2 ^ (8 * (k + 1)) = 256 * 2 ^ (8 * k) := by rw [Nat.mul_add, Nat.pow_add, Nat.mul_comm]
    rw [this, Nat.mod_mul]

-- The canonical form --------------------------------------------------------------------------------------------------------

theorem wf_writeBytes (s : State) (a : Nat) (bs : List Byte) (h : Memory.wf s.mem = true) :
    Memory.wf (s.writeBytes a bs).mem = true := cellsWf_cellPutList bs s.mem a h

theorem wf_write (s : State) (a n v : Nat) (h : Memory.wf s.mem = true) : Memory.wf (s.write a n v).mem = true :=
  wf_writeBytes s a _ h

@[simp] theorem checkStorage_mem (s : State) (a : Nat) : (s.checkStorage a).mem = s.mem := by
  unfold State.checkStorage; split <;> rfl

@[simp] theorem recall_mem (s : State) (a : Nat) : (s.recall a).mem = s.mem := by
  unfold State.recall; dsimp only; split
  · split <;> rfl
  · rfl

@[simp] theorem clearBad_mem (s : State) (a n : Nat) : (s.clearBad a n).mem = s.mem := rfl

@[simp] theorem recordAt_mem (s : State) (p : Party) (st : Bool) (hs : List Head) (a n : Nat) (as : List Nat) :
    (s.recordAt p st hs a n as).mem = s.mem := rfl

@[simp] theorem record_mem (s : State) (p : Party) (st : Bool) (hs : List Head) (a n : Nat) : (s.record p st hs a n).mem = s.mem := rfl

/-- A home write changes memory as the write of its bytes does. -/
theorem homeWrite_mem (s : State) (p : Party) (st : Bool) (hs : List Head) (a n v : Nat) :
    (s.homeWrite p st hs a n v).mem = cellPutList s.mem a (numBytes n v) := by
  simp [State.homeWrite, State.write, State.writeBytes]

theorem devWrite_mem (s : State) (p : Party) (a n v : Nat) : (s.devWrite p a n v).mem = cellPutList s.mem a (numBytes n v) :=
  homeWrite_mem ..

theorem flitWrite_mem (s : State) (p : Party) (a : Nat) (bs : List Byte) : (s.flitWrite p a bs).mem = cellPutList s.mem a bs := by
  simp [State.flitWrite, State.writeBytes]

theorem wf_homeWrite (s : State) (p : Party) (st : Bool) (hs : List Head) (a n v : Nat) (h : Memory.wf s.mem = true) :
    Memory.wf (s.homeWrite p st hs a n v).mem = true := by
  rw [homeWrite_mem]; exact cellsWf_cellPutList _ _ _ h

theorem wf_devWrite (s : State) (p : Party) (a n v : Nat) (h : Memory.wf s.mem = true) : Memory.wf (s.devWrite p a n v).mem = true :=
  wf_homeWrite s p false [] a n v h

theorem wf_flitWrite (s : State) (p : Party) (a : Nat) (bs : List Byte) (h : Memory.wf s.mem = true) :
    Memory.wf (s.flitWrite p a bs).mem = true := by
  rw [flitWrite_mem]; exact cellsWf_cellPutList _ _ _ h

/-- A byte outside the bytes a home write stores reads as before. -/
theorem byte_homeWrite_outside (s : State) (p : Party) (st : Bool) (hs : List Head) (a n v i : Nat) (h : ¬ (a ≤ i ∧ i < a + n)) :
    (s.homeWrite p st hs a n v).byte i = s.byte i := by
  unfold State.byte
  rw [homeWrite_mem, cellGet_cellPutList, numBytes_length, if_neg h]

/-- A byte outside the bytes a device write stores reads as before. -/
theorem byte_devWrite_outside (s : State) (p : Party) (a n v i : Nat) (h : ¬ (a ≤ i ∧ i < a + n)) :
    (s.devWrite p a n v).byte i = s.byte i := byte_homeWrite_outside s p false [] a n v i h

/-- Clearing the storage of a device in a reset keeps the form. -/
theorem wf_clearDevice (s : State) (d : Nat) (kept : Bool) (h : Memory.wf s.mem = true) :
    Memory.wf (s.clearDevice d kept).mem = true := cellsWf_filter _ _ h

/-- The memory right after reset has the form. -/
theorem wf_reset : Memory.wf State.reset.mem = true := rfl

/-- What the end of a step leaves of memory reads as before. -/
theorem endStep_byte (s t : State) (h : endStep (.next s) = .next t) (i : Nat) : t.byte i = s.byte i := by
  unfold endStep at h
  cases hs : s.stop with
  | some f => simp [hs] at h
  | none =>
    simp only [hs, Host.Outcome.next.injEq] at h
    subst h
    exact cellGet_cellsCanon s.mem i

/-- A step whose memory is canonical already leaves the state as the meaning left it. -/
theorem endStep_next (s : State) (hs : s.stop = none) (h : Memory.wf s.mem = true) : endStep (.next s) = .next s := by
  have hc : cellsCanon s.mem = s.mem := cellsCanon_of_wf s.mem h
  have he : ({ s with mem := cellsCanon s.mem } : State) = s := by rw [hc]
  have hm : endStep (.next s) = .next { s with mem := cellsCanon s.mem } := by
    unfold endStep
    dsimp only
    split
    · next hf => rw [hs] at hf; cases hf
    · rfl
  rw [hm, he]

end Sys2Proof.Machine
end

