-- ==== Sys2Proof/Laws/Frames.lean ====
section
/-! SUPPORT. Moving words between register files and memory: what a byte or a word reads after each copy. -/

namespace Sys2Proof.Machine

-- Parts of a list of cells ---------------------------------------------------------------------------------------------------

theorem cellGet_cellClear {w : Nat} (t : Cells w) (lo n i : Nat) :
    cellGet (cellClear t lo n) i = if lo ≤ i ∧ i < lo + n then 0 else cellGet t i := by
  unfold cellClear
  induction t with
  | nil => simp [cellGet]
  | cons e rest ih =>
    obtain ⟨j, a⟩ := e
    by_cases hj : lo ≤ j ∧ j < lo + n
    · have hb : (!(decide (lo ≤ j) && decide (j < lo + n))) = false := by simp [hj.1, hj.2]
      simp only [List.filter_cons, hb, Bool.false_eq_true, if_false, ih, cellGet]
      by_cases hi : j = i
      · subst hi; simp [hj]
      · simp [hi]
    · have hb : (!(decide (lo ≤ j) && decide (j < lo + n))) = true := by
        simp only [Bool.not_eq_true', Bool.and_eq_false_iff, decide_eq_false_iff_not]; omega
      simp only [List.filter_cons, hb, if_true, ih, cellGet]
      by_cases hi : j = i
      · subst hi; simp [hj]
      · simp [hi]

/-- Words taken from a range read as the range. -/
theorem cellGet_cellTake {w : Nat} (t : Cells w) (lo n i : Nat) :
    cellGet (cellTake t lo n) i = if i < n then cellGet t (lo + i) else 0 := by
  unfold cellTake
  rw [cellGet_cellsCanon]
  induction t with
  | nil => simp [cellGet]
  | cons e rest ih =>
    obtain ⟨j, a⟩ := e
    by_cases hj : lo ≤ j ∧ j < lo + n
    · have hb : (decide (lo ≤ j) && decide (j < lo + n)) = true := by simp [hj.1, hj.2]
      simp only [List.filter_cons, hb, if_true, List.map_cons, cellGet, ih]
      by_cases hi : j - lo = i
      · have h1 : i < n := by omega
        have h2 : j = lo + i := by omega
        simp [h1, h2]
      · have h2 : j ≠ lo + i := by omega
        simp [hi, h2]
    · have hb : (decide (lo ≤ j) && decide (j < lo + n)) = false := by
        simp only [Bool.and_eq_false_iff, decide_eq_false_iff_not]; omega
      simp only [List.filter_cons, hb, Bool.false_eq_true, if_false, ih, cellGet]
      by_cases hn : i < n
      · have h2 : j ≠ lo + i := by omega
        simp [hn, h2]
      · simp [hn]

theorem cellsWf_cellTake {w : Nat} (t : Cells w) (lo n : Nat) : cellsWf (cellTake t lo n) = true := cellsWf_cellsCanon _

/-- No key of a canonical list lies above where its reads end. -/
theorem key_of_cellsWf {w : Nat} (t : Cells w) (h : cellsWf t = true) (e : Nat × BitVec w) (he : e ∈ t) :
    cellGet t e.1 = e.2 ∧ e.2 ≠ 0 := by
  induction t with
  | nil => cases he
  | cons d rest ih =>
    obtain ⟨j, a⟩ := d
    have hc := (cellsWf_cons j a rest).mp h
    rcases List.mem_cons.mp he with rfl | he
    · exact ⟨by simp [cellGet], hc.1⟩
    · have hj : j ≠ e.1 := Nat.ne_of_lt (hc.2.1 e he)
      obtain ⟨h1, h2⟩ := ih hc.2.2 he
      exact ⟨by simp [cellGet, hj, h1], h2⟩

/-- A list that reads zero off a range has no key there, when canonical. -/
theorem keys_lt {w : Nat} (t : Cells w) (h : cellsWf t = true) (n : Nat) (hz : ∀ i, n ≤ i → cellGet t i = 0) :
    ∀ e ∈ t, e.1 < n := by
  intro e he
  obtain ⟨h1, h2⟩ := key_of_cellsWf t h e he
  by_contra hc
  exact h2 (by rw [← h1]; exact hz _ (by omega))

/-- Reading past the entries of a canonical list written in one after another. -/
theorem cellGet_foldl_cellPut {w : Nat} (src : Cells w) (h : cellsWf src = true) (lo i : Nat) : ∀ u : Cells w,
    cellGet (src.foldl (fun acc e => cellPut acc (lo + e.1) e.2) u) i =
      if lo ≤ i ∧ cellGet src (i - lo) ≠ 0 then cellGet src (i - lo) else cellGet u i := by
  induction src with
  | nil => intro u; simp [cellGet]
  | cons d rest ih =>
    intro u
    obtain ⟨j, a⟩ := d
    have hc := (cellsWf_cons j a rest).mp h
    have h5 : ¬ a = 0#w := hc.1
    simp only [List.foldl_cons, ih hc.2.2, cellGet_cellPut, cellGet]
    by_cases hi : lo ≤ i ∧ i - lo = j
    · obtain ⟨h1, rfl⟩ := hi
      have hz : cellGet rest (i - lo) = 0 := by
        by_contra hne
        have : ∀ (t : Cells w), cellsAbove (i - lo) t → cellGet t (i - lo) = 0 := by
          intro t
          induction t with
          | nil => intro _; rfl
          | cons e r ih2 =>
            intro ha
            have he : i - lo < e.1 := ha e List.mem_cons_self
            simp only [cellGet]
            rw [if_neg (by omega), ih2 (fun x hx => ha x (List.mem_cons_of_mem _ hx))]
        exact hne (this rest hc.2.1)
      have h7 : i = lo + (i - lo) := by omega
      have h8 : cellGet rest (i - lo) = 0#w := hz
      simp [h8, h1, h5, ← h7]
    · by_cases h1 : lo ≤ i
      · have h2 : j ≠ i - lo := by omega
        have h3 : i ≠ lo + j := by omega
        simp [h1, h2, h3]
      · have h3 : i ≠ lo + j := by omega
        simp [h1, h3]

/-- What a paste of a canonical list leaves: its own words in the range, the old ones elsewhere. -/
theorem cellGet_cellPaste {w : Nat} (t src : Cells w) (lo n i : Nat) (h : cellsWf src = true) (hk : ∀ e ∈ src, e.1 < n) :
    cellGet (cellPaste t lo n src) i = if lo ≤ i ∧ i < lo + n then cellGet src (i - lo) else cellGet t i := by
  unfold cellPaste
  rw [cellGet_foldl_cellPut src h, cellGet_cellClear]
  have hz : ∀ k, n ≤ k → cellGet src k = 0 := by
    intro k hk2
    induction src with
    | nil => rfl
    | cons d rest ih =>
      have hd : d.1 < n := hk d List.mem_cons_self
      simp only [cellGet]
      rw [if_neg (by omega)]
      exact ih ((cellsWf_cons d.1 d.2 rest).mp h).2.2 (fun e he => hk e (List.mem_cons_of_mem _ he))
  by_cases h1 : lo ≤ i
  · by_cases h2 : i < lo + n
    · by_cases h3 : cellGet src (i - lo) = 0
      · simp only [ne_eq, h3, not_true_eq_false, and_false, if_false, h1, h2, and_self, if_true]
      · simp only [ne_eq, h3, not_false_eq_true, and_true, h1, h2, if_true]
    · have h4 := hz (i - lo) (by omega)
      simp only [ne_eq, h4, not_true_eq_false, and_false, if_false, h1, h2]
  · simp only [h1, false_and, if_false]

-- Words as bytes ---------------------------------------------------------------------------------------------------------------

theorem numBytes_getD (n v i : Nat) (h : i < n) : (numBytes n v).getD i 0 = BitVec.ofNat 8 (v / 256 ^ i) := by
  induction n generalizing v i with
  | zero => omega
  | succ k ih =>
    cases i with
    | zero => simp [numBytes]
    | succ j =>
      simp only [numBytes, List.getD_cons_succ]
      rw [ih (v / 256) j (by omega), Nat.div_div_eq_div_mul, Nat.pow_succ, Nat.mul_comm]

theorem cellGet_foldl_numBytes {w : Nat} (k : Nat) (hk : 0 < k) (t : Cells w) (h : cellsWf t = true) (x : Nat) : ∀ acc : Cells 8,
    cellGet (t.foldl (fun acc e => cellPutList acc (k * e.1) (numBytes k e.2.toNat)) acc) x =
      if cellGet t (x / k) = 0 then cellGet acc x else BitVec.ofNat 8 ((cellGet t (x / k)).toNat / 256 ^ (x % k)) := by
  induction t with
  | nil => intro acc; simp [cellGet]
  | cons d rest ih =>
    intro acc
    obtain ⟨j, a⟩ := d
    have hc := (cellsWf_cons j a rest).mp h
    have h5 : ¬ a = 0#w := hc.1
    simp only [List.foldl_cons]
    rw [ih hc.2.2, cellGet_cellPutList, numBytes_length]
    have hm : k * (x / k) + x % k = x := Nat.div_add_mod x k
    have hl : x % k < k := Nat.mod_lt x hk
    by_cases hj : j = x / k
    · subst hj
      have hz : cellGet rest (x / k) = 0 := by
        by_contra hne
        have : ∀ (t : Cells w), cellsAbove (x / k) t → cellGet t (x / k) = 0 := by
          intro t
          induction t with
          | nil => intro _; rfl
          | cons e r ih2 =>
            intro ha
            have he : x / k < e.1 := ha e List.mem_cons_self
            simp only [cellGet]
            rw [if_neg (by omega), ih2 (fun y hy => ha y (List.mem_cons_of_mem _ hy))]
        exact hne (this rest hc.2.1)
      have h1 : k * (x / k) ≤ x ∧ x < k * (x / k) + k := by omega
      have h2 : x - k * (x / k) = x % k := by omega
      simp only [hz, if_true, h1, and_self, h2, cellGet, numBytes_getD k a.toNat (x % k) hl]
      rw [if_neg (by exact h5)]
    · have h1 : ¬ (k * j ≤ x ∧ x < k * j + k) := by
        intro ⟨h2, h3⟩
        apply hj
        have h4 : x < k * (j + 1) := by rw [Nat.mul_add, Nat.mul_one]; exact h3
        have h6 : x / k < j + 1 := by
          rw [Nat.div_lt_iff_lt_mul hk, Nat.mul_comm]; exact h4
        have h7 : j ≤ x / k := by rw [Nat.le_div_iff_mul_le hk, Nat.mul_comm]; exact h2
        omega
      simp only [cellGet, if_neg hj, if_neg h1]

/-- Byte x of words laid out k bytes each. -/
theorem cellGet_cellsToBytes {w : Nat} (k : Nat) (hk : 0 < k) (t : Cells w) (h : cellsWf t = true) (x : Nat) :
    cellGet (cellsToBytes k t) x = BitVec.ofNat 8 ((cellGet t (x / k)).toNat / 256 ^ (x % k)) := by
  unfold cellsToBytes
  rw [cellGet_foldl_numBytes k hk t h x []]
  split
  · next hz => rw [hz]; simp [cellGet]
  · rfl

theorem cellsWf_cellsToBytes {w : Nat} (k : Nat) (t : Cells w) : cellsWf (cellsToBytes k t) = true := by
  unfold cellsToBytes
  suffices ∀ u : Cells 8, cellsWf u = true →
      cellsWf (t.foldl (fun acc e => cellPutList acc (k * e.1) (numBytes k e.2.toNat)) u) = true from this [] rfl
  induction t with
  | nil => exact fun u hu => hu
  | cons e rest ih => exact fun u hu => ih _ (cellsWf_cellPutList _ u _ hu)

-- Bits -----------------------------------------------------------------------------------------------------------------------

/-- Bit p of n bytes read as a number. -/
theorem testBit_read (s : State) (n a p : Nat) :
    (s.read a n).testBit p = (decide (p < 8 * n) && (s.byte (a + p / 8)).getLsbD (p % 8)) := by
  induction n generalizing a p with
  | zero => simp [State.read]
  | succ k ih =>
    have h256 : (256 : Nat) = 2 ^ 8 := rfl
    have hb : (s.byte a).toNat < 2 ^ 8 := (s.byte a).isLt
    have he : (s.byte a).toNat + 256 * s.read (a + 1) k = 2 ^ 8 * s.read (a + 1) k + (s.byte a).toNat := by omega
    rw [State.read, he, Nat.testBit_two_pow_mul_add _ hb]
    by_cases hp : p < 8
    · have h1 : p / 8 = 0 := by omega
      have h2 : p % 8 = p := by omega
      have h3 : p < 8 * (k + 1) := by omega
      simp [hp, h1, h2, h3, BitVec.getLsbD]
    · have h1 : a + 1 + (p - 8) / 8 = a + p / 8 := by omega
      have h2 : (p - 8) % 8 = p % 8 := by omega
      have h3 : (p - 8 < 8 * k) = (p < 8 * (k + 1)) := by apply propext; omega
      rw [if_neg hp, ih, h1, h2]
      simp only [h3]

/-- A number of n bytes read is its bits. -/
theorem read_eq_of_bits (s : State) (a n v : Nat) (hv : v < 2 ^ (8 * n))
    (h : ∀ i, i < n → s.byte (a + i) = BitVec.ofNat 8 (v / 256 ^ i)) : s.read a n = v := by
  apply Nat.eq_of_testBit_eq
  intro p
  rw [testBit_read]
  by_cases hp : p < 8 * n
  · have h1 : p / 8 < n := by omega
    have h2 : p % 8 < 8 := Nat.mod_lt _ (by omega)
    have h4 : (256 : Nat) ^ (p / 8) = 2 ^ (8 * (p / 8)) := by rw [Nat.pow_mul]
    have h5 : p % 8 + 8 * (p / 8) = p := by omega
    rw [h _ h1]
    simp only [hp, decide_true, Bool.true_and, BitVec.getLsbD_ofNat, h2, h4, Nat.testBit_div_two_pow, h5]
  · have h6 : v < 2 ^ p := Nat.lt_of_lt_of_le hv (Nat.pow_le_pow_right (by omega) (by omega))
    simp [hp, Nat.testBit_lt_two_pow h6]

/-- Bit p of one byte put at byte m of a word. -/
theorem getLsbD_byteAt (w m p : Nat) (a : BitVec 8) (hp : p < w) :
    (BitVec.ofNat w (a.toNat * 2 ^ (8 * m))).getLsbD p = (decide (p / 8 = m) && a.getLsbD (p % 8)) := by
  have ha : a.toNat < 2 ^ 8 := a.isLt
  simp only [BitVec.getLsbD_ofNat, hp, decide_true, Bool.true_and, Nat.testBit_mul_two_pow]
  by_cases h1 : p / 8 = m
  · have h2 : 8 * m ≤ p := by omega
    have h3 : p - 8 * m = p % 8 := by omega
    simp [h1, h2, h3, BitVec.getLsbD]
  · by_cases h2 : 8 * m ≤ p
    · have h3 : a.toNat < 2 ^ (p - 8 * m) := Nat.lt_of_lt_of_le ha (Nat.pow_le_pow_right (by omega) (by omega))
      simp [h1, Nat.testBit_lt_two_pow h3]
    · simp [h1, h2]

theorem getLsbD_foldl_bytes (k w : Nat) (t : Cells 8) (i p : Nat) (hp : p < w) : ∀ acc : Cells w,
    (cellGet (t.foldl (fun acc e => cellPut acc (e.1 / k)
      (cellGet acc (e.1 / k) ||| BitVec.ofNat w (e.2.toNat * 2 ^ (8 * (e.1 % k))))) acc) i).getLsbD p =
      ((cellGet acc i).getLsbD p || t.any (fun e => decide (e.1 / k = i) && decide (p / 8 = e.1 % k) && e.2.getLsbD (p % 8))) := by
  induction t with
  | nil => intro acc; simp
  | cons d rest ih =>
    intro acc
    obtain ⟨j, a⟩ := d
    simp only [List.foldl_cons, ih, List.any_cons, cellGet_cellPut]
    by_cases h : i = j / k
    · subst h
      simp [BitVec.getLsbD_or, getLsbD_byteAt w (j % k) p a hp, Bool.or_assoc]
    · simp [h, Ne.symm h]

/-- Bit p of word i made of bytes. -/
theorem getLsbD_bytesToCells (k w : Nat) (hk : 0 < k) (t : Cells 8) (h : cellsWf t = true) (i p : Nat) (hp : p < w)
    (hw : w ≤ 8 * k) : (cellGet (bytesToCells k w t) i).getLsbD p = (cellGet t (k * i + p / 8)).getLsbD (p % 8) := by
  unfold bytesToCells
  rw [getLsbD_foldl_bytes k w t i p hp []]
  have hq : p / 8 < k := by omega
  have hd : (k * i + p / 8) / k = i := by rw [Nat.mul_add_div hk, Nat.div_eq_of_lt hq]; omega
  have hm : (k * i + p / 8) % k = p / 8 := by rw [Nat.mul_add_mod, Nat.mod_eq_of_lt hq]
  have key : ∀ j, (decide (j / k = i) && decide (p / 8 = j % k)) = decide (j = k * i + p / 8) := by
    intro j
    by_cases hj : j = k * i + p / 8
    · subst hj; simp [hd, hm]
    · have : ¬ (j / k = i ∧ p / 8 = j % k) := by
        rintro ⟨h1, h2⟩
        exact hj (by rw [← h1, h2]; exact (Nat.div_add_mod j k).symm)
      by_cases h1 : j / k = i
      · have h2 : ¬ p / 8 = j % k := fun e => this ⟨h1, e⟩
        simp [h2, hj]
      · simp [h1, hj]
  simp only [cellGet, key]
  have h0 : (0 : BitVec w).getLsbD p = false := by simp
  simp only [h0, Bool.false_or]
  induction t with
  | nil => simp [cellGet]
  | cons d rest ih =>
    obtain ⟨j, a⟩ := d
    have hc := (cellsWf_cons j a rest).mp h
    by_cases hj : j = k * i + p / 8
    · have hz : ∀ e ∈ rest, e.1 ≠ k * i + p / 8 := fun e he => by have : j < e.1 := hc.2.1 e he; omega
      have hf : rest.any (fun e => decide (e.1 = k * i + p / 8) && e.2.getLsbD (p % 8)) = false := by
        rw [List.any_eq_false]; intro e he; rw [decide_eq_false (hz e he)]; simp
      rw [List.any_cons, hf]; simp [cellGet, hj]
    · simp only [List.any_cons, hj, decide_false, Bool.false_and, Bool.false_or, cellGet, if_false]
      exact ih hc.2.2

/-- Word i made of bytes taken from memory is the number read there. -/
theorem cellGet_bytesToCells_takeMem (s : State) (k a n i : Nat) (hk : 0 < k) (h : k * i + k ≤ n) :
    cellGet (bytesToCells k (8 * k) (s.takeMem a n)) i = BitVec.ofNat (8 * k) (s.read (a + k * i) k) := by
  apply BitVec.eq_of_getLsbD_eq
  intro p hp
  have h8 : p / 8 < k := by omega
  have hn : k * i + p / 8 < n := by omega
  rw [getLsbD_bytesToCells k (8 * k) hk _ (show cellsWf (s.takeMem a n) = true from cellsWf_cellTake _ _ _) i p hp (Nat.le_refl _)]
  unfold State.takeMem
  rw [cellGet_cellTake]
  simp only [hn, if_true, BitVec.getLsbD_ofNat, hp, decide_true, Bool.true_and, testBit_read, State.byte, Nat.add_assoc]

-- Copies between memory and register files -----------------------------------------------------------------------------------

@[simp] theorem recallRange_mem (s : State) (a n : Nat) : (s.recallRange a n).mem = s.mem := by
  unfold State.recallRange; dsimp only; split
  · split <;> rfl
  · rfl

/-- What a byte reads after n bytes are replaced. -/
theorem byte_pasteMem (s : State) (a n i : Nat) (c : Cells 8) :
    (s.pasteMem a n c).byte i = if a ≤ i ∧ i < a + n then cellGet c (i - a) else s.byte i := by
  unfold State.pasteMem State.byte
  simp only [recallRange_mem]
  have hw : cellsWf (cellTake c 0 n) = true := cellsWf_cellTake _ _ _
  have hz : ∀ j, n ≤ j → cellGet (cellTake c 0 n) j = 0 := by
    intro j hj
    rw [cellGet_cellTake, if_neg (by omega)]
  rw [cellGet_cellPaste _ _ _ _ _ hw (keys_lt _ hw n hz)]
  split
  · rw [cellGet_cellTake, if_pos (by omega), Nat.zero_add]
  · rfl

/-- Replacing bytes with words of k bytes, nk of them. -/
theorem byte_pasteWords {w : Nat} (s : State) (k : Nat) (hk : 0 < k) (a n i : Nat) (t : Cells w) (h : cellsWf t = true) :
    (s.pasteMem a n (cellsToBytes k t)).byte i =
      if a ≤ i ∧ i < a + n then BitVec.ofNat 8 ((cellGet t ((i - a) / k)).toNat / 256 ^ ((i - a) % k)) else s.byte i := by
  rw [byte_pasteMem, cellGet_cellsToBytes k hk t h]

/-- A word stored is the word read. -/
theorem read_pasteWords {w : Nat} (s : State) (k : Nat) (hk : 0 < k) (hw : w = 8 * k) (a n i : Nat) (t : Cells w)
    (h : cellsWf t = true) (hi : k * i + k ≤ n) :
    (s.pasteMem a n (cellsToBytes k t)).read (a + k * i) k = (cellGet t i).toNat := by
  apply read_eq_of_bits
  · subst hw; exact (cellGet t i).isLt
  · intro j hj
    have h1 : a ≤ a + k * i + j ∧ a + k * i + j < a + n := by omega
    have h2 : a + k * i + j - a = k * i + j := by omega
    rw [byte_pasteWords s k hk a n _ t h, if_pos h1, h2, Nat.mul_add_div hk, Nat.div_eq_of_lt hj, Nat.mul_add_mod,
      Nat.mod_eq_of_lt hj]
    rfl

/-- Scalar segment n spilled (05 R116): its words stand in the area, lowest first; no other byte differs. -/
theorem read_spillS (s : State) (q n i : Nat) (hi : i < 16) :
    (s.spillS q n).read (s.scalarSpill q n + 8 * i) 8 = (cellGet (s.squad q).sregs (ssegCell n + i)).toNat := by
  unfold State.spillS
  rw [read_pasteWords s 8 (by omega) rfl _ 128 i _ (cellsWf_cellTake _ _ _) (by omega), cellGet_cellTake, if_pos hi]

theorem byte_spillS_outside (s : State) (q n a : Nat) (h : ¬ (s.scalarSpill q n ≤ a ∧ a < s.scalarSpill q n + 128)) :
    (s.spillS q n).byte a = s.byte a := by
  unfold State.spillS
  rw [byte_pasteMem, if_neg h]

/-- Marks of units change no byte. -/
@[simp] theorem byte_moveMarks (s : State) (a b n i : Nat) (c : Bool) : (s.moveMarks a b n c).byte i = s.byte i := rfl
@[simp] theorem read_moveMarks (s : State) (a b n i k : Nat) (c : Bool) : (s.moveMarks a b n c).read i k = s.read i k :=
  read_congr _ _ k i (fun _ _ _ => rfl)

/-- Vector segment n spilled. -/
theorem read_spillV (s : State) (q n i : Nat) (hi : i < 2048) :
    (s.spillV q n).read (s.vectorSpill q n + 4 * i) 4 = (cellGet (s.squad q).vregs ((s.squad q).vsegCell n + i)).toNat := by
  unfold State.spillV
  dsimp only
  rw [read_moveMarks, read_pasteWords s 4 (by omega) rfl _ 8192 i _ (cellsWf_cellTake _ _ _) (by omega), cellGet_cellTake, if_pos hi]

theorem byte_spillV_outside (s : State) (q n a : Nat) (h : ¬ (s.vectorSpill q n ≤ a ∧ a < s.vectorSpill q n + 8192)) :
    (s.spillV q n).byte a = s.byte a := by
  unfold State.spillV
  dsimp only
  rw [byte_moveMarks, byte_pasteMem, if_neg h]

/-- Scalar segment n filled (05 R118): its cells are the words of the area, the other cells stay. -/
theorem sregs_fillS (s : State) (q n c : Nat) :
    cellGet ((s.fillS q n).squad q).sregs c =
      if ssegCell n ≤ c ∧ c < ssegCell n + 16 then BitVec.ofNat 64 (s.read (s.scalarSpill q n + 8 * (c - ssegCell n)) 8)
      else cellGet (s.squad q).sregs c := by
  unfold State.fillS
  have hw : cellsWf (bytesToCells 8 64 (s.takeMem (s.scalarSpill q n) 128)) = true := by
    unfold bytesToCells
    suffices ∀ (t : Cells 8) (u : Cells 64), cellsWf u = true → cellsWf (t.foldl (fun acc e => cellPut acc (e.1 / 8)
      (cellGet acc (e.1 / 8) ||| BitVec.ofNat 64 (e.2.toNat * 2 ^ (8 * (e.1 % 8))))) u) = true from this _ [] rfl
    intro t
    induction t with
    | nil => exact fun u hu => hu
    | cons e rest ih => exact fun u hu => ih _ (cellsWf_cellPut u _ _ hu)
  have hz : ∀ j, 16 ≤ j → cellGet (bytesToCells 8 64 (s.takeMem (s.scalarSpill q n) 128)) j = 0 := by
    intro j hj
    apply BitVec.eq_of_getLsbD_eq
    intro p hp
    unfold State.takeMem
    rw [getLsbD_bytesToCells 8 64 (by omega) _ (cellsWf_cellTake _ _ _) j p hp (by omega)]
    rw [cellGet_cellTake, if_neg (by omega)]
    simp
  dsimp only
  rw [squad_setSquad_same]
  simp only [cellGet_cellPaste _ _ _ _ _ hw (keys_lt _ hw 16 hz)]
  split
  · next h => exact cellGet_bytesToCells_takeMem s 8 _ 128 (c - ssegCell n) (by omega) (by omega)
  · rfl

/-- Vector segment n filled. -/
theorem vregs_fillV (s : State) (q n c : Nat) :
    cellGet ((s.fillV q n).squad q).vregs c =
      if (s.squad q).vsegCell n ≤ c ∧ c < (s.squad q).vsegCell n + 2048 then
        BitVec.ofNat 32 (s.read (s.vectorSpill q n + 4 * (c - (s.squad q).vsegCell n)) 4)
      else cellGet (s.squad q).vregs c := by
  unfold State.fillV
  have hw : cellsWf (bytesToCells 4 32 (s.takeMem (s.vectorSpill q n) 8192)) = true := by
    unfold bytesToCells
    suffices ∀ (t : Cells 8) (u : Cells 32), cellsWf u = true → cellsWf (t.foldl (fun acc e => cellPut acc (e.1 / 4)
      (cellGet acc (e.1 / 4) ||| BitVec.ofNat 32 (e.2.toNat * 2 ^ (8 * (e.1 % 4))))) u) = true from this _ [] rfl
    intro t
    induction t with
    | nil => exact fun u hu => hu
    | cons e rest ih => exact fun u hu => ih _ (cellsWf_cellPut u _ _ hu)
  have hz : ∀ j, 2048 ≤ j → cellGet (bytesToCells 4 32 (s.takeMem (s.vectorSpill q n) 8192)) j = 0 := by
    intro j hj
    apply BitVec.eq_of_getLsbD_eq
    intro p hp
    unfold State.takeMem
    rw [getLsbD_bytesToCells 4 32 (by omega) _ (cellsWf_cellTake _ _ _) j p hp (by omega)]
    rw [cellGet_cellTake, if_neg (by omega)]
    simp
  dsimp only
  rw [squad_setSquad_same]
  simp only [cellGet_cellPaste _ _ _ _ _ hw (keys_lt _ hw 2048 hz)]
  split
  · next h => exact cellGet_bytesToCells_takeMem s 4 _ 8192 (c - (s.squad q).vsegCell n) (by omega) (by omega)
  · rfl

end Sys2Proof.Machine
end

