-- ==== Sys2Proof/Laws/Registers.lean ====
section
/-! SUPPORT. Reading and writing registers through their windows (05 R111 to R114), the moves of the program counters, and
the writing of lanes. -/

namespace Sys2Proof.Machine

-- Scalar registers ------------------------------------------------------------------------------------------------------

/-- Two scalar registers of one window are one cell only when they are one register. -/
theorem scell_inj (x : Squad) (r k : BitVec 6) (h : x.scell r = x.scell k) : r = k := by
  have hr := r.isLt
  have hk := k.isLt
  apply BitVec.eq_of_toNat_eq
  unfold Squad.scell at h
  split at h <;> split at h <;> omega

@[simp] theorem readS_zero (x : Squad) : x.readS 0 = 0 := by simp [Squad.readS]

@[simp] theorem scell_sregs (x : Squad) (c : Cells 64) (r : BitVec 6) : ({ x with sregs := c } : Squad).scell r = x.scell r := rfl

/-- A write to a scalar register is what it reads after, and s0 stays zero. -/
theorem readS_writeS_same (x : Squad) (d : BitVec 6) (v : BitVec 64) : (x.writeS d v).readS d = if d = 0 then 0 else v := by
  by_cases h : d = 0#6
  · simp [Squad.readS, h]
  · simp only [Squad.writeS, Squad.readS, BitVec.ofNat_eq_ofNat, h, if_false]
    exact cellGet_cellPut_same _ _ _

/-- A write to a scalar register changes no other. -/
theorem readS_writeS_ne (x : Squad) (d r : BitVec 6) (v : BitVec 64) (h : r ≠ d) : (x.writeS d v).readS r = x.readS r := by
  by_cases h0 : d = 0#6
  · simp [Squad.writeS, h0]
  · have hc : x.scell r ≠ x.scell d := fun e => h (scell_inj x r d e)
    simp only [Squad.writeS, Squad.readS, BitVec.ofNat_eq_ofNat, h0, if_false]
    split
    · rfl
    · exact cellGet_cellPut_ne _ _ _ _ hc

/-- A write to a scalar register changes only the register cells. -/
theorem writeS_eq (x : Squad) (d : BitVec 6) (v : BitVec 64) : x.writeS d v = { x with sregs := (x.writeS d v).sregs } := by
  by_cases h : d = 0#6 <;> simp [Squad.writeS, h]

-- Vector registers --------------------------------------------------------------------------------------------------------

/-- Two vector registers of one window, below VWS, share a cell only when register and lane are the same. -/
theorem vcell_inj (x : Squad) (r k l m : Nat) (hr : r < x.vws) (hk : k < x.vws) (hl : l < 32) (hm : m < 32)
    (h : x.vcell r l = x.vcell k m) : r = k ∧ l = m := by
  unfold Squad.vcell at h
  have h1 : l = m := by omega
  have h2 : (64 * x.vwb + r) % x.vws = (64 * x.vwb + k) % x.vws := by omega
  refine ⟨?_, h1⟩
  have h3 : r % x.vws = k % x.vws := Nat.ModEq.add_left_cancel' _ h2
  rwa [Nat.mod_eq_of_lt hr, Nat.mod_eq_of_lt hk] at h3

@[simp] theorem vcell_vregs (x : Squad) (c : Cells 32) (r l : Nat) : ({ x with vregs := c } : Squad).vcell r l = x.vcell r l := rfl

/-- A result put into a lane changes only the vector cells. -/
theorem putV_eq (x y : Squad) (r l : Nat) (pair : Bool) (v : BitVec 64) :
    x.put (y.dstV r l pair) v = { x with vregs := (x.put (y.dstV r l pair) v).vregs } := by
  cases pair <;> rfl

/-- What a register reads after a result is put into lane l of register r, or of the pair at r. -/
theorem readV_putV (x : Squad) (r l k m : Nat) (pair : Bool) (v : BitVec 64)
    (hr : r < x.vws) (hp : pair = true → r + 1 < x.vws) (hk : k < x.vws) (hl : l < 32) (hm : m < 32) :
    (x.put (x.dstV r l pair) v).readV k m =
      if m = l ∧ k = r then slice v 0 32 else if m = l ∧ pair = true ∧ k = r + 1 then slice v 32 32 else x.readV k m := by
  cases pair with
  | false =>
    simp only [Squad.put, Squad.dstV, Squad.readV, vcell_vregs, cellGet_cellPut, Bool.false_eq_true, if_false]
    by_cases h : m = l ∧ k = r
    · obtain ⟨rfl, rfl⟩ := h; simp
    · have : x.vcell k m ≠ x.vcell r l := fun e => h ((vcell_inj x k r m l hk hr hm hl e).symm)
      simp [h, this]
  | true =>
    have hr1 := hp rfl
    simp only [Squad.put, Squad.dstV, Squad.readV, vcell_vregs, cellGet_cellPut, if_true, true_and]
    by_cases h : m = l ∧ k = r
    · obtain ⟨rfl, rfl⟩ := h
      have : x.vcell k m ≠ x.vcell (k + 1) m := fun e => by have := (vcell_inj x _ _ _ _ hr hr1 hl hl e).1; omega
      simp [this]
    · by_cases h2 : m = l ∧ k = r + 1
      · obtain ⟨rfl, rfl⟩ := h2; simp
      · have h3 : x.vcell k m ≠ x.vcell (r + 1) l := fun e => h2 ((vcell_inj x _ _ _ _ hk hr1 hm hl e).symm)
        have h4 : x.vcell k m ≠ x.vcell r l := fun e => h ((vcell_inj x _ _ _ _ hk hr hm hl e).symm)
        rw [if_neg h3, if_neg h4, if_neg h, if_neg h2]

/-- Writing lanes one after another, over any list of lanes. -/
def Squad.writeLanesOf (x : Squad) (ls : List Nat) (mask : BitVec 32) (r : Nat) (pair : Bool) (res : List LaneRes) : Squad :=
  ls.foldl (fun y l => if bitAt mask l then y.put (y.dstV r l pair) (listAt res l {}).v else y) x

theorem writeLanes_eq_of (x : Squad) (mask : BitVec 32) (r : Nat) (pair : Bool) (res : List LaneRes) :
    x.writeLanes mask r pair res = x.writeLanesOf lanes32 mask r pair res := rfl

theorem writeLanesOf_frame (ls : List Nat) (x : Squad) (mask : BitVec 32) (r : Nat) (pair : Bool) (res : List LaneRes) :
    x.writeLanesOf ls mask r pair res = { x with vregs := (x.writeLanesOf ls mask r pair res).vregs } := by
  induction ls generalizing x with
  | nil => rfl
  | cons l rest ih =>
    have hs : x.writeLanesOf (l :: rest) mask r pair res =
        (if bitAt mask l then x.put (x.dstV r l pair) (listAt res l {}).v else x).writeLanesOf rest mask r pair res := rfl
    rw [hs]
    split
    · rw [ih, putV_eq]
    · rw [ih]

theorem readV_writeLanesOf (ls : List Nat) (hn : ls.Nodup) (h32 : ∀ l ∈ ls, l < 32) (x : Squad) (mask : BitVec 32) (r : Nat)
    (pair : Bool) (res : List LaneRes) (k m : Nat)
    (hr : r < x.vws) (hp : pair = true → r + 1 < x.vws) (hk : k < x.vws) (hm : m < 32) :
    (x.writeLanesOf ls mask r pair res).readV k m =
      if m ∈ ls ∧ bitAt mask m = true ∧ k = r then slice (listAt res m {}).v 0 32
      else if m ∈ ls ∧ bitAt mask m = true ∧ pair = true ∧ k = r + 1 then slice (listAt res m {}).v 32 32
      else x.readV k m := by
  induction ls generalizing x with
  | nil => simp [Squad.writeLanesOf]
  | cons l rest ih =>
    have hs : x.writeLanesOf (l :: rest) mask r pair res =
        (if bitAt mask l then x.put (x.dstV r l pair) (listAt res l {}).v else x).writeLanesOf rest mask r pair res := rfl
    have hl : l < 32 := h32 l List.mem_cons_self
    obtain ⟨hl1, hn1⟩ := List.nodup_cons.mp hn
    rw [hs]
    by_cases hb : bitAt mask l = true
    · have hv : (x.put (x.dstV r l pair) (listAt res l {}).v).vws = x.vws := by cases pair <;> rfl
      rw [if_pos hb, ih hn1 (fun a ha => h32 a (List.mem_cons_of_mem _ ha)) _ (by rw [hv]; exact hr)
        (by rw [hv]; exact hp) (by rw [hv]; exact hk), readV_putV x r l k m pair _ hr hp hk hl hm]
      by_cases hml : m = l
      · subst hml
        simp [hl1, hb]
      · simp [hml]
    · rw [if_neg hb, ih hn1 (fun a ha => h32 a (List.mem_cons_of_mem _ ha)) x hr hp hk]
      by_cases hml : m = l
      · subst hml; simp [hl1, hb]
      · simp [hml]

/-- What a register reads after the lanes of a mask are written. -/
theorem readV_writeLanes (x : Squad) (mask : BitVec 32) (r : Nat) (pair : Bool) (res : List LaneRes) (k m : Nat)
    (hr : r < x.vws) (hp : pair = true → r + 1 < x.vws) (hk : k < x.vws) (hm : m < 32) :
    (x.writeLanes mask r pair res).readV k m =
      if bitAt mask m = true ∧ k = r then slice (listAt res m {}).v 0 32
      else if bitAt mask m = true ∧ pair = true ∧ k = r + 1 then slice (listAt res m {}).v 32 32
      else x.readV k m := by
  rw [writeLanes_eq_of, readV_writeLanesOf lanes32 List.nodup_range (fun l hl => List.mem_range.mp hl) x mask r pair res k m hr hp hk hm]
  simp [lanes32, hm]

/-- Writing lanes changes only the vector cells. -/
theorem writeLanes_frame (x : Squad) (mask : BitVec 32) (r : Nat) (pair : Bool) (res : List LaneRes) :
    x.writeLanes mask r pair res = { x with vregs := (x.writeLanes mask r pair res).vregs } := writeLanesOf_frame _ _ _ _ _ _

-- Masks ---------------------------------------------------------------------------------------------------------------------

theorem readM_writeM_same (x : Squad) (m : BitVec 4) (v : BitVec 32) : (x.writeM m v).readM m = v := by
  simp [Squad.readM, Squad.writeM]

theorem readM_writeM_ne (x : Squad) (m n : BitVec 4) (v : BitVec 32) (h : n ≠ m) : (x.writeM m v).readM n = x.readM n := by
  have hn : n.toNat ≠ m.toNat := fun e => h (BitVec.eq_of_toNat_eq e)
  simp [Squad.readM, Squad.writeM, cellGet_cellPut, hn]

-- Moving on -------------------------------------------------------------------------------------------------------------------

/-- What a squad does after a word whose marker is set. -/
def Squad.afterMarker (x : Squad) (m : Bool) : RunState :=
  if m then (if x.out = [] then .running else .parked) else x.run

theorem park_eq (x : Squad) : x.park = { x with run := x.afterMarker true } := by
  unfold Squad.park Squad.afterMarker; split <;> simp

theorem advance_eq (x : Squad) (m : BitVec 1) :
    x.advance m = { x with pc := x.pc + 4, latch := none, run := x.afterMarker (m = 1) } := by
  unfold Squad.advance
  by_cases h : m = 1#1 <;> simp [h, park_eq, Squad.afterMarker]

theorem goto_frame (x : Squad) (m : Bool) : (if m then x.park else x) = { x with run := x.afterMarker m } := by
  cases m <;> simp [park_eq, Squad.afterMarker]

end Sys2Proof.Machine
end

