-- ==== Sys2Proof/Laws/Words.lean ====
section
/-! SUPPORT. What each shared operation of the scalar words answers: a result, a result left outstanding, a word that waits, a
word that ends a region, a trap. -/

namespace Sys2Proof.Machine

/-- A fixed-latency word's end: the acting squad's record, its register written, moved to the next word. -/
theorem result_spec (s : State) (m : BitVec 1) (d : BitVec 6) (v : BitVec 64) :
    s.result m d v = .next (s.setSq { s.sq with
      sregs := (s.sq.writeS d v).sregs, pc := s.sq.pc + 4, latch := none, run := s.sq.afterMarker (m = 1) }) := by
  rw [State.result, advance_eq, writeS_eq]; rfl

/-- A word that writes nothing goes on. -/
theorem done_spec (s : State) (m : BitVec 1) :
    s.done m = s.setSq { s.sq with pc := s.sq.pc + 4, latch := none, run := s.sq.afterMarker (m = 1) } := by
  rw [State.done, advance_eq]

/-- A jump's end. -/
theorem goto_spec (x : Squad) (m : BitVec 1) (pc : BitVec 64) :
    x.goto m pc = { x with pc := pc, latch := none, run := x.afterMarker (m = 1) } := by
  unfold Squad.goto
  by_cases h : m = 1#1 <;> simp [h, park_eq, Squad.afterMarker]

/-- One outstanding result of the acting squad's word, as issue makes it. -/
def State.outst (s : State) (ord : AccOrd) (scope : Nat) (flags : BitVec 6) (tdst : BitVec 64) (m : Option Nat)
    (k : OutKind) : Outst :=
  ⟨s.clock, s.sq.pc, s.sq.region.isSome, ord, scope, k, flags, m, s.sq.lpc, k.dst.lane, tdst,
    if ord = .ordinary then [] else s.seenBy (.squad s.actor)⟩

/-- What a word leaves outstanding, and the model's counter. -/
theorem issue_spec (s : State) (ord : AccOrd) (scope : Nat) (flags : BitVec 6) (ks : List (OutKind × Option Nat))
    (tdst : BitVec 64) :
    s.issue ord scope flags ks tdst = { s with
      squads := (s.setSq { s.sq with
        out := s.sq.out ++ ks.flatMap (fun k => k.1.halves.map (s.outst ord scope flags tdst k.2)) }).squads,
      clock := s.clock + 1 } := rfl

theorem sq_issue (s : State) (ord : AccOrd) (scope : Nat) (flags : BitVec 6) (ks : List (OutKind × Option Nat))
    (tdst : BitVec 64) :
    (s.issue ord scope flags ks tdst).sq = { s.sq with
      out := s.sq.out ++ ks.flatMap (fun k => k.1.halves.map (s.outst ord scope flags tdst k.2)) } :=
  tabGet_tabPut_same _ _ _ _

/-- A word that needs every result written runs at once when nothing is outstanding, with the values it kept. -/
theorem drainedWith_ready (s : State) (now : List (BitVec 64)) (k : List (BitVec 64) → State → Res) (ho : s.sq.out = []) :
    s.drainedWith now k = k (s.sq.atIssue now) (s.setSq { s.sq with latch := none }) := by
  simp [State.drainedWith, ho]

/-- It waits with them otherwise. -/
theorem drainedWith_waits (s : State) (now : List (BitVec 64)) (k : List (BitVec 64) → State → Res) (ho : s.sq.out ≠ []) :
    s.drainedWith now k = .next (s.setSq { s.sq with latch := some (s.sq.atIssue now), run := .parked }) := by
  simp [State.drainedWith, ho]

/-- A word that has not waited yet uses what it reads now. -/
theorem atIssue_fresh (x : Squad) (now : List (BitVec 64)) (hl : x.latch = none) : x.atIssue now = now := by
  simp [Squad.atIssue, hl]

theorem drained_ready (s : State) (srcs : List (BitVec 6)) (k : List (BitVec 64) → State → Res) (ho : s.sq.out = [])
    (hl : s.sq.latch = none) : s.drained srcs k = k (srcs.map s.sq.readS) (s.setSq { s.sq with latch := none }) := by
  rw [State.drained, drainedWith_ready s _ k ho, atIssue_fresh _ _ hl]

theorem drained_waits (s : State) (srcs : List (BitVec 6)) (k : List (BitVec 64) → State → Res) (ho : s.sq.out ≠ [])
    (hl : s.sq.latch = none) :
    s.drained srcs k = .next (s.setSq { s.sq with latch := some (srcs.map s.sq.readS), run := .parked }) := by
  rw [State.drained, drainedWith_waits s _ k ho, atIssue_fresh _ _ hl]

/-- A word that ends a region does not wait when no region is open, or nothing is outstanding. -/
theorem waitRegion_ready (s : State) (now : List (BitVec 64)) (k : List (BitVec 64) → State → Res)
    (h : s.sq.region = none ∨ s.sq.out = []) :
    s.waitRegion now k = k (s.sq.atIssue now) (s.setSq { s.sq with latch := none }) := by
  unfold State.waitRegion
  dsimp only
  split
  · next hs =>
    rcases h with h | h
    · rw [h] at hs; cases hs
    · exact drainedWith_ready s now k h
  · rfl

/-- It waits, its sources kept, in an open region with results outstanding. -/
theorem waitRegion_waits (s : State) (now : List (BitVec 64)) (k : List (BitVec 64) → State → Res)
    (hr : s.sq.region ≠ none) (ho : s.sq.out ≠ []) :
    s.waitRegion now k = .next (s.setSq { s.sq with latch := some (s.sq.atIssue now), run := .parked }) := by
  unfold State.waitRegion
  dsimp only
  rw [if_pos (Option.isSome_iff_ne_none.mpr hr)]
  exact drainedWith_waits s now k ho

/-- Such a word whose region ends at once. -/
theorem endingRegion_ready (s : State) (srcs : List (BitVec 6)) (k : List (BitVec 64) → State → Res)
    (h : s.sq.region = none ∨ s.sq.out = []) (hl : s.sq.latch = none) :
    s.endingRegion srcs k = k (srcs.map s.sq.readS) (s.setSq { s.sq with region := none, latch := none }) := by
  rw [State.endingRegion, waitRegion_ready s _ _ h, atIssue_fresh _ _ hl]
  simp [Squad.endRegion, setSq_setSq]

/-- Writing the acting squad's own record back leaves every squad as it was. -/
theorem squad_setSq_self (s : State) (q : Nat) : (s.setSq s.sq).squad q = s.squad q := by
  by_cases h : q = s.actor
  · subst h; exact sq_setSq s s.sq
  · exact squad_setSq_ne s _ q h

theorem entriesInUse_setSq_self (s : State) (b : Nat) : (s.setSq s.sq).entriesInUse b = s.entriesInUse b := by
  unfold State.entriesInUse
  simp only [squad_setSq_self]
  rfl

/-- A trap that can be taken now is taken now: trap entry, and nothing else. -/
theorem raise_now (s : State) (t : TrapInfo) (ho : s.sq.out = []) (hr : s.sq.run = .running) (hh : s.sq.handler = none)
    (ht : s.sq.trap.thandler ≠ 0) (hs : s.entriesInUse (blockOfSquad s.actor) ≠ 32) :
    s.raise s.actor t = s.setSq { s.sq with
      region := none
      handler := some ⟨cellGet s.sq.masks 0, s.sq.fmt, t.lcnt, s.sq.lpc, t.wm, t.ls, t.tile⟩
      seg := []
      lcnt := t.lcnt
      trap := { s.sq.trap with tcause := t.tcause, tpc := t.tpc, tlpc := t.tlpc, tlm := t.tlm, tval := t.tval, tdst := t.tdst }
      masks := cellPut s.sq.masks 0 t.wm
      fmt := s.sq.fmt &&& 0x3E0F#14
      pc := s.sq.trap.thandler
      lane := none
      replay := none
      latch := none
      run := .running } := by
  have hx : s.squad s.actor = s.sq := rfl
  have h0 : s.raise s.actor t = (s.setSq s.sq).trapEntry s.actor t := by
    unfold State.raise; rw [hx]; simp [hr, ho]; rfl
  have hsq : (s.setSq s.sq).squad s.actor = s.sq := sq_setSq s s.sq
  have hb : (s.setSq s.sq).entriesInUse (blockOfSquad s.actor) = s.entriesInUse (blockOfSquad s.actor) :=
    entriesInUse_setSq_self s (blockOfSquad s.actor)
  have hk : s.sq.handler.isSome = false := by rw [hh]; rfl
  rw [h0]; unfold State.trapEntry
  simp only [hsq, hb, hk, if_neg ht, if_neg hs, Bool.false_eq_true, if_false]
  exact setSq_setSq s _ _

end Sys2Proof.Machine
end

