-- ==== Sys2Proof/Laws/Lanes.lean ====
section
/-! SUPPORT. What the shared operations of the lane words answer: the checks of enqueue, the end of a word that writes lanes, the
move to the next word. -/

namespace Sys2Proof.Machine

/-- A word whose registers lie below VWS and whose format is legal passes the checks of enqueue. -/
theorem laneIssue_ok (s : State) (op : LaneOp) (f : LaneForm) (k : Squad → Nat → Res) (hb : f.badIndex op s.sq.vws = none)
    (hf : (laneShape op).use = EfUse.absent ∨ laneFormatOk op f (laneEf op f s.sq.fmt) = true) :
    s.laneIssue op f k = k s.sq (laneEf op f s.sq.fmt) := by
  have hs : formatStands f op s.sq.fmt = true := by
    unfold formatStands
    rcases hf with h | h <;> simp [h]
  unfold State.laneIssue
  simp [hb, hs]

/-- With no flag enabled no lane traps. -/
theorem trapLanes_zero (act : BitVec 32) (res : List LaneRes) : trapLanes act 0 res = 0 := by
  unfold trapLanes
  have h : (lanes32.map (fun l => if bitAt act l ∧ slice (listAt res l {}).flags 0 5 &&& (0 : BitVec 5) ≠ 0 then 2 ^ l else 0)) =
      lanes32.map (fun _ => 0) := by
    apply List.map_congr_left
    intro l _
    simp
  rw [h]; rfl

/-- With no flag enabled the marker is the word's own. -/
theorem laneMarker_plain (op : LaneOp) (f : LaneForm) (x : Squad) (h : fmtTE x.fmt = 0) : laneMarker op f x = decide (f.s = 1) := by
  unfold laneMarker; simp [h]

/-- Active lanes of a replayed word: its failing lanes under the mask of its first enqueue (09 R206). -/
theorem active_replay (x : Squad) (mk : BitVec 4) (r : Replay) (h : x.replay = some r) : x.active mk = r.tlm &&& r.wm := by
  unfold Squad.active; rw [h]

/-- Outside a handler LCNT is 0 when no LANE is in progress. -/
theorem idleLcnt_plain (x : Squad) (h : x.handler = none) : x.idleLcnt = 0 := by simp [Squad.idleLcnt, h]

/-- Active lanes of a word that is not replayed (02 R41). -/
theorem active_fresh (x : Squad) (mk : BitVec 4) (h : x.replay = none) :
    x.active mk = if mk = 0 then x.readM 0 else x.readM 0 &&& x.readM mk := by
  unfold Squad.active; rw [h]; rfl

/-- The end of a word that writes lanes, no flag enabled: every active lane is written, their flags are merged. -/
theorem laneFinish_plain (s : State) (op : LaneOp) (f : LaneForm) (e : Nat) (whole : Bool) (res : List LaneRes)
    (h : fmtTE s.sq.fmt = 0) :
    s.laneFinish op f e whole res = s.setSq
      ({ s.sq.writeLanes (s.sq.active f.m) f.vd.vreg (lanePairs op e).1 res with
          fflags := (s.sq.writeLanes (s.sq.active f.m) f.vd.vreg (lanePairs op e).1 res).fflags |||
            orFlags (s.sq.active f.m) res }.laneAdvance (f.s = 1)) := by
  have ha : s.sq.active f.m &&& ~~~(0 : BitVec 32) = s.sq.active f.m := by
    rw [show ~~~(0 : BitVec 32) = BitVec.allOnes 32 from rfl]; exact BitVec.and_allOnes
  have h0 : (0 : BitVec 32) = 0#32 := rfl
  unfold State.laneFinish
  simp only [h, trapLanes_zero, ne_eq, not_true_eq_false, and_false, if_false, if_true, ha, laneMarker_plain op f s.sq h]

/-- Bit i of the merged flags. -/
theorem orFlags_bit (mask : BitVec 32) (res : List LaneRes) (i : Nat) :
    (orFlags mask res).getLsbD i = lanes32.any (fun l => bitAt mask l && (listAt res l {}).flags.getLsbD i) := by
  unfold orFlags
  have h : ∀ (ls : List Nat) (a : BitVec 6),
      (ls.foldl (fun a l => if bitAt mask l then a ||| (listAt res l {}).flags else a) a).getLsbD i =
        (a.getLsbD i || ls.any (fun l => bitAt mask l && (listAt res l {}).flags.getLsbD i)) := by
    intro ls
    induction ls with
    | nil => intro a; simp
    | cons l rest ih =>
      intro a
      rw [List.foldl_cons, ih, List.any_cons]
      cases hb : bitAt mask l <;> simp [Bool.or_assoc]
  rw [h]; simp

/-- The lane word within a LANE of more than one word left (02 R47). -/
theorem laneAdvance_more (x : Squad) (m : Bool) (r : LaneRun) (hl : x.lane = some r) (hr : 1 < r.left) :
    x.laneAdvance m = { x with
      lpc := x.lpc + 12, replay := none, latch := none, lane := some { r with left := r.left - 1 }, run := x.afterMarker m } := by
  unfold Squad.laneAdvance
  have h : ¬ r.left ≤ 1 := by omega
  simp only [hl, h, if_false]
  cases m <;> simp [park_eq, Squad.afterMarker]

/-- The last word of a LANE: the scalar stream goes on. -/
theorem laneAdvance_last (x : Squad) (m : Bool) (r : LaneRun) (hl : x.lane = some r) (hr : r.left ≤ 1) :
    x.laneAdvance m = { x with
      lpc := x.lpc + 12, replay := none, latch := none, lane := none, lcnt := x.idleLcnt, pc := x.pc + 4,
      run := x.afterMarker (m || r.s) } := by
  unfold Squad.laneAdvance
  simp only [hl, hr, if_true]
  cases h : (m || r.s) <;> simp [park_eq, Squad.afterMarker]

end Sys2Proof.Machine
end

