-- ==== Sys2Proof/Laws/PerInstr.lean ====
section
/-! SUPPORT. Statements made of each instruction as syntax, one lemma per constructor. -/

namespace Sys2Proof.Laws.Coded

/-- The opcode number of a lane instruction names its own constructor: the decoder's table and the opcode numbers of the
well-formedness check agree (02 Table 2-12). -/
def Statement (i : Instr) : Prop := ∀ op f, i.lane? = some (op, f) → ∃ c, laneCtor op = some c ∧ c f = i

theorem add (x0 x1 x2 x3) : Statement (.add x0 x1 x2 x3) := by intro op f h; cases h
theorem sub (x0 x1 x2 x3) : Statement (.sub x0 x1 x2 x3) := by intro op f h; cases h
theorem mul (x0 x1 x2 x3) : Statement (.mul x0 x1 x2 x3) := by intro op f h; cases h
theorem mulh (x0 x1 x2 x3) : Statement (.mulh x0 x1 x2 x3) := by intro op f h; cases h
theorem mulhu (x0 x1 x2 x3) : Statement (.mulhu x0 x1 x2 x3) := by intro op f h; cases h
theorem div (x0 x1 x2 x3) : Statement (.div x0 x1 x2 x3) := by intro op f h; cases h
theorem divu (x0 x1 x2 x3) : Statement (.divu x0 x1 x2 x3) := by intro op f h; cases h
theorem rem (x0 x1 x2 x3) : Statement (.rem x0 x1 x2 x3) := by intro op f h; cases h
theorem remu (x0 x1 x2 x3) : Statement (.remu x0 x1 x2 x3) := by intro op f h; cases h
theorem and (x0 x1 x2 x3) : Statement (.and x0 x1 x2 x3) := by intro op f h; cases h
theorem or (x0 x1 x2 x3) : Statement (.or x0 x1 x2 x3) := by intro op f h; cases h
theorem xor (x0 x1 x2 x3) : Statement (.xor x0 x1 x2 x3) := by intro op f h; cases h
theorem shl (x0 x1 x2 x3) : Statement (.shl x0 x1 x2 x3) := by intro op f h; cases h
theorem shr (x0 x1 x2 x3) : Statement (.shr x0 x1 x2 x3) := by intro op f h; cases h
theorem sar (x0 x1 x2 x3) : Statement (.sar x0 x1 x2 x3) := by intro op f h; cases h
theorem min (x0 x1 x2 x3) : Statement (.min x0 x1 x2 x3) := by intro op f h; cases h
theorem max (x0 x1 x2 x3) : Statement (.max x0 x1 x2 x3) := by intro op f h; cases h
theorem minu (x0 x1 x2 x3) : Statement (.minu x0 x1 x2 x3) := by intro op f h; cases h
theorem maxu (x0 x1 x2 x3) : Statement (.maxu x0 x1 x2 x3) := by intro op f h; cases h
theorem slt (x0 x1 x2 x3) : Statement (.slt x0 x1 x2 x3) := by intro op f h; cases h
theorem sltu (x0 x1 x2 x3) : Statement (.sltu x0 x1 x2 x3) := by intro op f h; cases h
theorem seq (x0 x1 x2 x3) : Statement (.seq x0 x1 x2 x3) := by intro op f h; cases h
theorem sne (x0 x1 x2 x3) : Statement (.sne x0 x1 x2 x3) := by intro op f h; cases h
theorem clz (x0 x1 x2) : Statement (.clz x0 x1 x2) := by intro op f h; cases h
theorem ctz (x0 x1 x2) : Statement (.ctz x0 x1 x2) := by intro op f h; cases h
theorem popc (x0 x1 x2) : Statement (.popc x0 x1 x2) := by intro op f h; cases h
theorem lea0 (x0 x1 x2 x3) : Statement (.lea0 x0 x1 x2 x3) := by intro op f h; cases h
theorem lea1 (x0 x1 x2 x3) : Statement (.lea1 x0 x1 x2 x3) := by intro op f h; cases h
theorem lea2 (x0 x1 x2 x3) : Statement (.lea2 x0 x1 x2 x3) := by intro op f h; cases h
theorem lea3 (x0 x1 x2 x3) : Statement (.lea3 x0 x1 x2 x3) := by intro op f h; cases h
theorem addi (x0 x1 x2 x3) : Statement (.addi x0 x1 x2 x3) := by intro op f h; cases h
theorem andi (x0 x1 x2 x3) : Statement (.andi x0 x1 x2 x3) := by intro op f h; cases h
theorem ori (x0 x1 x2 x3) : Statement (.ori x0 x1 x2 x3) := by intro op f h; cases h
theorem xori (x0 x1 x2 x3) : Statement (.xori x0 x1 x2 x3) := by intro op f h; cases h
theorem shli (x0 x1 x2 x3) : Statement (.shli x0 x1 x2 x3) := by intro op f h; cases h
theorem shri (x0 x1 x2 x3) : Statement (.shri x0 x1 x2 x3) := by intro op f h; cases h
theorem sari (x0 x1 x2 x3) : Statement (.sari x0 x1 x2 x3) := by intro op f h; cases h
theorem slti (x0 x1 x2 x3) : Statement (.slti x0 x1 x2 x3) := by intro op f h; cases h
theorem sltui (x0 x1 x2 x3) : Statement (.sltui x0 x1 x2 x3) := by intro op f h; cases h
theorem muli (x0 x1 x2 x3) : Statement (.muli x0 x1 x2 x3) := by intro op f h; cases h
theorem lis (x0 x1 x2) : Statement (.lis x0 x1 x2) := by intro op f h; cases h
theorem lui (x0 x1 x2) : Statement (.lui x0 x1 x2) := by intro op f h; cases h
theorem pcrel (x0 x1 x2) : Statement (.pcrel x0 x1 x2) := by intro op f h; cases h
theorem bEqz (x0 x1 x2) : Statement (.bEqz x0 x1 x2) := by intro op f h; cases h
theorem bNez (x0 x1 x2) : Statement (.bNez x0 x1 x2) := by intro op f h; cases h
theorem bLtz (x0 x1 x2) : Statement (.bLtz x0 x1 x2) := by intro op f h; cases h
theorem bGez (x0 x1 x2) : Statement (.bGez x0 x1 x2) := by intro op f h; cases h
theorem bGtz (x0 x1 x2) : Statement (.bGtz x0 x1 x2) := by intro op f h; cases h
theorem bLez (x0 x1 x2) : Statement (.bLez x0 x1 x2) := by intro op f h; cases h
theorem bMany (x0 x1 x2) : Statement (.bMany x0 x1 x2) := by intro op f h; cases h
theorem bMnone (x0 x1 x2) : Statement (.bMnone x0 x1 x2) := by intro op f h; cases h
theorem bMall (x0 x1 x2) : Statement (.bMall x0 x1 x2) := by intro op f h; cases h
theorem jmp (x0 x1) : Statement (.jmp x0 x1) := by intro op f h; cases h
theorem call (x0 x1 x2 x3) : Statement (.call x0 x1 x2 x3) := by intro op f h; cases h
theorem callr (x0 x1 x2 x3) : Statement (.callr x0 x1 x2 x3) := by intro op f h; cases h
theorem jr (x0 x1 x2) : Statement (.jr x0 x1 x2) := by intro op f h; cases h
theorem ret (x0) : Statement (.ret x0) := by intro op f h; cases h
theorem lane (x0 x1) : Statement (.lane x0 x1) := by intro op f h; cases h
theorem ljmp (x0 x1) : Statement (.ljmp x0 x1) := by intro op f h; cases h
theorem ljr (x0 x1 x2) : Statement (.ljr x0 x1 x2) := by intro op f h; cases h
theorem lpcr (x0 x1) : Statement (.lpcr x0 x1) := by intro op f h; cases h
theorem mset (x0 x1 x2) : Statement (.mset x0 x1 x2) := by intro op f h; cases h
theorem mget (x0 x1 x2) : Statement (.mget x0 x1 x2) := by intro op f h; cases h
theorem lds (x0 x1 x2 x3 x4) : Statement (.lds x0 x1 x2 x3 x4) := by intro op f h; cases h
theorem sts (x0 x1 x2 x3 x4) : Statement (.sts x0 x1 x2 x3 x4) := by intro op f h; cases h
theorem ldsa (x0 x1 x2 x3 x4 x5) : Statement (.ldsa x0 x1 x2 x3 x4 x5) := by intro op f h; cases h
theorem stsl (x0 x1 x2 x3 x4 x5) : Statement (.stsl x0 x1 x2 x3 x4 x5) := by intro op f h; cases h
theorem atomsAdd (x0 x1 x2 x3 x4) : Statement (.atomsAdd x0 x1 x2 x3 x4) := by intro op f h; cases h
theorem atomsMin (x0 x1 x2 x3 x4) : Statement (.atomsMin x0 x1 x2 x3 x4) := by intro op f h; cases h
theorem atomsMax (x0 x1 x2 x3 x4) : Statement (.atomsMax x0 x1 x2 x3 x4) := by intro op f h; cases h
theorem atomsAnd (x0 x1 x2 x3 x4) : Statement (.atomsAnd x0 x1 x2 x3 x4) := by intro op f h; cases h
theorem atomsOr (x0 x1 x2 x3 x4) : Statement (.atomsOr x0 x1 x2 x3 x4) := by intro op f h; cases h
theorem atomsXor (x0 x1 x2 x3 x4) : Statement (.atomsXor x0 x1 x2 x3 x4) := by intro op f h; cases h
theorem atomsExch (x0 x1 x2 x3 x4) : Statement (.atomsExch x0 x1 x2 x3 x4) := by intro op f h; cases h
theorem atomsCas (x0 x1 x2 x3 x4) : Statement (.atomsCas x0 x1 x2 x3 x4) := by intro op f h; cases h
theorem atomsFadd (x0 x1 x2 x3) : Statement (.atomsFadd x0 x1 x2 x3) := by intro op f h; cases h
theorem atomsFamax (x0 x1 x2 x3) : Statement (.atomsFamax x0 x1 x2 x3) := by intro op f h; cases h
theorem xget (x0 x1 x2 x3 x4) : Statement (.xget x0 x1 x2 x3 x4) := by intro op f h; cases h
theorem xput (x0 x1 x2 x3 x4) : Statement (.xput x0 x1 x2 x3 x4) := by intro op f h; cases h
theorem xamo (x0 x1 x2 x3 x4) : Statement (.xamo x0 x1 x2 x3 x4) := by intro op f h; cases h
theorem xcoll (x0 x1) : Statement (.xcoll x0 x1) := by intro op f h; cases h
theorem xtxa (x0 x1 x2 x3) : Statement (.xtxa x0 x1 x2 x3) := by intro op f h; cases h
theorem xmst (x0 x1 x2 x3) : Statement (.xmst x0 x1 x2 x3) := by intro op f h; cases h
theorem xmld (x0 x1 x2 x3 x4) : Statement (.xmld x0 x1 x2 x3 x4) := by intro op f h; cases h
theorem xchan (x0 x1 x2) : Statement (.xchan x0 x1 x2) := by intro op f h; cases h
theorem xchanOrd (x0 x1 x2) : Statement (.xchanOrd x0 x1 x2) := by intro op f h; cases h
theorem udf (x0) : Statement (.udf x0) := by intro op f h; cases h
theorem nop (x0) : Statement (.nop x0) := by intro op f h; cases h
theorem sync (x0 x1) : Statement (.sync x0 x1) := by intro op f h; cases h
theorem exit (x0) : Statement (.exit x0) := by intro op f h; cases h
theorem yield (x0 x1 x2 x3) : Statement (.yield x0 x1 x2 x3) := by intro op f h; cases h
theorem trap (x0 x1) : Statement (.trap x0 x1) := by intro op f h; cases h
theorem sysc (x0 x1 x2 x3) : Statement (.sysc x0 x1 x2 x3) := by intro op f h; cases h
theorem rett (x0) : Statement (.rett x0) := by intro op f h; cases h
theorem ireg (x0) : Statement (.ireg x0) := by intro op f h; cases h
theorem fence (x0 x1 x2) : Statement (.fence x0 x1 x2) := by intro op f h; cases h
theorem waitseq (x0 x1 x2 x3) : Statement (.waitseq x0 x1 x2 x3) := by intro op f h; cases h
theorem getx (x0 x1 x2) : Statement (.getx x0 x1 x2) := by intro op f h; cases h
theorem setx (x0 x1 x2) : Statement (.setx x0 x1 x2) := by intro op f h; cases h
theorem setf (x0 x1 x2) : Statement (.setf x0 x1 x2) := by intro op f h; cases h
theorem getf (x0 x1) : Statement (.getf x0 x1) := by intro op f h; cases h
theorem bara (x0 x1 x2) : Statement (.bara x0 x1 x2) := by intro op f h; cases h
theorem barw (x0 x1) : Statement (.barw x0 x1) := by intro op f h; cases h
theorem bars (x0 x1 x2) : Statement (.bars x0 x1 x2) := by intro op f h; cases h
theorem enq (x0 x1 x2 x3) : Statement (.enq x0 x1 x2 x3) := by intro op f h; cases h
theorem post (x0 x1 x2 x3) : Statement (.post x0 x1 x2 x3) := by intro op f h; cases h
theorem vadd (x0) : Statement (.vadd x0) := by intro op f h; cases h; exact ⟨_, rfl, rfl⟩
theorem vsub (x0) : Statement (.vsub x0) := by intro op f h; cases h; exact ⟨_, rfl, rfl⟩
theorem vmul (x0) : Statement (.vmul x0) := by intro op f h; cases h; exact ⟨_, rfl, rfl⟩
theorem vmulh (x0) : Statement (.vmulh x0) := by intro op f h; cases h; exact ⟨_, rfl, rfl⟩
theorem vmad (x0) : Statement (.vmad x0) := by intro op f h; cases h; exact ⟨_, rfl, rfl⟩
theorem vmin (x0) : Statement (.vmin x0) := by intro op f h; cases h; exact ⟨_, rfl, rfl⟩
theorem vmax (x0) : Statement (.vmax x0) := by intro op f h; cases h; exact ⟨_, rfl, rfl⟩
theorem vabs (x0) : Statement (.vabs x0) := by intro op f h; cases h; exact ⟨_, rfl, rfl⟩
theorem vneg (x0) : Statement (.vneg x0) := by intro op f h; cases h; exact ⟨_, rfl, rfl⟩
theorem vadds (x0) : Statement (.vadds x0) := by intro op f h; cases h; exact ⟨_, rfl, rfl⟩
theorem vsubs (x0) : Statement (.vsubs x0) := by intro op f h; cases h; exact ⟨_, rfl, rfl⟩
theorem vclz (x0) : Statement (.vclz x0) := by intro op f h; cases h; exact ⟨_, rfl, rfl⟩
theorem vpopc (x0) : Statement (.vpopc x0) := by intro op f h; cases h; exact ⟨_, rfl, rfl⟩
theorem vand (x0) : Statement (.vand x0) := by intro op f h; cases h; exact ⟨_, rfl, rfl⟩
theorem vor (x0) : Statement (.vor x0) := by intro op f h; cases h; exact ⟨_, rfl, rfl⟩
theorem vxor (x0) : Statement (.vxor x0) := by intro op f h; cases h; exact ⟨_, rfl, rfl⟩
theorem vnot (x0) : Statement (.vnot x0) := by intro op f h; cases h; exact ⟨_, rfl, rfl⟩
theorem vshl (x0) : Statement (.vshl x0) := by intro op f h; cases h; exact ⟨_, rfl, rfl⟩
theorem vshr (x0) : Statement (.vshr x0) := by intro op f h; cases h; exact ⟨_, rfl, rfl⟩
theorem vsar (x0) : Statement (.vsar x0) := by intro op f h; cases h; exact ⟨_, rfl, rfl⟩
theorem vmov (x0) : Statement (.vmov x0) := by intro op f h; cases h; exact ⟨_, rfl, rfl⟩
theorem vbcast (x0) : Statement (.vbcast x0) := by intro op f h; cases h; exact ⟨_, rfl, rfl⟩
theorem vsel (x0) : Statement (.vsel x0) := by intro op f h; cases h; exact ⟨_, rfl, rfl⟩
theorem vlane (x0) : Statement (.vlane x0) := by intro op f h; cases h; exact ⟨_, rfl, rfl⟩
theorem vimm (x0 x1 x2 x3) : Statement (.vimm x0 x1 x2 x3) := by intro op f h; cases h
theorem vcmpEq (x0) : Statement (.vcmpEq x0) := by intro op f h; cases h; exact ⟨_, rfl, rfl⟩
theorem vcmpNe (x0) : Statement (.vcmpNe x0) := by intro op f h; cases h; exact ⟨_, rfl, rfl⟩
theorem vcmpLt (x0) : Statement (.vcmpLt x0) := by intro op f h; cases h; exact ⟨_, rfl, rfl⟩
theorem vcmpLe (x0) : Statement (.vcmpLe x0) := by intro op f h; cases h; exact ⟨_, rfl, rfl⟩
theorem vcmpGt (x0) : Statement (.vcmpGt x0) := by intro op f h; cases h; exact ⟨_, rfl, rfl⟩
theorem vcmpGe (x0) : Statement (.vcmpGe x0) := by intro op f h; cases h; exact ⟨_, rfl, rfl⟩
theorem vcmpLtu (x0) : Statement (.vcmpLtu x0) := by intro op f h; cases h; exact ⟨_, rfl, rfl⟩
theorem vcmpLeu (x0) : Statement (.vcmpLeu x0) := by intro op f h; cases h; exact ⟨_, rfl, rfl⟩
theorem vcmpGtu (x0) : Statement (.vcmpGtu x0) := by intro op f h; cases h; exact ⟨_, rfl, rfl⟩
theorem vcmpGeu (x0) : Statement (.vcmpGeu x0) := by intro op f h; cases h; exact ⟨_, rfl, rfl⟩
theorem vfadd (x0) : Statement (.vfadd x0) := by intro op f h; cases h; exact ⟨_, rfl, rfl⟩
theorem vfsub (x0) : Statement (.vfsub x0) := by intro op f h; cases h; exact ⟨_, rfl, rfl⟩
theorem vfmul (x0) : Statement (.vfmul x0) := by intro op f h; cases h; exact ⟨_, rfl, rfl⟩
theorem vfma (x0) : Statement (.vfma x0) := by intro op f h; cases h; exact ⟨_, rfl, rfl⟩
theorem vfms (x0) : Statement (.vfms x0) := by intro op f h; cases h; exact ⟨_, rfl, rfl⟩
theorem vfnma (x0) : Statement (.vfnma x0) := by intro op f h; cases h; exact ⟨_, rfl, rfl⟩
theorem vfmin (x0) : Statement (.vfmin x0) := by intro op f h; cases h; exact ⟨_, rfl, rfl⟩
theorem vfmax (x0) : Statement (.vfmax x0) := by intro op f h; cases h; exact ⟨_, rfl, rfl⟩
theorem vfabs (x0) : Statement (.vfabs x0) := by intro op f h; cases h; exact ⟨_, rfl, rfl⟩
theorem vfneg (x0) : Statement (.vfneg x0) := by intro op f h; cases h; exact ⟨_, rfl, rfl⟩
theorem vfclass (x0) : Statement (.vfclass x0) := by intro op f h; cases h; exact ⟨_, rfl, rfl⟩
theorem vfdiv (x0) : Statement (.vfdiv x0) := by intro op f h; cases h; exact ⟨_, rfl, rfl⟩
theorem vfsqrt (x0) : Statement (.vfsqrt x0) := by intro op f h; cases h; exact ⟨_, rfl, rfl⟩
theorem vfrcp (x0) : Statement (.vfrcp x0) := by intro op f h; cases h; exact ⟨_, rfl, rfl⟩
theorem vfrsq (x0) : Statement (.vfrsq x0) := by intro op f h; cases h; exact ⟨_, rfl, rfl⟩
theorem vfexp2 (x0) : Statement (.vfexp2 x0) := by intro op f h; cases h; exact ⟨_, rfl, rfl⟩
theorem vflog2 (x0) : Statement (.vflog2 x0) := by intro op f h; cases h; exact ⟨_, rfl, rfl⟩
theorem vdiv (x0) : Statement (.vdiv x0) := by intro op f h; cases h; exact ⟨_, rfl, rfl⟩
theorem vrem (x0) : Statement (.vrem x0) := by intro op f h; cases h; exact ⟨_, rfl, rfl⟩
theorem vfcmpEq (x0) : Statement (.vfcmpEq x0) := by intro op f h; cases h; exact ⟨_, rfl, rfl⟩
theorem vfcmpNe (x0) : Statement (.vfcmpNe x0) := by intro op f h; cases h; exact ⟨_, rfl, rfl⟩
theorem vfcmpLt (x0) : Statement (.vfcmpLt x0) := by intro op f h; cases h; exact ⟨_, rfl, rfl⟩
theorem vfcmpLe (x0) : Statement (.vfcmpLe x0) := by intro op f h; cases h; exact ⟨_, rfl, rfl⟩
theorem vfcmpUnord (x0) : Statement (.vfcmpUnord x0) := by intro op f h; cases h; exact ⟨_, rfl, rfl⟩
theorem vfcmpOrd (x0) : Statement (.vfcmpOrd x0) := by intro op f h; cases h; exact ⟨_, rfl, rfl⟩
theorem vcvt (x0) : Statement (.vcvt x0) := by intro op f h; cases h; exact ⟨_, rfl, rfl⟩
theorem vbfpq (x0) : Statement (.vbfpq x0) := by intro op f h; cases h; exact ⟨_, rfl, rfl⟩
theorem vbfpd (x0) : Statement (.vbfpd x0) := by intro op f h; cases h; exact ⟨_, rfl, rfl⟩
theorem vpack (x0) : Statement (.vpack x0) := by intro op f h; cases h; exact ⟨_, rfl, rfl⟩
theorem vunpk (x0) : Statement (.vunpk x0) := by intro op f h; cases h; exact ⟨_, rfl, rfl⟩
theorem vshfl (x0) : Statement (.vshfl x0) := by intro op f h; cases h; exact ⟨_, rfl, rfl⟩
theorem vrot (x0) : Statement (.vrot x0) := by intro op f h; cases h; exact ⟨_, rfl, rfl⟩
theorem vred (x0) : Statement (.vred x0) := by intro op f h; cases h; exact ⟨_, rfl, rfl⟩
theorem vscan (x0) : Statement (.vscan x0) := by intro op f h; cases h; exact ⟨_, rfl, rfl⟩
theorem vote (x0) : Statement (.vote x0) := by intro op f h; cases h; exact ⟨_, rfl, rfl⟩
theorem ballotLane (x0) : Statement (.ballotLane x0) := by intro op f h; cases h; exact ⟨_, rfl, rfl⟩
theorem ballotId (x0) : Statement (.ballotId x0) := by intro op f h; cases h; exact ⟨_, rfl, rfl⟩
theorem mand (x0) : Statement (.mand x0) := by intro op f h; cases h; exact ⟨_, rfl, rfl⟩
theorem mor (x0) : Statement (.mor x0) := by intro op f h; cases h; exact ⟨_, rfl, rfl⟩
theorem mxor (x0) : Statement (.mxor x0) := by intro op f h; cases h; exact ⟨_, rfl, rfl⟩
theorem mnot (x0) : Statement (.mnot x0) := by intro op f h; cases h; exact ⟨_, rfl, rfl⟩
theorem mandn (x0) : Statement (.mandn x0) := by intro op f h; cases h; exact ⟨_, rfl, rfl⟩
theorem mpopc (x0) : Statement (.mpopc x0) := by intro op f h; cases h; exact ⟨_, rfl, rfl⟩
theorem mfirst (x0) : Statement (.mfirst x0) := by intro op f h; cases h; exact ⟨_, rfl, rfl⟩
theorem divb (x0) : Statement (.divb x0) := by intro op f h; cases h; exact ⟨_, rfl, rfl⟩
theorem elseb (x0) : Statement (.elseb x0) := by intro op f h; cases h; exact ⟨_, rfl, rfl⟩
theorem recv (x0) : Statement (.recv x0) := by intro op f h; cases h; exact ⟨_, rfl, rfl⟩
theorem regrp (x0) : Statement (.regrp x0) := by intro op f h; cases h; exact ⟨_, rfl, rfl⟩
theorem ld (x0) : Statement (.ld x0) := by intro op f h; cases h; exact ⟨_, rfl, rfl⟩
theorem ldst (x0) : Statement (.ldst x0) := by intro op f h; cases h; exact ⟨_, rfl, rfl⟩
theorem ldg (x0) : Statement (.ldg x0) := by intro op f h; cases h; exact ⟨_, rfl, rfl⟩
theorem ldw (x0) : Statement (.ldw x0) := by intro op f h; cases h; exact ⟨_, rfl, rfl⟩
theorem st (x0) : Statement (.st x0) := by intro op f h; cases h; exact ⟨_, rfl, rfl⟩
theorem stst (x0) : Statement (.stst x0) := by intro op f h; cases h; exact ⟨_, rfl, rfl⟩
theorem stg (x0) : Statement (.stg x0) := by intro op f h; cases h; exact ⟨_, rfl, rfl⟩
theorem atomAdd (x0) : Statement (.atomAdd x0) := by intro op f h; cases h; exact ⟨_, rfl, rfl⟩
theorem atomMin (x0) : Statement (.atomMin x0) := by intro op f h; cases h; exact ⟨_, rfl, rfl⟩
theorem atomMax (x0) : Statement (.atomMax x0) := by intro op f h; cases h; exact ⟨_, rfl, rfl⟩
theorem atomAnd (x0) : Statement (.atomAnd x0) := by intro op f h; cases h; exact ⟨_, rfl, rfl⟩
theorem atomOr (x0) : Statement (.atomOr x0) := by intro op f h; cases h; exact ⟨_, rfl, rfl⟩
theorem atomXor (x0) : Statement (.atomXor x0) := by intro op f h; cases h; exact ⟨_, rfl, rfl⟩
theorem atomExch (x0) : Statement (.atomExch x0) := by intro op f h; cases h; exact ⟨_, rfl, rfl⟩
theorem atomCas (x0) : Statement (.atomCas x0) := by intro op f h; cases h; exact ⟨_, rfl, rfl⟩
theorem atomFadd (x0) : Statement (.atomFadd x0) := by intro op f h; cases h; exact ⟨_, rfl, rfl⟩
theorem atomFamax (x0) : Statement (.atomFamax x0) := by intro op f h; cases h; exact ⟨_, rfl, rfl⟩
theorem pref (x0) : Statement (.pref x0) := by intro op f h; cases h; exact ⟨_, rfl, rfl⟩
theorem laneUdf (x0) : Statement (.laneUdf x0) := by intro op f h; cases h
theorem tfmt (x0 x1 x2 x3 x4 x5 x6 x7 x8) : Statement (.tfmt x0 x1 x2 x3 x4 x5 x6 x7 x8) := by intro op f h; cases h
theorem tdesa (x0 x1 x2 x3 x4) : Statement (.tdesa x0 x1 x2 x3 x4) := by intro op f h; cases h
theorem tdesb (x0 x1 x2 x3 x4) : Statement (.tdesb x0 x1 x2 x3 x4) := by intro op f h; cases h
theorem tli (x0 x1 x2) : Statement (.tli x0 x1 x2) := by intro op f h; cases h
theorem tliH (x0 x1 x2) : Statement (.tliH x0 x1 x2) := by intro op f h; cases h
theorem tadd (x0 x1 x2 x3 x4 x5 x6) : Statement (.tadd x0 x1 x2 x3 x4 x5 x6) := by intro op f h; cases h
theorem tmma (x0 x1 x2) : Statement (.tmma x0 x1 x2) := by intro op f h; cases h
theorem tmmaj (x0 x1 x2 x3 x4) : Statement (.tmmaj x0 x1 x2 x3 x4) := by intro op f h; cases h
theorem tzero (x0 x1) : Statement (.tzero x0 x1) := by intro op f h; cases h
theorem tdrain (x0 x1 x2 x3 x4 x5 x6 x7 x8 x9 x10 x11) : Statement (.tdrain x0 x1 x2 x3 x4 x5 x6 x7 x8 x9 x10 x11) := by intro op f h; cases h
theorem tbarw (x0 x1) : Statement (.tbarw x0 x1) := by intro op f h; cases h
theorem tbara (x0 x1 x2) : Statement (.tbara x0 x1 x2) := by intro op f h; cases h
theorem tloop (x0 x1 x2) : Statement (.tloop x0 x1 x2) := by intro op f h; cases h
theorem tend (x0) : Statement (.tend x0) := by intro op f h; cases h
theorem tnop (x0) : Statement (.tnop x0) := by intro op f h; cases h
theorem tldc (x0 x1 x2 x3) : Statement (.tldc x0 x1 x2 x3) := by intro op f h; cases h
theorem tstc (x0 x1 x2 x3) : Statement (.tstc x0 x1 x2 x3) := by intro op f h; cases h
theorem uncorrectableFetch (x0 x1) : Statement (.uncorrectableFetch x0 x1) := by intro op f h; cases h
theorem asyncFaultTake (x0) : Statement (.asyncFaultTake x0) := by intro op f h; cases h
theorem illegalInstruction (x0 x1) : Statement (.illegalInstruction x0 x1) := by intro op f h; cases h
theorem instructionFetchFault (x0 x1 x2 x3) : Statement (.instructionFetchFault x0 x1 x2 x3) := by intro op f h; cases h
theorem computeToExchangeBoundary (x0 x1) : Statement (.computeToExchangeBoundary x0 x1) := by intro op f h; cases h
theorem exchangeToComputeBoundary (x0 x1) : Statement (.exchangeToComputeBoundary x0 x1) := by intro op f h; cases h
theorem computeLimitExpiry (x0 x1) : Statement (.computeLimitExpiry x0 x1) := by intro op f h; cases h
theorem exchangeLimitExpiry (x0) : Statement (.exchangeLimitExpiry x0) := by intro op f h; cases h
theorem imageSpillFill (x0) : Statement (.imageSpillFill x0) := by intro op f h; cases h
theorem shadowBankDrain (x0) : Statement (.shadowBankDrain x0) := by intro op f h; cases h
theorem relayInject (x0 x1 x2 x3) : Statement (.relayInject x0 x1 x2 x3) := by intro op f h; cases h
theorem relayRequestArrival (x0 x1 x2) : Statement (.relayRequestArrival x0 x1 x2) := by intro op f h; cases h
theorem relayResponseArrival (x0 x1 x2 x3) : Statement (.relayResponseArrival x0 x1 x2 x3) := by intro op f h; cases h
theorem packetRetransmit (x0) : Statement (.packetRetransmit x0) := by intro op f h; cases h
theorem neighbourCardArrival (x0 x1) : Statement (.neighbourCardArrival x0 x1) := by intro op f h; cases h
theorem postAccept (x0 x1) : Statement (.postAccept x0 x1) := by intro op f h; cases h
theorem cardEnqueue (x0 x1) : Statement (.cardEnqueue x0 x1) := by intro op f h; cases h
theorem cardStart (x0 x1 x2) : Statement (.cardStart x0 x1 x2) := by intro op f h; cases h
theorem cardComplete (x0 x1) : Statement (.cardComplete x0 x1) := by intro op f h; cases h
theorem engineServiceSubmit (x0 x1 x2) : Statement (.engineServiceSubmit x0 x1 x2) := by intro op f h; cases h
theorem shootdown (x0) : Statement (.shootdown x0) := by intro op f h; cases h
theorem shootdownAck (x0 x1) : Statement (.shootdownAck x0 x1) := by intro op f h; cases h
theorem shootdownTimeout (x0) : Statement (.shootdownTimeout x0) := by intro op f h; cases h
theorem fenceClear (x0 x1) : Statement (.fenceClear x0 x1) := by intro op f h; cases h
theorem divergenceCollectiveComplete (x0) : Statement (.divergenceCollectiveComplete x0) := by intro op f h; cases h
theorem tileInstructionComplete (x0) : Statement (.tileInstructionComplete x0) := by intro op f h; cases h
theorem barrierArrivalCount (x0 x1) : Statement (.barrierArrivalCount x0 x1) := by intro op f h; cases h
theorem variableResultWriteback (x0 x1 x2) : Statement (.variableResultWriteback x0 x1 x2) := by intro op f h; cases h
theorem lateFault (x0 x1) : Statement (.lateFault x0 x1) := by intro op f h; cases h
theorem wsRefreshWindow (x0) : Statement (.wsRefreshWindow x0) := by intro op f h; cases h
theorem powerWindowEnd (x0 x1) : Statement (.powerWindowEnd x0 x1) := by intro op f h; cases h
theorem fdivAdopt (x0) : Statement (.fdivAdopt x0) := by intro op f h; cases h
theorem droopStretch (x0 x1 x2) : Statement (.droopStretch x0 x1 x2) := by intro op f h; cases h
theorem stopwatchClear (x0 x1 x2) : Statement (.stopwatchClear x0 x1 x2) := by intro op f h; cases h
theorem submit (x0 x1 x2) : Statement (.submit x0 x1 x2) := by intro op f h; cases h
theorem hostMemRead (x0 x1 x2) : Statement (.hostMemRead x0 x1 x2) := by intro op f h; cases h
theorem hostMemWrite (x0 x1 x2) : Statement (.hostMemWrite x0 x1 x2) := by intro op f h; cases h
theorem hostAtomic (x0 x1 x2 x3) : Statement (.hostAtomic x0 x1 x2 x3) := by intro op f h; cases h
theorem syscReply (x0 x1 x2) : Statement (.syscReply x0 x1 x2) := by intro op f h; cases h
theorem reportRingTailWrite (x0 x1) : Statement (.reportRingTailWrite x0 x1) := by intro op f h; cases h
theorem attestationStart (x0 x1) : Statement (.attestationStart x0 x1) := by intro op f h; cases h
theorem attestationComplete (x0) : Statement (.attestationComplete x0) := by intro op f h; cases h
theorem coldReset (x0 x1) : Statement (.coldReset x0 x1) := by intro op f h; cases h
theorem warmReset (x0 x1) : Statement (.warmReset x0 x1) := by intro op f h; cases h
theorem registerWrite (x0 x1 x2) : Statement (.registerWrite x0 x1 x2) := by intro op f h; cases h
theorem pageFetchCompletion (x0) : Statement (.pageFetchCompletion x0) := by intro op f h; cases h
theorem makeGangReady (x0) : Statement (.makeGangReady x0) := by intro op f h; cases h
theorem serviceSoftwareTermination (x0 x1) : Statement (.serviceSoftwareTermination x0 x1) := by intro op f h; cases h
theorem serviceClusterMemoryAccess (x0 x1 x2) : Statement (.serviceClusterMemoryAccess x0 x1 x2) := by intro op f h; cases h
theorem jobCreation (x0 x1) : Statement (.jobCreation x0 x1) := by intro op f h; cases h
theorem endpointLost (x0) : Statement (.endpointLost x0) := by intro op f h; cases h
theorem droopStretchEnd (x0 x1) : Statement (.droopStretchEnd x0 x1) := by intro op f h; cases h
theorem uncorrectableData (x0) : Statement (.uncorrectableData x0) := by intro op f h; cases h

end Sys2Proof.Laws.Coded
end

