-- ==== Sys2Proof/Laws/Step.lean ====
section
/-! SUPPORT. What one step can do: it answers what the turn's instruction answers, closed by endStep. -/

namespace Sys2Proof.Machine

/-- The end of a step answers a next state only from one that no missing storage stops, and changes the form of memory alone. -/
theorem endStep_cases (r : Res) (t : State) (h : endStep r = .next t) :
    ∃ s, r = .next s ∧ s.stop = none ∧ t = { s with mem := cellsCanon s.mem } := by
  cases r with
  | next s =>
    refine ⟨s, rfl, ?_⟩
    unfold endStep at h
    cases hs : s.stop with
    | some f => simp [hs] at h
    | none => simp only [hs] at h; exact ⟨rfl, by injection h with h; exact h.symm⟩
  | fault f => cases h
  | refused f => cases h

/-- A step is the turn's instruction in the state the turn prepares, or that state when there is none. -/
theorem step_cases (s : State) :
    (∃ i, (s.nextTurn.2.prepare s.nextTurn.1).1 = some i ∧ step s = endStep (exec i (s.nextTurn.2.prepare s.nextTurn.1).2)) ∨
    ((s.nextTurn.2.prepare s.nextTurn.1).1 = none ∧ step s = endStep (.next (s.nextTurn.2.prepare s.nextTurn.1).2)) := by
  unfold step
  rcases hp : s.nextTurn.2.prepare s.nextTurn.1 with ⟨_ | i, v⟩
  · right; exact ⟨rfl, by simp [hp]⟩
  · left; exact ⟨i, rfl, by simp [hp]⟩

/-- The turn of an event runs it. -/
theorem step_event (s : State) (i : Instr) (rest : List Turn) (ht : s.turns = .event i :: rest) (hi : isEvent i = true) :
    step s = endStep (exec i { s with turns := rest, clock := s.clock + 1 }) := by
  unfold step State.nextTurn
  simp [ht, State.prepare, hi]

end Sys2Proof.Machine
end

