-- ==== Sys2Proof/Laws/Translate.lean ====
section
/-! SUPPORT. What a translation and an element check may touch (15 R290, R299): the TLBs, the reticles' control registers and
memory; no squad, block, gang, device, job or field, and not the model's counter. -/

namespace Sys2Proof.Machine

/-- t is s but for memory, reticles, cores' and columns' TLBs, and storage met that is not there. -/
def OnlyTlbs (s t : State) : Prop :=
  t = { s with mem := t.mem, rets := t.rets, cores := t.cores, columns := t.columns }

theorem onlyTlbs_refl (s : State) : OnlyTlbs s s := rfl

theorem onlyTlbs_trans {s t u : State} (h : OnlyTlbs s t) (k : OnlyTlbs t u) : OnlyTlbs s u := by
  unfold OnlyTlbs at *
  rw [k, h]

theorem onlyTlbs_squads {s t : State} (h : OnlyTlbs s t) : t.squads = s.squads := by rw [h]
theorem onlyTlbs_blocks {s t : State} (h : OnlyTlbs s t) : t.blocks = s.blocks := by rw [h]
theorem onlyTlbs_gangs {s t : State} (h : OnlyTlbs s t) : t.gangs = s.gangs := by rw [h]
theorem onlyTlbs_actor {s t : State} (h : OnlyTlbs s t) : t.actor = s.actor := by rw [h]
theorem onlyTlbs_clock {s t : State} (h : OnlyTlbs s t) : t.clock = s.clock := by rw [h]
theorem onlyTlbs_devs {s t : State} (h : OnlyTlbs s t) : t.devs = s.devs := by rw [h]
theorem onlyTlbs_jobs {s t : State} (h : OnlyTlbs s t) : t.jobs = s.jobs := by rw [h]
theorem onlyTlbs_fields {s t : State} (h : OnlyTlbs s t) : t.fields = s.fields := by rw [h]
theorem onlyTlbs_bad {s t : State} (h : OnlyTlbs s t) : t.bad = s.bad := by rw [h]
theorem onlyTlbs_stop {s t : State} (h : OnlyTlbs s t) : t.stop = s.stop := by rw [h]

theorem onlyTlbs_setRet (s : State) (r : Nat) (x : Reticle) : OnlyTlbs s (s.setRet r x) := rfl
theorem onlyTlbs_setCore (s : State) (c : Nat) (x : Core) : OnlyTlbs s (s.setCore c x) := rfl
theorem onlyTlbs_setColumn (s : State) (c : Nat) (x : List TlbEntry) : OnlyTlbs s (s.setColumn c x) := rfl
theorem onlyTlbs_writeBytes (s : State) (a : Nat) (bs : List Byte) : OnlyTlbs s (s.writeBytes a bs) := rfl
theorem onlyTlbs_recall (s : State) (a : Nat) : OnlyTlbs s (s.recall a) := by
  unfold State.recall
  dsimp only
  split
  · split <;> first | exact onlyTlbs_setRet _ _ _ | exact onlyTlbs_refl _
  · exact onlyTlbs_refl _
theorem onlyTlbs_recallRange (s : State) (a n : Nat) : OnlyTlbs s (s.recallRange a n) := by
  unfold State.recallRange
  dsimp only
  split
  · split <;> first | exact onlyTlbs_setRet _ _ _ | exact onlyTlbs_refl _
  · exact onlyTlbs_refl _
theorem onlyTlbs_write (s : State) (a n v : Nat) : OnlyTlbs s (s.write a n v) := onlyTlbs_writeBytes s a (numBytes n v)

theorem onlyTlbs_sampleMiss (s : State) (w : Walker) (kind : Kind) (va : BitVec 64) (home : Nat) :
    OnlyTlbs s (s.sampleMiss w kind va home) := by
  unfold State.sampleMiss
  dsimp only
  split
  · exact onlyTlbs_trans (onlyTlbs_trans (onlyTlbs_trans (onlyTlbs_trans (onlyTlbs_setRet _ _ _) (onlyTlbs_recallRange _ _ _))
      (onlyTlbs_write _ _ _ _)) (onlyTlbs_write _ _ _ _)) (onlyTlbs_setRet _ _ _)
  · exact onlyTlbs_setRet _ _ _

/-- The write of a leaf's A and D bits. -/
theorem onlyTlbs_leafWrite (s : State) (a : Nat) (x y : BitVec 64) :
    OnlyTlbs s (if y = x then s else (s.recall a).write a 8 y.toNat) := by
  split
  · exact onlyTlbs_refl s
  · exact onlyTlbs_trans (onlyTlbs_recall s a) (onlyTlbs_write _ a 8 y.toNat)

theorem onlyTlbs_translate (s : State) (w : Walker) (kind : Kind) (va : BitVec 64) : OnlyTlbs s (s.translate w kind va).1 := by
  unfold State.translate
  dsimp only
  split
  · rfl
  · split
    · exact onlyTlbs_trans (onlyTlbs_setCore _ _ _) (onlyTlbs_sampleMiss _ _ _ _ _)
    · split
      · dsimp only; split <;> first | exact onlyTlbs_refl _ | exact onlyTlbs_sampleMiss _ _ _ _ _
      · dsimp only; split <;> first | exact onlyTlbs_refl _ | exact onlyTlbs_sampleMiss _ _ _ _ _
      · dsimp only; split <;> first | exact onlyTlbs_refl _ | exact onlyTlbs_sampleMiss _ _ _ _ _
      · split
        · dsimp only; split <;> first | exact onlyTlbs_refl _ | exact onlyTlbs_sampleMiss _ _ _ _ _
        · dsimp only
          split
          · refine onlyTlbs_trans ?_ (onlyTlbs_sampleMiss _ _ _ _ _)
            exact onlyTlbs_trans (onlyTlbs_trans (onlyTlbs_leafWrite _ _ _ _) (onlyTlbs_setCore _ _ _)) (onlyTlbs_setColumn _ _ _)
          · exact onlyTlbs_leafWrite _ _ _ _

/-- The checks of an element access touch no more. -/
theorem onlyTlbs_access (s : State) (b : Nat) (kind : Kind) (va : BitVec 64) (n : Nat) :
    OnlyTlbs s (s.access b kind va n).1 := by
  unfold State.access
  split
  · rfl
  · split
    · rfl
    · split
      · rfl
      · exact onlyTlbs_translate _ _ _ _

/-- A squad's record read after the checks of an access is the record before them. -/
theorem squad_access (s : State) (b : Nat) (kind : Kind) (va : BitVec 64) (n q : Nat) :
    (s.access b kind va n).1.squad q = s.squad q := by
  unfold State.squad; rw [onlyTlbs_squads (onlyTlbs_access s b kind va n)]

end Sys2Proof.Machine
end

