-- ==== Sys2Proof/Tests/Slice0.lean ====
section
/-! SUPPORT. Tests: words written out from the encoding tables, an ill-formed term for each well-formedness check, one step of a
few instructions with results worked out by hand, and for every statement with hypotheses a state and operands that meet them. -/

namespace Sys2Proof.Machine
set_option Elab.async false

-- Words written out bit by bit (02 Tables 2-2 to 2-13; 11 Table 11-2) ------------------------------------------------------

-- ALU group, major 000001: minor 0000001 is SUB; 0010111 is CLZ, whose sb must be zero.
theorem test_decode_sub : decodeScalar 0b000001_0_000001_000010_000011_0000001 = .ok (.sub 0 1 2 3) := by decide
theorem test_decode_clz : decodeScalar 0b000001_0_000001_000010_000000_0010111 = .ok (.clz 0 1 2) := by decide
theorem test_refuse_clz_sb : decodeScalar 0b000001_0_000001_000010_000001_0010111 = .error .mustBeZero := by decide
-- ADDI, major 000010, imm13 -1.
theorem test_decode_addi : decodeScalar 0b000010_0_000001_000010_1111111111111 = .ok (.addi 0 1 2 0x1FFF) := by decide
-- LUI, major 001101.
theorem test_decode_lui : decodeScalar 0b001101_0_000100_0000000000000000001 = .ok (.lui 0 4 1) := by decide
-- CALL, major 010010: V 5 bits, W 2 bits, offset 18 bits.
theorem test_decode_call : decodeScalar 0b010010_0_00011_01_000000000000000010 = .ok (.call 0 3 1 2) := by decide
-- LANE, major 010110: count 1..4096 in 19 bits.
theorem test_decode_lane : decodeScalar 0b010110_1_000000_0000001000000000000 = .ok (.lane 1 4096) := by decide
theorem test_refuse_lane_count : decodeScalar 0b010110_1_000000_0000001000000000001 = .error .reservedField := by decide
-- MSET, major 011010: mask number in the low four bits of the first field.
theorem test_decode_mset : decodeScalar 0b011010_0_00_0011_000101_0000000000000 = .ok (.mset 0 3 5) := by decide
-- STSL, major 100011: width, scope, imm8.
theorem test_decode_stsl : decodeScalar 0b100011_0_000111_000110_10_101_11111111 = .ok (.stsl 0 7 6 2 5 0xFF) := by decide
-- XGET, major 101000: F - 1 in the low seven bits.
theorem test_decode_xget : decodeScalar 0b101000_0_000001_000010_000011_0000111 = .ok (.xget 0 1 2 3 7) := by decide
-- WAITSEQ, SYS minor 0001001, and SYSC, SYS minor 0000101.
theorem test_decode_waitseq : decodeScalar 0b000000_0_011_000_000010_000011_0001001 = .ok (.waitseq 0 3 2 3) := by decide
theorem test_decode_sysc : decodeScalar 0b000000_0_000001_000010_000011_0000101 = .ok (.sysc 0 1 2 3) := by decide
-- BARS, SYS minor 0010000.
theorem test_decode_bars : decodeScalar 0b000000_0_00_0101_000010_000000_0010000 = .ok (.bars 0 5 2) := by decide
-- UDF, major 111111 with bit 25 clear.
theorem test_decode_udf : decodeScalar 0b111111_0_0000000000000000000000111 = .ok (.udf 7) := by decide

-- VFMA v8 = v1 * v2 + v3, FP32 (EF 9), RND 4 (to nearest even): major 00000100 minor 0011.
theorem test_decode_vfma :
    decodeLane 0b00000100_0011_0_0000_0_0_0_00000001000_00000000001_00000000010_00000000011_1001_100_00_000_000_0_0000000000000000
      = .ok (.vfma ⟨0, 0, .vec 8, .vec 1, .vec 2, .vec 3, ⟨9, 4, 0, 0, 0, 0⟩⟩) := by decide
-- VCMP.lt m2 = v1 < s3, INT32: major 00000011 minor 0010, vb a scalar register.
theorem test_decode_vcmp :
    decodeLane 0b00000011_0010_0_0000_0_1_0_00000000010_00000000001_00000000011_00000000000_0011_000_00_000_000_0_0000000000000000
      = .ok (.vcmpLt ⟨0, 0, .msk 2, .vec 1, .sca 3, .unused, ⟨3, 0, 0, 0, 0, 0⟩⟩) := by decide
-- VOTE.count s4 of m1: major 00001001 minor 0000, scalar destination, ARG 3.
theorem test_decode_vote :
    decodeLane 0b00001001_0000_0_0000_0_0_0_00000000100_00000000001_00000000000_00000000000_0000_000_00_000_000_0_0000000000000011
      = .ok (.vote ⟨0, 0, .sca 4, .msk 1, .unused, .unused, ⟨0, 0, 0, 0, 0, 3⟩⟩) := by decide
-- BALLOT.lane and BALLOT.id share minor 0001; ARG bit 0 tells them apart.
theorem test_decode_ballot :
    decodeLane 0b00001001_0001_0_0000_0_0_0_00000000100_00000000001_00000000010_00000000000_0000_000_00_000_000_0_0000000000000001
      = .ok (.ballotId ⟨0, 0, .sca 4, .msk 1, .sca 2, .unused, ⟨0, 0, 0, 0, 0, 1⟩⟩) := by decide
-- DIVB on m1, empty live set: major 00001010 minor 0000.
theorem test_decode_divb :
    decodeLane 0b00001010_0000_0_0000_0_0_0_00000000000_00000000001_00000000000_00000000000_0000_000_00_000_000_0_0000000000000000
      = .ok (.divb ⟨0, 0, .unused, .msk 1, .unused, .unused, ⟨0, 0, 0, 0, 0, 0⟩⟩) := by decide
-- LD v4 from the addresses of the pair v2, v3, INT32, acquire at scope 3: major 00010000 minor 0000.
theorem test_decode_ld :
    decodeLane 0b00010000_0000_0_0000_0_0_0_00000000100_00000000010_00000000000_00000000000_0011_000_00_011_010_0_0000000000001000
      = .ok (.ld ⟨0, 0, .vec 4, .vec 2, .unused, .unused, ⟨3, 0, 0, 3, 2, 8⟩⟩) := by decide
-- An odd register where LD names an address pair, and modifier bit 16 set.
theorem test_refuse_ld_odd :
    decodeLane 0b00010000_0000_0_0000_0_0_0_00000000100_00000000011_00000000000_00000000000_0011_000_00_000_000_0_0000000000000000
      = .error .reservedField := by decide
theorem test_refuse_bit16 :
    decodeLane 0b00000001_0000_0_0000_0_0_0_00000000100_00000000001_00000000010_00000000000_0011_000_00_000_000_1_0000000000000000
      = .error .mustBeZero := by decide
-- Major 00000000 is no lane major.
theorem test_refuse_lane_major : decodeLane 0 = .error .reservedMinor := by decide

-- TFMT of BFP operands, N 8 each: opcode 00000001.
theorem test_decode_tfmt :
    decodeTile 0b00000001_0_000_1000_000_1000_0_0_00_0_000000000000000000000000000000000000 = .ok (.tfmt 0 0 8 0 8 0 0 0 0) := by decide
-- TLI.H: opcode 00000100, bit 50 set.
theorem test_decode_tlih :
    decodeTile 0b00000100_0_0011_1_00_00000000000000000000000000000000_1000000000000001 = .ok (.tliH 0 3 0x8001) := by decide
-- TDRAIN to FP32 (OFM 1): opcode 00001001.
theorem test_decode_tdrain :
    decodeTile 0b00001001_0_01_0010_0011_0000_0000_0_1_001_0000_00_00000000000000000000_000000
      = .ok (.tdrain 0 1 2 3 0 0 0 1 1 0 0 0) := by decide
theorem test_refuse_tile_opcode : decodeTile 0b00001110_00000000000000000000000000000000000000000000000000000000 = .error .reservedMajor := by
  decide

-- The word of an opcode-table row, laid out low byte first.
theorem test_table_word : decodeTableWord 32 0x04000000 = some (.add 0 0 0 0) := by decide

-- An ill-formed term for each check of Instr.wf ----------------------------------------------------------------------------

/-- VADD v4, v1, v2 of INT32, with other modifiers. -/
def addForm (md : LaneMod) : LaneForm := ⟨0, 0, .vec 4, .vec 1, .vec 2, .unused, md⟩
def plainMod : LaneMod := ⟨3, 0, 0, 0, 0, 0⟩

theorem test_wf_add : (Instr.vadd (addForm plainMod)).wf = true := by decide
theorem test_illformed_lane_zero : (Instr.lane 0 0).wf = false := by decide
theorem test_illformed_lane_count : (Instr.lane 0 4097).wf = false := by decide
theorem test_illformed_ldsa_scope : (Instr.ldsa 0 1 2 3 0 0).wf = false := by decide
theorem test_illformed_stsl_scope : (Instr.stsl 0 1 2 3 7 0).wf = false := by decide
theorem test_illformed_waitseq_scope : (Instr.waitseq 0 0 1 2).wf = false := by decide
theorem test_illformed_fence_scope : (Instr.fence 0 7 4).wf = false := by decide
theorem test_illformed_fence_order : (Instr.fence 0 4 1).wf = false := by decide
theorem test_illformed_tadd : (Instr.tadd 0 1 2 3 0 0 0).wf = false := by decide
theorem test_illformed_tdrain_scale : (Instr.tdrain 0 0 1 2 3 0 0 0 1 0 0 0).wf = false := by decide
theorem test_illformed_tdrain_amax : (Instr.tdrain 0 0 1 2 0 3 0 0 1 0 0 0).wf = false := by decide
theorem test_illformed_class_vd : (Instr.vadd ⟨0, 0, .sca 4, .vec 1, .vec 2, .unused, plainMod⟩).wf = false := by decide
theorem test_illformed_class_va : (Instr.vbcast ⟨0, 0, .vec 4, .sca 1, .unused, .unused, plainMod⟩).wf = false := by decide
theorem test_illformed_class_vb : (Instr.vadd ⟨0, 0, .vec 4, .vec 1, .msk 2, .unused, plainMod⟩).wf = false := by decide
theorem test_illformed_class_vc : (Instr.vadd ⟨0, 0, .vec 4, .vec 1, .vec 2, .vec 3, plainMod⟩).wf = false := by decide
theorem test_illformed_mk : (Instr.mand ⟨0, 1, .msk 1, .msk 2, .msk 3, .unused, ⟨0, 0, 0, 0, 0, 0⟩⟩).wf = false := by decide
theorem test_illformed_arg : (Instr.vadd (addForm ⟨3, 0, 0, 0, 0, 1⟩)).wf = false := by decide
theorem test_illformed_scope : (Instr.ld ⟨0, 0, .vec 4, .vec 2, .unused, .unused, ⟨3, 0, 0, 7, 1, 0⟩⟩).wf = false := by decide
theorem test_illformed_scope_order : (Instr.vadd (addForm ⟨3, 0, 0, 1, 0, 0⟩)).wf = false := by decide
theorem test_illformed_order_load : (Instr.ld ⟨0, 0, .vec 4, .vec 2, .unused, .unused, ⟨3, 0, 0, 1, 3, 0⟩⟩).wf = false := by decide
theorem test_illformed_order_store : (Instr.st ⟨0, 0, .unused, .vec 2, .unused, .vec 4, ⟨3, 0, 0, 1, 2, 0⟩⟩).wf = false := by decide
theorem test_illformed_order_plain : (Instr.vadd (addForm ⟨3, 0, 0, 0, 1, 0⟩)).wf = false := by decide
theorem test_illformed_order_atomic : (Instr.atomAdd ⟨0, 0, .vec 4, .vec 2, .unused, .vec 6, ⟨3, 0, 0, 1, 5, 0⟩⟩).wf = false := by decide
theorem test_illformed_rnd : (Instr.vfadd (addForm ⟨9, 2, 0, 0, 0, 0⟩)).wf = false := by decide
theorem test_illformed_satm : (Instr.vadd (addForm ⟨3, 0, 3, 0, 0, 0⟩)).wf = false := by decide
theorem test_illformed_rnd_integer : (Instr.vadd (addForm ⟨3, 4, 0, 0, 0, 0⟩)).wf = false := by decide
theorem test_illformed_format : (Instr.vadd (addForm ⟨9, 0, 0, 0, 0, 0⟩)).wf = false := by decide
theorem test_illformed_no_format : (Instr.vlane ⟨0, 0, .vec 4, .unused, .unused, .unused, plainMod⟩).wf = false := by decide
theorem test_illformed_pair : (Instr.vand ⟨0, 0, .vec 4, .vec 1, .vec 2, .unused, ⟨10, 0, 0, 0, 0, 0⟩⟩).wf = false := by decide
theorem test_illformed_vote : (Instr.vote ⟨0, 0, .sca 4, .msk 1, .unused, .unused, ⟨0, 0, 0, 0, 0, 6⟩⟩).wf = false := by decide
theorem test_illformed_bfp_width : (Instr.vbfpq ⟨0, 0, .vec 4, .vec 1, .unused, .unused, ⟨9, 0, 0, 0, 0, 9⟩⟩).wf = false := by decide
theorem test_illformed_live_set : (Instr.divb ⟨0, 0, .unused, .msk 1, .unused, .unused, ⟨0, 0, 0, 0, 0, 0xC400⟩⟩).wf = false := by decide
-- Decoding refuses what is ill formed: the word of that DIVB.
theorem test_refuse_live_set :
    decodeLane 0b00001010_0000_0_0000_0_0_0_00000000000_00000000001_00000000000_00000000000_0000_000_00_000_000_0_1100010000000000
      = .error .reservedField := by decide


-- States for the tests -------------------------------------------------------------------------------------------------------

/-- The machine with a launched gang of one block of one squad, which acts; and the squad within a LANE. -/
def w0 : State := State.reset.placeWord .scalar (leBytes 4 0)
def wL : State := State.reset.placeWord .lane (leBytes 12 0)
/-- s with another record of the acting squad. -/
def withSq (s : State) (f : Squad → Squad) : State := s.setSq (f s.sq)
/-- With a handler, and its squad in it. -/
def wTrap : State := withSq w0 (fun x => { x with trap := { thandler := 0x8000 }, vws := 64, sregs := [(1, 1)] })
def wHandler : State := withSq w0 (fun x => { x with handler := some ⟨1, 0xC00, 0, 0, 1, false, none⟩, trap := { tpc := 0x20000 } })
/-- One lane active, v2:v3 of which holds 0x100, s3 5. -/
def wLane : State := withSq wL (fun x => { x with masks := [(0, 1), (1, 1)], sregs := [(3, 5)], vregs := [(64, 0x100), (128, 7)] })

/-- An instruction's next state, or the state itself. -/
def run1 (i : Instr) (s : State) : State := match exec i s with | .next t => t | _ => s

-- One step of a few instructions; the results are worked out by hand ---------------------------------------------------------

-- 05 Table 5-4: the shift count is sb modulo 64; division by zero gives all ones; MULH of -1 and 2 is -1.
theorem test_shl_mod :
    (run1 (.shl 0 3 1 2) (withSq w0 (fun x => { x with sregs := [(1, 3), (2, 65)] }))).sq.readS 3 = 6 := by decide
theorem test_div_zero :
    (run1 (.div 0 3 1 2) (withSq w0 (fun x => { x with sregs := [(1, 3)] }))).sq.out.map (fun o => o.kind) =
      [.value (.sreg 3) 0xFFFFFFFFFFFFFFFF] := by decide
theorem test_mulh :
    (run1 (.mulh 0 3 1 2) (withSq w0 (fun x => { x with sregs := [(1, 0xFFFFFFFFFFFFFFFF), (2, 2)] }))).sq.readS 3 =
      0xFFFFFFFFFFFFFFFF := by decide
-- A write to s0 is discarded, and the word goes on (02 R38).
theorem test_s0 : (run1 (.addi 0 0 0 5) w0).sq.readS 0 = 0 ∧ (run1 (.addi 0 0 0 5) w0).sq.pc = 0x10004 := by decide
-- A branch counts words from itself (05 R123).
theorem test_branch_back : (run1 (.bEqz 0 0 0x7FFF) w0).sq.pc = 0xFFFC := by decide
-- CALL slides both windows and leaves the link word: V 3 in [63:59], W 1 in [58:57], the return address below (05 R116).
theorem test_call_link : (run1 (.call 0 3 1 2) w0).sq.readS 15 = 0x1A00000000010004 := by decide
theorem test_call_slide : (run1 (.call 0 3 1 2) w0).sq.vwb = 3 ∧ (run1 (.call 0 3 1 2) w0).sq.swb = 1 := by decide
-- s32 of the caller is s16 of the callee after W = 1 (05 R111, R116).
theorem test_call_shared :
    (run1 (.call 0 0 1 2) (withSq w0 (fun x => { x with sregs := [(32, 9)] }))).sq.readS 16 = 9 := by decide
-- A store of 2 bytes leaves its low 16 bits when it is performed, lowest byte first (00 R6; 09 R199).
theorem test_store_issued : ((run1 (.sts 0 1 0 1 0x100) (withSq w0 (fun x => { x with sregs := [(1, 0xABCDEF)] }))).sq.out).map (·.kind) =
    [.store ⟨0x200, 2, 0x200, false⟩ 0xABCDEF] := by decide
def storeC : Outst := ⟨0, 0x10000, false, .ordinary, 0, .store ⟨0x200, 2, 0x200, true⟩ 0xABCDEF, 0, none, 0, 0, 0x1000, []⟩
theorem test_store_bytes : (w0.performKind 0 storeC).bytes 0x200 3 = [0xEF, 0xCD, 0] := by
  unfold State.performKind
  dsimp only [storeC]
  split <;> decide
-- A fetch-and-add returns the old value to sc (09 R200).
theorem test_atoms :
    let t := run1 (.atomsAdd 0 0 1 2 0) (withSq (w0.write 0 4 0xFFFFFFFF) (fun x => { x with sregs := [(1, 2)] }))
    let u := run1 (.variableResultWriteback 0 0 0) t
    u.sq.readS 2 = 0xFFFFFFFF ∧ u.read 0 8 = 1 := by decide
-- VADD of INT8 wraps and sets no flag; with SAT it clamps and sets SAT (06 R132): 127 + 1.
theorem test_vadd_wrap :
    let t := run1 (.vadd ⟨0, 0, .vec 4, .sca 1, .sca 2, .unused, ⟨1, 0, 1, 0, 0, 0⟩⟩)
      (withSq wLane (fun x => { x with sregs := [(1, 127), (2, 1)] }))
    t.sq.readV 4 0 = 0xFFFFFF80 ∧ t.sq.fflags = 0 ∧ t.sq.readV 4 1 = 0 := by decide
theorem test_vadd_sat :
    let t := run1 (.vadd ⟨0, 0, .vec 4, .sca 1, .sca 2, .unused, ⟨1, 0, 2, 0, 0, 0⟩⟩)
      (withSq wLane (fun x => { x with sregs := [(1, 127), (2, 1)] }))
    t.sq.readV 4 0 = 127 ∧ t.sq.fflags = 0x20 := by decide
-- VFADD of FP32: 1 + 2 is 3; the largest finite plus itself overflows to infinity with OF and NX (06 R138).
theorem test_vfadd :
    (run1 (.vfadd ⟨0, 0, .vec 4, .sca 1, .sca 2, .unused, ⟨9, 0, 0, 0, 0, 0⟩⟩)
      (withSq wLane (fun x => { x with sregs := [(1, 0x3F800000), (2, 0x40000000)] }))).sq.readV 4 0 = 0x40400000 := by decide
theorem test_vfadd_overflow :
    (run1 (.vfadd ⟨0, 0, .vec 4, .sca 1, .sca 1, .unused, ⟨9, 0, 0, 0, 0, 0⟩⟩)
      (withSq wLane (fun x => { x with sregs := [(1, 0x7F7FFFFF)] }))).sq.readV 4 0 = 0x7F800000 := by decide
-- VFMA rounds once: (1 + 2^-23)^2 - (1 + 2^-22) is 2^-46, which a product rounded first would lose (07 R159).
theorem test_vfma_once :
    (run1 (.vfma ⟨0, 0, .vec 4, .sca 1, .sca 1, .sca 2, ⟨9, 0, 0, 0, 0, 0⟩⟩)
      (withSq wLane (fun x => { x with sregs := [(1, 0x3F800001), (2, 0xBF800002)] }))).sq.readV 4 0 = 0x28800000 := by decide
-- A compare clears the bits of inactive lanes (07 R156).
theorem test_vcmp_inactive :
    (run1 (.vcmpEq ⟨0, 0, .msk 5, .sca 0, .sca 0, .unused, ⟨3, 0, 0, 0, 0, 0⟩⟩)
      (withSq wLane (fun x => { x with masks := [(0, 1), (5, 0xFFFFFFFF)] }))).sq.readM 5 = 1 := by decide
-- The last word of a LANE moves the scalar PC on (02 R47).
theorem test_lane_last : (run1 (.vlane ⟨0, 0, .vec 4, .unused, .unused, .unused, ⟨0, 0, 0, 0, 0, 0⟩⟩) wL).sq.pc = 0x10004 := by decide
-- TRAP 5: cause 0x10, TVAL 5, the handler's address (16 R309).
theorem test_trap : (run1 (.trap 0 5) wTrap).sq.pc = 0x8000 ∧ (run1 (.trap 0 5) wTrap).sq.trap.tval = 5 := by decide
-- RETT after a trap whose RX is 0 goes past the word (16 R310).
theorem test_rett : (run1 (.rett 0) wHandler).sq.pc = 0x20004 := by decide
-- TADD: ta3 = ta1 + (ta2 << 4) - 1 (11 R233).
theorem test_tadd :
    let s := w0.setBlock 0 { w0.block 0 with pacer := { (w0.block 0).pacer with ta := [(1, 0x100), (2, 3)] } }
    (run1 (.tadd 0 3 1 2 1 4 0x3FFFFFFFFF) s).pacer.readTa 3 = 0x12F := by decide
-- SYNC parks until JSTEP advances (03 R71).
theorem test_sync : (run1 (.sync 0 4) w0).sq.run = .sync 4 0 := by decide
-- The first step after reset runs a placed word: ADDI s1, s0, 7.
theorem test_first_step :
    (match step (State.reset.withFetchWord 32 0x08080007) with | .next t => some (t.sq.readS 1) | _ => none) = some 7 := by decide

-- States and operands that meet the hypotheses of the statements ---------------------------------------------------------------

/-- The check of an access, from what it answers. -/
theorem access_ok (s : State) (b : Nat) (k : Kind) (va : BitVec 64) (n p : Nat) (c : Bool)
    (h : (s.access b k va n).2 = .ok p c) : ∃ s1 p c, s.access b k va n = (s1, .ok p c) :=
  ⟨_, p, c, Prod.ext rfl h⟩

theorem witness_rows : intRows.length = 23 ∧ immRows.length = 7 ∧ shiftRows.length = 3 ∧ divRows.length = 4 ∧
    branchRows.length = 6 ∧ maskBranchRows.length = 3 ∧ controlRows.length = 30 ∧ setxRows.length = 13 := by decide
theorem witness_GetxReads : (w0.dev (w0.devOf w0.actor)).fine < 200 := by decide

-- IndirectJumpWords, OperandTraps: an aligned and a misaligned target.
theorem witness_IndirectJumpWords : (w0.sq.readS 0 + (0x1FFC#13).signExtend 64).toNat % 4 = 0 := by decide
theorem witness_BranchWords_taken : w0.sq.readS 0 = 0 ∧ ¬ (w0.sq.readS 0 ≠ 0) := by decide
theorem witness_BranchWords_masks : (∀ l, l < 32 → (w0.sq.readM 0).getLsbD l = true) ∧ ∀ l, l < 32 → (w0.sq.readM 1).getLsbD l = false := by
  decide

theorem witness_CallWords : w0.sq.out = [] ∧ w0.sq.latch = none ∧ 64 * (31#5).toNat ≤ w0.sq.vws ∧
    w0.sq.vwb + (31#5).toNat ≤ (w0.job (w0.jobOf w0.actor)).vseg ∧ w0.sq.swb + (3#2).toNat ≤ (w0.job (w0.jobOf w0.actor)).sseg ∧
    w0.sq.pc.toNat % 4 = 0 ∧ (w0.sq.readS 0).toNat % 4 = 0 := by decide

/-- One segment of each window slid, s15 the link word that says so. -/
def wCalled : State :=
  withSq w0 (fun x => { x with swb := 1, vwb := 1, rlo := 0, sregs := [(15, 0x0A00000000010004)] })
theorem witness_ReturnWord : wCalled.sq.readS 15 = BitVec.ofNat 5 1 ++ (BitVec.ofNat 2 1 ++ (0x4001#55 ++ 0#2)) ∧ (1 < 32) ∧ (1 < 4) ∧
    wCalled.sq.out = [] ∧ wCalled.sq.latch = none ∧ 1 ≤ wCalled.sq.vwb ∧ 1 ≤ wCalled.sq.swb ∧ 64 * 1 ≤ wCalled.sq.vws ∧
    wCalled.fillBad wCalled.actor 1 1 = none ∧
    wCalled.sq.rlo ≤ (run1 (.ret 0) wCalled).sq.swb + 7 ∧ wCalled.sq.vws % 64 = 0 ∧ 0 < wCalled.sq.vws := by decide

theorem canTrap_wTrap : CanTrap wTrap := by unfold CanTrap; decide
theorem witness_TrapWords : CanTrap wTrap ∧ wTrap.sq.replay = none := ⟨canTrap_wTrap, by decide⟩
theorem witness_OperandTraps : CanTrap wTrap ∧ wTrap.sq.replay = none ∧ (wTrap.sq.readS 0 + (2#13).signExtend 64).toNat % 4 ≠ 0 ∧
    canonical (wTrap.sq.smAddr 1 3 (0 : BitVec 11)) = true ∧ (wTrap.sq.smAddr 1 3 (0 : BitVec 11)).toNat % 2 ^ (3#2).toNat ≠ 0 ∧ wTrap.sq.vws ≤ (64#11).toNat :=
  ⟨canTrap_wTrap, by decide⟩
theorem witness_OperandTraps_call : wTrap.sq.latch = none ∧ (wTrap.sq.readS 0).toNat % 4 = 0 ∧ wTrap.sq.vws < 64 * (2#5).toNat ∧
    64 * (1#5).toNat ≤ wTrap.sq.vws ∧ 64 * (0#5).toNat ≤ wTrap.sq.vws ∧ wTrap.sq.vwb + (0#5).toNat ≤ (wTrap.job (wTrap.jobOf wTrap.actor)).vseg := by
  decide
/-- The same at the limits of its spill area, with a link word of one segment more than it has slid by. -/
def wFull : State := withSq wTrap (fun x => { x with vwb := 64, swb := 16, sregs := [(15, 0x9000000000000000)] })
theorem witness_OperandTraps_limits : CanTrap wFull ∧ wFull.sq.replay = none ∧ wFull.sq.latch = none ∧
    (wFull.job (wFull.jobOf wFull.actor)).vseg < wFull.sq.vwb + (1#5).toNat ∧ (wFull.job (wFull.jobOf wFull.actor)).sseg < wFull.sq.swb + (1#2).toNat ∧
    wFull.sq.vws < 64 * ((wFull.sq.readS 15).toNat / 2 ^ 59) := ⟨by unfold CanTrap; decide, by decide⟩
/-- In a handler of a trap with TCAUSE c and TLM m, whose LANE has n words left. -/
def wRet (c : BitVec 64) (m : BitVec 32) (n : BitVec 13) : State := withSq w0 (fun x => { x with
  handler := some ⟨1, 0xC00, n, 0, 1, false, none⟩, trap := { tcause := c, tlm := m, tpc := 0x20000, tlpc := 0x20100 } })
theorem witness_HandlerReturn : (wHandler.sq.handler = some ⟨1, 0xC00, 0, 0, 1, false, none⟩) ∧ wHandler.sq.seg = [] ∧ wHandler.sq.out = [] ∧
    (wHandler.block (blockOfSquad wHandler.actor)).pacer.faults = [] ∧ bitAt wHandler.sq.trap.tcause 15 = false ∧
    bitAt wHandler.sq.trap.tcause 14 = false := by decide
theorem witness_HandlerReturn_lane : bitAt (wRet 0x4003 0 1).sq.trap.tcause 15 = false ∧ bitAt (wRet 0x4003 0 1).sq.trap.tcause 14 = true ∧
    bitAt (wRet 0x4003 0 1).sq.trap.tcause 13 = false ∧ bitAt (wRet 0x6003 0 1).sq.trap.tcause 13 = true ∧ (wRet 0x6003 0 1).sq.trap.tlm = 0 ∧
    (wRet 0x6003 1 1).sq.trap.tlm ≠ 0 ∧ (wRet 0x6003 1 1).sq.seg = [] ∧ (wRet 0x6003 1 1).sq.out = [] := by decide
/-- The same after a tile fault, the Pacer stopped. -/
def wRetTile : State :=
  let s := wRet 0x800C 0 0
  s.setBlock 0 { s.block 0 with pacer := { (s.block 0).pacer with run := .stopped, owed := 1 } }
theorem witness_HandlerReturn_async : bitAt (wRet 0x8012 0 0).sq.trap.tcause 15 = true ∧ (wRet 0x8012 0 0).sq.trap.tcause.toNat % 256 ≠ 0x0C ∧
    bitAt wRetTile.sq.trap.tcause 15 = true ∧ wRetTile.sq.trap.tcause.toNat % 256 = 0x0C ∧ (wRetTile.block 0).pacer.faults = [] ∧
    (wRetTile.block 0).pacer.run = .stopped ∧ (wRetTile.block 0).pacer.owed = 1 := by decide
theorem witness_PlainWords : w0.sq.out = [] ∧ w0.sq.latch = none := by decide
/-- A load of s1 outstanding, in an open region. -/
def wWaits : State := withSq w0 (fun x => { x with
  out := [⟨0, 0x10000, false, .ordinary, 0, .load ⟨0, 8, 0, true⟩ false (.sreg 1), 0, none, 0, 0, 0x1000, []⟩],
  region := some ⟨0x10000, 0, [], 0, 0, 0⟩ })
theorem witness_PlainWords_waits : wWaits.sq.out ≠ [] ∧ wWaits.sq.latch = none ∧ wWaits.sq.region ≠ none := by decide
theorem witness_BadWords : CanTrap wTrap ∧ wTrap.sq.replay = none ∧ (0x04#8 ≠ 0x05) := ⟨canTrap_wTrap, by decide⟩
theorem witness_BadWords_tile : (withSq w0 (fun x => { x with run := .exited })).unexited 0 = [] ∧
    (withSq w0 (fun x => { x with run := .exited })).pacer.faults = [] ∧ w0.pacer.faults = [] ∧
    (w0.unexited w0.actor).find? (fun k => (w0.squad k).handler = none) = some 0 ∧ (w0.squad 0).run = .running := by decide
theorem witness_BadWords_corrupt : (w0.gangOf 0).place = .resident := by decide

theorem witness_ScalarAccesses_read : ∃ s1 p c, w0.access 0 .read (w0.sq.readS 0 + ((0#11).signExtend 64 <<< (3#2).toNat)) 8 = (s1, .ok p c) :=
  access_ok _ _ _ _ _ 0 false (by decide)
theorem witness_ScalarAccesses_miss : w0.hitLine 0 (w0.sq.readS 0) 8 = none := by decide
theorem witness_ScalarAccesses_write : ∃ s1 p c, w0.access 0 .write (w0.sq.readS 0 + ((0x3FF#11).signExtend 64 <<< (0#2).toNat)) 1 = (s1, .ok p c) :=
  access_ok _ _ _ _ _ 0x3FF false (by decide)
/-- The block's L1 holds the line at 0. -/
def wLine : State := w0.setBlock 0 { w0.block 0 with l1 := [⟨0, 0, [(0, 5)], 0, []⟩] }
/-- A write of those bytes that the line does not hold, another squad's, seen or not yet by this one. -/
def lateWrite (ms : List Mark) : Write := ⟨1, [(0, 5)], .squad 64, false, [], ms, []⟩
theorem witness_ScalarAccesses_past : (wLine.setHist [lateWrite [⟨.squad 0, 0, 8⟩]]).hitLine 0 0 8 = none ∧
    ((wLine.setHist [lateWrite []]).hitLine 0 0 8).isSome = true := by decide
theorem witness_ScalarAccesses_hit : wLine.hitLine 0 (wLine.sq.readS 0) 8 = some ⟨0, 0, [(0, 5)], 0, []⟩ ∧ canonical (wLine.sq.readS 0) = true ∧
    (wLine.sq.readS 0).toNat % 8 = 0 ∧ inWindow (wLine.sq.readS 0) = false ∧ wLine.sq.out = [] ∧
    (⟨0, 0, [(0, 5)], 0, []⟩ : L1Line).isBad ((wLine.sq.readS 0).toNat % 128) 8 = false := by decide
theorem witness_AtomicWords : (w0.sq.out = [] ∨ w0.sq.region = none) ∧ w0.sq.latch = none ∧
    ∃ s1 p c, (w0.setSq { w0.sq with latch := none }).access 0 .write (w0.sq.readS 0) 8 = (s1, .ok p c) :=
  ⟨by decide, by decide, access_ok _ _ _ _ _ 0 false (by decide)⟩
theorem witness_TranslationFrame : ∃ level entry pte, walk w0 (w0.walkerOf 0) 0x1000 = .leaf level entry pte :=
  ⟨2, 0x4000, 0xB0000000000000DD, by decide⟩
theorem witness_TranslationFrame_home : (w0.walkerOf 0).core = some 0 ∧ leafPages 2 0xB0000000000000DD = some 4194304 := by decide

/-- A squad with one result outstanding. -/
def wOut (k : OutKind) : State := withSq w0 (fun x => { x with out := [⟨0, 0x10000, false, .ordinary, 0, k, 0, none, 0, 0, 0x1800, []⟩] })
/-- Nobody waits in block 0 when its one squad and its Pacer do not. -/
theorem quiet_of (s : State) (hs : s.squadsOf 0 = [0]) (hq : (s.squad 0).run = .running) (hp : (s.block 0).pacer.run = .idle) :
    QuietBlock s 0 := by
  refine ⟨fun q h k => ?_, fun k m => by rw [hp]; simp⟩
  rw [hs] at h
  have : q = 0 := by simpa using h
  subst this; rw [hq]; simp
theorem mayWrite_wOut (k : OutKind) (o : Outst) (ho : ((wOut k).squad 0).out[0]? = some o) (hc : (wOut k).canPerform 0 0 = true)
    (hb : (wOut k).readsBad 0 0 = false) : MayWrite (wOut k) 0 0 o :=
  ⟨ho, hc, hb, quiet_of _ rfl rfl rfl, .inl rfl⟩
theorem witness_ResultWriteback_value : ∃ o, MayWrite (wOut (.value (.sreg 5) 7)) 0 0 o ∧ o.kind = .value (.sreg 5) 7 :=
  ⟨_, mayWrite_wOut _ _ rfl (by decide) (by decide), rfl⟩
theorem witness_ResultWriteback_load : ∃ o, MayWrite (wOut (.load ⟨0, 8, 0, true⟩ false (.vpair 64 96))) 0 0 o ∧
    o.kind = .load ⟨0, 8, 0, true⟩ false (.vpair 64 96) := ⟨_, mayWrite_wOut _ _ rfl (by decide) (by decide), rfl⟩
theorem witness_StoreWriteback_store : ∃ o, MayWrite (wOut (.store ⟨0, 2, 0, true⟩ 7)) 0 0 o ∧ o.kind = .store ⟨0, 2, 0, true⟩ 7 :=
  ⟨_, mayWrite_wOut _ _ rfl (by decide) (by decide), rfl⟩
theorem witness_StoreWriteback_ack : ∃ o, MayWrite (wOut (.ack ⟨0, 2, 0, true⟩ 1)) 0 0 o ∧ o.kind = .ack ⟨0, 2, 0, true⟩ 1 :=
  ⟨_, ⟨rfl, by decide, by decide, quiet_of _ rfl rfl rfl, .inl rfl⟩, rfl⟩
theorem witness_StoreWriteback_rmw : ∃ o, MayWrite (wOut (.rmw ⟨0, 8, 0, true⟩ 7 1 2 (.sreg 5))) 0 0 o ∧
    o.kind = .rmw ⟨0, 8, 0, true⟩ 7 1 2 (.sreg 5) := ⟨_, mayWrite_wOut _ _ rfl (by decide) (by decide), rfl⟩

/-- An outstanding load of uncorrectable data, outside a region and in one. -/
def wBad (r : Bool) : State :=
  { withSq w0 (fun x => { x with
      region := if r then some ⟨0x10000, 0x10100, [], 0, 0, 0⟩ else none
      out := [⟨0, 0x10000, r, .ordinary, 0, .load ⟨0, 8, 0, true⟩ false .none, 0, none, 0, 0, 0x1800, []⟩] }) with bad := [0] }
theorem witness_LateAndPendingFaults_outside : (wBad false).canPerform 0 0 = true ∧ (wBad false).readsBad 0 0 = true ∧
    (((wBad false).squad 0).out[0]?).isSome = true ∧ ((wBad false).squad 0).handler = none ∧ ((wBad false).squad 0).region = none ∧
    ((wBad false).gangOf 0).term = none := by decide
theorem witness_LateAndPendingFaults_region : (wBad true).canPerform 0 0 = true ∧ (wBad true).readsBad 0 0 = true ∧
    (((wBad true).squad 0).out[0]?).isSome = true ∧ ((wBad true).squad 0).region.isSome = true ∧ ((wBad true).gangOf 0).place = .resident := by
  decide
/-- The same in a handler. -/
def wBadHandler : State := withSq (wBad false) (fun x => { x with handler := some ⟨1, 0xC00, 0, 0, 1, false, none⟩ })
theorem witness_LateAndPendingFaults_handler : wBadHandler.canPerform 0 0 = true ∧ wBadHandler.readsBad 0 0 = true ∧
    ((wBadHandler.squad 0).out[0]?).isSome = true ∧ (wBadHandler.squad 0).handler.isSome = true ∧ (wBadHandler.gangOf 0).term = none := by decide
def wPend : State := withSq wTrap (fun x => { x with faults := [⟨5, false, 0x12, 1, 2, none⟩] })
theorem witness_LateAndPendingFaults_pending : CanTrap wPend ∧ wPend.mayRun wPend.actor = true ∧ wPend.sq.lane = none ∧
    wPend.sq.faults = [⟨5, false, 0x12, 1, 2, none⟩] :=
  ⟨by unfold CanTrap; decide, by decide⟩
theorem witness_LaneWord : 1 ≤ (4096 : BitVec 19).toNat ∧ (4096 : BitVec 19).toNat ≤ 4096 := by decide


-- Lane words -----------------------------------------------------------------------------------------------------------------

/-- Opcodes of the 100 lane words. -/
def laneOps : List LaneOp := (List.range 0x131).filter (fun o => (laneCtor o).isSome) ++ [0x1091]
/-- An operand of a class: an even vector register, s3, m1. -/
def anyOpnd (c : Cls) : Opnd :=
  match c with | .vec => .vec 2 | .vs => .vec 2 | .sca => .sca 3 | .msk => .msk 1 | .unused => .unused
/-- A well-formed form of each lane word: its first format, and the least legal ARG. -/
def anyForm (op : LaneOp) : LaneForm :=
  let sh := laneShape op
  let e := ((List.range 16).find? (fun e => e ≠ 0 && bitAt sh.efs e)).getD 0
  let arg : BitVec 16 := if op = 0x70 then 7 else if op = 0x71 ∨ op = 0x72 then 2 else if op = 0x1091 then 1 else 0
  ⟨0, 0, anyOpnd sh.vd, anyOpnd sh.va, anyOpnd sh.vb, anyOpnd sh.vc, ⟨BitVec.ofNat 4 e, 0, 0, 0, 0, arg⟩⟩

theorem test_lane_words : laneOps.length = 100 ∧ laneOps.all (fun o => laneWf o (anyForm o)) = true := by decide +kernel

theorem laneOk_of (s : State) (op : LaneOp) (f : LaneForm)
    (h : (f.badIndex op s.sq.vws = none && ((laneShape op).use = EfUse.absent || laneFormatOk op f (laneEf op f s.sq.fmt))) = true) :
    LaneOk s op f := by
  simpa [LaneOk] using h

/-- Every lane word has operands that pass its checks in wLane. -/
theorem witness_LaneOk : ∀ op ∈ laneOps, LaneOk wLane op (anyForm op) := by
  have h : laneOps.all (fun op => (anyForm op).badIndex op wLane.sq.vws = none &&
      ((laneShape op).use = EfUse.absent || laneFormatOk op (anyForm op) (laneEf op (anyForm op) wLane.sq.fmt))) = true := by decide
  intro op ho
  exact laneOk_of _ _ _ (List.all_eq_true.mp h op ho)

theorem witness_ElementwiseWords : wLane.sq.replay = none ∧ fmtTE wLane.sq.fmt = 0 ∧ wLane.sq.lane.isSome = true ∧
    (elementRows.map Prod.fst ++ [0x73, 0x74]).all (fun o => laneOps.contains o) = true := by decide
/-- A signalling NaN in s1, the trap of NV enabled, a handler; one lane active. -/
def wFloat : State := withSq wLane (fun x => { x with sregs := [(1, 0x7F800001)], fmt := 0xD00, trap := { thandler := 0x8000 }, vws := 64 })
/-- VFADD.f32 v4, s1, s1. -/
def floatForm : LaneForm := ⟨0, 0, .vec 4, .sca 1, .sca 1, .unused, ⟨9, 0, 0, 0, 0, 0⟩⟩
theorem canTrap_wFloat : CanTrap wFloat := by unfold CanTrap; decide
theorem witness_ElementwiseWords_trap : CanTrap wFloat ∧ LaneOk wFloat 0x40 floatForm ∧ wFloat.sq.lane.isSome = true ∧
    SomeTraps wFloat.sq floatForm (fun _ => (fp32.sum 0 false [.snan, .snan]).traps (fmtTE wFloat.sq.fmt)) :=
  ⟨canTrap_wFloat, laneOk_of _ _ _ (by decide), by decide, 0, by decide, by decide, by decide⟩
theorem witness_ElementwiseWords_quiet : ¬ SomeTraps wLane.sq floatForm (fun _ => (⟨0, 0⟩ : LaneRes).traps (fmtTE wLane.sq.fmt)) := by
  rintro ⟨l, -, -, h⟩
  have h0 : (⟨0, 0⟩ : LaneRes).traps (fmtTE wLane.sq.fmt) = false := by decide
  exact Bool.noConfusion (h0.symm.trans h)
theorem witness_CompareWords : compareRows.all (fun e => laneOps.contains e.1 && (anyForm e.1).vd = .msk 1) = true := by decide
theorem witness_LongWords : longRows.all (fun e => laneOps.contains e.1) = true := by decide
theorem witness_MaskLogic : (anyForm 0x92).vd = .msk 1 ∧ wLane.sq.lane.isSome = true := by decide
theorem witness_Immediate : (4#11).toNat < wLane.sq.vws ∧ 1 ≤ (fmtEF wLane.sq.fmt).toNat ∧ (fmtEF wLane.sq.fmt).toNat ≤ 10 := by decide
/-- FMT.EF 10, a pair. -/
theorem witness_Immediate_pair : let s := withSq wLane (fun x => { x with fmt := 0x2800 })
    (fmtEF s.sq.fmt).toNat = 10 ∧ (4#11).toNat % 2 = 0 ∧ fmtTE s.sq.fmt = 0 := by decide
theorem witness_IntegerFit : intMin 1 = -128 ∧ intMax 1 = 127 ∧ intMin 4 = 0 ∧ intMax 4 = 255 := by decide
theorem witness_Numbers : (fp32 ∈ floatFormats ∧ bf16 ∈ floatFormats) ∧ 0xFF800001 < 2 * fp32.signBit ∧
    ([.num false 1 0, .num true 1 (-3)] : List FVal) ≠ [] ∧ ([.num false 1 0, .num true 1 (-3)] : List FVal).all FVal.finite = true ∧
    ((1 : Nat) ≤ 6 ∧ (2 : Nat) ≤ 8) := by decide
theorem witness_NumberSums : (([.num false 1 0, .num false 1 1] : List FVal).map FVal.rat).sum ≠ 0 ∧
    (([.num false 1 0, .num true 1 0] : List FVal).map FVal.rat).sum = 0 := by constructor <;> norm_num [FVal.rat]
theorem witness_NumberInfinities : (FVal.snan ∉ [FVal.inf true, .inf false] ∧ FVal.inf true ∈ [FVal.inf true, .inf false]) ∧
    (FVal.qnan ∈ [FVal.qnan, .inf true] ∧ FVal.inf false ∉ [FVal.qnan, .inf true]) := by decide
theorem witness_NumberBlocks : (([.num true 1 200] : List FVal).all FVal.finite = true ∧ ∃ x ∈ ([.num true 1 200] : List FVal), x.rat ≠ 0) ∧
    ([.qnan] : List FVal).any (fun x => !x.finite) = true :=
  ⟨⟨by decide, .num true 1 200, by simp, by norm_num [FVal.rat]⟩, by decide⟩
theorem witness_NumberReductions : ([0, 3, 31] : List Nat).Pairwise (· < ·) ∧ (∀ l ∈ ([0, 3, 31] : List Nat), l < 32) ∧ fmtACC 0xC00 = false ∧
    fmtACC 0x2C00 = false ∧ fmtACC 0xE00 = true := by decide
theorem witness_WholeSquadWords : wLane.sq.runs (anyForm 0x71).m ≠ 0 ∧
    (withSq wLane (fun x => { x with masks := [] })).sq.runs (anyForm 0x71).m = 0 := by decide
theorem witness_WholeSquadWords_trap : CanTrap wFloat ∧
    SomeTraps wFloat.sq (anyForm 0x71) (fun _ => (⟨0, flagNV⟩ : LaneRes).traps (fmtTE wFloat.sq.fmt)) :=
  ⟨canTrap_wFloat, 0, by decide, by decide, by decide⟩
theorem witness_VoteWords : (List.range 6).all (fun k =>
    laneWf 0x90 { anyForm 0x90 with mod := { (anyForm 0x90).mod with arg := BitVec.ofNat 16 k } }) = true := by decide

/-- A lane memory word whose one active lane passes. -/
theorem elems_one (s : State) (l : Nat) (va : BitVec 64) (g : State → State × Elem) (k : OutKind) (m : Option Nat)
    (h : (g s).2 = .ok k m) : ElemsEnd s [(l, va, g)] [(l, k, m)] [] (g s).1 :=
  .inl ⟨k, m, (g s).1, [], Prod.ext rfl h, rfl, rfl, rfl, rfl⟩
/-- A lane memory word whose one active lane fails. -/
theorem elems_bad (s : State) (l : Nat) (va : BitVec 64) (g : State → State × Elem) (c : BitVec 8)
    (h : (g s).2 = .bad c) : ElemsEnd s [(l, va, g)] [] [⟨l, va, c, false, 0, 0⟩] (g s).1 :=
  .inr (.inl ⟨c, (g s).1, [], Prod.ext rfl h, rfl, rfl, rfl, rfl⟩)
/-- The words' addresses in the active lane 0: the pair v2, v3; s3 plus the stride; s3 plus v2. -/
theorem witness_LaneMemoryWords_addresses : laneVa wLane.sq 0 (anyForm 0x100) 0 = 0x100 ∧ laneVa wLane.sq 1 (anyForm 0x101) 0 = 5 ∧
    laneVa wLane.sq 2 (anyForm 0x102) 0 = 0x105 ∧ lanesOn (wLane.sq.runs 0) = [0] := by decide
theorem witness_LaneMemoryWords_load : ∃ ks u, ElemsEnd wLane [(0, 0x100, fun v => v.loadElem v.actor .ordinary 0x100 1 true (wLane.sq.dstV 2 0 false))] ks [] u :=
  ⟨_, _, elems_one _ _ _ _ (.load ⟨0x100, 1, 0x100, false⟩ true (.vreg 64)) (some 3) (by decide +kernel)⟩
theorem witness_LaneMemoryWords_store : ∃ ks u, ElemsEnd wLane [(0, 0x100, fun v => v.writeElem v.actor 0x100 1 (fun loc => .store loc 0))] ks [] u :=
  ⟨_, _, elems_one _ _ _ _ (.store ⟨0x100, 1, 0x100, false⟩ 0) none (by decide)⟩
theorem witness_LaneMemoryWords_atomic : (wLane.sq.out = [] ∨ wLane.sq.region = none) ∧ wLane.sq.latch = none ∧
    ∃ ks u, ElemsEnd (wLane.setSq { wLane.sq with latch := none })
      [(0, 0x100, fun v => v.writeElem v.actor 0x100 4 (fun loc => .rmw loc 0 0 0 (.vreg 64)))] ks [] u :=
  ⟨by decide, by decide, _, _, elems_one _ _ _ _ (.rmw ⟨0x100, 4, 0x100, false⟩ 0 0 0 (.vreg 64)) none (by decide)⟩
theorem witness_LaneMemoryWords_fails : wFloat.sq.run = .running ∧ CanTrap wFloat ∧
    ∃ fs u, fs ≠ [] ∧ (∀ a ∈ fs, a.cause ≠ 0x12) ∧
      ElemsEnd wFloat [(0, 0x101, fun v => v.writeElem v.actor 0x101 4 (fun loc => .store loc 0))] [] fs u :=
  ⟨by decide, canTrap_wFloat, _, _, by simp, by decide, elems_bad _ _ _ _ 0x04 (by decide)⟩
theorem witness_LaneMemoryWords_swap : (wLane.gangOf wLane.actor).place = .resident := by decide
theorem witness_LaneMemoryWords_ldw : ∃ ks u, ElemsEnd wLane [(0, 0x200, fun v => v.loadElem v.actor .ordinary 0x200 4 false (wLane.sq.dstV 2 0 false))] ks [] u :=
  ⟨_, _, elems_one _ _ _ _ (.load ⟨0x200, 4, 0x200, false⟩ false (.vreg 64)) (some 3) (by decide +kernel)⟩

-- Divergence -------------------------------------------------------------------------------------------------------------------

theorem witness_DivergenceWords : divergeRows.all (fun e => divL (anyForm e.1) ≤ wLane.sq.vws) = true ∧ wLane.sq.out = [] ∧
    wLane.sq.handler = none ∧ (wLane.squadsOf (blockOfSquad wLane.actor)).all (fun q => !(wLane.squad q).absent) = true := by decide
def wLaneHandler : State :=
  withSq wLane (fun x => { x with handler := some ⟨1, 0xC00, 1, 0x10100, 1, false, none⟩, seg := [⟨3, 2, 0xC00, false⟩] })
theorem witness_DivergenceWords_handler : (wLaneHandler.sq.handler = some ⟨1, 0xC00, 1, 0x10100, 1, false, none⟩) ∧ wLaneHandler.sq.out = [] ∧
    wLaneHandler.sq.lane.isSome = true ∧ divL (anyForm 0xA0) = 0 ∧ wLaneHandler.entriesInUse (blockOfSquad wLaneHandler.actor) ≠ 32 ∧
    wLaneHandler.sq.seg = [⟨3, 2, 0xC00, false⟩] ∧ LaneOk wLaneHandler 0xA0 (anyForm 0xA0) := ⟨by decide, by decide, by decide, by decide, by decide,
      by decide, laneOk_of _ _ _ (by decide)⟩
/-- The one squad of the block waits at its word; constructs without and with a live set, on their first and second path. -/
def oneConstruct (n : Nat) (els : Bool) : Construct :=
  ⟨[⟨0, 3, 2, 0xC00⟩], n, 0, els, if n = 0 then [] else [⟨0, 1, 1, 0, []⟩], [(0, 3)]⟩
def wArrived (f : LaneForm) (op : LaneOp) (st : List Construct) : State :=
  let s := withSq wLane (fun x => { x with run := .diverge (encodeForm op f), vws := 64, trap := { thandler := 0x8000 } })
  s.setBlock 0 { s.block 0 with stack := st }
theorem allWait_wArrived (f : LaneForm) (op : LaneOp) (st : List Construct) (h : (wArrived f op st).mayRun 0 = true) :
    AllWait (wArrived f op st) 0 op f [0] :=
  ⟨rfl, by simp, h, 0x10100, fun q h => by
    have : q = 0 := by simpa using h
    subst this; exact ⟨rfl, rfl, rfl, rfl⟩⟩
theorem witness_DivergenceCompletes : (Instr.divb (anyForm 0xA0)).wf = true ∧ (Instr.elseb (anyForm 0xA1)).wf = true ∧
    (Instr.recv (anyForm 0xA2)).wf = true ∧ (Instr.regrp (anyForm 0xA3)).wf = true ∧ divL (anyForm 0xA0) = 0 ∧
    (wArrived (anyForm 0xA0) 0xA0 []).entriesInUse 0 ≠ 32 ∧ (oneConstruct 0 false).parts.map (·.sq) = [0] := by decide
/-- DIVB m1, L = 4, S = 1. -/
def divForm : LaneForm := { anyForm 0xA0 with mod := { (anyForm 0xA0).mod with arg := 0x401 } }
theorem uniform_one (s : State) (n : Nat) : Uniform s [0] n := fun q h => by
  have : q = 0 := by simpa using h
  subst this; exact ⟨rfl, fun _ _ => rfl⟩
theorem witness_DivergenceCompletes_live : AllWait (wArrived divForm 0xA0 []) 0 0xA0 divForm [0] ∧ (Instr.divb divForm).wf = true ∧
    divL divForm = 4 ∧ divL divForm ≤ ((wArrived divForm 0xA0 []).squad 0).vws ∧ Uniform (wArrived divForm 0xA0 []) [0] (divS divForm) :=
  ⟨allWait_wArrived _ _ _ (by decide), by decide, by decide, by decide, uniform_one _ _⟩
theorem witness_DivergenceCompletes_good : GoodConstruct (wArrived (anyForm 0xA2) 0xA2 [oneConstruct 4 false]) (oneConstruct 4 false) [0] := by
  unfold GoodConstruct; decide
theorem witness_DivergenceCompletes_other : ∀ p ∈ lanesIn ((oneConstruct 4 false).parts.map (fun p => (p.sq, p.f))),
    ∃ h ∈ (oneConstruct 4 false).held, (h.sq, h.l) = p := by decide
theorem witness_DivergenceCompletes_regrp : let s := wArrived (anyForm 0xA3) 0xA3 []
    (s.block 0).stack = [] ∧ Uniform s [0] (divS (anyForm 0xA3)) ∧ (s.block 0).pacer.faults = [] ∧ ∀ k m, (s.block 0).pacer.run ≠ .barrier k m :=
  ⟨rfl, uniform_one _ _, rfl, fun k m h => by
    have hr : ((wArrived (anyForm 0xA3) 0xA3 []).block 0).pacer.run = .idle := by decide
    rw [hr] at h; cases h⟩
/-- Two squads whose s16 differ, at a DIVB with L = 4 and S = 1. -/
def wDiffer : State :=
  let s0 := wLane.setGang 0 { wLane.gang 0 with desc := { (wLane.gang 0).desc with squads := 1 } }
  let x : Squad := { s0.squad 0 with run := .diverge (encodeForm 0xA0 divForm), vws := 64, trap := { thandler := 0x8000 } }
  (s0.setSquad 0 x).setSquad 1 { x with sregs := [(16, 1)] }
theorem witness_DivergenceCompletes_differ : AllWait wDiffer 0 0xA0 divForm [0, 1] ∧ Uniform wDiffer [0, 1] 0 ∧ ¬ Uniform wDiffer [0, 1] 1 ∧
    0 < divS divForm ∧ (∀ q ∈ [0, 1], (wDiffer.squad q).handler = none ∧ (wDiffer.squad q).trap.thandler ≠ 0) ∧
    wDiffer.entriesInUse 0 + 2 ≤ 32 :=
  ⟨⟨by decide, by simp, by decide, 0x10100, by decide⟩, by unfold Uniform; decide, by unfold Uniform; decide, by decide, by decide, by decide⟩

-- Tile words -------------------------------------------------------------------------------------------------------------------

theorem witness_PacerWords : ((0#3) = 0 ∧ (0#3).toNat ≤ 2 ∧ 2 ≤ (8#4).toNat ∧ (8#4).toNat ≤ 8) ∧ ((1#3) ≠ 0 ∧ (1#3).toNat ≤ 2) := by decide
theorem witness_TileIssueWords : (3#2).toNat < w0.tiles w0.actor ∧ (1#16) ≠ 0 ∧ (2#3).toNat ≤ 2 ∧ 2 ≤ (8#4).toNat := by decide
/-- A gang of four blocks, all Pacers running. -/
def wFour : State :=
  let s := w0.setGang 0 { w0.gang 0 with desc := { (w0.gang 0).desc with blocks := 2 }, cores := [0, 1, 2, 3] }
  [0, 1, 2, 3].foldl (fun t b => t.setBlock b { pacer := { tpc := 0x10200, run := .running } }) s
theorem witness_TileIssueWords_joint : (wFour.gang (gangOfBlock wFour.actor)).desc.nblocks = 4 ∧ 3 < wFour.tiles wFour.actor ∧
    ∀ b, gangOfBlock b = gangOfBlock wFour.actor → (wFour.block b).pacer.joint? = none ∧ (wFour.block b).pacer.run ≠ .idle := by
  refine ⟨by decide, by decide, fun b h => ?_⟩
  have hb : b < 4 := by
    have : b / 4 = 0 := h
    omega
  have : ∀ b, b < 4 → (wFour.block b).pacer.joint? = none ∧ (wFour.block b).pacer.run ≠ .idle := by decide
  exact this b hb
/-- A TZERO of accumulator 1 in flight. -/
def zeroOp (p : Nat) : TileOp := ⟨.tzero 0 1, 0, 0x10200, 0, {}, {}, {}, [], 0, p, [], false, none, none⟩
def wZero (p : Nat) : State := w0.setBlock 0 { pacer := { tpc := 0x10208, run := .held, flight := [zeroOp p] } }
theorem witness_TileArithmetic : ArraysTake (wZero 0) 0 (zeroOp 0) ∧ (zeroOp 0).instr = .tzero 0 1 ∧ (zeroOp 0).progress = 0 :=
  ⟨⟨by decide, by decide, by decide, .inr (by decide)⟩, rfl, rfl⟩
theorem passAll_one (s : State) (b : Nat) (kind : Kind) (a : BitVec 64) (n m : Nat) (c : Bool) (h : (s.access b kind a n).2 = .ok m c) :
    PassAll s b kind [(a, n)] [m] (s.access b kind a n).1 := ⟨_, m, c, [], Prod.ext rfl h, rfl, rfl, rfl⟩
theorem witness_TileArithmetic_reads : PassAll w0 0 .read [(0x100, 4)] [0x100] (w0.access 0 .read 0x100 4).1 ∧
    GoodReads (w0.access 0 .read 0x100 4).1 [(0x100, 4)] [0x100] :=
  ⟨passAll_one _ _ _ _ _ _ false (by decide), by unfold GoodReads; decide +kernel⟩
theorem witness_TileArithmetic_writes : PassAll w0 0 .write [(0x100, 4)] [0x100] (w0.access 0 .write 0x100 4).1 :=
  passAll_one _ _ _ _ _ _ false (by decide +kernel)
theorem witness_TileArithmetic_amax : (w0.access 0 .write 0x100 4).2 = .ok 0x100 false ∧ (w0.access 0 .write 0x100 4).1.isBad 0x100 4 = false := by
  decide +kernel
theorem witness_TileArithmetic_formats : ({} : TileFormat).ak = 0 ∧ ({} : TileFormat).acct = 0 ∧ ({ acct := 1 } : TileFormat).acct = 1 := by decide
theorem witness_TileBarriersAndCompletion : QuietBlock w0 0 ∧ (w0.block 0).arrivals = [] ∧ w0.pacer.flight = [] ∧ GoodCount (w0.block 0) 3 1 ∧
    GoodCount (w0.block 0) 3 17 := ⟨quiet_of _ rfl rfl rfl, rfl, rfl, by unfold GoodCount; decide, by unfold GoodCount; decide⟩
/-- The Pacer has arrived in generation 2 of barrier 5: it is the barrier's generation, or one that has ended. -/
def wGen (g : Nat) : State := w0.setBlock 0 { bars := [(5, ⟨0, 0, g, none, []⟩)], arrived := [(261, 2)] }
theorem witness_TileBarriers_wait : tabGet? ((wGen 2).block 0).arrived (256 + (5#4).toNat) = some 2 ∧ (((wGen 2).block 0).bar 5).gen = 2 ∧
    (((wGen 3).block 0).bar 5).gen ≠ 2 := by decide
theorem noJoint_w0 (s : State) (hb : ∀ c, c < 4 → (s.block c).pacer.joint? = none) (c : Nat) (h : gangOfBlock c = gangOfBlock 0) :
    (s.block c).pacer.joint? = none := by
  have : c / 4 = 0 := h
  exact hb c (by omega)
theorem witness_TileBarriers_end : ∀ c, gangOfBlock c = gangOfBlock 0 → (w0.block c).pacer.joint? = none := noJoint_w0 w0 (by decide)
theorem witness_TileCompletion : (wZero 1).block 0 = { pacer := { tpc := 0x10208, run := .held, flight := [zeroOp 1] } } ∧
    (zeroOp 1).total ≤ (zeroOp 1).progress ∧ ∀ c, gangOfBlock c = gangOfBlock 0 → ((wZero 1).block c).pacer.joint? = none :=
  ⟨rfl, by decide, noJoint_w0 _ (by decide)⟩
theorem witness_TileCompletion_quiet : QuietBlock (wZero 1) 0 := by
  refine ⟨fun q h k => ?_, fun k m => by simp [wZero]⟩
  have : q = 0 := by
    have h2 : q ∈ [0] := h
    simpa using h2
  subst this
  have hr : ((wZero 1).squad 0).run = .running := rfl
  rw [hr]; simp


-- Posts and the exchange --------------------------------------------------------------------------------------------------------

/-- w0 with channel 0 declared, rank 0 valid, aperture 1 of one rank, a collective's card at 0x40 and a map at 0x100. -/
def wPost : State :=
  let card : List Nat := [3 * 2 ^ 53, 1, 0x1000, 0x400, 0x500, 0, 0, 0]
  let map_ : List Nat := [2 * 2 ^ 58, 0x1000, 0, 0, 0, 0, 0, 0, 2 ^ 51 + 2 ^ 38 + 1, 0, 4, 4]
  let put := fun (s : State) (a : Nat) (ds : List Nat) => s.writeBytes a (ds.flatMap (numBytes 8))
  let s := put (put w0 0x40 card) 0x100 map_
  let t := s.setDev 0 { s.dev 0 with ranks := [(0, 0x8000000000000000)], latched := [(0, 0x8000000000000000)],
                                     apertures := [(4, 0x8000000000001000), (5, 0x1000), (6, 0x10000)] }
  t.setField 0 { chans := [(0, { posts := 4, rsv := 2, prsv := 2 })] }

theorem postPasses_of (u : State) (ranges : List LocalRange) (c : Channel)
    (hc : tabGet (u.field (u.fieldOf u.actor)).chans u.sq.chsel.toNat {} = c)
    (h : (c.posts ≠ 0 ∧ c.rsv ≠ 0) ∧ (u.localRanges u.actor ranges {}).2.fail = none ∧
      c.queue.length + (u.localRanges u.actor ranges {}).1.postsPending (u.retOf u.actor) (u.gangOf u.actor).job u.sq.chsel.toNat < c.posts) :
    ∃ w x, PostPasses u w ranges x :=
  ⟨_, _, by rw [hc]; exact h.1.1, by rw [hc]; exact h.1.2, rfl, h.2.1, by rw [hc]; exact h.2.2⟩

theorem witness_Unparked : Unparked wPost := by unfold Unparked; decide
theorem witness_DataPosts : rankValid (wPost.rankNow (wPost.devOf wPost.actor) (wPost.gangOf wPost.actor).job 0) = true ∧
    canonical (wPost.sq.readS 0) = true ∧ inWindow (wPost.sq.readS 0) = false ∧ (wPost.sq.readS 0).toNat % 32 = 0 ∧
    (wPost.sq.readS 0).toNat < 4096 := by decide
theorem witness_DataPosts_get : ∃ w x, PostPasses wPost.unlatched w [⟨wPost.sq.readS 0, 32, false, true, 32⟩] x :=
  postPasses_of _ _ _ rfl (by decide +kernel)
theorem witness_DataPosts_put : ∃ w x, PostPasses wPost.unlatched w [⟨wPost.sq.readS 0, 32 * 128, true, false, 32⟩] x :=
  postPasses_of _ _ _ rfl (by decide +kernel)
theorem witness_DataPosts_amo : ∃ w x, PostPasses wPost.unlatched w [⟨wPost.sq.readS 0, 64 * 64, true, true, 32⟩] x :=
  postPasses_of _ _ _ rfl (by decide +kernel)

/-- s1 names aperture 1 at offset 0, s2 the card, s3 the map. -/
def wGroup : State := withSq wPost (fun x => { x with sregs := [(1, 0x00FC010000000000), (2, 0x40), (3, 0x100), (4, 0x30), (5, 0x400)] })
theorem witness_GroupPosts : wGroup.checkAperture 0 0 (wGroup.sq.readS 1) 4 = none ∧
    combineOk ((wGroup.sq.readS 4).toNat % 8) ((wGroup.sq.readS 4).toNat / 16 % 16) = true ∧ (wGroup.sq.readS 4).toNat < 256 ∧
    (wGroup.sq.readS 4).toNat / 8 % 2 = 0 := by decide +kernel
theorem witness_GroupPosts_mst : ∃ w x, PostPasses wGroup.unlatched w [⟨wGroup.sq.readS 0, 32 * 4, true, false, 32⟩] x :=
  postPasses_of _ _ _ rfl (by decide +kernel)
theorem witness_GroupPosts_mld : ∃ w x, PostPasses wGroup.unlatched w [⟨wGroup.sq.readS 0, 32 * 4, false, true, 32⟩] x :=
  postPasses_of _ _ _ rfl (by decide +kernel)

/-- What a record read or a check answers, when it answers that all is well. -/
def RecordRead.ok? (r : RecordRead) : Option (State × List (BitVec 64)) := match r with | .ok v ds => some (v, ds) | _ => none
def PostCheck.ok? (r : PostCheck) : Option (State × PostKind × List LocalRange) := match r with | .ok v k rs => some (v, k, rs) | _ => none
theorem record_ok (r : RecordRead) (v : State) (ds : List (BitVec 64)) (h : r.ok? = some (v, ds)) : r = .ok v ds := by
  cases r <;> simp_all [RecordRead.ok?]
theorem check_ok (r : PostCheck) (v : State) (k : PostKind) (rs : List LocalRange) (h : r.ok? = some (v, k, rs)) : r = .ok v k rs := by
  cases r <;> simp_all [PostCheck.ok?]
/-- The state and doubles of a record read that is well, by default the state before. -/
def recState (r : RecordRead) : State := (r.ok?.map Prod.fst).getD {}
def recData (r : RecordRead) : List (BitVec 64) := (r.ok?.map Prod.snd).getD []
theorem record_of (r : RecordRead) (h : r.ok?.isSome = true) : r = .ok (recState r) (recData r) := by
  cases r <;> simp_all [RecordRead.ok?, recState, recData]
/-- The kind and ranges a post's check answers. -/
def okKind (r : PostCheck) : Option (PostKind × List LocalRange) := r.ok?.map Prod.snd

abbrev collRead : RecordRead := wGroup.unlatched.readRecord (wGroup.sq.readS 2) 8 tdstNone
abbrev collRanges : List LocalRange := [⟨0x400, 4, true, false, 32⟩, ⟨0x500, 4, false, true, 32⟩]
theorem witness_GroupPosts_card : collRead = .ok (recState collRead) (recData collRead) := record_of _ (by decide +kernel)
theorem witness_GroupPosts_coll : (recState collRead).checkColl 0 0 (recData collRead) =
    .ok (recState collRead) (.coll (recData collRead)) collRanges := check_ok _ _ _ _ (by decide +kernel)
theorem witness_GroupPosts_collLocal : ∃ w x, PostPasses (recState collRead) w collRanges x :=
  postPasses_of _ _ { posts := 4, rsv := 2, prsv := 2 } (by decide +kernel) (by decide +kernel)

abbrev mapHead : RecordRead := wGroup.unlatched.readRecord (wGroup.sq.readS 3) 8 tdstNone
abbrev mapRead : RecordRead := (recState mapHead).readRecord (wGroup.sq.readS 3) (8 + 4 * mapDims (recData mapHead)) tdstNone
abbrev mapCheck : PostCheck :=
  (recState mapRead).checkTxa 0 0 (recData mapHead ++ (recData mapRead).drop 8) (wGroup.sq.readS 5) (wGroup.sq.readS 5)
theorem witness_GroupPosts_map : mapHead = .ok (recState mapHead) (recData mapHead) ∧ mapDims (recData mapHead) ≤ 14 ∧
    mapRead = .ok (recState mapRead) (recData mapRead) :=
  ⟨record_of _ (by decide +kernel), by decide +kernel, record_of _ (by decide +kernel)⟩
abbrev mapRanges : List LocalRange := ((mapCheck.ok?.map Prod.snd).map Prod.snd).getD []
theorem witness_GroupPosts_txa : mapCheck = .ok (recState mapRead)
    (.txa (recData mapHead ++ (recData mapRead).drop 8) (wGroup.sq.readS 5) (wGroup.sq.readS 5)) mapRanges :=
  check_ok _ _ _ _ (by decide +kernel)
theorem witness_GroupPosts_txaLocal : ∃ w x, PostPasses (recState mapRead) w mapRanges x ∧ x.pins.length ≤ 256 := by
  obtain ⟨w, x, h⟩ := postPasses_of (recState mapRead) mapRanges { posts := 4, rsv := 2, prsv := 2 } (by decide +kernel) (by decide +kernel)
  refine ⟨w, x, h, ?_⟩
  have h1 : ((recState mapRead).localRanges (recState mapRead).actor mapRanges {}).2.pins.length ≤ 256 := by decide +kernel
  rw [h.2.2.1] at h1
  exact h1

theorem witness_ChannelWords : (w0.sq.readS 0).toNat < 256 ∧ (wPost.sq.readS 0).toNat ≤ 4096 ∧
    (tabGet (wPost.field (wPost.fieldOf wPost.actor)).chans 0 {}).posts ≠ 0 ∧
    (wPost.sq.readS 0).toNat ≤ (wPost.ret (wPost.retOf wPost.actor)).freeSlots + 2 := by decide
/-- A put of one flit from address 0 of rank 0's memory at 0x800. -/
def putOp : Posted := { id := 7, squad := some 0, gang := some 0, kind := .put 0x800 0 0 1, segs := [⟨0, 0, 32⟩], pins := [0] }
def wAccept : State := withSq wPost (fun x => { x with out := [⟨0, 0, false, .ordinary, 0, .post 0 putOp, 0, none, 0, 0, 0x1800, []⟩] })
theorem witness_ChannelWords_accept : wAccept.mayRun 0 = true ∧ ((wAccept.squad 0).out[0]?).isSome = true ∧ putOp.kind.collective? = none ∧
    (wAccept.ret (wAccept.retOf 0)).pinsFit putOp.pins = true ∧ (wAccept.squad 0).run = .running := by decide
theorem witness_ChannelWords_quiet : QuietBlock wAccept (blockOfSquad 0) := quiet_of _ rfl rfl rfl

/-- The put queued on channel 0 in an exchange superstep, the job's plan read. -/
def wPut (p : Posted) : State :=
  let s := wPost.setField 0 { chans := [(0, { posts := 4, rsv := 2, prsv := 2, queue := [p] })], planRead := true }
  (s.setDev 0 { s.dev 0 with phase := 1 }).setJob 0 { s.job 0 with advanced := true }
theorem witness_NoParts (p : Posted) (hp : p.kind.collective? = none) (hs : p.started = false) : NoParts (wPut p) := by
  intro e he c hc x hx
  have : e = (0, { chans := [(0, { posts := 4, rsv := 2, prsv := 2, queue := [p] })], planRead := true }) := by
    have h : e ∈ [(0, ({ chans := [(0, { posts := 4, rsv := 2, prsv := 2, queue := [p] })], planRead := true } : Field))] := he
    simpa using h
  subst this
  simp at hc; subst hc
  simp at hx; subst hx
  exact ⟨hp, hs⟩
theorem witness_PutRequests : NoParts (wPut putOp) ∧ wireOf putOp.kind = some (0, 1, true) ∧ plainWrite putOp.kind = true :=
  ⟨witness_NoParts _ rfl rfl, rfl, rfl⟩
theorem witness_PutRequests_leave : (wPut putOp).carries 0 0 = true ∧ ((wPut putOp).field 0).nextOp (.chan 0) = some putOp ∧
    ((wPut putOp).field 0).slotFree (.chan 0) = true ∧ (tabGet ((wPut putOp).field 0).chans 0 {}).ordered = false ∧
    putOp.ranks.all (fun k => rankValid ((wPut putOp).rankLatched 0 0 k) &&
      !(((wPut putOp).dev 0).fenced.contains (rankDev ((wPut putOp).rankLatched 0 0 k)))) = true ∧
    putOp.ranks.any (fun k => State.external 0 ((wPut putOp).rankLatched 0 0 k) 0) = false ∧
    (wPut putOp).localPart 0 0 (.chan 0) putOp ⟨0, [0]⟩ = .ok (wPut putOp) putOp :=
  ⟨by decide, by decide, by decide, by decide, by decide, by decide, rfl⟩
theorem witness_PutRequests_data : (List.range 32).all (fun i => match putOp.place (0 + BitVec.ofNat 64 (32 * 0 + i)) with
    | some a => !((wPut putOp).isBad a 1) && !((wPut putOp).wsLocked a) && !((wPut putOp).wsRefreshing a)
    | none => false) = true := by decide
/-- A put to rank 1, which is not valid. -/
def deadOp : Posted := { putOp with kind := .put 0x800 0 1 1 }
theorem witness_PutRequests_dead : ((wPut deadOp).field 0).nextOp (.chan 0) = some deadOp ∧
    deadOp.ranks.all (fun k => rankValid ((wPut deadOp).rankLatched 0 0 k)) = false := by decide
/-- A request of operation p in flight, units todo still to do and back done. -/
def flitOf (todo back : List Nat) (failed : Option (BitVec 8)) : Request :=
  { job := 0, chan := .chan 0, op := 7, part := 0, exts := [], rank := 0, waiting := none, todo := todo, back := back, data := [],
    failed := failed }
def wFlit (p : Posted) (q : Request) : State :=
  let s := wPut { p with sent := 1 }
  s.setRet 0 { s.ret 0 with requests := [(3, q)] }
theorem witness_PutRequests_arrive : let s := wFlit putOp (flitOf [0] [] none)
    tabGet? (s.ret 0).requests 3 = some (flitOf [0] [] none) ∧ (s.field 0).op? (.chan 0) 7 = some { putOp with sent := 1 } ∧
    (flitOf [0] [] none).todo[0]? = some 0 ∧ rankDev (s.rankLatched 0 0 0) = 0 ∧ (s.dev 0).fenced.contains 0 = false ∧
    s.jobLive 0 0 = true ∧ rankAt (s.rankLatched 0 0 0) < 48 ∧ s.orderHolds 0 0 (.chan 0) 7 0 = false ∧
    (s.remoteAt 0 (s.rankLatched 0 0 0) (0x800 + BitVec.ofNat 64 (32 * 0)) .write).2 = .ok 0x800 false := by decide +kernel
/-- A get of one flit, and an atomic of one word each, in flight. -/
def getOp : Posted := { putOp with kind := .get 0 0x800 0 1 }
def amoOp : Posted := { putOp with kind := .amo 0x800 0 0 7 false 1, segs := [⟨0, 0, 64⟩] }
theorem witness_PutRequests_read : (((wFlit getOp (flitOf [0] [] none)).remoteAt 0 ((wFlit getOp (flitOf [0] [] none)).rankLatched 0 0 0)
      (0x800 + BitVec.ofNat 64 (32 * 0)) .read).2 = .ok 0x800 false) ∧
    (((wFlit getOp (flitOf [0] [] none)).remoteAt 0 ((wFlit getOp (flitOf [0] [] none)).rankLatched 0 0 0)
      (0x800 + BitVec.ofNat 64 (32 * 0)) .read).1.isBad 0x800 32 = false) ∧ amoBytes false = 4 ∧ wireOf amoOp.kind = some (0, 8, false) := by
  decide +kernel
theorem witness_PutRequests_answer : let s := wFlit getOp (flitOf [] [0] none)
    tabGet? (s.ret 0).requests 3 = some (flitOf [] [0] none) ∧ (flitOf [] [0] none).orphan = false ∧
    (s.field 0).op? (.chan 0) 7 = some { getOp with sent := 1 } ∧ requestCount (.chan 0) 1 true ≤ getOp.acked + 1 ∧
    getOp.acked + 1 < requestCount (.xfer 0) 129 true ∧ (flitOf [] [0] none).back[0]? = some 0 ∧ (flitOf [] [0] (some 8)).failed ≠ none := by
  decide +kernel

/-- A collective of one member: KIND and group of one, COUNT 8 words, SEND at 0x400, RECV at 0x500. -/
def loneCard (kind : Nat) : List (BitVec 64) :=
  ([(3 + 16 * kind) * 2 ^ 53, 1, 0x1000, 0x400, 0x500, 0, 0, 0] : List Nat).map (BitVec.ofNat 64)
def loneOp (kind : Nat) : Posted :=
  { id := 7, squad := some 0, gang := some 0, kind := .coll (loneCard kind), segs := [⟨0x400, 0x400, 4⟩, ⟨0x500, 0x500, 4⟩], pins := [] }
theorem witness_LoneCollective : let c := loneCard 0
    (collCount c, collBytes c, collKind c) = (1, 4, 0) ∧ collGroup c = ⟨collSelf c, 1, (collGroup c).stride⟩ ∧ collRoot c = collSelf c ∧
    (loneOp 0).kind = .coll c ∧ (List.range 4).all (fun i => (loneOp 0).place (dblAt c 3 + BitVec.ofNat 64 i) = some (0x400 + i) &&
      decide ((loneOp 0).place (dblAt c 4 + BitVec.ofNat 64 i) = some (0x500 + i))) = true ∧
    (wPut (loneOp 0)).carries 0 0 = true ∧ rankValid ((wPut (loneOp 0)).rankLatched 0 0 (collSelf c)) = true ∧
    (wPut (loneOp 0)).fields = [(0, (wPut (loneOp 0)).field 0)] ∧ ((wPut (loneOp 0)).field 0).begun = [] ∧ (wPut (loneOp 0)).mismatch = [] := by
  decide +kernel
/-- The one member of a group holds its own flits. -/
theorem holdsAll_of (p q : Posted) (fs : List Nat)
    (h : ∀ f ∈ fs, tabGet? p.got (gotKey 0 0 f) = some (cellPutList [] 0 (q.unitBytes 0 f))) :
    HoldsAll p (fun _ => q) 0 1 (fun _ => fs) := fun s f hs hf => by
  have : s = 0 := by omega
  subst this; exact h f hf
theorem witness_CollectiveValues : ∃ p, p.kind = .coll (loneCard 0) ∧ collFlits (loneCard 0) ≤ 2 ^ 32 ∧ 0 < collRecv (loneCard 0) ∧
    HoldsAll p (fun _ => loneOp 0) 0 1 (fun s => (List.range (collFlits (loneCard 0))).filter (fun f =>
      (collKind (loneCard 0) ≠ 0 || sliceOwner (collFlits (loneCard 0)) 1 f = 0) && (collKind (loneCard 0) ≠ 2 || s = collRootPos (loneCard 0)))) :=
  ⟨{ loneOp 0 with got := [(gotKey 0 0 0, cellPutList [] 0 ((loneOp 0).unitBytes 0 0))] }, rfl, by decide, by decide,
    fun s f hs hf => by
      have h1 : s = 0 := by omega
      subst h1
      have h2 : f = 0 := by
        have : f ∈ List.range 1 := List.mem_of_mem_filter hf
        simpa using this
      subst h2; rfl⟩
/-- The map of wPost: a group of one, four words of four bytes. -/
abbrev loneMap : List (BitVec 64) := recData mapHead ++ (recData mapRead).drop 8
/-- Member k's map of a 4 by 4 transpose of words over two ranks: the source cut along dimension 1, the destination along 0, by twos. -/
def turnMap (k : Nat) : List (BitVec 64) := ([2 ^ 60 + 2 * 2 ^ 58, 2 * 2 ^ 12 + 2 ^ 25, k, 0, 0, 0, 0, 0,
  2 ^ 51 + 2 * 2 ^ 38 + 2 ^ 32 + 4, 2, 4, 4, 2 * 2 ^ 51 + 2 ^ 38 + 4, 2 * 2 ^ 32, 16, 16] : List Nat).map (BitVec.ofNat 64)
def turnOp (k : Nat) : Posted := { id := 7, squad := some 0, gang := some 0, kind := .txa (turnMap k) 0x400 0x500, segs := [], pins := [] }
/-- Global index (3, 1). -/
def turnIndex (d : Nat) : Nat := if d = 0 then 3 else 1
theorem witness_TransposeValues : (mapGroup (turnMap 1)).count = 2 ∧ PermOk (turnMap 1) ∧ InExtents (turnMap 1) turnIndex ∧
    ((List.range (mapD (turnMap 1))).map (fun d => mapBits (turnMap 1) d 0 0 32)).prod ≤ 2 ^ 32 ∧ targetOf (turnMap 1) turnIndex = 1 ∧
    sourceOf (turnMap 1) turnIndex < 2 ∧ (∀ k, k < 2 → (mapGroup (turnMap 1)).position (mapSelf (turnMap k)) = k ∧
      ∀ i, i < 16 → i ≠ 2 → dblAt (turnMap k) i = dblAt (turnMap 1) i) ∧ (turnOp 1).kind.collective? ≠ none := by
  unfold PermOk InExtents; decide +kernel
-- 14 R280 to R282 worked by hand: owner 0 to 1, offsets 3 * 4 + 1 * 16 and 1 * 4 + 1 * 16, thirteenth in destination order.
theorem test_transpose : (sourceOf (turnMap 1) turnIndex, sourceOffset (turnMap 1) turnIndex, targetOffset (turnMap 1) turnIndex,
    wireNumber (turnMap 1) turnIndex) = (0, 28, 20, 13) ∧ piece (turnMap 1) 0 1 = [8, 9, 12, 13] ∧ dstOffset (turnMap 1) 13 = 20 ∧
    srcOffset (turnMap 1) 13 = 28 := by decide +kernel
theorem witness_TransposeValues_held : ∃ p : Posted, p.kind = .txa (turnMap 1) 0x400 0x500 ∧
    HoldsAll p turnOp 1 2 (fun k => List.range (flitCount ((piece (turnMap 1) k 1).length * mapE (turnMap 1)))) := by
  refine ⟨{ turnOp 1 with got := (List.range 2).map (fun k => (gotKey 0 k 0, cellPutList [] 0 ((turnOp k).unitBytes 1 0))) }, rfl, fun k f hk hf => ?_⟩
  have h0 : ∀ k, k < 2 → List.range (flitCount ((piece (turnMap 1) k 1).length * mapE (turnMap 1))) = [0] := by decide +kernel
  have h3 : f ∈ List.range (flitCount ((piece (turnMap 1) k 1).length * mapE (turnMap 1))) := hf
  have h2 : f = 0 := by rw [h0 k hk] at h3; simpa using h3
  subst h2
  have h4 : k = 0 ∨ k = 1 := by omega
  rcases h4 with rfl | rfl <;> rfl
/-- What a part reads where nothing stalls and nothing is bad. -/
theorem witness_PartReads : (match State.readLocal w0 (.member 0) (loneOp 0) (loneOp 0).partSources with | .ok _ _ => true | _ => false) = true ∧
    (loneOp 0).kind.collective? ≠ none := by decide +kernel

/-- A request outside, RETX at and below its end; a card on its way to reticle 1. -/
def wOutside (n : BitVec 64) : State :=
  let s := wFlit putOp { flitOf [0] [] none with exts := [1], rank := 1 }
  s.setRet 0 { s.ret 0 with retx := n, outgoing := [⟨1, (w0.gang 0).desc, 0, 0, true, false⟩] }
theorem witness_FieldEvents : (wOutside 0).rets.any (fun e => e.2.requests.any (fun q => q.2.exts ≠ [])) = true ∧
    ((wOutside 0).ret 0).retx.toNat + 1 < 2 ^ 64 ∧ ((wOutside 0xFFFFFFFFFFFFFFFF).ret 0).retx.toNat + 1 = 2 ^ 64 := by decide
theorem witness_FieldEvents_card : ((wOutside 0).ret 0).outgoing[0]? = some ⟨1, (w0.gang 0).desc, 0, 0, true, false⟩ ∧
    (wOutside 0).computing (devOfRet 0) = false ∧ checkDesc (w0.gang 0).desc false = 0 ∧
    ((wOutside 0).ret 1).queueFree (w0.gang 0).desc.prio = true ∧
    (wOutside 0).heldBack (devOfRet 0) kindRefusedCard (fun y => y.ret = retNo 1) = false := by decide


-- Copy engines ------------------------------------------------------------------------------------------------------------------

/-- A card that only signals (OP 2, scope .squad) at 0x8000, and one with a reserved OP at 0x8200. -/
def wCard : State :=
  withSq ((w0.write 0x8000 8 (2 * 2 ^ 60 + 2 ^ 51)).write 0x8200 8 (9 * 2 ^ 60)) (fun x => { x with sregs := [(1, 0x8000), (2, 0x8200)] })
def ChainRead.ok? (r : ChainRead) : Option (State × List (List (BitVec 64))) := match r with | .ok v cs => some (v, cs) | _ => none
def chainState (r : ChainRead) : State := (r.ok?.map Prod.fst).getD {}
def chainData (r : ChainRead) : List (List (BitVec 64)) := (r.ok?.map Prod.snd).getD []
theorem chain_of (r : ChainRead) (h : r.ok?.isSome = true) : r = .ok (chainState r) (chainData r) := by
  cases r <;> simp_all [ChainRead.ok?, chainState, chainData]
abbrev cardChain (a : BitVec 6) : ChainRead := wCard.unlatched.readChain 65 (wCard.sq.readS a) (tdstScalar 3) []
theorem witness_EngineWords : Unparked wCard ∧ cardChain 1 = .ok (chainState (cardChain 1)) (chainData (cardChain 1)) ∧
    (chainState (cardChain 1)).refuseChain 0 0 (wCard.sq.readS 0).toNat (chainData (cardChain 1)) false = 0 :=
  ⟨by unfold Unparked; decide, chain_of _ (by decide +kernel), by decide +kernel⟩
theorem witness_EngineWords_refused : cardChain 2 = .ok (chainState (cardChain 2)) (chainData (cardChain 2)) ∧
    (chainState (cardChain 2)).refuseChain 0 0 (wCard.sq.readS 0).toNat (chainData (cardChain 2)) false = 2 :=
  ⟨chain_of _ (by decide +kernel), by decide +kernel⟩

def okCards (r : State × Except (BitVec 64 × Acc) (List Card)) : List Card := match r.2 with | .ok cs => cs | _ => []
theorem cards_of (r : State × Except (BitVec 64 × Acc) (List Card)) (h : (match r.2 with | .ok _ => true | _ => false) = true) :
    r = (r.1, .ok (okCards r)) := by
  rcases r with ⟨u, _ | cs⟩
  · cases h
  · rfl
abbrev cardRegions : State × Except (BitVec 64 × Acc) (List Card) :=
  let v := chainState (cardChain 1)
  v.resolveCards (v.gangWalker 0) (some 0) 0 0 ((chainData (cardChain 1)).map parseCard) []
abbrev cardTokens : State × Except (BitVec 64 × Acc) (List Card) :=
  let v := chainState (cardChain 1)
  cardRegions.1.resolveTokens (v.gangWalker 0) (some 0) 0 0 (okCards cardRegions) []
theorem witness_EngineWords_enters : ∃ x y c1 c2, cardRegions = (x, .ok c1) ∧ cardTokens = (y, .ok c2) ∧ overPinned c2 = false ∧
    (y.ret 0).pinsFit (c2.flatMap Card.allPins) = true :=
  ⟨_, _, _, _, cards_of _ (by decide +kernel), cards_of _ (by decide +kernel), by decide +kernel, by decide +kernel⟩
/-- 257 pins are one too many. -/
theorem witness_EngineWords_pinned : overPinned [{ (default : Card) with pins := List.range 257 }] = true := by decide +kernel
theorem witness_EngineWords_wait : (wCard.sq.readS 1).toNat % 8 = 0 ∧
    ∃ v k ca, (wCard.setSq { wCard.sq with latch := none }).access 0 .read (wCard.sq.readS 1) 8 = (v, .ok k ca) :=
  ⟨by decide, access_ok _ _ _ _ _ 0x8000 false (by decide +kernel)⟩

/-- A card that fills two 8-byte elements at 0x800, one dimension, and a card after it in its chain. -/
def fillCard : Card :=
  { seq := 1, job := 0, squad := some 0, port := none, op := 1, ndim := 0, esize := 3, scope := 1, next := 0, token := 0, src := 0,
    dst := 0x800, fillv := 9, reads := [], writes := [(0x800, 16)], dims := [(2, 0, 8)], rsegs := [], wsegs := [⟨0x800, 0x800, 16⟩],
    tokenAddr := none, pins := [], chain := 5, word := 0, after := [], engine := 0, entered := false, running := false, progress := 0,
    stopped := false, offReticle := false, hits := [] }
def wEngine (c : Card) (q : List Nat) : State :=
  w0.setRet 0 { w0.ret 0 with cards := [(5, c), (6, { fillCard with after := [5] })], queues := [(0, q)] }
theorem witness_CardEvents_enqueue : ((wEngine fillCard []).ret 0).cards.find? (fun c => c.2.engine = 0 && !c.2.entered) = some (5, fillCard) ∧
    (tabGet ((wEngine fillCard []).ret 0).queues 0 []).length < 64 ∧
    ((wEngine fillCard []).ret 0).cards.any (fun x => x.2.chain = fillCard.chain && decide (5 < x.1)) = true := by decide
def segOk (r : Except (BitVec 8) Nat) : Option Nat := match r with | .ok a => some a | _ => none
theorem seg_of (r : Except (BitVec 8) Nat) (a : Nat) (h : segOk r = some a) : r = .ok a := by cases r <;> simp_all [segOk]
def runningFill (p : Nat) : Card := { fillCard with entered := true, running := true, progress := p }
theorem witness_CardEvents_start : tabGet ((wEngine (runningFill 1) [5]).ret 0).queues 0 [] = [5] ∧
    tabGet? ((wEngine (runningFill 1) [5]).ret 0).cards 5 = some (runningFill 1) ∧ (runningFill 1).stopped = false ∧ (runningFill 1).running = true ∧
    (wEngine (runningFill 1) [5]).cardPhase 0 (runningFill 1) = true ∧ (runningFill 1).progress < (runningFill 1).total ∧ (runningFill 1).op.toNat < 2 ∧
    (wEngine (runningFill 1) [5]).engineHeld 0 0 = false ∧ (List.range 2).filter (fun i => (0x800 + elemOffset [(2, 8)] i).toNat / 32 = (0x800 + elemOffset [(2, 8)] 0).toNat / 32) = [0, 1] ∧
    segAddr 8 (runningFill 1).writes (runningFill 1).wsegs (0x800 + elemOffset [(2, 8)] 0) = .ok 0x800 ∧
    segAddr 8 (runningFill 1).writes (runningFill 1).wsegs (0x800 + elemOffset [(2, 8)] 1) = .ok 0x808 :=
  ⟨by decide, by decide, by decide, by decide, by decide, by decide, by decide, by decide, by decide, seg_of _ _ (by decide), seg_of _ _ (by decide)⟩
theorem noPending_of (s : State) (h : (s.ret 0).eports = []) : NoPending s 0 := by
  intro p; rw [h]; rfl
theorem witness_CardEvents_complete : HeadCard (wEngine (runningFill 2) [5]) 0 0 5 [] (runningFill 2) ∧
    (runningFill 2).total ≤ (runningFill 2).progress ∧ (runningFill 2).ended = false ∧ NoPending (wEngine (runningFill 2) [5]) 0 ∧ 5 ∉ ([] : List Nat) :=
  ⟨⟨by decide, by decide⟩, by decide, rfl, noPending_of _ rfl, by simp⟩
/-- A card that has ended, its token word at 0x900 still to be written. -/
def endedCard : Card := { runningFill 2 with ended := true, token := 0x900, tokenAddr := some 0x900 }
theorem witness_CardEvents_token : let s := wEngine endedCard []
    (s.ret 0).cards.find? (fun d => decide (d.2.engine = 0) && d.2.ended && s.tokenMay 0 d.2) = some (5, endedCard) ∧
    endedCard.tokenFault = none ∧ s.isBad 0x900 8 = false ∧ s.engineHeld 0 0 = false ∧ tabGet (s.ret 0).queues 0 [] = [] := by decide +kernel
/-- The last card of the chain is outstanding for the squad that entered it. -/
theorem witness_CardEvents_last : let s := (wOut (.chain 5 1 (.sreg 3))).setRet 0 { (w0.ret 0) with cards := [(5, fillCard)] }
    (s.ret 0).cards.any (fun x => x.2.chain = fillCard.chain && decide (5 < x.1)) = false ∧ fillCard.squad = some 0 ∧ (s.squad 0).run = .running ∧
    ((s.squad 0).out.find? (fun o => match o.kind with | .chain i _ _ => i = fillCard.chain | _ => false)).map (fun o => o.kind) =
      some (.chain fillCard.chain 1 (.sreg 3)) := by decide +kernel

abbrev portStart (s : State) : State :=
  let e0 : EnginePort := { tabGet (s.ret 0).eports 2 {} with done := false, refused := false, value := 0, chain := none }
  s.setRet 0 { s.ret 0 with eports := tabPut (s.ret 0).eports 2 e0 }
def physError (r : Except Nat (List (List (BitVec 64)))) : Option Nat := match r with | .error k => some k | _ => none
def physData (r : Except Nat (List (List (BitVec 64)))) : List (List (BitVec 64)) := match r with | .ok d => d | _ => []
theorem physError_of (r : Except Nat (List (List (BitVec 64)))) (k : Nat) (h : physError r = some k) : r = .error k := by
  cases r <;> simp_all [physError]
theorem physData_of (r : Except Nat (List (List (BitVec 64)))) (h : physError r = none) : r = .ok (physData r) := by
  cases r <;> simp_all [physError, physData]
/-- Address 2^46 is not this reticle's. -/
theorem witness_CardEvents_port : (tabGet (wCard.ret 0).eports 2 {}).done = true ∧
    (portStart wCard).readPhysChain 0 65 (0x400000000000 &&& 0x000FFFFFFFFFFFC0#64) [] = .error 3 :=
  ⟨by decide, physError_of _ _ (by decide)⟩
abbrev physRead : Except Nat (List (List (BitVec 64))) := (portStart wCard).readPhysChain 0 65 (0x8000 &&& 0x000FFFFFFFFFFFC0#64) []
abbrev physRegions : State × Except (BitVec 64 × Acc) (List Card) :=
  (portStart wCard).resolveCards ((portStart wCard).jobWalker 0 0) none 0 0 ((physData physRead).map (fun ds => { parseCard ds with job := 0 })) []
abbrev physTokens : State × Except (BitVec 64 × Acc) (List Card) :=
  physRegions.1.resolveTokens ((portStart wCard).jobWalker 0 0) none 0 0 (okCards physRegions) []
theorem witness_CardEvents_submit : ∃ cs u v c1 c2, physRead = .ok cs ∧ wCard.jobLive 0 0 = true ∧
    (portStart wCard).refuseChain 0 0 0 cs true = 0 ∧ physRegions = (u, .ok c1) ∧ physTokens = (v, .ok c2) ∧ overPinned c2 = false ∧
    c2 ≠ [] ∧ (v.ret 0).pinsFit (c2.flatMap Card.allPins) = true :=
  ⟨_, _, _, _, _, physData_of _ (by decide +kernel), by decide, by decide +kernel, cards_of _ (by decide +kernel), cards_of _ (by decide +kernel),
    by decide +kernel, by decide +kernel, by decide +kernel⟩


-- Gangs, supersteps, translation, monitors, the host ------------------------------------------------------------------------------

theorem calm_of (s : State) (hs : s.squadsOf 0 = [0]) (hq : (s.squad 0).run = .running) (hp : (s.block 0).pacer.run = .idle)
    (hf : (s.block 0).pacer.faults = []) : CalmBlock s 0 := by
  refine ⟨quiet_of s hs hq hp, fun q h w => ?_, hf⟩
  rw [hs] at h
  have : q = 0 := by simpa using h
  subst this; rw [hq]; simp
theorem witness_SyncExitYield : MayLeave w0 := ⟨by unfold Unparked; decide, by decide, by decide, calm_of _ rfl rfl rfl rfl⟩
theorem witness_SyncExitYield_yield : (w0.sq.readS 0).toNat % 8 = 0 ∧ (w0.sq.readS 0).toNat % 4 = 0 ∧
    (∃ v k ca, w0.unlatched.access 0 .read (w0.sq.readS 0) 8 = (v, .ok k ca)) ∧ (w0.gangOf 0).place = .resident ∧
    checkDesc (w0.gangOf w0.actor).desc false = 0 ∧ ∀ q ∈ w0.gangSquads 0, q = w0.actor :=
  ⟨by decide, by decide, access_ok _ _ _ _ _ 0 false (by decide), by decide, by decide, by decide⟩
theorem witness_OutsideFrame : OutsideFrame { w0.gang 0 with frame := some 0x10000 } 0xFFFF :=
  fun o h => by
    have h2 : 0x10000 = o := by simpa using h
    subst h2; exact .inl (by decide)
/-- A gang of two squads, the other running. -/
def wTwo : State :=
  let s := w0.setGang 0 { w0.gang 0 with desc := { (w0.gang 0).desc with squads := 1, vws := 15 } }
  s.setSquad 1 w0.sq
theorem witness_SyncExitYield_stays : ∃ q ∈ wTwo.gangSquads (gangOfSquad wTwo.actor), q ≠ wTwo.actor ∧ (wTwo.squad q).run = .running := by decide

/-- A ring of 16 records, and no lane active. -/
def wRing : State := w0.setDev 0 { w0.dev 0 with rlen := 4 }
theorem witness_SystemCall : CalmBlock wRing (blockOfSquad wRing.actor) ∧ Unparked wRing ∧ (wRing.sq.readS 0).toNat % 2 = 0 ∧
    (wRing.sq.readS 0).toNat + 3 < wRing.sq.vws ∧ (∃ l rest, lanesOn (wRing.sq.readM 0) = l :: rest) ∧ (wRing.dev 0).held = [] ∧
    ((wRing.dev 0).rhead - (wRing.dev 0).rtail).toNat < (wRing.dev 0).ringSize :=
  ⟨calm_of _ rfl rfl rfl rfl, by unfold Unparked; decide, by decide, by decide, ⟨0, (lanesOn 0xFFFFFFFF).tail, by decide⟩, by decide, by decide⟩
theorem witness_SystemCall_none : lanesOn ((withSq wRing (fun x => { x with masks := [] })).sq.readM 0) = [] := by decide

/-- A block whose Pacer runs; the squad has arrived at barrier 5. -/
def wBar : State :=
  withSq (w0.setBlock 0 { pacer := { tpc := 0x10200, run := .running }, bars := [(5, ⟨1, 3, 2, none, []⟩)], arrived := [(5, 2)] })
    (fun x => { x with sregs := [(1, 3), (2, 1), (3, 17)] })
theorem quiet_wBar : QuietBlock wBar 0 := by
  refine ⟨fun q h k => ?_, fun k m => by simp [wBar, withSq, State.block, State.setBlock]⟩
  have : q = 0 := by
    have h2 : q ∈ [0] := h
    simpa using h2
  subst this
  have hr : (wBar.squad 0).run = .running := rfl
  rw [hr]; simp
theorem witness_BarrierWords : Unparked wBar ∧ QuietBlock wBar 0 ∧ (wBar.block 0).arrivals = [] ∧ wBar.sq.run = .running ∧
    (wBar.block 0).pacer.run = .running ∧ squadKey 0 (sqidOf wBar.actor) = wBar.actor :=
  ⟨by unfold Unparked; decide, quiet_wBar, by decide, by decide, by decide, by decide⟩
/-- The second of three at barrier 5, the only one at barrier 6, the first of seventeen at barrier 7. -/
theorem witness_BarrierWords_counts : GoodCount (wBar.block 0) 5 (wBar.sq.readS 1).toNat ∧ ((wBar.block 0).bar 5).cnt + 1 ≠ (wBar.sq.readS 1).toNat ∧
    GoodCount (wBar.block 0) 6 (wBar.sq.readS 2).toNat ∧ GoodCount (wBar.block 0) 7 (wBar.sq.readS 3).toNat ∧ wBar.sq.bars = none ∧
    tabGet? (wBar.block 0).arrived (16 * sqidOf wBar.actor + (5#4).toNat) = some ((wBar.block 0).bar (5#4).toNat).gen := by
  unfold GoodCount; decide
/-- A BARS at the PC that a trap has interrupted. -/
theorem witness_BarrierWords_interrupted : let s := withSq wBar (fun x => { x with bars := some x.pc })
    s.sq.bars = some s.sq.pc ∧ s.sq.handler = none ∧ tabGet? (s.block 0).arrived (16 * sqidOf s.actor + (5#4).toNat) =
      some ((s.block 0).bar (5#4).toNat).gen := by decide
def wArrival : State := wBar.setBlock 0 { wBar.block 0 with arrivals := [⟨0, 5, 3, 9, 0⟩] }
theorem witness_BarrierWords_counted : (wArrival.block 0).arrivals = [⟨0, 5, 3, 9, 0⟩] ∧ (0 ≠ 16) ∧ GoodCount (wArrival.block 0) 5 3 ∧
    ((wArrival.squad (squadKey 0 0)).out.any (fun o => o.kind.loc?.isSome && decide (o.word < 9))) = false := by
  unfold GoodCount; decide

/-- A good descriptor at 0x6000 (job 0, one block of one squad, LOC 1, one gang), one without LOC at 0x6040, one of job 5 at 0x6080. -/
def wDesc : State :=
  withSq (((w0.write 0x6008 8 (2 ^ 40 + 1)).write 0x6048 8 1).write 0x6080 8 (5 * 2 ^ 48)) (fun x => { x with sregs := [(1, 0x6000)] })
abbrev descRead : RecordRead := wDesc.unlatched.readRecord (wDesc.sq.readS 1) 8 (tdstScalar 3)
theorem witness_PostAndSubmit_post : Unparked wDesc ∧ descRead = .ok (recState descRead) (recData descRead) ∧ wDesc.sq.readS 0 = 0 ∧
    checkDesc { parseDesc (recData descRead) with job := 0, asid := (wDesc.gangOf 0).desc.asid, prio := 0 } (descReserved (recData descRead)) = 0 ∧
    (parseDesc (recData descRead)).prio = 0 ∧ ((recState descRead).ret 0).queueFree 0 = true :=
  ⟨by unfold Unparked; decide, record_of _ (by decide +kernel), by decide, by decide +kernel, by decide +kernel, by decide +kernel⟩
theorem witness_PostAndSubmit_submit : (tabGet (wDesc.ret 0).ports 15 {}).done = true ∧ wDesc.descBad 0 0x6000 = false ∧
    ({ wDesc with bad := [0x6020 / 32] } : State).descBad 0 0x6000 = true ∧ wDesc.liveJob 0 (parseDesc (wDesc.readDesc 0 0x6000)) = true ∧
    checkDesc (parseDesc (wDesc.readDesc 0 0x6000)) (descReserved (wDesc.readDesc 0 0x6000)) = 0 ∧
    checkDesc (parseDesc (wDesc.readDesc 0 0x6040)) (descReserved (wDesc.readDesc 0 0x6040)) ≠ 0 ∧
    wDesc.liveJob 0 (parseDesc (wDesc.readDesc 0 0x6080)) = false := by decide +kernel

/-- Every squad parked in SYNC; and an exchange superstep with nothing, or with a put, to carry. -/
def wSynced : State := withSq w0 (fun x => { x with run := .sync 0 0 })
def wExchange : State := w0.setDev 0 { w0.dev 0 with phase := 1 }
theorem witness_Boundaries : wSynced.computing 0 = true ∧ wSynced.allSynced 0 = true ∧ w0.computing 0 = true ∧ w0.allSynced 0 = false ∧
    max 1024 (w0.dev 0).climitNow.toNat ≤ 1000000 := by decide
theorem witness_Boundaries_exchange : wExchange.computing 0 = false ∧ wExchange.unfinished 0 = [] ∧
    (wExchange.liveRets 0).all wExchange.imagesMoved = true ∧ (wExchange.dev 0).limited = false ∧ (wPut putOp).computing 0 = false ∧
    (wPut putOp).unfinished 0 ≠ [] := by decide

theorem settled_of (s : State) (hg : s.gangsOn 0 = [0]) (hd : devOfRet (s.gang 0).ret = 0) (hr : (s.gang 0).place = .resident)
    (hq : s.gangSquads 0 = [0]) (ho : (s.squad 0).out = []) (hn : ∀ k, (s.squad 0).run ≠ .barrier k) (hb : s.blocksOf 0 = [0])
    (hp : ∀ k m, (s.block 0).pacer.run ≠ .barrier k m) : Settled s 0 := by
  intro g hm
  rw [hg] at hm
  have : g = 0 := by simpa using hm
  subst this
  refine ⟨hd, hr, fun q h => ?_, fun b h => ?_⟩
  · rw [hq] at h
    have : q = 0 := by simpa using h
    subst this; exact ⟨ho, hn⟩
  · rw [hb] at h
    have : b = 0 := by simpa using h
    subst this; exact hp
theorem witness_Settled : Settled wSynced 0 :=
  settled_of _ rfl rfl rfl rfl rfl (fun k h => by
    have hr : (wSynced.squad 0).run = .sync 0 0 := rfl
    rw [hr] at h; cases h) rfl (fun k m h => by
    have hr : (wSynced.block 0).pacer.run = .idle := rfl
    rw [hr] at h; cases h)
/-- One launch of one gang of one block of one squad waits at reticle 0, whose reserved area has room for one gang; planned, or to be. -/
def wLaunchEntry (planned : Bool) : Entry := ⟨3, { (w0.gang 0).desc with cores := 0, xplan := 0 }, 1, 0, 0, false, false, planned, 0⟩
def wLaunch (planned : Bool) : State :=
  let x : Reticle := { entries := [wLaunchEntry planned], reserved := { frames := (0x100000, 0x1000000), spills := (0x2000000, 0x1000000) } }
  { State.reset with rets := [(0, x)], devs := [(0, { phase := if planned then 1 else 0 })], jobs := [(0, { ranks := 1, sseg := 16, vseg := 64 })] }
theorem witness_OneLaunch (p : Bool) : OneLaunch (wLaunch p) 0 0 (wLaunchEntry p) := by
  unfold OneLaunch; cases p <;> decide +kernel
theorem witness_PlansLaunch : (wLaunch false).computing 0 = true ∧ (wLaunchEntry false).left = 1 ∧ (wLaunchEntry false).desc.cores = 0 ∧
    (wLaunchEntry false).desc.xplan = 0 ∧ (roomsFor ((wLaunch false).ret 0).reserved [] [] (wLaunchEntry false).desc.frameSize
      ((wLaunch false).spillBytes 0 (wLaunchEntry false).desc) 1) = [(0x100000, 0x2000000)] := by decide +kernel
/-- The plan that places it on core 5. -/
def wPlanned : State :=
  let s := wLaunch true
  s.setRet 0 { s.ret 0 with plan := some ⟨[⟨none, 3, (wLaunchEntry true).desc, 0, 0, [5], some 0x100000, some 0x2000000⟩], [], 16⟩ }
theorem witness_PlacesLaunch : OneLaunch wPlanned 0 0 (wLaunchEntry true) ∧ wPlanned.computing 0 = false ∧ (wPlanned.dev 0).limited = false ∧
    (wLaunchEntry true).planned = true ∧ (wPlanned.core (128 * 0 + 5)).draining = false :=
  ⟨by unfold OneLaunch; decide +kernel, by decide, by decide, rfl, by decide⟩

/-- Gang 0, with a frame, a victim of the plan, or to be placed; away for a page, or for a repair. -/
def wVictim : State :=
  (wExchange.setGang 0 { w0.gang 0 with frame := some 0x100000 }).setRet 0 { wExchange.ret 0 with plan := some ⟨[], [0], 16⟩ }
def wPlace : State :=
  (wExchange.setGang 0 { w0.gang 0 with frame := some 0x100000, spilled := true }).setRet 0
    { wExchange.ret 0 with plan := some ⟨[⟨some 0, 0, (w0.gang 0).desc, 0, 0, [0], none, none⟩], [], 16⟩ }
def wAway (a : Away) : State := wExchange.setGang 0 { w0.gang 0 with place := .away a }
theorem witness_GangEvents : (tabGet? wVictim.gangs 0).isSome = true ∧ wVictim.computing (devOfRet (wVictim.gang 0).ret) = false ∧
    checkDesc (wVictim.gang 0).desc false = 0 ∧ (wVictim.gang 0).frameAt 0x100000 + (wVictim.gang 0).desc.frameSize ≤ 2 ^ 80 ∧
    (wVictim.planOf 0).placements.any (fun p => p.gang = some 0) = false ∧ (wVictim.planOf 0).victims.contains 0 = true ∧
    (wVictim.gang 0).spilled = false ∧ wVictim.imagesQuiet 0 = true ∧ (wPlace.planOf 0).placements.any (fun p => p.gang = some 0) = true ∧
    (wPlace.gang 0).spilled = true ∧ (wPlace.gang 0).overB = [] ∧ ((wAway (.swap false)).gang 0).place = .away (.swap false) ∧
    (wAway (.swap false)).gangHeld 0 = false ∧ ((wAway (.repair false)).gang 0).place = .away (.repair false) ∧ (w0.gang 0).term = none := by decide
theorem witness_GangEvents_drain : (∀ e ∈ wVictim.gangs, e.2.staged = []) ∧
    ∀ e ∈ wVictim.gangs, wVictim.gang e.1 = e.2 ∧ checkDesc e.2.desc false = 0 ∧ ∀ b ∈ e.2.staged, b ∈ wVictim.blocksOf e.1 := by decide

/-- A shoot-down at reticle 0 that waits for nodes, or for device 7. -/
def wShoot (ws : List Nat) : State := w0.setRet 0 { w0.ret 0 with tcb := { (w0.ret 0).tcb with shoot := some ⟨0, 0, ws, []⟩ } }
theorem witness_ShootdownEvents : (w0.ret 0).tcb.shoot = none ∧ bitAt (w0.ret 0).tcb.sdctl 45 = false ∧
    ((wShoot [3, 47]).ret 0).tcb.shoot = some ⟨0, 0, [3, 47], []⟩ ∧ ((wShoot [48 + 7]).ret 0).tcb.shoot = some ⟨0, 0, [55], []⟩ ∧
    ((wShoot [55]).dev 0).fenced = [] ∧ (wShoot [3]).rootHeld 0 = false ∧
    (wShoot [3]).shootPerformed ⟨0, 0, [3], []⟩ 3 = true := by decide +kernel
/-- A request to device 7's rank 0 in flight from device 0. -/
def wLate : State :=
  let s := (wFlit putOp (flitOf [0] [] none)).setRet 0 { (wFlit putOp (flitOf [0] [] none)).ret 0 with tcb := { shoot := some ⟨0, 0, [55], []⟩ } }
  s.setDev 0 { s.dev 0 with latched := [(0, 0x8000000000000000 + 7 * 2 ^ 32)] }
theorem witness_ShootdownEvents_late : tabGet? (wLate.ret 0).requests 3 = some (flitOf [0] [] none) ∧ wLate.rootHeld 0 = false ∧ (7 ≠ 0) ∧
    devOfRet 0 = 0 ∧ wLate.goesTo 0 7 (flitOf [0] [] none) = true := by decide

/-- THR off; a droop in column 2. -/
def wMonitor (thr : Bool) : State := w0.setRet 0 { w0.ret 0 with thr := thr, stretch := [(2, 7)] }
theorem witness_MonitorEvents : ((wMonitor false).ret 0).thr = false ∧ ((wMonitor true).ret 0).thr = true ∧
    min 625 (max 200 ((wMonitor true).ret 0).plim.toNat) = 625 ∧ (625 < 626) ∧ (599 + 25 < 625) ∧ (600 ≤ 625 ∧ 625 ≤ 600 + 25) ∧
    (∀ b ∈ w0.blocksOn 0, (w0.block b).pacer.flight = []) ∧ ((wMonitor true).ret 0).droop.toNat + 5 < 2 ^ 32 ∧
    tabGet? ((wMonitor true).ret 0).stretch 2 = some 7 ∧ bitAt (0x7F000004#64) 2 = true ∧ (slice (0x7F000004#64) 4 4).toNat < 10 ∧
    (slice (0x7F000004#64) 24 8).toNat < 128 ∧ slice (0xFF000074#64) 4 4 = 7 ∧ hasStorage 0x40 = true ∧ w0.bad.contains (0x40 / 32) = false := by
  decide

/-- Before and after MEMREADY, every decoder at address 0. -/
def wHost (ready : Bool) : State := w0.setDev 0 { w0.dev 0 with boot := { (w0.dev 0).boot with memready := ready } }
theorem witness_HostMemory : (wHost true).hostPlace 0 0x100 = some (0, 0x100) ∧ ((wHost true).dev 0).boot.memready = true ∧
    ((wHost false).dev 0).boot.memready = false ∧ (wHost true).isBad 0x100 4 = false ∧ ({ wHost true with bad := [8] } : State).isBad 0x100 4 = true ∧
    0x100 / 64 = (0x100 + 4 - 1) / 64 ∧ [0, 0, 0, 0] = (List.range 4).map (fun i => (wHost true).byte (0x100 + i)) := by decide

/-- A SYSC whose one request, record 3, is delivered; an attestation under way. -/
def sysRec : SyscRec := { sd := 4, a := 8, service := 1, count := 1, todo := [(0, 0)], waiting := some (3, 0), got := [], since := 0 }
def wReply : State :=
  let s := withSq w0 (fun x => { x with run := .sysc sysRec })
  s.setDev 0 { s.dev 0 with requests := [(3, (0, 0))], boot := { (s.dev 0).boot with attesting := true } }
theorem witness_HostControl : tabGet? (wReply.dev 0).requests (3#64).toNat = some (0, 0) ∧ (wReply.squad 0).run = .sysc sysRec ∧
    sysRec.waiting = some ((3#64).toNat, 0) ∧ sysRec.todo = [(0, 0)] ∧ (w0.dev 0).held = [] ∧ (1#64).toNat % 2 = 1 ∧
    (w0.dev 0).boot.attesting = false ∧ (wReply.dev 0).boot.attesting = true ∧ w0.isBad (0 * 2 ^ 52 + 0x100) 8 = false := by decide

theorem witness_HostMemory_own : (wHost true).hostPlace 0 (2 ^ 40) = none ∧ 2 ^ 40 + 8 ≤ 2 ^ 46 := by decide
theorem witness_HostControl_rows : deviceRows.length = 25 ∧ reticleRows.length = 23 := by decide
/-- A job that asks for 4 GiB of the weight store from slot 8. -/
def newJob : JobParams := { job := 9, asid := 9, ws := [(0, 8, 4)], sseg := 16, vseg := 64, ranks := 1 }
theorem witness_Resets : AllotmentsFree w0 0 newJob ∧ (∀ g ∈ w0.gangsOn 0, (w0.gang g).job ≠ newJob.job.toNat) ∧ newJob.ranks ≤ 4096 ∧
    (∀ y, (0, y) ∈ w0.rets → y = w0.ret 0) ∧ newJob.ws.find? (fun w => w.1 = 0) = some (0, 8, 4) := by
  refine ⟨by unfold AllotmentsFree; decide, by decide, by decide, fun y h => ?_, by decide⟩
  have h2 : (0, y) ∈ [(0, w0.ret 0)] := h
  simpa using h2
/-- Job 0 has the first ten of the weight store's slots. -/
theorem witness_Resets_taken : ¬AllotmentsFree (w0.setField 0 { wsbase := 0, wssize := 10 }) 0 newJob := by unfold AllotmentsFree; decide

-- Steps ------------------------------------------------------------------------------------------------------------------------------

theorem fetchIs_of (s : State) (b : Nat) (st : Stream) (pc : BitVec 64) (as : List (Nat × Nat))
    (h : (match (s.fetchWhere b (fetchParts st pc) []).2 with | .ok xs => decide (xs = as) | _ => false) = true)
    (hb : as.find? (fun a => (s.fetchWhere b (fetchParts st pc) []).1.isBad a.1 a.2) = none)
    (hc : fetchBytes (s.fetchWhere b (fetchParts st pc) []).1.code as = fetchBytes (s.fetchWhere b (fetchParts st pc) []).1.mem as) :
    ∃ t bs, FetchIs s t b st pc bs := by
  rcases hp : s.fetchWhere b (fetchParts st pc) [] with ⟨t, _ | xs⟩
  · rw [hp] at h; cases h
  · rw [hp] at h hb hc
    have hx : xs = as := by simpa using h
    exact ⟨t, fetchBytes t.mem as, as, by rw [hp, hx], hb, rfl, hc⟩

/-- ADDI s1, s0, 7 placed for the scalar stream, VADD for the lanes, TNOP for the Pacer. -/
def wStep : State := State.reset.withFetchWord 32 0x08080007
def wTile : State := State.reset.withFetchWord 64 0x0F00000000000000
theorem witness_StepRunsDecoded : wStep.nextTurn.1 = .issue 0 0 false ∧
    (let s1 := wStep.nextTurn.2
     let s2 := (s1.clusterSquads 0 0).foldl State.wake s1
     s2.choose ((s1.clusterSquads 0 0).filter (fun p => s2.ready p false)) false = some 0 ∧
     (s2.countChoice (s1.clusterSquads 0 0) (some 0) false).sq.canTake = false ∧
     s1.computing (devOfRet (retOfCore 0)) = true) := by decide
theorem witness_StepRunsDecoded_fetch : ∃ t bs, FetchIs (wStep.nextTurn.2.countChoice [0] (some 0) false) t 0 .scalar 0x10000 bs :=
  fetchIs_of _ _ _ _ [(0x10000, 4)] (by decide +kernel) (by decide +kernel) (by decide +kernel)
theorem witness_StepRunsDecoded_plain : isAccess (.addi 0 1 0 7) = false ∧ replayable (.addi 0 1 0 7) = false ∧
    (wStep.afterFetch false (.addi 0 1 0 7)).hazardOf (.addi 0 1 0 7) = none := by decide
theorem witness_StepRunsDecoded_bad : (match decodeBytes .scalar (leBytes 4 0x3C000000) with | .error _ => true | .ok _ => false) = true ∧
    (match decodeBytes .tile (leBytes 8 0xFF00000000000000) with | .error _ => true | .ok _ => false) = true := by decide
theorem witness_StepRunsDecoded_lane : (let s := State.reset.withFetchWord 96 0x010000000000000000000000
    s.nextTurn.1 = .issue 0 0 true ∧ s.nextTurn.2.choose ((s.nextTurn.2.clusterSquads 0 0).filter (fun p => s.nextTurn.2.ready p true)) true = some 0) := by
  decide
theorem witness_StepRunsDecoded_tile : wTile.nextTurn.1 = .pacer 0 ∧ (wTile.gang (gangOfBlock 0)).issues = true ∧
    wTile.computing (devOfRet (wTile.gang (gangOfBlock 0)).ret) = true ∧ (wTile.block 0).pacer.run = .running ∧
    (wTile.block 0).pacer.flight.all TileOp.worked = true := by decide
theorem witness_StepRunsDecoded_event : isEvent (.endpointLost 0) = true := by decide
theorem witness_StepKeepsInvariant : ∃ t, step wStep = .next t := by
  have h : (match step wStep with | .next _ => true | _ => false) = true := by decide +kernel
  cases hs : step wStep with
  | next t => exact ⟨t, rfl⟩
  | fault f => rw [hs] at h; cases h
  | refused f => rw [hs] at h; cases h
theorem lanes_of (s : State) (q : Nat) (r0 : LaneRun) (h0 : (s.squad q).lcnt.toNat ≤ 4096) (h1 : (s.squad q).lane = some r0)
    (h2 : r0.left ≤ 4096) (h3 : r0.left ≠ 0) (h4 : (s.squad q).handler = none) (h5 : (s.squad q).run = .running) : LanesLegal s q := by
  refine ⟨h0, fun r h => ?_, fun k h => ?_, fun u h => ?_⟩
  · rw [h1] at h
    cases h
    exact ⟨h2, fun e => (h3 e).elim⟩
  · rw [h4] at h; cases h
  · rw [h5] at h; cases h
theorem witness_WordsKeepLegal : WindowsLegal wCalled 0 ∧ LanesLegal wLane 0 ∧ StacksLegal State.reset ∧ BarriersLegal State.reset ∧
    (1 ≤ (4096#19).toNat ∧ (4096#19).toNat ≤ 4096) :=
  ⟨by unfold WindowsLegal; decide, lanes_of _ _ ⟨1, false⟩ (by decide) (by decide) (by decide) (by decide) (by decide) (by decide),
   fun b => by
      have h : State.reset.entriesInUse b = 0 := rfl
      rw [h]; decide, fun _ _ => .inl rfl, by decide⟩
theorem witness_endStep : w0.stop = none ∧ ({ w0 with stop := some .noStorage } : State).stop = some .noStorage := by decide
-- The missing storage beyond a home's 64 GiB stops the machine.
theorem test_no_storage : (w0.checkStorage (2 ^ 36)).stop = some .noStorage := by decide
theorem witness_DecodeAndEncodeAgree : (Instr.nop 0).wf = true ∧ encodeScalar (.nop 0) = some 0 ∧
    (Instr.vadd (addForm plainMod)).wf = true ∧ (encodeLane (.vadd (addForm plainMod))).isSome = true ∧
    (Instr.tnop 0).wf = true ∧ encodeTile (.tnop 0) = some 0x0F00000000000000 := by decide

-- Traps that no handler takes, and operands that trap -------------------------------------------------------------------------------

/-- The reconvergence stack full. -/
def wStack : State := wTrap.setBlock 0 { wTrap.block 0 with stack := List.replicate 32 (oneConstruct 0 false) }
theorem witness_TrapWords_untaken : w0.sq.out = [] ∧ (w0.gangOf w0.actor).term = none ∧ w0.sq.handler = none ∧ w0.sq.trap.thandler = 0 ∧
    wHandler.sq.out = [] ∧ (wHandler.gangOf wHandler.actor).term = none ∧ wHandler.sq.handler ≠ none ∧ wStack.sq.out = [] ∧
    (wStack.gangOf wStack.actor).term = none ∧ wStack.sq.handler = none ∧ wStack.sq.trap.thandler ≠ 0 ∧
    wStack.entriesInUse (blockOfSquad wStack.actor) = 32 := by decide
/-- VADD v64, v0, v0 where there are 64 vector registers. -/
def farForm : LaneForm := { addForm plainMod with vd := .vec 64 }
theorem witness_TrapWords_lane : (Instr.vadd farForm).wf = true ∧ (Instr.vadd farForm).lane? = some (0x10, farForm) ∧
    farForm.badIndex 0x10 wTrap.sq.vws = some 64 ∧ (addForm plainMod).badIndex 0x10 wTrap.sq.vws = none := by decide
-- THANDLER 0: TRAP 7 ends the gang with cause 0x10 and TVAL 7 (16 R305).
theorem test_trap_no_handler : ((run1 (.trap 0 7) w0).gangOf 0).term = some ⟨0x10, 0, 0, 7, [0x10000, 0x10100, 0, 0x1800]⟩ := by decide
-- A trap within a handler is a double fault, 0x13 with the second cause (16 R307).
theorem test_double_fault : ((run1 (.udf 0) wHandler).gangOf 0).term.map (fun e => (e.cause, e.addr)) = some (0x13, 1) := by decide
theorem witness_OperandTraps_atomic : wTrap.sq.latch = none ∧ canonical (wTrap.sq.readS 1) = true ∧ (wTrap.sq.readS 1).toNat % 4 ≠ 0 ∧
    (wTrap.sq.readS 1).toNat % 8 ≠ 0 ∧ atomsRows.length = 8 ∧ atomsFpRows.length = 2 := by decide
theorem witness_OperandTraps_target : (wTrap.sq.readS 1).toNat % 4 ≠ 0 ∧
    ((withSq wTrap (fun x => { x with pc := 0x10002 })).sq.pc + BitVec.ofInt 64 (4 * (1#18).toInt)).toNat % 4 ≠ 0 ∧
    CanTrap (withSq wTrap (fun x => { x with pc := 0x10002 })) := ⟨by decide, by decide, by unfold CanTrap; decide⟩

-- Fences, hits, acquires ------------------------------------------------------------------------------------------------------------

/-- Squad 64's write at 0, which released what it had seen at .dev. -/
def relHead : Head := ⟨.squad 64, 5, [⟨1, 0, 8⟩]⟩
def wOrder : State :=
  { withSq w0 (fun x => { x with pend := [(5, relHead)] }) with
    hist := [⟨1, (List.range 8).map (fun i => (i, 0)), .squad 64, true, [relHead], [⟨.squad 64, 0, 8⟩], []⟩], writes := 1, fences := [relHead] }
theorem witness_PlainWords_fence : wOrder.sq.out = [] ∧ wOrder.shares relHead.party (.squad wOrder.actor) 5 = true ∧
    wOrder.inclusive relHead.party relHead.scope (.squad wOrder.actor) 5 = true ∧ wOrder.shares relHead.party (.squad wOrder.actor) 4 = true ∧
    wOrder.shares relHead.party (.squad wOrder.actor) 3 = false := by decide
/-- A load that issued as a hit, and an acquire that reads the release. -/
def wHits : State := (withSq wLine (fun x => { x with
  out := [⟨0, 0x10000, false, .ordinary, 0, .load ⟨0, 8, 0, true⟩ false (.sreg 1), 0, some 0, 0, 0, 0x1000, []⟩] }))
theorem witness_ResultWriteback_hit : ∃ o, MayWrite wHits 0 0 o ∧ o.kind = .load ⟨0, 8, 0, true⟩ false (.sreg 1) ∧
    wHits.hitNow 0 o ⟨0, 8, 0, true⟩ = some ⟨0, 0, [(0, 5)], 0, []⟩ :=
  ⟨_, ⟨rfl, by decide, by decide, quiet_of _ rfl rfl rfl, .inl rfl⟩, rfl, by decide⟩
def wAcquire : State := { withSq wOrder (fun x => { x with
  out := [⟨0, 0x10000, false, .acquire, 5, .load ⟨0, 8, 0, true⟩ false (.sreg 1), 0, none, 0, 0, 0x1000, []⟩] }) with mem := [(0, 5)] }
theorem witness_ResultWriteback_acquire : ∃ o, MayWrite wAcquire 0 0 o ∧ o.kind = .load ⟨0, 8, 0, true⟩ false (.sreg 1) ∧ o.ord = .acquire ∧
    wAcquire.hitNow 0 o ⟨0, 8, 0, true⟩ = none ∧ wAcquire.current 0 true 5 0 8 = true ∧ wAcquire.current 0 false 0 0 8 = false ∧
    relHead ∈ wAcquire.headsAt seesAll 0 8 ∧ wAcquire.inclusive relHead.party relHead.scope (.squad 0) 5 = true :=
  ⟨_, ⟨rfl, by decide, by decide, quiet_of _ rfl rfl rfl, .inl rfl⟩, rfl, rfl, by decide, by decide, by decide, by decide, by decide⟩
-- An acquire that shares the release's scopes returns the written value, and then has seen it (10 R208, R214).
theorem test_acquire : let t := run1 (.variableResultWriteback 0 0 0) wAcquire
    t.sq.readS 1 = 5 ∧ t.hist.any (fun e => e.marks.contains ⟨.squad 0, 0, 8⟩) = true := by decide
-- .gang does not include a squad of another gang: the same release is not acquired at it (00 R3; 10 R212).
theorem test_scope_excludes : wAcquire.inclusive relHead.party relHead.scope (.squad 0) 3 = false := by decide

-- Tile faults -------------------------------------------------------------------------------------------------------------------------

/-- The accesses of a check, one after another: those that fail, and the state after all. -/
def tileFailsC (s : State) (b : Nat) (kind : Kind) : List (BitVec 64 × Nat) → List (BitVec 64 × BitVec 8) × State
  | [] => ([], s)
  | a :: rest =>
    match s.access b kind a.1 a.2 with
    | (v, .ok _ _) => tileFailsC v b kind rest
    | (v, .bad c) => let r := tileFailsC v b kind rest; ((a.1, c) :: r.1, r.2)
    | (v, .absent _ _ _) => let r := tileFailsC v b kind rest; ((a.1, 0x05) :: r.1, r.2)
    | (v, .corrupt _) => let r := tileFailsC v b kind rest; ((a.1, 0x12) :: r.1, r.2)
theorem tileFails_of (b : Nat) (kind : Kind) (as : List (BitVec 64 × Nat)) :
    ∀ s, TileFails s b kind as (tileFailsC s b kind as).1 (tileFailsC s b kind as).2 := by
  induction as with
  | nil => intro s; exact ⟨rfl, rfl⟩
  | cons a rest ih =>
    intro s
    rcases h : s.access b kind a.1 a.2 with ⟨v, r⟩
    cases r with
    | ok m c => simpa [TileFails, tileFailsC, h] using ih v
    | bad c => simpa [TileFails, tileFailsC, h] using ih v
    | absent w l e => simpa [TileFails, tileFailsC, h] using ih v
    | corrupt m => simpa [TileFails, tileFailsC, h] using ih v
/-- One access made again and again, which changes nothing from its second time on. -/
theorem passAll_again (s1 : State) (b : Nat) (kind : Kind) (a : BitVec 64 × Nat) (m : Nat) (d : Bool)
    (h : s1.access b kind a.1 a.2 = (s1, .ok m d)) : ∀ k, PassAll s1 b kind (List.replicate k a) (List.replicate k m) s1
  | 0 => ⟨rfl, rfl⟩
  | k + 1 => ⟨s1, m, d, List.replicate k m, h, rfl, passAll_again s1 b kind a m d h k⟩
/-- A TMMA of one panel of exponents alone in flight, of every row and column the one at x. -/
def mmaOp (x : BitVec 64) : TileOp :=
  ⟨.tmma 0 1 1, 0, 0x10200, 0, { an := 0, bn := 0 }, { x := x }, { x := x }, [], 0, 0, [], false, none, none⟩
def wMma (x : BitVec 64) : State := w0.setBlock 0 { pacer := { tpc := 0x10208, run := .running, flight := [mmaOp x] } }
abbrev mmaReads (x : BitVec 64) : List (BitVec 64 × Nat) :=
  (List.range 64).flatMap (fun r => blockAccesses (mmaOp x).da 0 0 r 0) ++ (List.range 64).flatMap (fun r => blockAccesses (mmaOp x).db 0 0 r 0)
theorem witness_TileArithmetic_mma : ArraysTake (wMma 0x1000) 0 (mmaOp 0x1000) ∧ (mmaOp 0x1000).instr = .tmma 0 1 1 ∧
    ((wMma 0x1000).block 0).pacer.faults = [] ∧ ((wMma 0x1000).unexited 0).find? (fun k => ((wMma 0x1000).squad k).handler = none) = some 0 ∧
    ((wMma 0x1000).squad 0).run = .running ∧ ((wMma 0x1000).block 0).pacer.run ≠ .stopped ∧
    ((wMma 0x1000).gang (gangOfBlock 0)).place = .resident :=
  ⟨⟨by decide, by decide, by decide, .inr (by decide)⟩, rfl, by decide, by decide, by decide, by decide, by decide⟩
theorem witness_TileArithmetic_got : (match (wMma 0x1000).fetchPanel 0 (mmaOp 0x1000) 64 0 with | .got .. => true | _ => false) = true := by
  decide +kernel
/-- Rows at an address that is not canonical: every one of them fails. -/
theorem witness_TileArithmetic_bad : ∃ fs u, TileFails (wMma 0x8000000000000000) 0 .read (mmaReads 0x8000000000000000) fs u ∧
    fs.find? (fun a => a.2 ≠ 0x05) = some (0x8000000000000000, 0x06) :=
  ⟨_, _, tileFails_of _ _ _ _, by decide +kernel⟩
/-- Without page tables every page is missing; the hot-page sampler counts the misses. -/
def wNoPage (n : Nat) : State :=
  { wMma 0x1000 with mem := [], rets := [(0, { w0.ret 0 with tcb := { (w0.ret 0).tcb with misses := n } })] }
theorem mmaReads_same : mmaReads 0x1000 = List.replicate 128 (0x1000, 1) := by decide +kernel
theorem noPage_once : ∀ n, n < 128 → (wNoPage n).access 0 .read 0x1000 1 = (wNoPage (n + 1), .absent false 4 0x1000) := by decide +kernel
theorem noPage_again (k : Nat) : ∀ n, n + k ≤ 128 →
    ∃ u, TileFails (wNoPage n) 0 .read (List.replicate k (0x1000, 1)) (List.replicate k (0x1000, 0x05)) u := by
  induction k with
  | zero => intro n _; exact ⟨_, rfl, rfl⟩
  | succ k ih =>
    intro n hn
    obtain ⟨u, h⟩ := ih (n + 1) (by omega)
    exact ⟨u, .inr (.inr (.inl ⟨_, false, 4, 0x1000, _, noPage_once n (by omega), rfl, h⟩))⟩
theorem witness_TileArithmetic_absent : ∃ fs u, TileFails (wNoPage 0) 0 .read (mmaReads 0x1000) fs u ∧ fs ≠ [] ∧ ∀ a ∈ fs, a.2 = 0x05 := by
  obtain ⟨u, h⟩ := noPage_again 128 0 (by decide)
  exact ⟨_, u, mmaReads_same ▸ h, by decide +kernel, fun a ha => by rw [List.eq_of_mem_replicate ha]⟩
/-- The exponent uncorrectable. -/
def wMmaBad : State := { wMma 0x9000 with bad := [0x9000 / 32] }
theorem mmaBad_once : wMmaBad.access 0 .read 0x9000 1 = ((wMmaBad.access 0 .read 0x9000 1).1, .ok 0x9000 false) := by decide +kernel
theorem mmaBad_again : (wMmaBad.access 0 .read 0x9000 1).1.access 0 .read 0x9000 1 = ((wMmaBad.access 0 .read 0x9000 1).1, .ok 0x9000 false) := by
  decide +kernel
theorem witness_TileArithmetic_corrupt : ∃ ms u, PassAll wMmaBad 0 .read (mmaReads 0x9000) ms u ∧ u.tileStalls ms = false ∧
    0 < (mmaReads 0x9000).length ∧ u.isBad (listAt ms 0 0) (listAt (mmaReads 0x9000) 0 (0, 0)).2 = true := by
  refine ⟨List.replicate 128 0x9000, (wMmaBad.access 0 .read 0x9000 1).1, ?_, by decide +kernel, by decide +kernel, by decide +kernel⟩
  have h : mmaReads 0x9000 = List.replicate 128 (0x9000, 1) := by decide +kernel
  rw [h]
  exact ⟨_, 0x9000, false, List.replicate 127 0x9000, mmaBad_once, rfl, passAll_again _ 0 .read (0x9000, 1) 0x9000 false mmaBad_again 127⟩
theorem witness_TakesRow : TakesRow { mmaOp 0 with rows := [5] } 5 0 ∧ TakesRow { mmaOp 0 with rows := [5] } 63 63 ∧
    TakesRow { mmaOp 0 with rows := [0] } 64 1 :=
  ⟨.inr (by decide), .inl (by decide), .inr (by decide)⟩
/-- A fault's own word from RPR 64, of the second fault; the first one's word is to execute again. -/
theorem witness_HandlerReturn_part : ({ num := 2, tlpc := 0x10200, part := some 64 } : TileRet).num < 3 ∧
    ¬ ({ num := 2, tlpc := 0x10200, part := some 64 } : TileRet).num < ({} : Pacer).again := by decide

-- Barriers that end ------------------------------------------------------------------------------------------------------------------

/-- Squad 1 and the Pacer wait at barrier 5, two of the three it expects; squad 0 is the third. -/
def wEnds (p : PacerRun) : State :=
  let s := wTwo.setBlock 0 { pacer := { tpc := 0x10200, run := p }, bars := [(5, ⟨2, 3, 2, none, []⟩)], arrived := [(21, 2), (261, 2)] }
  withSq (s.setSquad 1 { s.squad 1 with run := .barrier 5 }) (fun x => { x with sregs := [(1, 3)] })
theorem waiters_of (p : PacerRun) (hp : ∀ j m, p = .barrier j m → j = 5) : WaitersAt (wEnds p) 0 5 := by
  refine ⟨rfl, fun q h j hr => ?_, fun j m h => ⟨hp j m h, rfl⟩⟩
  have h2 : q ∈ [0, 1] := h
  have h3 : q = 0 ∨ q = 1 := by simpa using h2
  rcases h3 with rfl | rfl
  · have h4 : ((wEnds p).squad 0).run = .running := rfl
    rw [h4] at hr; cases hr
  · have h4 : ((wEnds p).squad 1).run = .barrier 5 := rfl
    rw [h4] at hr
    cases hr
    exact ⟨rfl, rfl, rfl⟩
theorem witness_LastArrivals : let s := wEnds (.barrier 5 0)
    Unparked s ∧ WaitersAt s 0 (5#4).toNat ∧ s.sq.run = .running ∧ squadKey 0 (sqidOf s.actor) = s.actor ∧ s.actor ∈ s.squadsOf 0 ∧
    GoodCount (s.block 0) 5 (s.sq.readS 1).toNat ∧ ((s.block 0).bar 5).cnt + 1 = (s.sq.readS 1).toNat ∧ s.sq.bars = none :=
  ⟨by unfold Unparked; decide, waiters_of _ (fun j m h => by cases h; rfl), by decide, by decide, by decide, by unfold GoodCount; decide, by decide,
    by decide⟩
theorem witness_TileBarriers_last : let s := wEnds .running
    WaitersAt s 0 (5#4).toNat ∧ (s.block 0).pacer.flight = [] ∧ (∀ j m, (s.block 0).pacer.run ≠ .barrier j m) ∧ GoodCount (s.block 0) 5 (3#5).toNat ∧
    ((s.block 0).bar 5).cnt + 1 = (3#5).toNat :=
  by
  refine ⟨waiters_of _ (fun j m h => by cases h), rfl, fun j m h => ?_, ⟨by decide, by decide, by decide⟩, by decide⟩
  cases (show PacerRun.running = .barrier j m from h)
/-- The squad's generation of barrier 5 has ended. -/
theorem witness_BarrierWords_passed : let s := wBar.setBlock 0 { wBar.block 0 with bars := [(5, ⟨0, 3, 3, none, []⟩)] }
    tabGet? (s.block 0).arrived (16 * sqidOf s.actor + (5#4).toNat) = some 2 ∧ (2 ≠ ((s.block 0).bar (5#4).toNat).gen) ∧
    s.actor ∈ s.squadsOf 0 := by decide

-- Squads that go on --------------------------------------------------------------------------------------------------------------------

/-- An exchange superstep whose one squad is parked; the job's step is 1. -/
def wParked (r : RunState) : State :=
  let s := withSq wExchange (fun x => { x with run := r })
  (s.setJob 0 { s.job 0 with jstep := 1 }).setRet 0 { s.ret 0 with plan := some ⟨[], [], 16⟩ }
def doneRec : SyscRec :=
  { sd := 4, a := 8, service := 1, count := 2, todo := [], waiting := none, got := [(0, 0x500000006), (31, 0x700000008)], since := 0 }
theorem settled_wParked (r : RunState) (h : ∀ k, r ≠ .barrier k) : Settled (wParked r) 0 :=
  settled_of (wParked r) rfl (by rw [show ((wParked r).gang 0).ret = 0 from rfl]) rfl rfl rfl h rfl (fun k m e => by cases e)
theorem witness_ResumesParked : let s := wParked (.sysc doneRec)
    s.computing 0 = false ∧ s.fields = [] ∧ s.liveRets 0 = [0] ∧ IdleReticle (s.ret 0) ∧ (s.ret 0).plan = some ⟨[], [], 16⟩ ∧
    (∀ g ∈ s.gangsOn 0, (s.gang g).term = none ∧ s.gangExited g = false) ∧ (s.dev 0).limited = false ∧
    (s.job (s.jobOf 0)).jstep ≠ doneRec.since ∧ doneRec.a.toNat + 1 < (s.squad 0).vws ∧ (doneRec.got.map (·.1)).Nodup ∧
    ∀ e ∈ doneRec.got, e.1 < 32 := by
  unfold IdleReticle; decide +kernel
theorem witness_ResumesParked_runs : Settled (wParked (.sysc doneRec)) 0 ∧ Settled (wParked (.sync 4 0)) 0 ∧ Settled (wParked (.sync 4 1)) 0 ∧
    Settled (wParked .running) 0 :=
  ⟨settled_wParked _ (fun k h => by cases h), settled_wParked _ (fun k h => by cases h), settled_wParked _ (fun k h => by cases h),
    settled_wParked _ (fun k h => by cases h)⟩
-- SYNC's sd receives JSTEP (03 R71).
theorem test_sync_resumes : (run1 (.exchangeToComputeBoundary 0 2000) (wParked (.sync 4 0))).sq.readS 4 = 1 := by decide +kernel
/-- The gang away in YIELD for 5 at 0x900, which holds n; its frame says so. -/
def wYield (n : Nat) : State :=
  let g : Gang := { w0.gang 0 with frame := some 0x100000, place := .away .yield }
  let s := withSq (wExchange.setGang 0 g) (fun x => { x with run := .yield 0x900 5 0x10040 })
  let t := (s.write (g.desc.recordAt (g.frameAt 0x100000) 0 0 + 0x458) 8 (2 * 2 ^ 20)).write 0x900 8 n
  t.setRet 0 { t.ret 0 with plan := some ⟨[⟨some 0, 0, g.desc, 0, 0, [5], none, none⟩], [], 16⟩ }
theorem witness_ResumesYield : let s := wYield 5; let x := s.gang 0
    s.gangs = [(0, x)] ∧ s.liveRets 0 = [x.ret] ∧ s.computing 0 = false ∧ s.fields = [] ∧ IdleReticle (s.ret 0) ∧ s.bad = [] ∧
    (s.dev 0).limited = false ∧ (s.core (128 * 0 + 5)).draining = false ∧ x.place = .away .yield ∧ x.term = none ∧ checkDesc x.desc false = 0 ∧
    x.frame = some 0x100000 ∧ x.frameAt 0x100000 + x.desc.frameSize ≤ 2 ^ 80 ∧ x.staged = [] ∧ x.spilled = false ∧ x.overS = [] ∧
    x.overB = [] ∧ x.overH = false ∧ s.gangSquads 0 = [0] ∧ s.blocksOf 0 = [0] ∧ (s.block 0).pacer.run = .idle ∧ (s.squad 0).out = [] ∧
    s.read (x.desc.recordAt (x.frameAt 0x100000) (blkidOfSquad 0) (sqidOf 0) + 0x458) 8 / 2 ^ 20 % 8 = (s.squad 0).run.code ∧
    (s.squad 0).run = .yield 0x900 5 0x10040 ∧ (5#64).toNat ≤ s.read 0x900 8 ∧ s.wsLocked 0x900 = false ∧ s.wsRefreshing 0x900 = false := by
  unfold IdleReticle; decide +kernel
-- The word has not reached the value: the gang stays away (04 R103).
theorem test_yield_waits : ((run1 (.exchangeToComputeBoundary 0 2000) (wYield 4)).gang 0).place = .away .yield := by decide +kernel
/-- A squad parked in WAITSEQ at .gang for 5 at 0x900, which holds n. -/
def wWaits5 (n : Nat) : State := withSq (w0.write 0x900 8 n) (fun x => { x with run := .waitseq 0x900 5 3 })
theorem witness_WaitseqWakes : (∀ n ∈ [4, 5], let s := wWaits5 n
    (s.squad 0).run = .waitseq 0x900 5 3 ∧ s.mayRun 0 = true ∧ (s.squad 0).canTake = false ∧ s.wsLocked 0x900 = false ∧
    s.wsRefreshing 0x900 = false ∧ s.isBad 0x900 8 = false) ∧ (wWaits5 4).read 0x900 8 < (5#64).toNat ∧ (5#64).toNat ≤ (wWaits5 5).read 0x900 8 := by
  decide +kernel
/-- A gang that checks hazards, with a result of s1 outstanding; and a turn of the arrays. -/
def wHazard : State := (wOut (.value (.sreg 1) 7)).setGang 0 { w0.gang 0 with desc := { (w0.gang 0).desc with hchk := 1 } }
theorem witness_StepRunsDecoded_hazard : wHazard.hazardOf (.addi 0 2 1 7) = some (BitVec.ofNat 64 (2 ^ 56 + 1)) := by decide
theorem witness_StepRunsDecoded_arrays : ({ w0 with turns := [.tileWork 0 63] } : State).nextTurn.1 = .tileWork 0 63 := by decide

-- Shoot-downs, clocks, allotments ------------------------------------------------------------------------------------------------------

/-- A load of page 1 outstanding, translated by a leaf of 512 pages that a shoot-down of page 0 drops. -/
def wLeaf : State :=
  let s := wOut (.load ⟨0x1000, 8, 0x1000, true⟩ false (.sreg 1))
  (s.setCore 0 { s.core 0 with tlb := [⟨none, 0, 512, 0, 0xDD⟩] }).setRet 0
    { s.ret 0 with tcb := { (s.ret 0).tcb with shoot := some ⟨0, 1 + 2 ^ 47, [0], []⟩ } }
theorem witness_UsesLeaf : UsesLeaf wLeaf ⟨0, 1 + 2 ^ 47, [0], [(0, ⟨none, 0, 512, 0, 0xDD⟩)]⟩ 0 :=
  ⟨0, wLeaf.gang 0, 0, _, ⟨0x1000, 8, 0x1000, true⟩, ⟨none, 0, 512, 0, 0xDD⟩, List.mem_singleton.mpr rfl, rfl, List.mem_singleton.mpr rfl,
    List.mem_singleton.mpr rfl, rfl, by decide, .inl (by decide), List.mem_singleton.mpr rfl, .inl rfl, by decide, by decide⟩
/-- A block's instruction in flight on a core: the gang on it, or away with its images spilled. -/
theorem witness_MonitorEvents_busy : let s := wZero 0; let t := s.setGang 0 { s.gang 0 with place := .away .preempt, spilled := true }
    (0 ∈ s.blocksOn 0 ∧ (s.block 0).pacer.flight ≠ [] ∧ (s.gang (gangOfBlock 0)).place.isAway = false) ∧
    (0 ∈ t.blocksOn 0 ∧ (t.block 0).pacer.flight ≠ [] ∧ (t.gang (gangOfBlock 0)).place.isAway = true ∧ (t.gang (gangOfBlock 0)).spilled = true) := by
  decide
/-- An empty allotment of another job stands in no one's way. -/
theorem witness_AllotmentsFree_empty : AllotmentsFree (w0.setField 0 { wsbase := 9, wssize := 0 }) 0 newJob := by unfold AllotmentsFree; decide

-- A strong load at a shared scope must see a store that is performed, and may miss one not acknowledged yet (10 R208, Table 10-4).
def wUnacked : State := { wOrder with squads := tabPut wOrder.squads 64 { wOrder.squad 64 with
  out := [⟨0, 0x10000, false, .relaxed, 5, .ack ⟨0, 8, 0, true⟩ 1, 0, none, 0, 0, 0x1000, []⟩] } }
theorem test_unacked : wOrder.current 0 true 5 0 8 = true ∧ wOrder.hist.all (wOrder.mustSee 0 true 5 0 8) = true ∧
    wUnacked.hist.any (wUnacked.mustSee 0 true 5 0 8) = false ∧ wUnacked.canPerform 64 0 = true := by decide


-- Numbers of control registers that are not listed, calls that wait, returns that trap ------------------------------------------------------

theorem witness_GetxReads_unlisted : CanTrap wTrap ∧ (0xFFF#12) ∉ controlNumbers ∧ (0x000#12) ∉ setxRows.map (·.1) ∧
    (0x000#12) ∈ controlNumbers := ⟨canTrap_wTrap, by decide, by decide, by decide⟩
-- SETX of PHASE, which is read-only, traps with 0x01 and the word as TVAL: minor 0x0B, number 0, sa 1 (05 R128).
theorem test_setx_read_only : let t := run1 (.setx 0 1 0) wTrap
    t.sq.trap.tcause = 0x01 ∧ t.sq.trap.tval = 0x8000B ∧ t.sq.pc = 0x8000 := by decide
theorem witness_CallWords_waits : wWaits.sq.out ≠ [] ∧ wWaits.sq.latch = none ∧ (wWaits.sq.pc + BitVec.ofInt 64 (4 * (2#18).toInt)).toNat % 4 = 0 ∧
    64 * (1#5).toNat ≤ wWaits.sq.vws ∧ wWaits.sq.vwb + (1#5).toNat ≤ (wWaits.job (wWaits.jobOf wWaits.actor)).vseg ∧
    wWaits.sq.swb + (1#2).toNat ≤ (wWaits.job (wWaits.jobOf wWaits.actor)).sseg := by decide
-- A CALL stands at its PC while a result is outstanding (05 R116).
theorem test_call_waits : let t := run1 (.call 0 0 1 2) wWaits
    t.sq.pc = wWaits.sq.pc ∧ t.sq.run = .parked ∧ t.sq.swb = wWaits.sq.swb := by decide
/-- In a handler that has run a DIVB and no RECV. -/
def wOpenSegment : State := withSq wHandler (fun x => { x with seg := [⟨1, 0, 0, false⟩] })
theorem witness_HandlerReturn_segment : wOpenSegment.sq.handler ≠ none ∧ wOpenSegment.sq.seg ≠ [] ∧ (wOpenSegment.gangOf wOpenSegment.actor).term = none := by
  decide
-- A RETT whose segment is not empty is a double fault of cause 0x0A (16 R310).
theorem test_rett_segment : ((run1 (.rett 0) wOpenSegment).gangOf 0).term.map (fun e => (e.cause, e.addr)) = some (0x13, 0x0A) := by decide
/-- FMT.EF of a reserved code. -/
def wNoFormat : State := withSq wTrap (fun x => { x with fmt := 0x3C00 })
theorem witness_OperandTraps_format : CanTrap wNoFormat ∧ wNoFormat.sq.replay = none ∧
    (Instr.vadd { addForm plainMod with mod := { plainMod with ef := 0 } }).wf = true ∧
    ({ addForm plainMod with mod := { plainMod with ef := 0 } } : LaneForm).badIndex 0x10 wNoFormat.sq.vws = none ∧
    (laneShape 0x10).use ≠ .absent ∧ 10 < (fmtEF wNoFormat.sq.fmt).toNat := ⟨by unfold CanTrap; decide, by decide⟩

-- Order ------------------------------------------------------------------------------------------------------------------------------------

/-- A release store that has seen squad 64's write, outstanding. -/
def wRelease : State := withSq w0 (fun x => { x with
  out := [⟨0, 0x10000, false, .release, 5, .store ⟨0, 8, 0, true⟩ 7, 0, none, 0, 0, 0x1800, [⟨1, 64, 8⟩]⟩] })
theorem witness_StoreWriteback_release : ∃ o, MayWrite wRelease 0 0 o ∧ o.kind = .store ⟨0, 8, 0, true⟩ 7 ∧ o.ord = .release :=
  ⟨_, ⟨rfl, by decide, by decide, quiet_of _ rfl rfl rfl, .inl rfl⟩, rfl, rfl⟩
/-- A strong access of a later word stands behind a load. -/
def wLater : State := withSq wAcquire (fun x => { x with out := x.out ++
  [⟨1, 0x10004, false, .release, 5, .store ⟨64, 8, 64, true⟩ 7, 0, none, 0, 0, 0x1800, []⟩] })
theorem witness_ResultWriteback_later : ∃ e ∈ wLater.sq.out, 0 < e.word ∧ e.ord ≠ .ordinary :=
  ⟨⟨1, 0x10004, false, .release, 5, .store ⟨64, 8, 64, true⟩ 7, 0, none, 0, 0, 0x1800, []⟩, by decide, by decide, by decide⟩
-- Message passing with accesses of two sizes: squad 64 releases a doubleword, squad 0 acquires its low word, and must then see its high word.
theorem test_release_itself :
    let rel : State := { withSq w0 (fun x => x) with
      hist := [⟨1, (List.range 8).map (fun i => (i, 0)), .squad 64, true, [⟨.squad 64, 5, [⟨1, 0, 8⟩]⟩], [⟨.squad 64, 0, 8⟩], []⟩], writes := 1,
      mem := [(0, 5), (4, 6)] }
    let acq := withSq rel (fun x => { x with out := [⟨0, 0x10000, false, .acquire, 5, .load ⟨0, 4, 0, true⟩ false (.sreg 1), 0, none, 0, 0, 0x1000, []⟩] })
    let t := run1 (.variableResultWriteback 0 0 0) acq
    t.sq.readS 1 = 5 ∧ t.hist.all (t.mustSee 0 false 0 4 4) = true := by decide

-- Translations -------------------------------------------------------------------------------------------------------------------------------

/-- A core whose TLB holds the leaf, and one whose does not. -/
def wTlb : State := w0.setCore 0 { w0.core 0 with tlb := [⟨none, 0, 4194304, 0xB0000000000000DD, 0xDD⟩] }
theorem witness_TranslationFrame_walks : ¬ TlbHit w0 (w0.walkerOf 0) .read 0x1000 := by
  rintro ⟨c, hc, e, he, -⟩
  have h0 : c = 0 := by have h1 : (w0.walkerOf 0).core = some 0 := by decide
                        rw [h1] at hc; exact (Option.some.inj hc).symm
  subst h0
  have h2 : (w0.core 0).tlb = [] ∧ w0.column (0 / 4) = [] := by decide
  rw [h2.1, h2.2] at he; simp at he
theorem witness_TranslationFrame_hits : (w0.walkerOf 0).core = some 0 ∧ (∃ e ∈ (wTlb.core 0).tlb, e.vpn = 0) := by decide

-- Uncorrectable data in SRAM -------------------------------------------------------------------------------------------------------------------

/-- Accumulator 1's first unit, squad 0's v4 lanes 0 to 7, and the L1's first unit hold uncorrectable data. -/
def wAccBad : State := { wMma 0x1000 with bad := [2 ^ 115 + 512] }
def wVregBad : State := { wLane with bad := [(2 ^ 120 + 2 ^ 18 + 4 * 64) / 32] }
def wLineBad : State := w0.setBlock 0 { w0.block 0 with l1 := [⟨0, 0, [(0, 5)], 0, [0]⟩] }
theorem witness_TileArithmetic_accumulator : ArraysTake wAccBad 0 (mmaOp 0x1000) ∧ ¬ AccGood wAccBad 0 1 0 64 ∧ AccGood wAccBad 0 0 0 64 ∧
    AccGood (wMma 0x1000) 0 1 0 64 ∧ AccGood (wMma 0x1000) 0 1 5 1 :=
  ⟨⟨by decide, by decide, by decide, .inr (by decide)⟩, by unfold AccGood; decide, by unfold AccGood; decide, by unfold AccGood; decide,
    by unfold AccGood; decide⟩
-- A panel into it is a tile fault with SUB 10, RPR 0 (16 R366; 11 R239).
theorem test_bad_accumulator : (wAccBad.tileWork 0 0).sq.faults.map (fun f => (f.cause, f.tdst)) = [(0x0C, 0x0C0A000000000000)] := by
  decide +kernel
theorem witness_UnitRepairs : wAccBad.isBad (2 ^ 120 + 4 * 4096) 32 = true ∧ wAccBad.isBad (2 ^ 120) 32 = false ∧
    wVregBad.isBad (2 ^ 120 + (3 * 0 + 1) * 2 ^ 18 + 4 * 64) 32 = true ∧ (wLineBad.block 0).l1[0]? = some ⟨0, 0, [(0, 5)], 0, [0]⟩ ∧
    (⟨0, 0, [(0, 5)], 0, [0]⟩ : L1Line).isBad (32 * 0) 32 = true ∧ (⟨0, 0, [(0, 5)], 0, [0]⟩ : L1Line).isBad (32 * 1) 32 = false ∧
    ({ w0 with bad := [2 ^ 75] } : State).isBad (2 ^ 80) 32 = true ∧ w0.isBad (2 ^ 80) 32 = false := by decide
theorem witness_MonitorEvents_units : (tabGet? w0.blocks 0).isSome = true ∧ (tabGet? w0.squads 0).isSome = true ∧
    (wLine.block 0).l1[0]? = some ⟨0, 0, [(0, 5)], 0, []⟩ ∧ hasStorage 0x40 = true := by decide
-- A hit does not read a line's unit that is bad: the load goes on to meet it (16 R366).
theorem test_bad_line : let t := run1 (.lds 0 1 0 3 0) wLineBad
    t.sq.out.map (fun o => o.kind) = [.load ⟨0, 8, 0, true⟩ false (.sreg 1)] ∧ t.readsBad 0 0 = true := by decide
-- Repair acts on a unit that holds uncorrectable data, and on no other (16 R366).
theorem test_repair : let go := fun (s : State) => run1 (.serviceClusterMemoryAccess 0 (2 ^ 80) (.repair (List.replicate 32 7))) s
    (go { w0 with bad := [2 ^ 75] }).byte (2 ^ 80) = 7 ∧ (go { w0 with bad := [2 ^ 75] }).bad = [] ∧ (go w0).byte (2 ^ 80) = 0 := by decide +kernel
/-- VADD v4, v2, v2, of the one lane active. -/
def badForm : LaneForm := ⟨0, 0, .vec 4, .vec 2, .vec 2, .unused, ⟨3, 0, 0, 0, 0, 0⟩⟩
theorem witness_StepRunsDecoded_source : (Instr.vadd badForm).lane? = some (0x10, badForm) ∧ wVregBad.badSource (.vadd badForm) = some (2 ^ 120 + 2 ^ 18 + 4 * 64) ∧
    wLane.badSource (.vadd badForm) = none ∧ badForm.badIndex 0x10 wLane.sq.vws = none := by decide
-- TMMAJ: each member's accumulator is its own.
theorem witness_JointGood : JointGood (wMma 0x1000) 0 { mmaOp 0 with instr := .tmmaj 0 1 1 0 1 } := by
  intro m acc kp bar cnt h
  cases h
  unfold AccGood; decide

-- Gangs, requests, resets ----------------------------------------------------------------------------------------------------------------------

/-- A gang that waits for a page and, a late fault having met it on its way out, for a repair. -/
def wTwoReasons : State := (wAway (.swap false)).setGang 0 { (wAway (.swap false)).gang 0 with more := [.repair false] }
theorem witness_GangEvents_more : (wTwoReasons.gang 0).place = .away (.swap false) ∧ wTwoReasons.gangHeld 0 = false ∧
    (∀ w ∈ ((wAway (.swap false)).gang 0).more, w ≠ .repair false) := by decide
-- The page alone does not bring it back, nor the repair alone; both do (16 R314, R367).
theorem test_two_reasons : let a := run1 (.pageFetchCompletion (.gang 0)) wTwoReasons; let b := run1 (.makeGangReady 0) wTwoReasons
    a.readyBack 0 = false ∧ b.readyBack 0 = false ∧ (run1 (.makeGangReady 0) a).readyBack 0 = true := by decide
theorem witness_ShootdownEvents_landing : let q : Request := { flitOf [0] [] none with landing := true }
    wLate.goesTo 0 7 q = true ∧ q.landing = true := by decide
-- A lane atomic of which one lane fails has ended the open region (16 R312).
def wPartAtom : State := withSq wLane (fun x => { x with
  masks := [(0, 3)], vregs := [(64, 0x100), (65, 0x103)], region := some ⟨0x10000, 0, [], 0, 0, 0⟩ })
theorem test_part_atomic : let t := run1 (.atomAdd ⟨0, 0, .vec 6, .vec 2, .sca 3, .unused, ⟨3, 0, 0, 0, 0, 0⟩⟩) wPartAtom
    t.sq.region.isSome = false ∧ t.sq.out.length = 1 := by decide
theorem witness_LaneMemoryWords_part : passing [(0, .ack ⟨0, 4, 0, true⟩ 1, none)] [⟨1, 0x103, 0x04, false, 0, 0⟩] ≠ [] ∧
    passing [(1, .ack ⟨0, 4, 0, true⟩ 1, none)] [⟨1, 0x103, 0x04, false, 0, 0⟩] = [] := by decide

end Sys2Proof.Machine
end

section
/-! Repairs by the service cluster (16 R366; 17 R327), and a device number at which a physical address is a unit of SRAM. Device
d's physical memory starts at machine address 2^52 d, and the model numbers the units of SRAM that no access names from 2^120 on: from
device 2^68 on the two overlap, and there a repair asks the L1 line, not the marks of memory, whether the unit is bad. -/

namespace Sys2Proof.Machine

/-- A repair of a unit that holds no uncorrectable data does nothing. -/
theorem exec_repair_of_not_unitBad (s : State) (d pa : Nat) (data : List Byte)
    (h : s.unitBad (if pa < 2 ^ 52 then physAddr d pa else pa) = false) :
    exec (.serviceClusterMemoryAccess d pa (.repair data)) s = .next s := by
  change execServiceClusterMemoryAccess d pa (.repair data) s = .next s
  unfold execServiceClusterMemoryAccess
  exact if_pos (.inr (.inr (.inr (.inr h))))

/-- No L1 line, no bad unit: the marks of memory at the number of an L1's byte do not count. -/
theorem unitBad_l1_of_no_line (s : State) (b o : Nat) (ho : o < 2 ^ 18) (h : (s.block b).l1[o / 128]? = none) :
    s.unitBad (2 ^ 120 + (3 * b + 2) * 2 ^ 18 + o) = false := by
  have hk : (2 ^ 120 + (3 * b + 2) * 2 ^ 18 + o - 2 ^ 120) / 2 ^ 18 = 3 * b + 2 := by omega
  have hoff : (2 ^ 120 + (3 * b + 2) * 2 ^ 18 + o - 2 ^ 120) % 2 ^ 18 = o := by omega
  have hblock : (3 * b + 2) / 3 = b := by omega
  have hnot : ¬ (2 ^ 120 + (3 * b + 2) * 2 ^ 18 + o < 2 ^ 120 ∨ (3 * b + 2) % 3 ≠ 2) := by omega
  simp only [State.unitBad, hk, hoff, hblock, if_neg hnot, h]

/-- The machine after reset, but for one bad unit of DRAM: the one at physical address 2^19 of device 2^68. -/
def farBadState : State := { bad := [(2 ^ 120 + 2 ^ 19) / 32] }

theorem farBadState_isBad : farBadState.isBad (physAddr (2 ^ 68) (2 ^ 19)) 32 = true := by decide

/-- That address is the number of the first unit of block 0's L1, which has no line there. -/
theorem farBadState_not_unitBad : farBadState.unitBad (physAddr (2 ^ 68) (2 ^ 19)) = false :=
  unitBad_l1_of_no_line farBadState 0 0 (by decide) rfl

/-- Refutes O54: the statement ranges over every device number, and at device 2^68 a repair of a bad unit of DRAM leaves it bad, the
unit's machine address being taken for one of block 0's L1. -/
theorem not_hostControl : ¬ Obligations.HostControl := by
  intro holds
  obtain ⟨-, -, -, -, memory, -⟩ := holds farBadState (2 ^ 68)
  obtain ⟨-, -, -, repairs, -⟩ := memory (2 ^ 19) 0 (by decide) (by decide)
  obtain ⟨t, ran, -, -, good⟩ := repairs (List.replicate 32 0) rfl (by decide) farBadState_isBad
  rw [exec_repair_of_not_unitBad _ _ _ _ farBadState_not_unitBad] at ran
  cases ran
  exact absurd (farBadState_isBad.symm.trans good) (by decide)

end Sys2Proof.Machine
end

section
/-! The fields of a word: reading one of a concatenation, and putting a word together from its fields (02 R37 to R44). -/

namespace Sys2Proof

/-- A concatenation is the word whose fields its parts are. The widths are left out of simp's index, which holds the width of a
word and the sum of its parts' widths for different. -/
theorem append_eq_iff {m n : Nat} (x : BitVec (no_index (m + n))) (a : BitVec m) (b : BitVec n) :
    @Eq (BitVec (no_index (m + n))) (@HAppend.hAppend _ _ (BitVec (no_index (m + n))) _ a b) x ↔
      a = slice x n m ∧ b = slice x 0 n := by
  constructor
  · rintro rfl
    exact ⟨BitVec.extractLsb'_append_eq_left.symm, BitVec.extractLsb'_append_eq_right.symm⟩
  · rintro ⟨rfl, rfl⟩
    exact (BitVec.extractLsb'_append_extractLsb'_eq_extractLsb' (Nat.zero_add n).symm).trans BitVec.extractLsb'_eq_self

/-- A field that reads as the number k is the field k. -/
theorem eq_ofNat_of_toNat_eq {n k : Nat} {x : BitVec n} (h : x.toNat = k) : x = BitVec.ofNat n k := by
  rw [← h, BitVec.ofNat_toNat, BitVec.setWidth_eq]

/-- A field of a field. -/
theorem slice_slice {w lo k lo' k' : Nat} (x : BitVec w) (h : lo' + k' ≤ k) :
    slice (slice x lo k) lo' k' = slice x (lo + lo') k' := by
  ext i hi
  have hk : lo' + i < k := by omega
  simp [hk, Nat.add_assoc]

/-- A field of k = m + n bits is c when its upper m bits and its lower n bits are those of c. -/
theorem eq_slice_iff (k m n : Nat) (hk : k = m + n) {w : Nat} (x : BitVec w) (lo : Nat) (c : BitVec k) :
    c = slice x lo k ↔ c.extractLsb' n m = slice x (lo + n) m ∧ c.extractLsb' 0 n = slice x lo n := by
  subst hk
  have hi : slice (slice x lo (m + n)) n m = slice x (lo + n) m := slice_slice x (by omega)
  have low : slice (slice x lo (m + n)) 0 n = slice x lo n := slice_slice x (by omega)
  have parts : slice c n m ++ slice c 0 n = c := (append_eq_iff c _ _).2 ⟨rfl, rfl⟩
  calc c = slice x lo (m + n) ↔ slice c n m ++ slice c 0 n = slice x lo (m + n) := by rw [parts]
    _ ↔ slice c n m = slice (slice x lo (m + n)) n m ∧ slice c 0 n = slice (slice x lo (m + n)) 0 n := append_eq_iff _ _ _
    _ ↔ _ := by rw [hi, low]

/-- A bit that is not 0 is 1. -/
theorem bit_ne_zero_iff (b : BitVec 1) : ¬b = 0#1 ↔ b = 1#1 := by
  rcases BitVec.eq_zero_or_eq_one b with rfl | rfl <;> decide

end Sys2Proof
end

section
/-! What a decoder answers: a property of every instruction it reads. -/

namespace Sys2Proof

/-- Whatever instruction the decoder answers has the property P. -/
def Reads (r : Except BadEncoding Instr) (P : Instr → Prop) : Prop := ∀ i, r = .ok i → P i

@[simp] theorem reads_ok (i : Instr) (P : Instr → Prop) : Reads (.ok i) P ↔ P i :=
  ⟨fun h => h i rfl, fun h _ e => Except.ok.inj e ▸ h⟩

@[simp] theorem reads_error (e : BadEncoding) (P : Instr → Prop) : Reads (.error e) P :=
  fun _ h => by cases h

@[simp] theorem reads_ite (c : Prop) [Decidable c] (r q : Except BadEncoding Instr) (P : Instr → Prop) :
    Reads (if c then r else q) P ↔ (c → Reads r P) ∧ (¬c → Reads q P) := by
  split <;> simp [*]

/-- w is the word of i, and i is well formed. -/
def IsWordOf {n : Nat} (enc : Instr → Option (BitVec n)) (w : BitVec n) (i : Instr) : Prop := enc i = some w ∧ i.wf = true

end Sys2Proof
end

section
/-! Every scalar or tile word that is read is the word of what it is read as (02 R37, R38, R44, R61): the fields that a decoder
reads, and the ones it holds against zero, are all of the word. -/

namespace Sys2Proof

theorem decodeAlu_reads (w : BitVec 32) (hm : slice w 26 6 = 1#6) :
    Reads (decodeAlu w) (IsWordOf encodeScalar w) := by
  unfold decodeAlu
  split
  case h_31 => simp
  all_goals
    rename_i hn
    have hn := eq_ofNat_of_toNat_eq hn
    simp +contextual (disch := decide) [IsWordOf, encodeScalar, Instr.wf, Instr.lane?,
      append_eq_iff, slice_slice, eq_slice_iff 13 6 7 rfl w 0, hm, hn]

theorem decodeSys_reads (w : BitVec 32) (hm : slice w 26 6 = 0#6) :
    Reads (decodeSys w) (IsWordOf encodeScalar w) := by
  unfold decodeSys
  split
  case h_20 => simp
  all_goals
    rename_i hn
    have hn := eq_ofNat_of_toNat_eq hn
    simp +contextual (disch := decide) [IsWordOf, encodeScalar, Instr.wf, Instr.lane?,
      append_eq_iff, slice_slice, eq_slice_iff 13 6 7 rfl w 0, eq_slice_iff 19 12 7 rfl w 0, eq_slice_iff 25 18 7 rfl w 0, hm, hn]

theorem decodeBranch_reads (w : BitVec 32) (hm : slice w 26 6 = 0x10#6) :
    Reads (decodeBranch w) (IsWordOf encodeScalar w) := by
  unfold decodeBranch
  split
  case h_10 => simp
  all_goals
    rename_i hn
    have hn := eq_ofNat_of_toNat_eq hn
    simp +contextual (disch := decide) [IsWordOf, encodeScalar, Instr.wf, Instr.lane?,
      append_eq_iff, slice_slice, eq_slice_iff 6 4 2 rfl w 19, hm, hn]

theorem decodeAtoms_reads (w : BitVec 32) (hm : slice w 26 6 = 0x24#6) :
    Reads (decodeAtoms w) (IsWordOf encodeScalar w) := by
  unfold decodeAtoms
  split
  case isFalse => simp
  rename_i hw
  split
  case h_11 => simp
  all_goals
    rename_i hn
    have hn := eq_ofNat_of_toNat_eq hn
    simp +contextual (disch := decide) [IsWordOf, encodeScalar, Instr.wf, Instr.lane?, append_eq_iff, slice_slice,
      eq_slice_iff 2 1 1 rfl w 5, eq_slice_iff 7 3 4 rfl w 0, eq_slice_iff 3 2 1 rfl w 4, hw, hm, hn]

theorem decodeScalar_reads (w : BitVec 32) : Reads (decodeScalar w) (IsWordOf encodeScalar w) := by
  unfold decodeScalar
  split
  case h_42 => simp
  all_goals
    rename_i hm
    have hm := eq_ofNat_of_toNat_eq hm
  case h_1 => exact decodeSys_reads w hm
  case h_2 => exact decodeAlu_reads w hm
  case h_3 => exact decodeBranch_reads w hm
  case h_4 => exact decodeAtoms_reads w hm
  case h_40 =>
    simp +contextual (disch := decide) [IsWordOf, encodeScalar, Instr.wf, Instr.lane?,
      append_eq_iff, slice_slice, bit_ne_zero_iff, eq_slice_iff 13 12 1 rfl w 0, hm]
  case h_41 =>
    simp +contextual (disch := decide) [IsWordOf, encodeScalar, Instr.wf, Instr.lane?,
      append_eq_iff, eq_slice_iff 7 6 1 rfl w 25, hm]
  all_goals
    simp +contextual (disch := decide) [IsWordOf, encodeScalar, Instr.wf, Instr.lane?, append_eq_iff, slice_slice, hm]

theorem decodeTile_reads (w : BitVec 64) : Reads (decodeTile w) (IsWordOf encodeTile w) := by
  unfold decodeTile
  split
  case h_17 => simp
  all_goals
    rename_i hm
    have hm := eq_ofNat_of_toNat_eq hm
    simp +contextual (disch := decide) [IsWordOf, encodeTile, Instr.wf, Instr.lane?,
      append_eq_iff, slice_slice, bit_ne_zero_iff, and_assoc, hm]

end Sys2Proof
end

section
/-! Lane words: operands, opcodes and the whole word (02 R39 to R43, R58, R61, R64). -/

namespace Sys2Proof

/-- An operand field that is read stands for the kind bit and the bits it was read from. -/
theorem encodeOpnd_of_decodeOpnd {c : Cls} {k kind : BitVec 1} {x : BitVec 11} {o : Opnd} (h : decodeOpnd c k kind x = some o) :
    encodeOpnd c k o = (kind, x) ∧ o.fits c = true := by
  have kinds := bit_ne_zero_iff kind
  cases c <;> simp only [decodeOpnd, Option.ite_none_right_eq_some, Option.some.injEq] at h
  case vec => obtain ⟨rfl, rfl⟩ := h; exact ⟨rfl, rfl⟩
  case vs =>
    split at h
    · obtain rfl := Option.some.inj h; simp [encodeOpnd, Opnd.fits, *]
    · simp only [Option.ite_none_right_eq_some, Option.some.injEq] at h
      obtain ⟨hx, rfl⟩ := h
      simp_all [encodeOpnd, Opnd.fits, append_eq_iff]
  case sca => obtain ⟨⟨rfl, hx⟩, rfl⟩ := h; simp [encodeOpnd, Opnd.fits, append_eq_iff, hx]
  case msk => obtain ⟨⟨rfl, hx⟩, rfl⟩ := h; simp [encodeOpnd, Opnd.fits, append_eq_iff, hx]
  case unused => obtain ⟨⟨rfl, rfl⟩, rfl⟩ := h; exact ⟨rfl, rfl⟩

/-- An operand that fits its class is read back from its kind bit and field. -/
theorem decodeOpnd_encodeOpnd {c : Cls} (k : BitVec 1) {o : Opnd} (h : o.fits c = true) :
    decodeOpnd c k (encodeOpnd c k o).1 (encodeOpnd c k o).2 = some o := by
  have low {m n : Nat} (r : BitVec n) : slice (0#m ++ r) 0 n = r ∧ slice (0#m ++ r) n m = 0#m :=
    ⟨BitVec.extractLsb'_append_eq_right, BitVec.extractLsb'_append_eq_left⟩
  cases o <;> cases c <;> cases h <;> simp [decodeOpnd, encodeOpnd, low]

/-- Only a scalar register where a vector one may stand has the kind bit set for itself. -/
theorem encodeOpnd_kind {c : Cls} (h : c ≠ .vs) (o : Opnd) : (encodeOpnd c 0 o).1 = 0 := by
  cases o <;> simp [encodeOpnd, h]

theorem laneCtor_lane? {op : LaneOp} {c : LaneForm → Instr} (h : laneCtor op = some c) (f : LaneForm) :
    (c f).lane? = some (op, f) := by
  unfold laneCtor at h
  split at h <;> cases h <;> rfl

/-- The opcodes in use are neither VIMM's nor UDF's, and BALLOT.id's alone is no number of 12 bits. -/
theorem laneCtor_range {op : Nat} {c : LaneForm → Instr} (h : laneCtor op = some c) :
    (op < 0xFF0 ∧ op ≠ 0x2B) ∨ op = 0x1091 := by
  unfold laneCtor at h
  split at h <;> cases h <;> decide

/-- vd is a register of one kind in every opcode (02 R40). -/
theorem laneShape_vd_ne_vs (op : LaneOp) : (laneShape op).vd ≠ .vs := by
  unfold laneShape
  split <;> simp

theorem encodeLane_of_lane? {i : Instr} {op : LaneOp} {f : LaneForm} (h : i.lane? = some (op, f)) :
    encodeLane i = some (encodeForm op f) := by
  unfold encodeLane
  split
  · cases h
  · cases h
  · simp [h]

theorem wf_of_lane? {i : Instr} {op : LaneOp} {f : LaneForm} (h : i.lane? = some (op, f)) : i.wf = laneWf op f := by
  simp [Instr.wf, h]

/-- What a lane form is read from. -/
theorem decodeForm_eq_some_iff {op : LaneOp} {w : BitVec 96} {f : LaneForm} :
    decodeForm op w = some f ↔
      decodeOpnd (laneShape op).vd 0 0 (slice w 65 11) = some f.vd ∧
      decodeOpnd (laneShape op).va (scaKindOf op) (slice w 78 1) (slice w 54 11) = some f.va ∧
      decodeOpnd (laneShape op).vb (scaKindOf op) (slice w 77 1) (slice w 43 11) = some f.vb ∧
      decodeOpnd (laneShape op).vc (scaKindOf op) (slice w 76 1) (slice w 32 11) = some f.vc ∧
      slice w 83 1 = f.s ∧ slice w 79 4 = f.m ∧ decodeMod (slice w 0 32) = f.mod := by
  obtain ⟨s, m, vd, va, vb, vc, mod⟩ := f
  simp only [decodeForm]
  constructor
  · intro h
    split at h
    · rename_i hd ha hb hc
      cases h
      exact ⟨hd, ha, hb, hc, rfl, rfl, rfl⟩
    · cases h
  · rintro ⟨hd, ha, hb, hc, rfl, rfl, rfl⟩
    simp only [hd, ha, hb, hc]

/-- The opcode field of the word of opcode op. -/
theorem ofNat_laneOpOf (w : BitVec 96) : BitVec.ofNat 12 (laneOpOf w) = slice w 84 12 := by
  simp only [laneOpOf]
  by_cases h : (slice w 84 12).toNat = 0x91
  · rw [eq_ofNat_of_toNat_eq h, BitVec.toNat_ofNat]
    split <;> rfl
  · rw [if_neg (fun h' => h h'.1), BitVec.ofNat_toNat, BitVec.setWidth_eq]

/-- The fields of a lane word (02 Tables 2-3, 2-4). -/
theorem encodeForm_eq_iff {op : LaneOp} {f : LaneForm} {w : BitVec 96} :
    encodeForm op f = w ↔
      BitVec.ofNat 12 op = slice w 84 12 ∧ f.s = slice w 83 1 ∧ f.m = slice w 79 4 ∧
      (encodeOpnd (laneShape op).va (scaKindOf op) f.va).1 = slice w 78 1 ∧
      (encodeOpnd (laneShape op).vb (scaKindOf op) f.vb).1 = slice w 77 1 ∧
      (encodeOpnd (laneShape op).vc (scaKindOf op) f.vc).1 = slice w 76 1 ∧
      (encodeOpnd (laneShape op).vd 0 f.vd).2 = slice w 65 11 ∧
      (encodeOpnd (laneShape op).va (scaKindOf op) f.va).2 = slice w 54 11 ∧
      (encodeOpnd (laneShape op).vb (scaKindOf op) f.vb).2 = slice w 43 11 ∧
      (encodeOpnd (laneShape op).vc (scaKindOf op) f.vc).2 = slice w 32 11 ∧
      f.mod.ef = slice w 28 4 ∧ f.mod.rnd = slice w 25 3 ∧ f.mod.satm = slice w 23 2 ∧ f.mod.scope = slice w 20 3 ∧
      f.mod.ord = slice w 17 3 ∧ 0#1 = slice w 16 1 ∧ f.mod.arg = slice w 0 16 := by
  simp (disch := decide) only [encodeForm, append_eq_iff, slice_slice, Nat.reduceAdd, and_assoc]

/-- A form that is read is encoded as the word it was read from, bit 16 being zero (02 R42). -/
theorem encodeForm_of_decodeForm {w : BitVec 96} {f : LaneForm} (h : decodeForm (laneOpOf w) w = some f) (hz : slice w 16 1 = 0#1) :
    encodeForm (laneOpOf w) f = w := by
  obtain ⟨hd, ha, hb, hc, hs, hm, hmod⟩ := decodeForm_eq_some_iff.1 h
  simp (disch := decide) only [encodeForm_eq_iff, ofNat_laneOpOf, hz, ← hs, ← hm, ← hmod, decodeMod, slice_slice,
    (encodeOpnd_of_decodeOpnd hd).1, (encodeOpnd_of_decodeOpnd ha).1, (encodeOpnd_of_decodeOpnd hb).1,
    (encodeOpnd_of_decodeOpnd hc).1, Nat.reduceAdd, and_self]

/-- Every lane word that is read is the word of what it is read as. -/
theorem decodeLane_reads (w : BitVec 96) : Reads (decodeLane w) (IsWordOf encodeLane w) := by
  unfold decodeLane
  split
  case isTrue hu =>
    simp +contextual (disch := decide) [-BitVec.reduceAppend, IsWordOf, encodeLane, Instr.wf, Instr.lane?, append_eq_iff, slice_slice, hu]
  split
  case isTrue hv =>
    simp +contextual (disch := decide) [IsWordOf, encodeLane, encodeVimm, Instr.wf, Instr.lane?, append_eq_iff, slice_slice, hv]
  split
  case h_1 => simp
  rename_i c hc
  split
  case h_1 => simp
  rename_i f hf
  simp only [reads_ite, reads_ok, reads_error, implies_true, and_true]
  intro hz hwf
  have hl := laneCtor_lane? hc f
  exact ⟨by rw [encodeLane_of_lane? hl, encodeForm_of_decodeForm hf hz], by rw [wf_of_lane? hl, hwf]⟩


/-- ARG[0] of the two forms of BALLOT (08 R170). -/
theorem laneWf_ballot {f : LaneForm} :
    (laneWf 0x91 f = true → slice f.mod.arg 0 1 = 0) ∧ (laneWf 0x1091 f = true → slice f.mod.arg 0 1 = 1) := by
  constructor <;> intro h
  all_goals
    simp [laneWf, laneShape, laneAdmits] at h
    obtain ⟨-, -, -, harg⟩ := h
    rw [eq_ofNat_of_toNat_eq harg]
    rfl

/-- The word of an opcode in use names that opcode: BALLOT's ARG tells its two forms apart. -/
theorem laneOpOf_encodeForm {op : LaneOp} {c : LaneForm → Instr} {f : LaneForm} (hc : laneCtor op = some c)
    (hf : laneWf op f = true) : laneOpOf (encodeForm op f) = op := by
  obtain ⟨hop, -, -, -, -, -, -, -, -, -, -, -, -, -, -, -, harg⟩ := encodeForm_eq_iff.1 (rfl : encodeForm op f = _)
  have hbit : slice (encodeForm op f) 0 1 = slice f.mod.arg 0 1 := by rw [harg, slice_slice _ (by decide)]
  simp only [laneOpOf, ← hop, hbit, BitVec.toNat_ofNat]
  rcases laneCtor_range hc with ⟨hlt, -⟩ | rfl
  · rw [Nat.mod_eq_of_lt (by omega), if_neg]
    rintro ⟨rfl, h1⟩
    exact absurd (h1.symm.trans (laneWf_ballot.1 hf)) (by decide)
  · rw [laneWf_ballot.2 hf]
    rfl

/-- The operands of a well-formed lane word fit their classes. -/
theorem laneWf_fits {op : LaneOp} {f : LaneForm} (h : laneWf op f = true) :
    f.vd.fits (laneShape op).vd = true ∧ f.va.fits (laneShape op).va = true ∧ f.vb.fits (laneShape op).vb = true ∧
      f.vc.fits (laneShape op).vc = true := by
  simp only [laneWf, Bool.and_eq_true, and_assoc] at h
  obtain ⟨hd, ha, hb, hc, -⟩ := h
  exact ⟨hd, ha, hb, hc⟩

/-- The operands of a well-formed lane word are read back. -/
theorem decodeForm_encodeForm {op : LaneOp} {f : LaneForm} (h : laneWf op f = true) : decodeForm op (encodeForm op f) = some f := by
  obtain ⟨hd, ha, hb, hc⟩ := laneWf_fits h
  obtain ⟨-, es, em, ea, eb, ec, ed, ea', eb', ec', e1, e2, e3, e4, e5, -, e6⟩ := encodeForm_eq_iff.1 (rfl : encodeForm op f = _)
  have kind := encodeOpnd_kind (laneShape_vd_ne_vs op) f.vd
  rw [decodeForm_eq_some_iff, ← es, ← em, ← ea, ← eb, ← ec, ← ed, ← ea', ← eb', ← ec', decodeOpnd_encodeOpnd _ ha,
    decodeOpnd_encodeOpnd _ hb, decodeOpnd_encodeOpnd _ hc]
  refine ⟨?_, rfl, rfl, rfl, rfl, rfl, ?_⟩
  · simpa only [kind] using decodeOpnd_encodeOpnd 0 hd
  · simp (disch := decide) only [decodeMod, slice_slice, Nat.reduceAdd, ← e1, ← e2, ← e3, ← e4, ← e5, ← e6]

/-- The opcode field of an opcode in use is neither UDF's nor VIMM's. -/
theorem encodeForm_opcode {op : LaneOp} {c : LaneForm → Instr} {f : LaneForm} (hc : laneCtor op = some c) :
    slice (encodeForm op f) 88 8 ≠ 0xFF ∧ slice (encodeForm op f) 84 12 ≠ 0x02B := by
  have hop := (encodeForm_eq_iff.1 (rfl : encodeForm op f = _)).1
  have hmajor : slice (encodeForm op f) 88 8 = slice (BitVec.ofNat 12 op) 4 8 := by rw [hop, slice_slice _ (by decide)]
  rw [hmajor, ← hop]
  rcases laneCtor_range hc with ⟨hlt, hne⟩ | rfl
  · constructor <;> intro h <;> have := congrArg BitVec.toNat h <;> simp [Nat.shiftRight_eq_div_pow] at this <;> omega
  · decide

/-- The constructor of a lane instruction's opcode is its own (Laws/PerInstr, gathered). -/
theorem laneCtor_of_lane? {i : Instr} {op : LaneOp} {f : LaneForm} (h : i.lane? = some (op, f)) :
    ∃ c, laneCtor op = some c ∧ c f = i := by
  cases i <;> cases h <;> exact ⟨_, rfl, rfl⟩

/-- Every well-formed lane instruction is read back from its word. -/
theorem decodeLane_encodeLane {i : Instr} {w : BitVec 96} (hi : i.wf = true) (h : encodeLane i = some w) : decodeLane w = .ok i := by
  unfold encodeLane at h
  split at h
  · cases h
    simp (disch := decide) only [decodeLane, encodeVimm, BitVec.extractLsb'_append_eq_of_le,
      BitVec.extractLsb'_append_eq_of_add_le, BitVec.extractLsb'_eq_self,
      Nat.reduceSub, BitVec.reduceExtractLsb', BitVec.ofNat_eq_ofNat, BitVec.reduceEq, if_true, if_false, and_self]
  · cases h
    simp (disch := decide) only [decodeLane, BitVec.extractLsb'_append_eq_of_le,
      BitVec.extractLsb'_append_eq_of_add_le, BitVec.extractLsb'_eq_self,
      Nat.reduceSub, BitVec.ofNat_eq_ofNat, if_true]
  split at h
  · cases h
  rename_i op f hl
  cases h
  rw [wf_of_lane? hl] at hi
  obtain ⟨c, hc, rfl⟩ := laneCtor_of_lane? hl
  obtain ⟨hudf, hvimm⟩ := encodeForm_opcode (f := f) hc
  obtain ⟨-, -, -, -, -, -, -, -, -, -, -, -, -, -, -, hz, -⟩ := encodeForm_eq_iff.1 (rfl : encodeForm op f = _)
  simp only [decodeLane, if_neg hudf, if_neg hvimm, laneOpOf_encodeForm hc hi, hc, decodeForm_encodeForm hi, ← hz, hi]
  rfl

end Sys2Proof
end
section
/-! Every well-formed scalar and tile instruction is read back from its word, and with it the codes agree (02 R37, R38, R44). -/

namespace Sys2Proof

/-- Each field of the word is read where it was written; what is left is the instruction's own check. -/
theorem decodeScalar_encodeScalar {i : Instr} {w : BitVec 32} (hi : i.wf = true) (h : encodeScalar i = some w) :
    decodeScalar w = .ok i := by
  cases i <;> cases h
  all_goals
    simp (disch := decide) only [decodeScalar, decodeSys, decodeAlu, decodeBranch, decodeAtoms,
      BitVec.extractLsb'_append_eq_of_le, BitVec.extractLsb'_append_eq_of_add_le, BitVec.extractLsb'_eq_self, Nat.reduceSub,
      BitVec.reduceExtractLsb', BitVec.toNat_ofNat, Nat.reducePow, Nat.reduceMod, BitVec.ofNat_eq_ofNat, BitVec.reduceEq,
      if_true, if_false, and_self]
  case lane | ldsa | stsl | fence | waitseq => exact if_pos (by simpa [Instr.wf, Instr.lane?] using hi)

theorem decodeTile_encodeTile {i : Instr} {w : BitVec 64} (hi : i.wf = true) (h : encodeTile i = some w) :
    decodeTile w = .ok i := by
  cases i <;> cases h
  all_goals
    simp (disch := decide) only [decodeTile, BitVec.extractLsb'_append_eq_of_le, BitVec.extractLsb'_append_eq_of_add_le,
      BitVec.extractLsb'_eq_self, Nat.reduceSub, BitVec.toNat_ofNat, Nat.reducePow, Nat.reduceMod, BitVec.ofNat_eq_ofNat,
      BitVec.reduceEq, if_true, if_false]
  case tadd | tdrain => exact if_pos (by simpa [Instr.wf, Instr.lane?, and_assoc] using hi)

end Sys2Proof

namespace Sys2Proof.Machine

/-- Settles O56: each stream's decoder reads a well-formed instruction back field by field, and answers only instructions whose
fields are those of the word. -/
theorem decodeAndEncodeAgree : Obligations.DecodeAndEncodeAgree :=
  ⟨fun _ _ => decodeScalar_encodeScalar, fun _ _ => decodeLane_encodeLane, fun _ _ => decodeTile_encodeTile,
    fun i w => decodeScalar_reads w i, fun i w => decodeLane_reads w i, fun i w => decodeTile_reads w i⟩

/-- Settles O57, by running the decoder on each word. -/
theorem decodedWords : Obligations.DecodedWords :=
  ⟨rfl, rfl, rfl, rfl, rfl, rfl, rfl, rfl, rfl, rfl, rfl, rfl, rfl, rfl⟩

end Sys2Proof.Machine
end

section
/-! Trap entry: what a word's trap leaves when the squad can enter its handler (16 R305), and the checks that raise it. -/

namespace Sys2Proof.Machine

/-- The acting squad's record replaced: nothing else differs. -/
theorem onlySquad_setSq (s : State) (x : Squad) : OnlySquad s (s.setSq x) :=
  ⟨rfl, fun p hp => squad_setSq_ne s x p hp, fun _ => rfl⟩

/-- A synchronous trap of the word at the squad's PCs, taken now. -/
theorem raise_took {s : State} (h : CanTrap s) (t : TrapInfo) (hpc : t.tpc = s.sq.pc) (hlpc : t.tlpc = s.sq.lpc)
    (hasync : t.async = false) :
    TookTrap s (s.raise s.actor t) t.cause t.rx t.lw t.tlm t.tval t.tdst t.lcnt t.wm := by
  obtain ⟨hout, hhandler, hth, huse, hrun⟩ := h
  rw [raise_now s t hout hrun hhandler hth huse]
  have m0 : cellGet (cellPut s.sq.masks 0 t.wm) 0 = t.wm := cellGet_cellPut_same _ _ _
  have mn : ∀ n : BitVec 4, n ≠ 0 → cellGet (cellPut s.sq.masks 0 t.wm) n.toNat = s.sq.readM n := fun n hn =>
    cellGet_cellPut_ne _ _ _ _ (fun e => hn (BitVec.eq_of_toNat_eq e))
  refine ⟨?_, ?_, ?_, ?_, ?_, ?_, ?_, ?_, ?_, ?_, onlySquad_setSq _ _⟩ <;> rw [sq_setSq]
  · simp [TrapInfo.tcause, hpc, hlpc, hasync]
  · exact m0
  · exact mn
  · exact ⟨_, rfl, rfl, rfl, rfl, rfl, rfl⟩

theorem trapS_took {s : State} (h : CanTrap s) (cause : BitVec 8) (tval tdst : BitVec 64) :
    TookTrap s (s.trapS cause tval tdst) cause (rxOf cause) false 0 tval tdst 0 (s.sq.readM 0) :=
  raise_took h (s.sq.scalarTrap cause tval tdst) rfl rfl rfl

/-- A lane word that is not replayed reports its mask as the one of its first enqueue (09 R206). -/
theorem trapL_took {s : State} (h : CanTrap s) (hr : s.sq.replay = none) (mk : BitVec 4) (cause : BitVec 8) (tlm : BitVec 32)
    (tval tdst : BitVec 64) :
    TookTrap s (s.trapL mk cause tlm tval tdst) cause (rxOf cause) true tlm tval tdst s.sq.lanesLeft
      (if mk = 0 then s.sq.readM 0 else s.sq.readM 0 &&& s.sq.readM mk) := by
  have hwm : (s.sq.laneTrap mk cause tlm tval tdst).wm = if mk = 0 then s.sq.readM 0 else s.sq.readM 0 &&& s.sq.readM mk := by
    rw [← active_fresh s.sq mk hr]
    simp [Squad.laneTrap, Squad.wm, hr]
  rw [← hwm]
  exact raise_took h (s.sq.laneTrap mk cause tlm tval tdst) rfl rfl rfl

end Sys2Proof.Machine
end

section
/-! Words that trap before they run (02 R33, R39; 05 R116, R118, R124; 09 R198). -/

namespace Sys2Proof.Machine

theorem misaligned4_iff (a : BitVec 64) : misaligned4 a = true ↔ a.toNat % 4 ≠ 0 := by
  have h : (slice a 0 2 = 0) ↔ a.toNat % 4 = 0 := by
    rw [← BitVec.toNat_inj]; simp
  simp only [misaligned4, ne_eq, decide_eq_true_eq, h]

/-- An access of a canonical address that is no multiple of its width fails with cause 0x04. -/
theorem access_misaligned (s : State) (b : Nat) (kind : Kind) {va : BitVec 64} {n : Nat} (hc : canonical va = true)
    (ha : va.toNat % n ≠ 0) : s.access b kind va n = (s, .bad 0x04) := by
  simp [State.access, hc, ha]

theorem scalarLoad_misaligned (s : State) (m : BitVec 1) (ord : AccOrd) (scope : Nat) (d : BitVec 6) {va : BitVec 64} {n : Nat}
    (hc : canonical va = true) (ha : va.toNat % n ≠ 0) :
    s.scalarLoad m ord scope d va n = .next (s.trapS 0x04 va (tdstScalar d)) := by
  simp [State.scalarLoad, State.loadElem, access_misaligned s _ .read hc ha, ha, State.finishElemS]

theorem scalarStore_misaligned (s : State) (m : BitVec 1) (ord : AccOrd) (scope : Nat) (d : BitVec 6) {va : BitVec 64} {n : Nat}
    (hc : canonical va = true) (ha : va.toNat % n ≠ 0) :
    s.scalarStore m ord scope d va n = .next (s.trapS 0x04 va tdstNone) := by
  simp [State.scalarStore, State.writeElem, access_misaligned s _ .write hc ha, State.finishElemS]

/-- A word that can trap and has not waited runs its body where it stands. -/
theorem waitRegion_fresh {s : State} (h : CanTrap s) (hl : s.sq.latch = none) (now : List (BitVec 64))
    (k : List (BitVec 64) → State → Res) : s.waitRegion now k = k now (s.setSq s.sq) := by
  rw [waitRegion_ready s now k (.inr h.1), atIssue_fresh s.sq now hl]
  congr 2
  rw [← hl]

theorem canTrap_setSq_self {s : State} (h : CanTrap s) : CanTrap (s.setSq s.sq) := by
  unfold CanTrap
  rw [sq_setSq, setSq_actor, entriesInUse_setSq_self]
  exact h

/-- A trap taken where the squad's own record was written back is a trap taken there. -/
theorem tookTrap_of_setSq_self {s t : State} {cause : BitVec 8} {rx lw : Bool} {tlm : BitVec 32} {tval tdst : BitVec 64}
    {lcnt : BitVec 13} {wm : BitVec 32} (h : TookTrap (s.setSq s.sq) t cause rx lw tlm tval tdst lcnt wm) :
    TookTrap s t cause rx lw tlm tval tdst lcnt wm := by
  unfold TookTrap at h ⊢
  rw [sq_setSq] at h
  obtain ⟨htrap, hpc, hm0, hm, hfmt, hlcnt, hregion, hrun, hhandler, hsq, heq, hothers, hbytes⟩ := h
  exact ⟨htrap, hpc, hm0, hm, hfmt, hlcnt, hregion, hrun, hhandler, hsq, heq,
    fun p hp => (hothers p hp).trans (squad_setSq_self s p), hbytes⟩

theorem atoms_misaligned {s : State} (h : CanTrap s) (hl : s.sq.latch = none) (m : BitVec 1) (op : Nat) {n : Nat} (a b c : BitVec 6)
    (hc : canonical (s.sq.readS a) = true) (ha : (s.sq.readS a).toNat % n ≠ 0) :
    ∃ t, s.atoms m op n a b c = .next t ∧
      TookTrap s t 0x04 true false 0 (s.sq.readS a) (c.setWidth 64) 0 (s.sq.readM 0) := by
  have body : s.atoms m op n a b c = .next ((s.setSq s.sq).trapS 0x04 (s.sq.readS a) (tdstScalar c)) := by
    rw [State.atoms, waitRegion_fresh h hl]
    simp [argAt, listAt, State.writeElem, access_misaligned _ _ .write hc ha, endsOnOk, State.finishElemS]
  have took := trapS_took (canTrap_setSq_self h) 0x04 (s.sq.readS a) (tdstScalar c)
  rw [sq_setSq] at took
  exact ⟨_, body, tookTrap_of_setSq_self took⟩

/-- The address of a call or branch counts words from the word itself (02 R38). -/
theorem rel_eq {n : Nat} (x : Squad) (o : BitVec n) : x.rel o = x.pc + BitVec.ofInt 64 (4 * o.toInt) := by
  unfold Squad.rel
  congr 1
  rw [BitVec.shiftLeft_eq_mul_twoPow, mul_comm (4 : Int), BitVec.ofInt_mul]
  rfl

/-- The checks of a call, in their order (05 R116). -/
theorem call_traps {s : State} (h : CanTrap s) (hl : s.sq.latch = none) (m : BitVec 1) (v : BitVec 5) (w : BitVec 2)
    (srcs : List (BitVec 6)) (f : List (BitVec 64) → BitVec 64) (target : BitVec 64) (hf : f (srcs.map s.sq.readS) = target) :
    let job := s.job (s.jobOf s.actor)
    (target.toNat % 4 ≠ 0 → ∃ t, s.call m v w srcs f = .next t ∧ TookTrap s t 0x04 true false 0 target 15 0 (s.sq.readM 0)) ∧
    (target.toNat % 4 = 0 → s.sq.vws < 64 * v.toNat → ∃ t, s.call m v w srcs f = .next t ∧
      TookTrap s t 0x02 false false 0 (BitVec.ofNat 64 (64 * v.toNat)) 15 0 (s.sq.readM 0)) ∧
    (target.toNat % 4 = 0 → 64 * v.toNat ≤ s.sq.vws → job.vseg < s.sq.vwb + v.toNat → ∃ t, s.call m v w srcs f = .next t ∧
      TookTrap s t 0x14 true false 0 (BitVec.ofNat 64 (0x0200000000000000 + (s.sq.vwb + v.toNat))) 15 0 (s.sq.readM 0)) ∧
    (target.toNat % 4 = 0 → 64 * v.toNat ≤ s.sq.vws → s.sq.vwb + v.toNat ≤ job.vseg → job.sseg < s.sq.swb + w.toNat →
      ∃ t, s.call m v w srcs f = .next t ∧
      TookTrap s t 0x14 true false 0 (BitVec.ofNat 64 (0x0100000000000000 + (s.sq.swb + w.toNat))) 15 0 (s.sq.readM 0)) := by
  dsimp only
  have aligned (ha : target.toNat % 4 = 0) : misaligned4 target = false := by
    rw [Bool.eq_false_iff, ne_eq, misaligned4_iff]; exact not_not_intro ha
  refine ⟨fun ha => ?_, fun ha hv => ?_, fun ha hv hvseg => ?_, fun ha hv hvseg hsseg => ?_⟩
  · exact ⟨_, by simp only [State.call, hl, hf, (misaligned4_iff target).2 ha, if_true], trapS_took h _ _ (tdstScalar 15)⟩
  · exact ⟨_, by simp only [State.call, hl, hf, aligned ha, hv, if_true, Bool.false_eq_true, if_false], trapS_took h _ _ (tdstScalar 15)⟩
  · exact ⟨_, by simp only [State.call, hl, hf, aligned ha, not_lt.2 hv, hvseg, if_true, Bool.false_eq_true, if_false],
      trapS_took h _ _ (tdstScalar 15)⟩
  · exact ⟨_, by simp only [State.call, hl, hf, aligned ha, not_lt.2 hv, not_lt.2 hvseg, hsseg, if_true, Bool.false_eq_true,
      if_false], trapS_took h _ _ (tdstScalar 15)⟩

/-- A RET below the launch window or beyond VWS (05 R118). -/
theorem ret_traps {s : State} (h : CanTrap s) (hl : s.sq.latch = none) (m : BitVec 1)
    (hw : s.sq.vwb < (s.sq.readS 15).toNat / 2 ^ 59 ∨ s.sq.swb < (s.sq.readS 15).toNat / 2 ^ 57 % 4 ∨
      s.sq.vws < 64 * ((s.sq.readS 15).toNat / 2 ^ 59)) :
    ∃ t, exec (.ret m) s = .next t ∧
      TookTrap s t 0x14 true false 0 (BitVec.ofNat 64 (0x0300000000000000 + (s.sq.readS 15).toNat / 2 ^ 57)) 0x1800 0 (s.sq.readM 0) := by
  have hlt := (s.sq.readS 15).isLt
  have hk : (slice (s.sq.readS 15) 59 5).toNat = (s.sq.readS 15).toNat / 2 ^ 59 := by
    simp [Nat.shiftRight_eq_div_pow]; omega
  have hj : (slice (s.sq.readS 15) 57 2).toNat = (s.sq.readS 15).toNat / 2 ^ 57 % 4 := by
    simp [Nat.shiftRight_eq_div_pow]
  have hkj : (slice (s.sq.readS 15) 57 7).toNat = (s.sq.readS 15).toNat / 2 ^ 57 := by
    simp [Nat.shiftRight_eq_div_pow]; omega
  refine ⟨_, ?_, trapS_took h _ _ tdstNone⟩
  change execRet m s = _
  simp only [execRet, hl, hk, hj, hkj, if_pos hw]

end Sys2Proof.Machine
end

section
/-! The checks of a lane word at its enqueue (02 R39, R43; 16 R301). -/

namespace Sys2Proof.Machine

/-- A lane opcode with a field for a vector register. -/
def namesVector (op : LaneOp) : Prop :=
  let sh := laneShape op
  [sh.vd, sh.va, sh.vb, sh.vc].any (fun c => c == .vec || c == .vs) = true

/-- The answer of a lane word that makes the checks of enqueue before anything else. -/
def AtEnqueue (s : State) (op : LaneOp) (f : LaneForm) (r : Res) : Prop := ∃ k, r = s.laneIssue op f k

section
variable (s : State) (op : LaneOp) (f : LaneForm)

theorem laneIssue_atEnqueue (k : Squad → Nat → Res) : AtEnqueue s op f (s.laneIssue op f k) := ⟨_, rfl⟩
theorem laneWord_atEnqueue (g : Squad → Nat → Nat → LaneRes) : AtEnqueue s op f (s.laneWord op f g) := ⟨_, rfl⟩
theorem laneCompare_atEnqueue (g : Squad → Nat → Nat → LaneRes) : AtEnqueue s op f (s.laneCompare op f g) := ⟨_, rfl⟩
theorem laneLong_atEnqueue (g : Squad → Nat → Nat → LaneRes) : AtEnqueue s op f (s.laneLong op f g) := ⟨_, rfl⟩
theorem laneReduce_atEnqueue (scan : Bool) : AtEnqueue s op f (s.laneReduce op f scan) := ⟨_, rfl⟩
theorem laneLoad_atEnqueue : AtEnqueue s op f (s.laneLoad op f) := ⟨_, rfl⟩
theorem laneStore_atEnqueue : AtEnqueue s op f (s.laneStore op f) := ⟨_, rfl⟩
theorem laneAtom_atEnqueue : AtEnqueue s op f (s.laneAtom op f) := ⟨_, rfl⟩
theorem divArrive_atEnqueue (own : State → Res) : AtEnqueue s op f (s.divArrive op f own) := ⟨_, rfl⟩

end

/-- A lane instruction that can name a vector register, or that reads EF, makes the checks of enqueue first. -/
theorem exec_lane {i : Instr} {op : LaneOp} {f : LaneForm} (h : i.lane? = some (op, f)) (s : State) :
    AtEnqueue s op f (exec i s) ∨ (¬ namesVector op ∧ (laneShape op).use = .absent) := by
  cases i <;> cases h
  case vote | ballotLane | ballotId | mpopc | mfirst | mand | mor | mxor | mnot | mandn =>
    exact .inr (by unfold namesVector; decide)
  all_goals
    left
    delta exec
    dsimp only
  case vbfpq | ldw | pref => exact laneIssue_atEnqueue ..
  case vred | vscan => exact laneReduce_atEnqueue ..
  case divb | elseb | recv | regrp => exact divArrive_atEnqueue ..
  case ld | ldst | ldg => exact laneLoad_atEnqueue ..
  case st | stst | stg => exact laneStore_atEnqueue ..
  case atomAdd | atomMin | atomMax | atomAnd | atomOr | atomXor | atomExch | atomCas | atomFadd | atomFamax =>
    exact laneAtom_atEnqueue ..
  case vfdiv | vfsqrt | vfrcp | vfrsq | vfexp2 | vflog2 | vdiv | vrem => exact laneLong_atEnqueue ..
  case vcmpEq | vcmpNe | vcmpLt | vcmpLe | vcmpGt | vcmpGe | vcmpLtu | vcmpLeu | vcmpGtu | vcmpGeu | vfcmpEq | vfcmpNe |
      vfcmpLt | vfcmpLe | vfcmpUnord | vfcmpOrd => exact laneCompare_atEnqueue ..
  all_goals exact laneWord_atEnqueue ..

theorem tooHigh_eq_none_iff (o : Opnd) (vws k : Nat) : o.tooHigh vws k = none ↔ ∀ r, o = .vec r → r.toNat + k < vws := by
  cases o
  case vec r =>
    simp only [Opnd.tooHigh, Opnd.vec.injEq, forall_eq']
    split
    · simp; omega
    · split <;> simp <;> omega
  all_goals simp [Opnd.tooHigh]

theorem of_tooHigh_eq_some {o : Opnd} {vws k r : Nat} (h : o.tooHigh vws k = some r) :
    vws ≤ r ∧ ∃ v, o = .vec v ∧ (r = v.toNat ∨ r = v.toNat + k) := by
  cases o
  case vec v =>
    simp only [Opnd.tooHigh] at h
    split at h
    · cases h; exact ⟨by assumption, v, rfl, .inl rfl⟩
    · split at h
      · cases h; exact ⟨by assumption, v, rfl, .inr rfl⟩
      · cases h
  all_goals cases h

/-- Registers an LDW writes beyond its first. -/
abbrev extraRegs (op : LaneOp) (f : LaneForm) : Nat := if op = 0x103 then f.mod.arg.toNat / 4096 else 0

theorem badIndex_eq_none_iff (f : LaneForm) (op : LaneOp) (vws : Nat) :
    f.badIndex op vws = none ↔ (∀ r, f.vd = .vec r → r.toNat + extraRegs op f < vws) ∧
      ∀ o ∈ [f.va, f.vb, f.vc], ∀ r, o = .vec r → r.toNat < vws := by
  rw [← tooHigh_eq_none_iff]
  simp only [LaneForm.badIndex, List.forall_mem_cons, List.not_mem_nil, false_implies, implies_true, and_true]
  have source (o : Opnd) : (∀ r, o = .vec r → r.toNat < vws) ↔ o.tooHigh vws 0 = none := (tooHigh_eq_none_iff o vws 0).symm
  rw [source, source, source]
  cases hd : f.vd.tooHigh vws (extraRegs op f)
  case some => simp
  cases ha : f.va.tooHigh vws 0
  case some => simp
  cases hb : f.vb.tooHigh vws 0 <;> simp

theorem of_badIndex_eq_some {f : LaneForm} {op : LaneOp} {vws r : Nat} (h : f.badIndex op vws = some r) :
    vws ≤ r ∧ ((∃ v, f.vd = .vec v ∧ (r = v.toNat ∨ r = v.toNat + extraRegs op f)) ∨
      ∃ o ∈ [f.va, f.vb, f.vc], ∃ v, o = .vec v ∧ r = v.toNat) := by
  have source {o : Opnd} (ho : o ∈ [f.va, f.vb, f.vc]) (hr : o.tooHigh vws 0 = some r) :
      vws ≤ r ∧ ∃ o ∈ [f.va, f.vb, f.vc], ∃ v, o = .vec v ∧ r = v.toNat := by
    obtain ⟨hle, v, hv, hrv⟩ := of_tooHigh_eq_some hr
    exact ⟨hle, o, ho, v, hv, by simpa using hrv⟩
  simp only [LaneForm.badIndex] at h
  split at h
  · next hd =>
    cases h
    obtain ⟨hle, hv⟩ := of_tooHigh_eq_some hd
    exact ⟨hle, .inl hv⟩
  split at h
  · next ha => cases h; exact (source (by simp) ha).imp_right .inr
  split at h
  · next hb => cases h; exact (source (by simp) hb).imp_right .inr
  · exact (source (by simp) h).imp_right .inr

/-- An operand that names a vector register stands in a field of a class that may hold one (02 R40). -/
theorem namesVector_of_badIndex {f : LaneForm} {op : LaneOp} {vws r : Nat} (hwf : laneWf op f = true)
    (h : f.badIndex op vws = some r) : namesVector op := by
  have vector {o : Opnd} {c : Cls} {v : BitVec 11} (hfit : o.fits c = true) (hv : o = .vec v) : (c == .vec || c == .vs) = true := by
    subst hv; cases c <;> simp_all [Opnd.fits]
  obtain ⟨hd, ha, hb, hc⟩ := laneWf_fits hwf
  simp only [namesVector, List.any_cons, List.any_nil, Bool.or_false, Bool.or_eq_true (_ || _)]
  obtain ⟨-, ⟨v, hv, -⟩ | ⟨o, ho, v, hv, -⟩⟩ := of_badIndex_eq_some h
  · simp [vector hd hv]
  · simp only [List.mem_cons, List.not_mem_nil, or_false] at ho
    rcases ho with rfl | rfl | rfl
    · simp [vector ha hv]
    · simp [vector hb hv]
    · simp [vector hc hv]

theorem laneIssue_badIndex {s : State} {op : LaneOp} {f : LaneForm} {r : Nat} (h : f.badIndex op s.sq.vws = some r)
    (k : Squad → Nat → Res) :
    s.laneIssue op f k = .next (s.trapL f.m 0x02 0 (BitVec.ofNat 64 r) (laneTdst op f (laneEf op f s.sq.fmt))) := by
  simp [State.laneIssue, h]

theorem badLaneTval_eq (w : BitVec 96) : badLaneTval w = (w >>> 48).setWidth 64 := by
  have := w.isLt
  apply BitVec.eq_of_toNat_eq
  simp [badLaneTval, slice, Nat.shiftRight_eq_div_pow]
  omega

theorem laneIssue_badFormat {s : State} {op : LaneOp} {f : LaneForm} (h : f.badIndex op s.sq.vws = none)
    (hf : formatStands f op s.sq.fmt = false) (k : Squad → Nat → Res) :
    s.laneIssue op f k = .next (s.trapL f.m 0x01 0 ((encodeForm op f >>> 48).setWidth 64) (laneTdst op f (laneEf op f s.sq.fmt))) := by
  simp [State.laneIssue, h, hf, badLaneTval_eq]

/-- No lane opcode admits a reserved EF code (02 Table 2-5). -/
theorem efs_reserved (op : LaneOp) {e : Nat} (he : e = 0 ∨ 10 < e) : bitAt (laneShape op).efs e = false := by
  have bound : (laneShape op).efs &&& 0xF801#16 = 0 := by
    unfold laneShape
    split <;> decide
  by_cases hbig : 16 ≤ e
  · exact BitVec.getLsbD_of_ge _ _ hbig
  · have hbit := congrArg (fun x => x.getLsbD e) bound
    have hcode : (0xF801#16).getLsbD e = true := by interval_cases e <;> simp_all
    simpa [hcode] using hbit

/-- A word whose format is FMT.EF's does not stand while FMT.EF is 0 or a reserved code. -/
theorem formatStands_reserved {op : LaneOp} {f : LaneForm} {fmt : BitVec 14} (huse : (laneShape op).use ≠ .absent)
    (hef : f.mod.ef = 0) (he : fmtEF fmt = 0 ∨ 10 < (fmtEF fmt).toNat) : formatStands f op fmt = false := by
  have code : laneEf op f fmt = (fmtEF fmt).toNat := by
    unfold laneEf
    split
    · contradiction
    · rw [if_pos hef]
  have bit := efs_reserved op (he.imp_left (fun h => by rw [h]; rfl))
  rw [formatStands, laneFormatOk, code, bit, decide_eq_false huse]
  rfl

theorem vimm_traps {s : State} (h : CanTrap s) (hr : s.sq.replay = none) (m : BitVec 1) (k : BitVec 4) (r : BitVec 11) (n : BitVec 32)
    (hv : s.sq.vws ≤ r.toNat) :
    ∃ t, exec (.vimm m k r n) s = .next t ∧
      TookTrap s t 0x02 false true 0 (r.setWidth 64) (BitVec.ofNat 64 (0x800 + r.toNat + (if fmtEF s.sq.fmt = 10 then 0x2000 else 0)))
        s.sq.lanesLeft (if k = 0 then s.sq.readM 0 else s.sq.readM 0 &&& s.sq.readM k) := by
  have he : ((fmtEF s.sq.fmt).toNat = 10) ↔ fmtEF s.sq.fmt = 10 := by rw [← BitVec.toNat_inj]; rfl
  have hdst : tdstVector r (decide ((fmtEF s.sq.fmt).toNat = 10)) =
      BitVec.ofNat 64 (0x800 + r.toNat + (if fmtEF s.sq.fmt = 10 then 0x2000 else 0)) := by
    have := r.isLt
    apply BitVec.eq_of_toNat_eq
    simp only [tdstVector, he]
    split <;> simp_all <;> omega
  rw [← hdst]
  refine ⟨_, ?_, trapL_took h hr k 0x02 0 (r.setWidth 64) _⟩
  change execVimm m k r n s = _
  simp only [execVimm, if_pos hv]

/-- Settles O14: each check, made before the word runs, ends in a trap that the squad can take. -/
theorem operandTraps : Obligations.OperandTraps := by
  intro s h hr
  refine ⟨fun m a i ha => ?_, fun m d a w i hc ha => ?_, fun m d a w p i hc ha => ?_, fun hl m a b c hc => ?_,
    fun hl m v w i target hi => ?_, fun hl m hw => ret_traps h hl m hw, fun i op f hwf hi => ?_, fun i op f hwf hi hb huse hef he => ?_,
    fun m k r n hv => vimm_traps h hr m k r n hv⟩
  · have hm := (misaligned4_iff _).2 ha
    exact ⟨⟨_, if_pos hm, trapS_took h _ _ tdstNone⟩, ⟨_, if_pos hm, trapS_took h _ _ tdstNone⟩⟩
  · exact ⟨⟨_, scalarLoad_misaligned s m _ _ d hc ha, trapS_took h _ _ (tdstScalar d)⟩,
      ⟨_, scalarStore_misaligned s m _ _ d hc ha, trapS_took h _ _ tdstNone⟩⟩
  · exact ⟨⟨_, scalarLoad_misaligned s m _ _ d hc ha, trapS_took h _ _ (tdstScalar d)⟩,
      ⟨_, scalarStore_misaligned s m _ _ d hc ha, trapS_took h _ _ tdstNone⟩⟩
  · constructor
    · simp only [atomsRows, List.forall_mem_cons, List.not_mem_nil, false_implies, implies_true, and_true]
      exact ⟨fun _ ha => atoms_misaligned h hl m _ a b c hc ha, fun _ ha => atoms_misaligned h hl m _ a b c hc ha,
        fun _ ha => atoms_misaligned h hl m _ a b c hc ha, fun _ ha => atoms_misaligned h hl m _ a b c hc ha,
        fun _ ha => atoms_misaligned h hl m _ a b c hc ha, fun _ ha => atoms_misaligned h hl m _ a b c hc ha,
        fun _ ha => atoms_misaligned h hl m _ a b c hc ha, fun _ ha => atoms_misaligned h hl m _ a b c hc ha⟩
    · simp only [atomsFpRows, List.forall_mem_cons, List.not_mem_nil, false_implies, implies_true, and_true]
      exact ⟨fun ha => atoms_misaligned h hl m _ a b c hc ha, fun ha => atoms_misaligned h hl m _ a b c hc ha⟩
  · rcases hi with ⟨o, rfl, rfl⟩ | ⟨a, rfl, rfl⟩
    · exact call_traps h hl m v w [] (fun _ => s.sq.rel o) _ (rel_eq s.sq o)
    · exact call_traps h hl m v w [a] (fun vs => argAt vs 0) _ rfl
  · rw [wf_of_lane? hi] at hwf
    refine ⟨badIndex_eq_none_iff f op s.sq.vws, fun r hb => ?_⟩
    obtain ⟨hle, hsource⟩ := of_badIndex_eq_some hb
    obtain ⟨k, hk⟩ : ∃ k, exec i s = s.laneIssue op f k :=
      (exec_lane hi s).resolve_right (fun hno => hno.1 (namesVector_of_badIndex hwf hb))
    exact ⟨hle, hsource, _, hk.trans (laneIssue_badIndex hb k), trapL_took h hr f.m _ _ _ _⟩
  · obtain ⟨k, hk⟩ : ∃ k, exec i s = s.laneIssue op f k := (exec_lane hi s).resolve_right (fun hno => huse hno.2)
    exact ⟨_, hk.trans (laneIssue_badFormat hb (formatStands_reserved huse hef he) k), trapL_took h hr f.m _ _ _ _⟩

end Sys2Proof.Machine
end

section
/-! The memory order (10 R211 to R218): what a party's learning leaves, and what it has seen by then. -/

namespace Sys2Proof.Machine

theorem mem_addMark (ms : List Mark) (m x : Mark) : x ∈ addMark ms m ↔ x ∈ ms ∨ x = m := by
  unfold addMark
  split
  · next h =>
    have hm : m ∈ ms := by simpa using h
    exact ⟨.inl, fun hx => hx.elim id (fun e => e ▸ hm)⟩
  · simp

theorem mem_foldl_addMark (new ms : List Mark) (x : Mark) : x ∈ new.foldl addMark ms ↔ x ∈ ms ∨ x ∈ new := by
  induction new generalizing ms with
  | nil => simp
  | cons m rest ih => rw [List.foldl_cons, ih, mem_addMark, List.mem_cons, or_assoc]

theorem forall₂_trans {α : Type} {R : α → α → Prop} (hR : ∀ a b c, R a b → R b c → R a c) {xs ys zs : List α}
    (h : List.Forall₂ R xs ys) (k : List.Forall₂ R ys zs) : List.Forall₂ R xs zs := by
  induction h generalizing zs with
  | nil => exact k
  | cons hab _ ih =>
    cases k with
    | cons hbc hrest => exact .cons (hR _ _ _ hab hbc) (ih hrest)

theorem exists_of_forall₂_right {α β : Type} {R : α → β → Prop} {xs : List α} {ys : List β} (h : List.Forall₂ R xs ys) {y : β}
    (hy : y ∈ ys) : ∃ x ∈ xs, R x y := by
  induction h with
  | nil => cases hy
  | cons hab _ ih =>
    rcases List.mem_cons.1 hy with rfl | hrest
    · exact ⟨_, List.mem_cons_self, hab⟩
    · obtain ⟨x, hx, hxy⟩ := ih hrest
      exact ⟨x, List.mem_cons_of_mem _ hx, hxy⟩

/-- f is write e after party p has seen more of it. -/
def MoreSeen (p : Party) (e f : Write) : Prop :=
  f = { e with marks := f.marks } ∧ (∀ m ∈ e.marks, m ∈ f.marks) ∧ ∀ m ∈ f.marks, m ∈ e.marks ∨ m.party = p

theorem moreSeen_trans (p : Party) (e f g : Write) (h : MoreSeen p e f) (k : MoreSeen p f g) : MoreSeen p e g := by
  obtain ⟨hf, hkeep, hnew⟩ := h
  obtain ⟨kg, kkeep, knew⟩ := k
  refine ⟨?_, fun m hm => kkeep m (hkeep m hm), fun m hm => (knew m hm).elim (hnew m) .inr⟩
  rw [hf] at kg
  exact kg

theorem onlyLearns_of_hist_eq {s t : State} (h : t.hist = s.hist) (p : Party) : OnlyLearns s t p := by
  unfold OnlyLearns
  rw [h, List.forall₂_same]
  exact fun e _ => ⟨rfl, fun _ hm => hm, fun _ hm => .inl hm⟩

theorem onlyLearns_trans {s t u : State} {p : Party} (h : OnlyLearns s t p) (k : OnlyLearns t u p) : OnlyLearns s u p :=
  forall₂_trans (moreSeen_trans p) h k

/-- What a party has seen it has still seen once another, or itself, has seen more. -/
theorem hasSeen_of_onlyLearns {s t : State} {p q : Party} {ks : List Seen} (h : OnlyLearns s t q) (hs : HasSeen s p ks) :
    HasSeen t p ks := by
  intro k hk f hf hserial
  obtain ⟨e, he, hfe, hkeep, -⟩ := exists_of_forall₂_right h hf
  have same : e.serial = f.serial := by rw [hfe]
  exact hkeep _ (hs k hk e he (same.trans hserial))

/-- Of the machine only the record of the memory order changed, and of it only what party p has seen. -/
def Learns (s t : State) (p : Party) : Prop := t = s.setHist t.hist ∧ OnlyLearns s t p

theorem learns_refl (s : State) (p : Party) : Learns s s p := ⟨rfl, onlyLearns_of_hist_eq rfl p⟩

theorem learns_trans {s t u : State} {p : Party} (h : Learns s t p) (k : Learns t u p) : Learns s u p := by
  obtain ⟨ht, ho⟩ := h
  obtain ⟨hu, ko⟩ := k
  refine ⟨?_, onlyLearns_trans ho ko⟩
  rw [ht] at hu
  exact hu

theorem learns_learn (s : State) (p : Party) (ks : List Seen) : Learns s (s.learn p ks) p := by
  refine ⟨rfl, ?_⟩
  unfold OnlyLearns State.learn
  rw [setHist_hist, List.forall₂_map_right_iff, List.forall₂_same]
  refine fun e _ => ⟨rfl, fun m hm => (mem_foldl_addMark _ _ m).2 (.inl hm), fun m hm => ?_⟩
  rcases (mem_foldl_addMark _ _ m).1 hm with h | h
  · exact .inl h
  · obtain ⟨k, -, rfl⟩ := List.mem_map.1 h
    exact .inr rfl

theorem hasSeen_learn (s : State) (p : Party) (ks : List Seen) : HasSeen (s.learn p ks) p ks := by
  intro k hk e he hs
  obtain ⟨e0, -, rfl⟩ := List.mem_map.1 he
  exact (mem_foldl_addMark _ _ _).2 (.inr (List.mem_map.2 ⟨k, List.mem_filter.2 ⟨hk, by simpa using hs.symm⟩, rfl⟩))

/-- Scopes are the same to a party that has seen more. -/
theorem shares_of_learns {s t : State} {p : Party} (h : Learns s t p) (a b : Party) (sc : Nat) : t.shares a b sc = s.shares a b sc := by
  rw [h.1]; rfl

theorem inclusive_of_learns {s t : State} {p : Party} (h : Learns s t p) (a b : Party) (m n : Nat) :
    t.inclusive a m b n = s.inclusive a m b n := by
  rw [h.1]; rfl

/-- Acquiring from releases one after another: each of them that f admits has been seen. -/
theorem learns_foldl {α : Type} (p : Party) (g : State → α → State) (hg : ∀ t a, Learns t (g t a) p) (as : List α) (s : State) :
    Learns s (as.foldl g s) p := by
  induction as generalizing s with
  | nil => exact learns_refl s p
  | cons a rest ih => exact learns_trans (hg s a) (ih (g s a))

/-- What one of several turns of learning gives has been seen after all of them. -/
theorem hasSeen_foldl {α : Type} {p : Party} {g : State → α → State} (hg : ∀ t a, Learns t (g t a) p) {as : List α} {s : State}
    {a : α} (ha : a ∈ as) {ks : List Seen} (hk : ∀ t, Learns s t p → HasSeen (g t a) p ks) : HasSeen (as.foldl g s) p ks := by
  induction as generalizing s with
  | nil => cases ha
  | cons b rest ih =>
    rcases List.mem_cons.1 ha with rfl | hrest
    · exact hasSeen_of_onlyLearns (learns_foldl p g hg rest (g s a)).2 (hk s (learns_refl s p))
    · exact ih hrest (fun t ht => hk t (learns_trans (hg s b) ht))

theorem learns_acquireOne (p : Party) (scope : Nat) (t : State) (h : Head) :
    Learns t (if t.inclusive h.party h.scope p scope then t.learn p h.seen else t) p := by
  split
  · exact learns_learn t p h.seen
  · exact learns_refl t p

theorem learns_acquire (s : State) (p : Party) (scope : Nat) (hs : List Head) : Learns s (s.acquire p scope hs) p :=
  learns_foldl p _ (learns_acquireOne p scope) hs s

/-- An acquire has seen what the releases pass on that share both scopes with it (10 R214). -/
theorem hasSeen_acquire {s : State} {p : Party} {scope : Nat} {hs : List Head} {h : Head} (hh : h ∈ hs)
    (hi : s.inclusive h.party h.scope p scope = true) : HasSeen (s.acquire p scope hs) p h.seen :=
  hasSeen_foldl (learns_acquireOne p scope) hh fun t ht => by
    rw [inclusive_of_learns ht, if_pos hi]
    exact hasSeen_learn t p h.seen

theorem learns_observe (s : State) (p : Party) (see : Write → Bool) (a n : Nat) : Learns s (s.observe p see a n) p := by
  unfold State.observe
  split
  · exact learns_refl s p
  · exact learns_learn s p _

/-- A party has seen the writes it reads from (10 R211). -/
theorem hasSeen_observe (s : State) (p : Party) (see : Write → Bool) (a n : Nat) :
    HasSeen (s.observe p see a n) p ((s.readFrom see a n).map (fun e => ⟨e.serial, a, n⟩)) := by
  unfold State.observe
  split
  · next h =>
    intro k _ e he
    rw [h] at he
    cases he
  · exact hasSeen_learn s p _

end Sys2Proof.Machine
end

section
/-! NOP, FENCE and IREG (02 R63; 10 R217; 16 R312, R313). -/

namespace Sys2Proof.Machine

/-- What a FENCE of a squad adds to the memory order before it releases: its acquire, and its place in the order of FENCEs (10 R214,
R218). -/
def State.fenceLearns (s : State) (q : Nat) (p o : BitVec 3) : State :=
  let v := if o = 2 ∨ o = 4 then s.fenceAcquire q p.toNat else s
  if o = 4 then v.fenceOrder q p.toNat else v

section
variable (s : State) (q : Nat)

theorem learns_pending (scope : Nat) (t : State) (h : Nat × Head) :
    Learns t (if t.shares h.2.party (.squad q) scope then t.acquire (.squad q) h.1 [h.2] else t) (.squad q) := by
  split
  · exact learns_acquire t _ _ _
  · exact learns_refl t _

theorem learns_fenceAcquire (scope : Nat) : Learns s (s.fenceAcquire q scope) (.squad q) :=
  learns_foldl _ _ (learns_pending q scope) _ _

/-- An acquire FENCE has seen what the releases pass on that relaxed reads before it read from (10 R214). -/
theorem hasSeen_fenceAcquire {scope : Nat} {h : Nat × Head} (hh : h ∈ (s.squad q).pend)
    (hs : s.shares h.2.party (.squad q) scope = true) (hi : s.inclusive h.2.party h.2.scope (.squad q) h.1 = true) :
    HasSeen (s.fenceAcquire q scope) (.squad q) h.2.seen :=
  hasSeen_foldl (learns_pending q scope) hh fun t ht => by
    rw [shares_of_learns ht, if_pos hs]
    exact hasSeen_acquire (List.mem_singleton_self _) (by rw [inclusive_of_learns ht]; exact hi)

/-- An acquire-release FENCE learns from the FENCEs before it and joins them (10 R218). -/
theorem fenceOrder_eq (scope : Nat) : s.fenceOrder q scope = { s with
    hist := (s.fenceOrder q scope).hist
    fences := ⟨.squad q, scope, (s.fenceOrder q scope).seenBy (.squad q)⟩ :: s.fences } := by
  have hv := (learns_acquire s (.squad q) scope s.fences).1
  unfold State.fenceOrder
  rw [hv]
  rfl

theorem onlyLearns_fenceOrder (scope : Nat) : OnlyLearns s (s.fenceOrder q scope) (.squad q) :=
  (learns_acquire s (.squad q) scope s.fences).2

theorem hasSeen_fenceOrder {scope : Nat} {h : Head} (hh : h ∈ s.fences)
    (hi : s.inclusive h.party h.scope (.squad q) scope = true) : HasSeen (s.fenceOrder q scope) (.squad q) h.seen :=
  hasSeen_acquire (s := s) hh hi

theorem fenceLearns_acquire (p : BitVec 3) : s.fenceLearns q p 2 = s.fenceAcquire q p.toNat := rfl
theorem fenceLearns_acqrel (p : BitVec 3) : s.fenceLearns q p 4 = (s.fenceAcquire q p.toNat).fenceOrder q p.toNat := rfl

/-- A FENCE that does not acquire adds nothing. -/
theorem fenceLearns_release {p o : BitVec 3} (h2 : o ≠ 2) (h4 : o ≠ 4) : s.fenceLearns q p o = s := by
  unfold State.fenceLearns
  rw [if_neg h4, if_neg (not_or.2 ⟨h2, h4⟩)]

theorem fenceLearns_eq (p o : BitVec 3) : s.fenceLearns q p o = { s with
    hist := (s.fenceLearns q p o).hist
    fences := if o = 4 then ⟨.squad q, p.toNat, (s.fenceLearns q p o).seenBy (.squad q)⟩ :: s.fences else s.fences } := by
  have hv := (learns_fenceAcquire s q p.toNat).1
  by_cases h4 : o = 4
  · subst h4
    have hw := fenceOrder_eq (s.fenceAcquire q p.toNat) q p.toNat
    rw [fenceLearns_acqrel, hw, hv]
    rfl
  · rw [if_neg h4]
    by_cases h2 : o = 2
    · subst h2; exact hv
    · rw [fenceLearns_release s q h2 h4]

theorem onlyLearns_fenceLearns (p o : BitVec 3) : OnlyLearns s (s.fenceLearns q p o) (.squad q) := by
  have hv := (learns_fenceAcquire s q p.toNat).2
  by_cases h4 : o = 4
  · subst h4; exact onlyLearns_trans hv (onlyLearns_fenceOrder _ q _)
  by_cases h2 : o = 2
  · subst h2; exact hv
  · rw [fenceLearns_release s q h2 h4]; exact onlyLearns_of_hist_eq rfl _

theorem hasSeen_fenceLearns_pend {p o : BitVec 3} (ho : o = 2 ∨ o = 4) {h : Nat × Head} (hh : h ∈ (s.squad q).pend)
    (hs : s.shares h.2.party (.squad q) p.toNat = true) (hi : s.inclusive h.2.party h.2.scope (.squad q) h.1 = true) :
    HasSeen (s.fenceLearns q p o) (.squad q) h.2.seen := by
  have hv := hasSeen_fenceAcquire s q hh hs hi
  rcases ho with rfl | rfl
  · exact hv
  · exact hasSeen_of_onlyLearns (onlyLearns_fenceOrder _ q _) hv

theorem hasSeen_fenceLearns_order {p : BitVec 3} {h : Head} (hh : h ∈ s.fences)
    (hi : s.inclusive h.party h.scope (.squad q) p.toNat = true) : HasSeen (s.fenceLearns q p 4) (.squad q) h.seen := by
  have hv := learns_fenceAcquire s q p.toNat
  have hi' : (s.fenceAcquire q p.toNat).inclusive h.party h.scope (.squad q) p.toNat = true := (inclusive_of_learns hv ..).trans hi
  exact hasSeen_fenceOrder _ q (by rw [hv.1]; exact hh) hi'

end

theorem dropL1_block_same (s : State) (b : Nat) : (s.dropL1 b).block b = { s.block b with l1 := [] } := by
  unfold State.dropL1
  dsimp only
  split
  · next h => rw [← h]
  · exact block_setBlock_same s b _

theorem dropL1_block_ne (s : State) (b c : Nat) (h : c ≠ b) : (s.dropL1 b).block c = s.block c := by
  unfold State.dropL1
  dsimp only
  split
  · rfl
  · exact block_setBlock_ne s b c _ h

theorem dropL1_frame (s : State) (b : Nat) : s.dropL1 b = { s with blocks := (s.dropL1 b).blocks } := by
  unfold State.dropL1
  dsimp only
  split <;> rfl

/-- The releases that a squad's FENCEs make of its later writes, after one more (10 R214). -/
def Squad.fencedBy (x : Squad) (q : Nat) (p o : BitVec 3) : List Head :=
  if o = 3 ∨ o = 4 then ⟨.squad q, p.toNat, []⟩ :: x.fenced.filter (fun h => h.scope ≠ p.toNat) else x.fenced

@[simp] theorem dropL1_actor (s : State) (b : Nat) : (s.dropL1 b).actor = s.actor := by rw [dropL1_frame]
@[simp] theorem dropL1_squads (s : State) (b : Nat) : (s.dropL1 b).squads = s.squads := by rw [dropL1_frame]

theorem sq_dropL1 (s : State) (b : Nat) : (s.dropL1 b).sq = s.sq := by rw [dropL1_frame]; rfl

theorem dropL1_setSq (s : State) (b : Nat) (x : Squad) : (s.setSq x).dropL1 b = (s.dropL1 b).setSq x := by
  have hb : (s.setSq x).block b = s.block b := rfl
  unfold State.dropL1
  rw [hb]
  dsimp only
  split <;> rfl

/-- How a FENCE of the acting squad ends, its acquire made. -/
theorem fence_ends (w : State) (p o : BitVec 3) (b : Nat) (ho : w.sq.out = []) :
    let x := if o = 3 ∨ o = 4 then w.fenceRelease w.actor p.toNat else w
    (if (o = 2 ∨ o = 4) ∧ 3 ≤ p.toNat then x.dropL1 b else x).done 1 =
      (if (o = 2 ∨ o = 4) ∧ 3 ≤ p.toNat then w.dropL1 b else w).setSq
        { w.sq with pc := w.sq.pc + 4, latch := none, run := .running, fenced := w.sq.fencedBy w.actor p o } := by
  have hx : (if o = 3 ∨ o = 4 then w.fenceRelease w.actor p.toNat else w) = w.setSq { w.sq with fenced := w.sq.fencedBy w.actor p o } ∨
      (if o = 3 ∨ o = 4 then w.fenceRelease w.actor p.toNat else w) = w ∧ w.sq.fencedBy w.actor p o = w.sq.fenced := by
    by_cases h : o = 3 ∨ o = 4
    · left; rw [if_pos h, Squad.fencedBy, if_pos h]; rfl
    · right; exact ⟨if_neg h, if_neg h⟩
  dsimp only
  rw [done_spec]
  rcases hx with hx | ⟨hx, hf⟩
  · rw [hx, dropL1_setSq]
    split <;> simp [Squad.afterMarker, ho]
  · rw [hx, hf]
    split <;> simp [Squad.afterMarker, ho, sq_dropL1]

/-- What a FENCE leaves of the machine but for its squad's record. -/
def State.fenceDrops (s : State) (p o : BitVec 3) : State :=
  let w := s.unlatched.fenceLearns s.actor p o
  if (o = 2 ∨ o = 4) ∧ 3 ≤ p.toNat then w.dropL1 (blockOfSquad s.actor) else w

/-- A FENCE with nothing outstanding, all of it. -/
theorem exec_fence {s : State} (ho : s.sq.out = []) (m : BitVec 1) (p o : BitVec 3) :
    exec (.fence m p o) s = .next ((s.fenceDrops p o).setSq
      { s.sq with pc := s.sq.pc + 4, latch := none, run := .running, fenced := s.sq.fencedBy s.actor p o }) := by
  change execFence m p o s = _
  have hw := fenceLearns_eq s.unlatched s.actor p o
  have hsq : (s.unlatched.fenceLearns s.actor p o).sq = { s.sq with latch := none } := by
    rw [hw]; exact sq_setSq s _
  have ha : (s.unlatched.fenceLearns s.actor p o).actor = s.actor := by rw [hw]; rfl
  have ends := fence_ends (s.unlatched.fenceLearns s.actor p o) p o (blockOfSquad s.actor) (by rw [hsq]; exact ho)
  rw [hsq, ha] at ends
  unfold execFence
  rw [State.drained, drainedWith_ready s _ _ ho]
  exact congrArg Host.Outcome.next ends

theorem fenceDrops_eq (s : State) (p o : BitVec 3) : s.fenceDrops p o = { s with
    squads := s.unlatched.squads
    blocks := (s.fenceDrops p o).blocks
    hist := (s.unlatched.fenceLearns s.actor p o).hist
    fences := (s.unlatched.fenceLearns s.actor p o).fences } := by
  unfold State.fenceDrops
  dsimp only
  split
  · rw [dropL1_frame, fenceLearns_eq]; rfl
  · rw [fenceLearns_eq]; rfl

theorem fenceDrops_block (s : State) (p o : BitVec 3) :
    (s.fenceDrops p o).block (blockOfSquad s.actor) = { s.block (blockOfSquad s.actor) with
      l1 := if (o = 2 ∨ o = 4) ∧ 3 ≤ p.toNat then [] else (s.block (blockOfSquad s.actor)).l1 } := by
  have hb : (s.unlatched.fenceLearns s.actor p o).block (blockOfSquad s.actor) = s.block (blockOfSquad s.actor) := by
    rw [fenceLearns_eq]; rfl
  unfold State.fenceDrops
  dsimp only
  split
  · rw [dropL1_block_same, hb]
  · exact hb

theorem fenceDrops_block_ne (s : State) (p o : BitVec 3) (b : Nat) (h : b ≠ blockOfSquad s.actor) :
    (s.fenceDrops p o).block b = s.block b := by
  have hb : (s.unlatched.fenceLearns s.actor p o).block b = s.block b := by
    rw [fenceLearns_eq]; rfl
  unfold State.fenceDrops
  dsimp only
  split
  · rw [dropL1_block_ne _ _ _ h, hb]
  · exact hb

/-- The memory order after a FENCE: the clauses of O16 that speak of it (10 R214, R218). -/
theorem fence_order {s t : State} (p o : BitVec 3) (hh : t.hist = (s.unlatched.fenceLearns s.actor p o).hist) :
    (o ≠ 2 → o ≠ 4 → t.hist = s.hist) ∧ OnlyLearns s t (.squad s.actor) ∧
    (o = 2 ∨ o = 4 → ∀ h ∈ s.sq.pend, s.shares h.2.party (.squad s.actor) p.toNat = true →
      s.inclusive h.2.party h.2.scope (.squad s.actor) h.1 = true → HasSeen t (.squad s.actor) h.2.seen) ∧
    (o = 4 → ∀ h ∈ s.fences, s.inclusive h.party h.scope (.squad s.actor) p.toNat = true → HasSeen t (.squad s.actor) h.seen) := by
  have pend : (s.unlatched.squad s.actor).pend = s.sq.pend := by
    rw [show s.unlatched.squad s.actor = { s.sq with latch := none } from sq_setSq s _]
  have seen {ks : List Seen} (h : HasSeen (s.unlatched.fenceLearns s.actor p o) (.squad s.actor) ks) : HasSeen t (.squad s.actor) ks := by
    unfold HasSeen at h ⊢
    rw [hh]
    exact h
  refine ⟨fun h2 h4 => ?_, ?_, fun ho h hp hs hi => seen ?_, fun ho h hf hi => seen ?_⟩
  · rw [hh, fenceLearns_release _ _ h2 h4]; rfl
  · unfold OnlyLearns
    rw [hh]
    exact onlyLearns_fenceLearns s.unlatched s.actor p o
  · exact hasSeen_fenceLearns_pend s.unlatched s.actor ho (by rw [pend]; exact hp) hs hi
  · subst ho
    exact hasSeen_fenceLearns_order s.unlatched s.actor hf hi

theorem exec_fence_waits {s : State} (ho : s.sq.out ≠ []) (hl : s.sq.latch = none) (m : BitVec 1) (p o : BitVec 3) :
    exec (.fence m p o) s = .next (s.setSq { s.sq with latch := some [], run := .parked }) := by
  change execFence m p o s = _
  exact drained_waits s [] _ ho hl

/-- IREG that does not wait: the open region ends and the next begins, outside a handler. -/
theorem exec_ireg {s : State} (hl : s.sq.latch = none) (hw : s.sq.out = [] ∨ s.sq.region = none) (m : BitVec 1) :
    exec (.ireg m) s = .next (s.setSq { s.sq with
      pc := s.sq.pc + 4, latch := none, run := s.sq.afterMarker (m = 1),
      region := if s.sq.handler = none then
        some ⟨s.sq.pc + 4, s.sq.lpc, s.sq.masks, s.sq.fmt, s.sq.fflags, s.sq.chsel⟩ else none }) := by
  change execIreg m s = _
  unfold execIreg
  rw [endingRegion_ready s [] _ hw.symm hl]
  dsimp only
  rw [setSq_setSq, sq_setSq, advance_eq]
  rfl

theorem exec_ireg_waits {s : State} (hl : s.sq.latch = none) (ho : s.sq.out ≠ []) (hr : s.sq.region ≠ none) (m : BitVec 1) :
    exec (.ireg m) s = .next (s.setSq { s.sq with latch := some [], run := .parked }) := by
  change execIreg m s = _
  unfold execIreg State.endingRegion
  rw [waitRegion_waits s _ _ hr ho, atIssue_fresh _ _ hl]
  rfl

/-- Settles O16: each word's end is its record written back; what a FENCE learns and passes on is in the laws above. -/
theorem plainWords : Obligations.PlainWords := by
  intro s m
  refine ⟨⟨_, rfl, ?_⟩, fun ho p o => ⟨_, exec_fence ho m p o, ?_⟩, fun ho hl p o => ?_, fun hl hw => ?_, fun hl ho hr => ?_⟩
  · rw [done_spec]
    exact ⟨sq_setSq s _, onlySquad_setSq s _⟩
  · have hd := fenceDrops_eq s p o
    have ha : (s.fenceDrops p o).actor = s.actor := by rw [hd]
    obtain ⟨plain, learns, pending, order⟩ := fence_order (s := s) (t := (s.fenceDrops p o).setSq
      { s.sq with pc := s.sq.pc + 4, latch := none, run := .running, fenced := s.sq.fencedBy s.actor p o }) p o (by rw [setSq_hist, hd])
    refine ⟨fun q hq => ?_, fun a => ?_, ?_, ?_, ?_, plain, learns, pending, order, ?_, fenceDrops_block_ne s p o, fenceDrops_block s p o⟩
    · rw [squad_setSq_ne _ _ _ (ha ▸ hq), hd]
      exact squad_setSq_ne s _ q hq
    · rw [hd]; rfl
    · rw [sq_setSq]
    · rw [sq_setSq]; rfl
    · rw [setSq_fences, hd]
      dsimp only
      rw [fenceLearns_eq]
      rfl
    · rw [hd]; rfl
  · exact ⟨_, exec_fence_waits ho hl m p o, onlySquad_setSq s _, sq_setSq s _⟩
  · exact ⟨_, exec_ireg hl hw m, onlySquad_setSq s _, by rw [sq_setSq, ← hl]; rfl⟩
  · exact ⟨_, exec_ireg_waits hl ho hr m, onlySquad_setSq s _, sq_setSq s _⟩

end Sys2Proof.Machine
end

section
/-! Storing registers and images to a gang's frame (16 R317, R320): what of the gang, its blocks and squads it leaves. -/

namespace Sys2Proof.Machine

/-- A gang with what another says of its frame's contents. -/
def Gang.withFrameOf (x y : Gang) : Gang := { x with overS := y.overS, overB := y.overB, spilled := y.spilled, staged := y.staged }

/-- A block with the flight of another. -/
def Block.withFlightOf (x y : Block) : Block := { x with pacer := { x.pacer with flight := y.pacer.flight } }

/-- t is s but for what stowing to frames changes: no squad, of a gang what its frame holds, of a block how far the arrays are. -/
def Stowed (s t : State) : Prop :=
  t.squads = s.squads ∧ (∀ g, t.gang g = (s.gang g).withFrameOf (t.gang g)) ∧ ∀ b, t.block b = (s.block b).withFlightOf (t.block b)

theorem stowed_of_eq {s t : State} (hs : t.squads = s.squads) (hg : t.gangs = s.gangs) (hb : t.blocks = s.blocks) : Stowed s t := by
  have gang (g : Nat) : t.gang g = s.gang g := by unfold State.gang; rw [hg]
  have block (b : Nat) : t.block b = s.block b := by unfold State.block; rw [hb]
  exact ⟨hs, fun g => by rw [gang]; rfl, fun b => by rw [block]; rfl⟩

theorem stowed_refl (s : State) : Stowed s s := stowed_of_eq rfl rfl rfl

theorem stowed_trans {s t u : State} (h : Stowed s t) (k : Stowed t u) : Stowed s u := by
  obtain ⟨hs, hg, hb⟩ := h
  obtain ⟨ks, kg, kb⟩ := k
  exact ⟨ks.trans hs, fun g => by rw [kg g, hg g]; rfl, fun b => by rw [kb b, hb b]; rfl⟩

theorem stowed_foldl {α : Type} (g : State → α → State) (hg : ∀ t a, Stowed t (g t a)) (as : List α) (s : State) :
    Stowed s (as.foldl g s) :=
  List.foldlRecOn as g (motive := Stowed s) (stowed_refl s) (fun t ht a _ => stowed_trans ht (hg t a))

theorem stowed_onlyTlbs {s t : State} (h : OnlyTlbs s t) : Stowed s t :=
  stowed_of_eq (onlyTlbs_squads h) (onlyTlbs_gangs h) (onlyTlbs_blocks h)

theorem stowed_setGang (s : State) (g : Nat) (x : Gang) (h : x = (s.gang g).withFrameOf x) : Stowed s (s.setGang g x) := by
  refine ⟨rfl, fun k => ?_, fun b => rfl⟩
  by_cases hk : k = g
  · subst hk; rw [gang_setGang_same]; exact h
  · rw [gang_setGang_ne _ _ _ _ hk]; rfl

theorem stowed_pasteMem (s : State) (a n : Nat) (c : Cells 8) : Stowed s (s.pasteMem a n c) :=
  stowed_trans (stowed_onlyTlbs (onlyTlbs_recallRange s a n)) (stowed_of_eq rfl rfl rfl)

theorem stowed_moveMarks (s : State) (a b n : Nat) (c : Bool) : Stowed s (s.moveMarks a b n c) := stowed_of_eq rfl rfl rfl

theorem stowed_unwrite (s : State) (a n : Nat) : Stowed s (s.unwrite a n) := stowed_of_eq rfl rfl rfl

theorem stowed_moveBytes (s : State) (a b n : Nat) : Stowed s (s.moveBytes a b n) :=
  stowed_trans (stowed_pasteMem s b n _) (stowed_moveMarks _ a b n false)

theorem stowed_stowMarks (s : State) (q f : Nat) : Stowed s (s.stowMarks q f) := by
  unfold State.stowMarks
  dsimp only
  split
  · exact stowed_refl s
  · exact stowed_foldl _ (fun t p => stowed_moveMarks t _ _ _ _) _ s

theorem stowed_stowSquad (s : State) (f q : Nat) : Stowed s (s.stowSquad f q) := by
  unfold State.stowSquad
  exact stowed_trans (stowed_trans (stowed_trans (stowed_trans (stowed_pasteMem ..) (stowed_pasteMem ..)) (stowed_stowMarks ..))
    (stowed_pasteMem ..)) (stowed_unwrite ..)

theorem stowed_headerChanged (s : State) (g : Nat) : Stowed s (s.headerChanged g) := by
  unfold State.headerChanged
  dsimp only
  split
  · exact stowed_refl s
  · exact stowed_unwrite ..

theorem stowed_stowSquads (s : State) (g : Nat) (qs : List Nat) : Stowed s (s.stowSquads g qs) := by
  unfold State.stowSquads
  dsimp only
  split
  · exact stowed_refl s
  · next o _ =>
    have hf := stowed_foldl (fun t q => t.stowSquad ((s.gang g).frameAt o) q) (fun t q => stowed_stowSquad t _ q) qs s
    refine stowed_trans hf (stowed_setGang _ _ _ ?_)
    rw [hf.2.1 g]
    rfl

theorem stowed_stowRegs (s : State) (g : Nat) : Stowed s (s.stowRegs g) := by
  unfold State.stowRegs
  exact stowed_trans (stowed_trans (stowed_stowSquads ..) (stowed_setGang _ _ _ rfl)) (stowed_headerChanged ..)

theorem stowed_layDown (s : State) (b : Nat) : Stowed s (s.setBlock b { s.block b with pacer := (s.block b).pacer.layDown }) := by
  refine ⟨rfl, fun g => rfl, fun c => ?_⟩
  by_cases hc : c = b
  · subst hc; rw [block_setBlock_same]; rfl
  · rw [block_setBlock_ne _ _ _ _ hc]; rfl

theorem stowed_stowBlock (s : State) (d : Desc) (f b : Nat) : Stowed s (s.stowBlock d f b) := by
  unfold State.stowBlock
  exact stowed_trans (stowed_trans (stowed_trans (stowed_trans (stowed_trans (stowed_layDown s b) (stowed_unwrite ..))
    (stowed_pasteMem ..)) (stowed_moveMarks ..)) (stowed_moveBytes ..)) (stowed_moveBytes ..)

theorem stowed_stowImages (s : State) (g : Nat) : Stowed s (s.stowImages g) := by
  have hf (o : Nat) := stowed_foldl (fun t b => t.stowBlock (s.gang g).desc ((s.gang g).frameAt o) b)
    (fun t b => stowed_stowBlock t _ _ b) (s.blocksOf g) s
  have mark {t : State} (h : Stowed s t) : Stowed s (t.setGang g { s.gang g with spilled := true, overB := [] }) := by
    refine stowed_trans h (stowed_setGang _ _ _ ?_)
    rw [h.2.1 g]
    rfl
  unfold State.stowImages
  dsimp only
  split
  · exact mark (stowed_refl s)
  · next o _ => exact mark (hf o)

/-- A gang that had no ending has this one, and its state stands in its frame (16 R318). -/
theorem stowed_terminate {s : State} {g : Nat} (h : (s.gang g).term = none) (cause : BitVec 8) (blk sq : Nat) (addr : BitVec 64)
    (extra : List (BitVec 64)) :
    Stowed (s.setGang g { s.gang g with term := some ⟨cause, blk, sq, addr, extra⟩ }) (s.terminate g cause blk sq addr extra) := by
  have regs (s1 : State) : Stowed s1 (match (s.gang g).place with | .away _ => s1 | _ => s1.stowRegs g) := by
    split
    · exact stowed_refl s1
    · exact stowed_stowRegs s1 g
  have fresh : ¬ (s.gang g).term.isSome = true := by simp [h]
  unfold State.terminate
  dsimp only
  rw [if_neg fresh]
  split
  · exact stowed_trans (regs _) (stowed_headerChanged ..)
  · exact stowed_trans (stowed_trans (regs _) (stowed_stowImages ..)) (stowed_headerChanged ..)

theorem stowed_setDev (s : State) (d : Nat) (x : Device) : Stowed s (s.setDev d x) := stowed_of_eq rfl rfl rfl

/-- A report that answers no request goes to memory and to its device's record. -/
theorem stowed_report (s : State) (d : Nat) (r : Report) (h : r.request = none) : Stowed s (s.report d r) := by
  unfold State.report
  dsimp only
  split
  · unfold State.putReport
    simp only [h]
    exact stowed_trans (stowed_onlyTlbs (onlyTlbs_trans (onlyTlbs_recallRange ..) (onlyTlbs_writeBytes ..))) (stowed_setDev ..)
  · exact stowed_setDev ..

theorem stowed_gangReport (s : State) (g kind : Nat) (cause : BitVec 8) (blk sq : Nat) (addr : BitVec 64) (extra : List (BitVec 64)) :
    Stowed s (s.gangReport g kind cause blk sq addr extra) := stowed_report s _ _ rfl

theorem stowed_tick (s : State) : Stowed s s.tick := stowed_of_eq rfl rfl rfl

/-- A resident gang that leaves its cores. -/
theorem stowed_leave {s : State} {g : Nat} (h : (s.gang g).place = .resident) (why : Away) :
    Stowed (s.setGang g { s.gang g with place := .leaving why, leftAt := s.clock, carried := false, staged := s.blocksOf g }) (s.leave g why) := by
  unfold State.leave
  dsimp only
  split
  · split
    · exact stowed_trans (stowed_stowRegs ..) (stowed_tick ..)
    · exact stowed_tick ..
  · next hp => rw [h] at hp; cases hp
  · next hp => rw [h] at hp; cases hp

end Sys2Proof.Machine
end

section
/-! Words that are no instruction or cannot be fetched (02 R33, R34, R61; 11 R239; 16 R367). -/

namespace Sys2Proof.Machine

theorem unexited_congr {s t : State} {b : Nat} (hs : t.squads = s.squads)
    (hd : (t.gang (gangOfBlock b)).desc = (s.gang (gangOfBlock b)).desc) : t.unexited b = s.unexited b := by
  unfold State.unexited State.squadsOf State.squad
  rw [hs, hd]

/-- Terminating a gang, that had its ending or not: it has one, and no squad, no shape of a gang and no Pacer but for how far its
instructions in flight are has changed. -/
theorem terminate_keeps (s : State) (g : Nat) (cause : BitVec 8) (blk sq : Nat) (addr : BitVec 64) (extra : List (BitVec 64)) :
    let t := s.terminate g cause blk sq addr extra
    t.squads = s.squads ∧ (∀ k, (t.gang k).desc = (s.gang k).desc) ∧ (∀ b, t.block b = (s.block b).withFlightOf (t.block b)) ∧
    (t.gang g).term.isSome = true := by
  dsimp only
  by_cases h : (s.gang g).term = none
  · obtain ⟨hs, hg, hb⟩ := stowed_terminate h cause blk sq addr extra
    refine ⟨hs, fun k => ?_, hb, ?_⟩
    · rw [hg k]
      by_cases hk : k = g
      · subst hk; rw [gang_setGang_same]; rfl
      · rw [gang_setGang_ne _ _ _ _ hk]; rfl
    · rw [hg g, gang_setGang_same]; rfl
  · have had : (s.gang g).term.isSome = true := Option.isSome_iff_ne_none.2 h
    have same : s.terminate g cause blk sq addr extra = s := by
      unfold State.terminate
      exact if_pos had
    rw [same]
    exact ⟨rfl, fun _ => rfl, fun _ => rfl, had⟩

theorem checkDeadlock_of_none_left {s : State} {b : Nat} (h : s.unexited b = []) : s.checkDeadlock b = s := by
  unfold State.checkDeadlock
  exact if_neg (fun hd => hd.1 h)

/-- No block is in deadlock while one of its squads runs (11 R245). -/
theorem checkDeadlock_of_running {s : State} {b q : Nat} (hq : q ∈ s.unexited b) (hr : (s.squad q).run = .running) :
    s.checkDeadlock b = s := by
  unfold State.checkDeadlock
  refine if_neg (fun hd => ?_)
  have parked := List.all_eq_true.1 hd.2.1 q hq
  rw [hr] at parked
  cases parked

/-- The Pacer of a block that met a fault, before the fault is delivered. -/
def Pacer.faulted (p : Pacer) (tval : BitVec 64) (carried sub : Nat) : Pacer :=
  { p with run := .stopped, met := p.met + 1, faults := [⟨tval, p.tpc, tileTdst carried sub p.rpr, p.met + 1, none⟩] }

theorem tileFault_eq {s : State} {b : Nat} (hf : (s.block b).pacer.faults = []) (tval : BitVec 64) (carried sub : Nat) :
    s.tileFault b tval (s.block b).pacer.tpc carried sub =
      ((s.setBlock b { s.block b with pacer := (s.block b).pacer.faulted tval carried sub }).deliverTile b).checkDeadlock b := by
  unfold State.tileFault
  dsimp only
  rw [hf]
  rfl

theorem deliverTile_of_none_left {s : State} {b : Nat} {f : TileFault} {rest : List TileFault} (hf : (s.block b).pacer.faults = f :: rest)
    (hu : s.unexited b = []) :
    s.deliverTile b = (s.setBlock b { s.block b with pacer := { (s.block b).pacer with faults := rest } }).terminate (gangOfBlock b) 0x0C
      (b % 4) 0 f.tval [f.tlpc, f.tdst] := by
  unfold State.deliverTile
  dsimp only
  rw [hf, hu]

theorem deliverTile_of_find {s : State} {b q : Nat} {f : TileFault} {rest : List TileFault} (hf : (s.block b).pacer.faults = f :: rest)
    (hq : (s.unexited b).find? (fun k => (s.squad k).handler = none) = some q) :
    s.deliverTile b = (s.setBlock b { s.block b with pacer := { (s.block b).pacer with
      faults := rest, owed := (s.block b).pacer.owed + 1 } }).pendFault q ⟨tileRank, false, 0x0C, f.tval, f.tdst, some ⟨f.num, f.tlpc, f.part⟩⟩ := by
  unfold State.deliverTile
  dsimp only
  rw [hf]
  cases hu : s.unexited b with
  | nil => rw [hu] at hq; cases hq
  | cons k ks =>
    rw [hu] at hq
    dsimp only
    rw [hq]

/-- A fault of a squad that runs waits until the squad takes it (16 R308). -/
theorem pendFault_of_running {s : State} {q : Nat} (hr : (s.squad q).run = .running) (f : PendFault) :
    s.pendFault q f = s.setSquad q { s.squad q with faults := (s.squad q).faults ++ [f] } := by
  have run : ((s.setSquad q { s.squad q with faults := (s.squad q).faults ++ [f] }).squad q).run = .running := by
    rw [squad_setSquad_same]; exact hr
  unfold State.pendFault State.poke
  dsimp only
  rw [if_neg (fun h => h.1 run)]

/-- A tile fault of a block whose squads have all exited ends its gang (11 R239). -/
theorem tileFault_of_none_left {s : State} {b : Nat} (hu : s.unexited b = []) (hf : (s.block b).pacer.faults = []) (tval : BitVec 64)
    (carried sub : Nat) :
    let p := (s.block b).pacer; let t := s.tileFault b tval p.tpc carried sub
    (t.block b).pacer = { p with run := .stopped, met := p.met + 1, flight := (t.block b).pacer.flight } ∧
    (t.gang (gangOfBlock b)).term.isSome = true := by
  dsimp only
  rw [tileFault_eq hf, deliverTile_of_none_left (s := s.setBlock b _) (by rw [block_setBlock_same]; rfl) hu, setBlock_setBlock,
    block_setBlock_same]
  obtain ⟨hs, hd, hb, ht⟩ := terminate_keeps
    (s.setBlock b { s.block b with pacer := { (s.block b).pacer.faulted tval carried sub with faults := [] } }) (gangOfBlock b) 0x0C (b % 4) 0
    tval [(s.block b).pacer.tpc, tileTdst carried sub (s.block b).pacer.rpr]
  rw [checkDeadlock_of_none_left ((unexited_congr hs (hd _)).trans hu)]
  refine ⟨?_, ht⟩
  have pacer := congrArg Block.pacer (hb b)
  rw [block_setBlock_same] at pacer
  rw [pacer]
  simp only [Block.withFlightOf, Pacer.faulted, ← hf]

/-- A tile fault goes at once to the first squad that has not exited and is in no handler, which runs (11 R239). -/
theorem tileFault_delivered {s : State} {b q : Nat} (hf : (s.block b).pacer.faults = [])
    (hq : (s.unexited b).find? (fun k => (s.squad k).handler = none) = some q) (hr : (s.squad q).run = .running) (tval : BitVec 64)
    (carried sub : Nat) :
    let x := s.block b; let p := x.pacer
    s.tileFault b tval p.tpc carried sub =
      (s.setBlock b { x with pacer := { p with run := .stopped, met := p.met + 1, owed := p.owed + 1 } }).setSquad q
        { s.squad q with faults := (s.squad q).faults ++
          [⟨tileRank, false, 0x0C, tval, tileTdst carried sub p.rpr, some ⟨p.met + 1, p.tpc, none⟩⟩] } := by
  dsimp only
  have ready : q ∈ s.unexited b := List.mem_of_find?_eq_some hq
  rw [tileFault_eq hf, deliverTile_of_find (s := s.setBlock b _) (by rw [block_setBlock_same]; rfl) hq, setBlock_setBlock,
    block_setBlock_same, pendFault_of_running (s := s.setBlock b _) hr]
  have clear : { (s.block b).pacer.faulted tval carried sub with faults := [], owed := (s.block b).pacer.owed + 1 } =
      { (s.block b).pacer with run := .stopped, met := (s.block b).pacer.met + 1, owed := (s.block b).pacer.owed + 1 } := by
    rw [← hf]; rfl
  rw [show ((s.block b).pacer.faulted tval carried sub).owed = (s.block b).pacer.owed from rfl, clear]
  refine checkDeadlock_of_running (q := q) ?_ ?_
  · refine List.mem_filter.2 ⟨(List.mem_filter.1 ready).1, ?_⟩
    rw [squad_setSquad_same]
    simp [Squad.exited, hr]
  · rw [squad_setSquad_same]; exact hr

/-- LCNT of a squad recorded, where it has a LANE that no trap interrupted. -/
def State.lcntRecorded (s : State) (q : Nat) : State :=
  let x := s.squad q
  if x.lane.isSome ∧ x.handler = none then s.setSquad q { x with lcnt := LaneRun.count x.lane } else s

theorem lcntRecorded_keeps (s : State) (q : Nat) :
    (s.lcntRecorded q).gangs = s.gangs ∧ ((s.lcntRecorded q).squad q).pc = (s.squad q).pc ∧
    ((s.lcntRecorded q).squad q).lpc = (s.squad q).lpc ∧ ((s.lcntRecorded q).squad q).run = (s.squad q).run := by
  unfold State.lcntRecorded
  dsimp only
  split
  · rw [squad_setSquad_same]; exact ⟨rfl, rfl, rfl, rfl⟩
  · exact ⟨rfl, rfl, rfl, rfl⟩

/-- A gang's cores are left for the repair of what a fetch met, its squads standing where they stood (16 R367). -/
theorem uncorrectableFetch_leaves {s : State} {unit : Nat} (h : (s.gangOf unit).place = .resident) (pa : Nat) :
    ∃ t, exec (.uncorrectableFetch unit pa) s = .next t ∧ (t.gangOf unit).place = .leaving (.repair false) ∧
      (t.squad unit).pc = (s.squad unit).pc ∧ (t.squad unit).lpc = (s.squad unit).lpc ∧ (t.squad unit).run = (s.squad unit).run := by
  obtain ⟨gangs, pc, lpc, run⟩ := lcntRecorded_keeps s unit
  obtain ⟨rs, rg, -⟩ := stowed_gangReport (s.lcntRecorded unit) (gangOfSquad unit) kindBadFetch 0 (blkidOfSquad unit) (sqidOf unit)
    (BitVec.ofNat 64 pa) []
  have resident := congrArg Gang.place (rg (gangOfSquad unit))
  have same : (s.lcntRecorded unit).gang (gangOfSquad unit) = s.gang (gangOfSquad unit) := by unfold State.gang; rw [gangs]
  rw [same] at resident
  obtain ⟨ls, lg, -⟩ := stowed_leave (resident.trans h) (.repair false)
  have place := congrArg Gang.place (lg (gangOfSquad unit))
  rw [gang_setGang_same] at place
  have squad : (((s.lcntRecorded unit).gangReport (gangOfSquad unit) kindBadFetch 0 (blkidOfSquad unit) (sqidOf unit)
      (BitVec.ofNat 64 pa) []).leave (gangOfSquad unit) (.repair false)).squad unit = (s.lcntRecorded unit).squad unit := by
    unfold State.squad
    rw [ls, setGang_squads, rs]
  exact ⟨_, rfl, place, (congrArg Squad.pc squad).trans pc, (congrArg Squad.lpc squad).trans lpc, (congrArg Squad.run squad).trans run⟩

/-- A delivered tile fault changes its block's Pacer and the squad that has it pending, and nothing else. -/
theorem tileFault_pends {s : State} {b q : Nat} (hf : (s.block b).pacer.faults = [])
    (hq : (s.unexited b).find? (fun k => (s.squad k).handler = none) = some q) (hr : (s.squad q).run = .running) (tval : BitVec 64)
    (carried sub : Nat) :
    let p := (s.block b).pacer; let t := s.tileFault b tval p.tpc carried sub
    (t.block b).pacer = { p with run := .stopped, met := p.met + 1, owed := p.owed + 1 } ∧
    t.squad q = { s.squad q with faults := (s.squad q).faults ++
      [⟨tileRank, false, 0x0C, tval, tileTdst carried sub p.rpr, some ⟨p.met + 1, p.tpc, none⟩⟩] } ∧
    SameSquadsBut q s t ∧ SameBytes s t := by
  dsimp only
  rw [tileFault_delivered hf hq hr]
  exact ⟨by rw [block_setSquad, block_setBlock_same], squad_setSquad_same .., fun k hk => squad_setSquad_ne _ _ _ _ hk, fun _ => rfl⟩

/-- Settles O17: a trap taken, a tile fault ending the gang or pending in a squad, a gang leaving, one law each. -/
theorem badWords : Obligations.BadWords := by
  intro s
  refine ⟨fun h hr => ⟨fun w => ?_, fun w => ?_, fun c pc hc => ⟨?_, ?_⟩⟩, ⟨fun w hu hf => ?_, fun w q hf hq hrun => ?_,
    fun c pc q hc hf hq hrun => ?_⟩, fun unit pa hp => uncorrectableFetch_leaves hp pa⟩
  · exact ⟨_, rfl, trapS_took h 0x01 (w.setWidth 64) tdstNone⟩
  · have fresh : { s.sq with replay := none } = s.sq := by rw [← hr]
    have took := trapL_took (canTrap_setSq_self h) (by rw [sq_setSq]; exact hr) 0 0x01 0 (badLaneTval w) tdstNone
    rw [sq_setSq, if_pos rfl, badLaneTval_eq] at took
    refine ⟨(s.setSq { s.sq with replay := none }).trapL 0 0x01 0 (badLaneTval w) tdstNone, rfl, ?_⟩
    rw [fresh, badLaneTval_eq]
    exact tookTrap_of_setSq_self took
  · exact ⟨_, if_neg hc, trapS_took h c pc tdstNone⟩
  · have took := trapL_took h hr 0 c s.sq.pendingTlm pc tdstNone
    have none : s.sq.pendingTlm = 0 := by simp [Squad.pendingTlm, hr]
    rw [if_pos rfl, none] at took
    refine ⟨s.trapL 0 c s.sq.pendingTlm pc tdstNone, if_neg hc, ?_⟩
    rw [none]
    exact took
  · exact ⟨_, rfl, tileFault_of_none_left hu hf w 0x0C 1⟩
  · exact ⟨_, rfl, tileFault_pends hf hq hrun w 0x0C 1⟩
  · exact ⟨_, if_neg hc, tileFault_pends hf hq hrun pc c.toNat 5⟩

end Sys2Proof.Machine
end

section
/-! O21 fails in a state with two writes of one serial: what a load's hit is measured by is asked again once the load has been
observed. -/

namespace Sys2Proof.Machine

/-- A load of a pair of registers that was issued as an L1 hit. -/
def twinLoad : Outst := ⟨0, 0x10000, false, .ordinary, 0, .load ⟨0, 8, 0, true⟩ false (.vpair 0 1), 0, some 0, 0, 0, 0x1800, []⟩

/-- Two writes of byte 0, a store of the squad's own block, which the line holds, and another block's, which it does not hold; both
have serial 1, so that the squad has seen both once it has read the first. -/
def twinState : State := { withSq wLine (fun x => { x with out := [twinLoad] }) with
  hist := [⟨1, [(0, 0)], .squad 0, true, [], [], []⟩, ⟨1, [(0, 0)], .squad 64, false, [], [], []⟩] }

theorem mayWrite_twinState : MayWrite twinState 0 0 twinLoad :=
  ⟨rfl, by decide, by decide, quiet_of _ rfl rfl rfl, .inl rfl⟩

theorem twinState_hits : twinState.hitNow 0 twinLoad ⟨0, 8, 0, true⟩ = some ⟨0, 0, [(0, 5)], 0, []⟩ := by decide

/-- The two registers of the pair are measured as reads of DRAM. -/
theorem twinState_meters : ((run1 (.variableResultWriteback 0 0 0) twinState).squad 0).out.map (·.meter) = [some 3, some 3] := by decide

/-- Refutes O21: the load hits its line, and its pair of results should be measured as that hit; but reading the first write makes the
squad see its twin, which the line does not hold, and the results are measured as if the line were gone. -/
theorem not_resultWriteback : ¬ Obligations.ResultWriteback := by
  intro holds
  obtain ⟨-, loads, -⟩ := holds twinState 0 0 0 twinLoad mayWrite_twinState
  obtain ⟨t, ran, -, -, -, hits, -⟩ := loads ⟨0, 8, 0, true⟩ false (.vpair 0 1) rfl
  obtain ⟨rest, stay, after⟩ := hits _ twinState_hits
  have none_left : rest = [] := by
    cases stay
    rfl
  have meters : (t.squad 0).out.map (·.meter) = [some 0, some 0] := by
    rw [after, none_left]
    rfl
  have run : run1 (.variableResultWriteback 0 0 0) twinState = t := by
    unfold run1
    rw [ran]
  rw [← run, twinState_meters] at meters
  cases meters

end Sys2Proof.Machine
end

section
/-! Performing an outstanding result (02 R45, R46): what every kind of it leaves alike. -/

namespace Sys2Proof.Machine

-- The squad's record ---------------------------------------------------------------------------------------------------------

/-- Results that stay as result o is performed, which gave its squad ks to see (10 R215). -/
def passedOn (o : Outst) (ks : List Seen) (xs : List Outst) : List Outst :=
  xs.map (fun e => if o.word < e.word ∧ e.ord ≠ .ordinary then { e with seen := e.seen ++ ks } else e)

theorem passedOn_append (o : Outst) (ks : List Seen) (xs ys : List Outst) :
    passedOn o ks (xs ++ ys) = passedOn o ks xs ++ passedOn o ks ys := List.map_append

theorem passedOn_nil (o : Outst) (xs : List Outst) : passedOn o [] xs = xs := by
  unfold passedOn
  rw [List.map_id'' (fun e => by split <;> simp)]

theorem passedOn_of_le {o : Outst} {ks : List Seen} {xs : List Outst} (h : ∀ e ∈ xs, e.word ≤ o.word) : passedOn o ks xs = xs := by
  unfold passedOn
  conv_rhs => rw [← List.map_id xs]
  exact List.map_congr_left (fun e he => if_neg (fun hw => absurd (h e he) (by omega)))

theorem stay_passedOn (o : Outst) (ks : List Seen) (xs : List Outst) : Stay o xs (passedOn o ks xs) := by
  unfold Stay passedOn
  rw [List.forall₂_map_right_iff, List.forall₂_same]
  intro e _
  split
  · next h =>
    refine ⟨rfl, fun k hk => List.mem_append_left _ hk, fun hno => ?_⟩
    rcases hno with hord | hword
    · exact absurd hord h.2
    · omega
  · exact ⟨rfl, fun _ hk => hk, fun _ => rfl⟩

theorem passedOn_any_word (o : Outst) (ks : List Seen) (xs : List Outst) :
    (passedOn o ks xs).any (fun e => e.word = o.word) = xs.any (fun e => e.word = o.word) := by
  unfold passedOn
  rw [List.any_map]
  congr 1
  funext e
  dsimp only [Function.comp]
  split <;> rfl

/-- The squad y, from whose results o is gone, once o is performed: what o gave it to see goes to its later results, the last of o's
word brings the word's flags, and a squad parked goes on when nothing is left (02 R46; 06 R140; 10 R215). -/
def Squad.written (y : Squad) (o : Outst) (ks : List Seen) : Squad :=
  { y with
    out := passedOn o ks y.out
    fflags := if y.out.any (fun e => e.word = o.word) then y.fflags else y.fflags ||| o.flags
    run := if y.out = [] then .running else y.run }

-- The machine beside it ---------------------------------------------------------------------------------------------------------

/-- The squads beside q, the gangs and the Pacers of t are those of s. -/
structure Apart (q : Nat) (s t : State) : Prop where
  squads : ∀ p, p ≠ q → t.squad p = s.squad p
  gangs : t.gangs = s.gangs
  pacers : ∀ b, (t.block b).pacer = (s.block b).pacer

theorem apart_trans {q : Nat} {s t u : State} (h : Apart q s t) (k : Apart q t u) : Apart q s u :=
  ⟨fun p hp => (k.squads p hp).trans (h.squads p hp), k.gangs.trans h.gangs, fun b => (k.pacers b).trans (h.pacers b)⟩

/-- Memory and the record of its order are those of s as well. -/
structure Beside (q : Nat) (s t : State) : Prop extends Apart q s t where
  mem : t.mem = s.mem
  hist : t.hist = s.hist
  writes : t.writes = s.writes

theorem beside_of_eq {q : Nat} {s t : State} (hs : ∀ p, p ≠ q → t.squad p = s.squad p) (hg : t.gangs = s.gangs) (hb : t.blocks = s.blocks)
    (hm : t.mem = s.mem) (hh : t.hist = s.hist) (hw : t.writes = s.writes) : Beside q s t :=
  ⟨⟨hs, hg, fun b => by unfold State.block; rw [hb]⟩, hm, hh, hw⟩

theorem beside_refl (q : Nat) (s : State) : Beside q s s := beside_of_eq (fun _ _ => rfl) rfl rfl rfl rfl rfl

theorem beside_trans {q : Nat} {s t u : State} (h : Beside q s t) (k : Beside q t u) : Beside q s u :=
  ⟨apart_trans h.toApart k.toApart, k.mem.trans h.mem, k.hist.trans h.hist, k.writes.trans h.writes⟩

theorem beside_setSquad (q : Nat) (s : State) (x : Squad) : Beside q s (s.setSquad q x) :=
  beside_of_eq (fun p hp => squad_setSquad_ne s q p x hp) rfl rfl rfl rfl rfl

theorem beside_setRet (q : Nat) (s : State) (r : Nat) (x : Reticle) : Beside q s (s.setRet r x) :=
  beside_of_eq (fun _ _ => rfl) rfl rfl rfl rfl rfl

theorem beside_setL1 (q : Nat) (s : State) (b : Nat) (l1 : List L1Line) : Beside q s (s.setBlock b { s.block b with l1 := l1 }) := by
  refine ⟨⟨fun _ _ => rfl, rfl, fun c => ?_⟩, rfl, rfl, rfl⟩
  by_cases hc : c = b
  · subst hc; rw [block_setBlock_same]
  · rw [block_setBlock_ne _ _ _ _ hc]

theorem beside_dropL1 (q : Nat) (s : State) (b : Nat) : Beside q s (s.dropL1 b) := by
  unfold State.dropL1
  dsimp only
  split
  · exact beside_refl q s
  · exact beside_setL1 q s b []

theorem beside_passOn (q : Nat) (s : State) (word : Nat) (ks : List Seen) : Beside q s (s.passOn q word ks) := by
  unfold State.passOn
  split
  · exact beside_refl q s
  · exact beside_setSquad q s _

theorem squad_passOn (s : State) (q : Nat) (o : Outst) (ks : List Seen) :
    (s.passOn q o.word ks).squad q = { s.squad q with out := passedOn o ks (s.squad q).out } := by
  unfold State.passOn
  split
  · next h => rw [h, passedOn_nil]
  · exact squad_setSquad_same s q _

theorem settle_of_running {s : State} {q : Nat} (hr : (s.squad q).run = .running) : s.settle q = s := by
  unfold State.settle
  dsimp only
  rw [hr]
  split <;> rfl

theorem settle_of_parked {s : State} {q : Nat} (hr : (s.squad q).run = .parked) :
    s.settle q = if (s.squad q).out = [] then s.setSquad q { s.squad q with run := .running } else s := by
  unfold State.settle
  dsimp only
  rw [hr]

/-- A squad that runs, or is parked for its results, runs once none is left (02 R46). -/
theorem squad_settle {s : State} {q : Nat} (hr : (s.squad q).run = .running ∨ (s.squad q).run = .parked) :
    (s.settle q).squad q = { s.squad q with run := if (s.squad q).out = [] then .running else (s.squad q).run } := by
  rcases hr with hr | hr
  · rw [settle_of_running hr, hr, ite_self, ← hr]
  · rw [settle_of_parked hr]
    split
    · exact squad_setSquad_same s q _
    · rfl

theorem beside_settle {s : State} {q : Nat} (hr : (s.squad q).run = .running ∨ (s.squad q).run = .parked) : Beside q s (s.settle q) := by
  rcases hr with hr | hr
  · rw [settle_of_running hr]
    exact beside_refl q s
  · rw [settle_of_parked hr]
    split
    · exact beside_setSquad q s _
    · exact beside_refl q s

/-- The flags of a word come with the last of its results (06 R140). -/
def State.flagged (s : State) (q : Nat) (o : Outst) : State :=
  let y := s.squad q
  if !(y.out.any (fun e => e.word = o.word)) then s.setSquad q { y with fflags := y.fflags ||| o.flags } else s

theorem squad_flagged (s : State) (q : Nat) (o : Outst) :
    (s.flagged q o).squad q = { s.squad q with
      fflags := if (s.squad q).out.any (fun e => e.word = o.word) then (s.squad q).fflags else (s.squad q).fflags ||| o.flags } := by
  unfold State.flagged
  dsimp only
  cases (s.squad q).out.any (fun e => e.word = o.word)
  · exact squad_setSquad_same s q _
  · rfl

theorem beside_flagged (s : State) (q : Nat) (o : Outst) : Beside q s (s.flagged q o) := by
  unfold State.flagged
  dsimp only
  split
  · exact beside_setSquad q s _
  · exact beside_refl q s

/-- What an acquire drops and a Stopwatch counts as a result is performed (09 R190; 18 R337); s is the state before it. -/
def State.measured (u s : State) (q cycles : Nat) (o : Outst) (last : Bool) : State :=
  let v := if o.ord.acquires && 3 ≤ o.scope then u.dropL1 (blockOfSquad q) else u
  match o.meter with
  | some src => if last then v.capture (v.retOf q) (s.source q o src) (v.coreNo (blockOfSquad q)) cycles else v
  | none => v

theorem beside_acquireDrops (u : State) (q : Nat) (o : Outst) :
    let v := if o.ord.acquires && 3 ≤ o.scope then u.dropL1 (blockOfSquad q) else u
    Beside q u v ∧ v.squads = u.squads := by
  dsimp only
  split
  · exact ⟨beside_dropL1 q u _, dropL1_squads u _⟩
  · exact ⟨beside_refl q u, rfl⟩

theorem beside_capture (q : Nat) (s : State) (r src sel v : Nat) : Beside q s (s.capture r src sel v) := beside_setRet q s r _

/-- Neither touches a squad. -/
theorem beside_measured (u s : State) (q cycles : Nat) (o : Outst) (last : Bool) :
    Beside q u (u.measured s q cycles o last) ∧ (u.measured s q cycles o last).squads = u.squads := by
  obtain ⟨drops, squads⟩ := beside_acquireDrops u q o
  unfold State.measured
  dsimp only
  split
  · split
    · exact ⟨beside_trans drops (beside_capture q _ _ _ _ _), squads⟩
    · exact ⟨drops, squads⟩
  · exact ⟨drops, squads⟩

theorem perform_eq {s : State} {q k : Nat} {o : Outst} (ho : (s.squad q).out[k]? = some o) (cycles : Nat) :
    let s0 := (s.setSquad q { s.squad q with out := listDel (s.squad q).out k }).performKind q o
    let s1 := s0.passOn q o.word ((s0.seenBy (.squad q)).filter (fun e => !((s.seenBy (.squad q)).contains e)))
    s.perform q k cycles =
      ((s1.flagged q o).measured s q cycles o (!((s1.squad q).out.any (fun e => e.word = o.word)))).settle q := by
  unfold State.perform
  rw [ho]
  rfl

/-- What the squad's record and the machine are after result k is performed, s0 being the state its own effect leaves. -/
theorem perform_ends {s : State} {q k : Nat} {o : Outst} (ho : (s.squad q).out[k]? = some o) (cycles : Nat) :
    let s0 := (s.setSquad q { s.squad q with out := listDel (s.squad q).out k }).performKind q o
    let t := s.perform q k cycles
    ((s0.squad q).run = .running ∨ (s0.squad q).run = .parked) →
    t.squad q = (s0.squad q).written o ((s0.seenBy (.squad q)).filter (fun e => !((s.seenBy (.squad q)).contains e))) ∧ Beside q s0 t := by
  intro s0 t hr
  have ht : t = _ := perform_eq ho cycles
  let s1 := s0.passOn q o.word ((s0.seenBy (.squad q)).filter (fun e => !((s.seenBy (.squad q)).contains e)))
  obtain ⟨beside, squads⟩ := beside_measured (s1.flagged q o) s q cycles o (!((s1.squad q).out.any (fun e => e.word = o.word)))
  have squad : ((s1.flagged q o).measured s q cycles o (!((s1.squad q).out.any (fun e => e.word = o.word)))).squad q = { s0.squad q with
      out := passedOn o ((s0.seenBy (.squad q)).filter (fun e => !((s.seenBy (.squad q)).contains e))) (s0.squad q).out
      fflags := if (s0.squad q).out.any (fun e => e.word = o.word) then (s0.squad q).fflags else (s0.squad q).fflags ||| o.flags } := by
    rw [State.squad, squads, ← State.squad, squad_flagged, squad_passOn, passedOn_any_word]
  have hr' : ∀ r, (s0.squad q).run = r → (((s1.flagged q o).measured s q cycles o
      (!((s1.squad q).out.any (fun e => e.word = o.word)))).squad q).run = r := fun r h => by rw [squad]; exact h
  rw [ht]
  refine ⟨?_, beside_trans (beside_trans (beside_trans (beside_passOn q s0 _ _) (beside_flagged s1 q o)) beside)
    (beside_settle (hr.imp (hr' _) (hr' _)))⟩
  rw [squad_settle (hr.imp (hr' _) (hr' _)), squad]
  simp only [Squad.written, passedOn, List.map_eq_nil_iff]

end Sys2Proof.Machine
end

section
/-! Barriers that nobody waits at (11 R243, R245): they leave the machine as it is. -/

namespace Sys2Proof.Machine

theorem releaseSquads_quiet {s : State} {qs : List Nat} (h : ∀ q ∈ qs, ∀ k, (s.squad q).run ≠ .barrier k) : s.releaseSquads qs = s := by
  induction qs with
  | nil => rfl
  | cons q rest ih =>
    have stays : s.releaseSquads [q] = s := by
      change (match (s.squad q).run with | .barrier k => _ | _ => s) = s
      cases hr : (s.squad q).run with
      | barrier k => exact absurd hr (h q List.mem_cons_self k)
      | _ => rfl
    calc s.releaseSquads (q :: rest) = (s.releaseSquads [q]).releaseSquads rest := rfl
      _ = s := by rw [stays]; exact ih (fun p hp => h p (List.mem_cons_of_mem _ hp))

theorem releasePacer_quiet {s : State} {b : Nat} (h : ∀ k m, (s.block b).pacer.run ≠ .barrier k m) (word : BitVec 64) :
    s.releasePacer b word = s := by
  unfold State.releasePacer
  dsimp only
  cases hr : (s.block b).pacer.run with
  | barrier k m => exact absurd hr (h k m)
  | _ => rfl

/-- No block is in deadlock while none of its squads is parked in a barrier (11 R245). -/
theorem checkDeadlock_quiet {s : State} {b : Nat} (h : ∀ q ∈ s.squadsOf b, ∀ k, (s.squad q).run ≠ .barrier k) : s.checkDeadlock b = s := by
  cases hu : s.unexited b with
  | nil => exact checkDeadlock_of_none_left hu
  | cons q rest =>
    have hq : q ∈ s.unexited b := hu ▸ List.mem_cons_self
    unfold State.checkDeadlock
    refine if_neg (fun hd => ?_)
    have parked := List.all_eq_true.1 hd.2.1 q hq
    cases hr : (s.squad q).run with
    | barrier k => exact h q (List.mem_filter.1 hq).1 k hr
    | _ => rw [hr] at parked; cases parked

theorem barriers_quiet {s : State} {b : Nat} (h : QuietBlock s b) : s.barriers b = s := by
  obtain ⟨squads, pacer⟩ := h
  unfold State.barriers
  dsimp only
  rw [releaseSquads_quiet squads, releasePacer_quiet pacer, checkDeadlock_quiet squads]

/-- A block is as quiet after what changes only squad q beside it, which waits at no barrier then. -/
theorem quietBlock_apart {q b : Nat} {s t : State} (h : QuietBlock s b) (hb : Apart q s t) (hr : ∀ k, (t.squad q).run ≠ .barrier k) :
    QuietBlock t b := by
  obtain ⟨squads, pacer⟩ := h
  refine ⟨fun p hp k => ?_, fun k m => ?_⟩
  · have hp' : p ∈ s.squadsOf b := by
      unfold State.squadsOf State.gang at hp ⊢
      rwa [hb.gangs] at hp
    by_cases hpq : p = q
    · subst hpq; exact hr k
    · rw [hb.squads p hpq]; exact squads p hp' k
  · rw [hb.pacers b]; exact pacer k m

end Sys2Proof.Machine
end

section
/-! A result's writeback (02 R45, R46), from what its own effect leaves. -/

namespace Sys2Proof.Machine

/-- Result k taken out of squad q's list, to be performed. -/
def State.without (s : State) (q k : Nat) : State :=
  s.setSquad q { s.squad q with out := (s.squad q).out.take k ++ (s.squad q).out.drop (k + 1) }

theorem squad_without (s : State) (q k : Nat) :
    (s.without q k).squad q = { s.squad q with out := (s.squad q).out.take k ++ (s.squad q).out.drop (k + 1) } := squad_setSquad_same s q _

theorem beside_without (s : State) (q k : Nat) : Beside q s (s.without q k) := beside_setSquad q s _

/-- A result that may be written is performed, and leaves what perform_ends says of the state that its own effect leaves, u. -/
theorem writeback_ends {s u : State} {q k : Nat} {o : Outst} (h : MayWrite s q k o) (cycles : Nat)
    (hu : (s.without q k).performKind q o = u)
    (ha : Apart q s u) (hr : (u.squad q).run = (s.squad q).run) :
    ∃ t, exec (.variableResultWriteback q k cycles) s = .next t ∧ SameSquadsBut q s t ∧ Beside q u t ∧
      t.squad q = (u.squad q).written o ((u.seenBy (.squad q)).filter (fun e => !((s.seenBy (.squad q)).contains e))) := by
  obtain ⟨ho, hcan, hbad, quiet, run⟩ := h
  obtain ⟨squad, beside⟩ : (s.perform q k cycles).squad q =
      (u.squad q).written o ((u.seenBy (.squad q)).filter (fun e => !((s.seenBy (.squad q)).contains e))) ∧
      Beside q u (s.perform q k cycles) := by
    subst hu
    exact perform_ends ho cycles (hr ▸ run)
  have apart := apart_trans ha beside.toApart
  have awake : ∀ n, ((s.perform q k cycles).squad q).run ≠ .barrier n := by
    intro n hn
    rw [squad] at hn
    unfold Squad.written at hn
    dsimp only at hn
    split at hn
    · cases hn
    · rw [hr] at hn
      rcases run with run | run <;> rw [run] at hn <;> cases hn
  refine ⟨s.perform q k cycles, ?_, apart.squads, beside, squad⟩
  change execVariableResultWriteback q k cycles s = _
  unfold execVariableResultWriteback
  rw [if_pos ⟨hcan, hbad⟩, barriers_quiet (quietBlock_apart quiet apart awake)]

/-- The squad after a result that wrote its destination only, and what its access has read from. -/
theorem resultWritten_written {x y : Squad} {k : Nat} {o : Outst} (ks : List Seen)
    (hy : y = { x with out := x.out.take k ++ x.out.drop (k + 1), sregs := y.sregs, vregs := y.vregs, pend := y.pend }) :
    ResultWritten x (y.written o ks) k o := by
  have out : y.out = x.out.take k ++ x.out.drop (k + 1) := by rw [hy]
  refine ⟨?_, ?_, ?_, ?_⟩
  · rw [← out]; exact stay_passedOn o ks y.out
  · rw [show (y.written o ks).out = passedOn o ks y.out from rfl, passedOn_any_word]
    rw [hy]; rfl
  · have nil : (y.written o ks).out = [] ↔ y.out = [] := List.map_eq_nil_iff
    simp only [nil]
    rw [hy]; rfl
  · rw [hy]; rfl

theorem putsValue_none (x y : Squad) (hs : y.sregs = x.sregs) (hv : y.vregs = x.vregs) (v : BitVec 64) : PutsValue x y .none v := by
  refine ⟨fun c => ?_, fun c => ?_⟩
  · rw [hs, if_neg (by simp)]
  · rw [hv]

theorem slice_low32 (v : BitVec 64) : slice v 0 32 = v.setWidth 32 := by
  unfold slice
  exact BitVec.eq_of_toNat_eq (by simp)

theorem putsValue_put (x : Squad) (d : Dst) (v : BitVec 64) : PutsValue x (x.put d v) d v := by
  cases d with
  | none => exact putsValue_none x x rfl rfl v
  | sreg k =>
    refine ⟨fun c => ?_, fun _ => rfl⟩
    change cellGet (cellPut x.sregs k v) c = _
    rw [cellGet_cellPut]
    by_cases h : c = k
    · subst h; simp
    · rw [if_neg h, if_neg (by simpa using Ne.symm h)]
  | vreg k =>
    refine ⟨fun c => (if_neg (by simp)).symm, fun c => ?_⟩
    change cellGet (cellPut x.vregs k (slice v 0 32)) c = _
    rw [cellGet_cellPut, slice_low32]
  | vpair lo hi =>
    refine ⟨fun c => (if_neg (by simp)).symm, fun c => ?_⟩
    change cellGet (cellPut (cellPut x.vregs lo (slice v 0 32)) hi (slice v 32 32)) c = _
    rw [cellGet_cellPut, cellGet_cellPut, slice_low32]
    rfl

theorem put_frame (x : Squad) (d : Dst) (v : BitVec 64) : x.put d v = { x with sregs := (x.put d v).sregs, vregs := (x.put d v).vregs } := by
  cases d <;> rfl

end Sys2Proof.Machine
end

section
/-! A squad's write at its home (10 R208, R209, R213 to R215): its bytes, its place in the coherence order, what its squad takes. -/

namespace Sys2Proof.Machine

-- The bytes -----------------------------------------------------------------------------------------------------------------

theorem stores_of_mem {s t : State} {a n v : Nat} (h : t.mem = cellPutList s.mem a (numBytes n v)) : Stores s t a n v := by
  intro x
  unfold State.byte
  rw [h, cellGet_cellPutList, numBytes_length]
  split
  · next hx => exact numBytes_getD n v (x - a) (by omega)
  · rfl

/-- The low bytes of a value are those of the value. -/
theorem stores_mod {s t : State} {a n v : Nat} (h : Stores s t a n (v % 2 ^ (8 * n))) : Stores s t a n v := by
  intro x
  rw [h x]
  split
  · next hx =>
    obtain ⟨d, hd⟩ : ∃ d, n = (x - a) + (d + 1) := ⟨n - (x - a) - 1, by omega⟩
    have pow : 2 ^ (8 * n) = 256 ^ (x - a) * 256 ^ (d + 1) := by rw [← pow_add, ← hd, pow_mul]; norm_num
    apply BitVec.eq_of_toNat_eq
    rw [BitVec.toNat_ofNat, BitVec.toNat_ofNat, pow, Nat.mod_mul_right_div_self]
    exact Nat.mod_mod_of_dvd _ (Dvd.intro_left (256 ^ d) rfl)
  · rfl

-- Its place in the order -------------------------------------------------------------------------------------------------------

theorem recall_frame (s : State) (a : Nat) : s.recall a = { s with rets := (s.recall a).rets } := by
  unfold State.recall
  dsimp only
  split
  · split <;> rfl
  · rfl

theorem checkStorage_frame (s : State) (a : Nat) : s.checkStorage a = { s with stop := (s.checkStorage a).stop } := by
  unfold State.checkStorage
  split <;> rfl

/-- The record of a write of n bytes at a by squad q, before any party but its own has seen it. -/
def State.writeBy (s : State) (q : Nat) (store : Bool) (heads : List Head) (a n : Nat) : Write :=
  ⟨s.writes + 1, ((List.range n).map (a + ·)).map (fun i => (i, s.byte i)), .squad q, store, heads, [⟨.squad q, a, n⟩], []⟩

theorem homeWrite_frame (s : State) (q : Nat) (store : Bool) (heads : List Head) (a n v : Nat) :
    let t := s.homeWrite (.squad q) store heads a n v
    t = { s with stop := t.stop, rets := t.rets, mem := cellPutList s.mem a (numBytes n v), writes := s.writes + 1,
                 hist := s.writeBy q store heads a n :: s.hist } := by
  unfold State.homeWrite
  rw [recall_frame, checkStorage_frame]
  rfl

theorem tabGet?_map_range {α : Type} (f : Nat → α) (a n i : Nat) :
    tabGet? (((List.range n).map (a + ·)).map (fun j => (j, f j))) i = if a ≤ i ∧ i < a + n then some (f i) else none := by
  rw [← List.range'_eq_map_range]
  induction n generalizing a with
  | zero => rw [if_neg (by omega)]; rfl
  | succ n ih =>
    rw [List.range'_succ, List.map_cons, tabGet?, ih]
    by_cases h : a = i
    · subst h; rw [if_pos rfl, if_pos (by omega)]
    · rw [if_neg h]
      simp only [show (a + 1 ≤ i ∧ i < a + 1 + n) ↔ (a ≤ i ∧ i < a + (n + 1)) by omega]

/-- The write is the newest of its bytes, whatever its squad has seen since (10 R209). -/
theorem performed_writeBy {s u t : State} {q a n : Nat} {store : Bool} {heads : List Head}
    (hu : u.hist = s.writeBy q store heads a n :: s.hist) (hl : OnlyLearns u t (.squad q)) (hw : t.writes = s.writes + 1) :
    Performed s t q a n := by
  unfold OnlyLearns at hl
  rw [hu] at hl
  obtain ⟨e, rest, he, hrest, ht⟩ := List.forall₂_cons_left_iff.1 hl
  obtain ⟨same, keeps, -⟩ := he
  refine ⟨e, rest, ht, by rw [same]; rfl, by rw [same]; rfl, hw, fun i => ?_, keeps _ List.mem_cons_self, ?_⟩
  · rw [same]; exact tabGet?_map_range s.byte a n i
  · refine List.forall₂_eq_eq_eq ▸ ?_
    rw [List.forall₂_map_left_iff, List.forall₂_map_right_iff]
    exact hrest.flip.imp (fun f e hf => by rw [hf.1])

-- The block's L1 -------------------------------------------------------------------------------------------------------------------

theorem beside_dropSynonyms (q : Nat) (s : State) (b addr : Nat) (va : BitVec 64) :
    Beside q s (s.dropSynonyms b addr va) ∧ (s.dropSynonyms b addr va).squads = s.squads := by
  unfold State.dropSynonyms
  dsimp only
  split
  · exact ⟨beside_setL1 q s b _, rfl⟩
  · exact ⟨beside_refl q s, rfl⟩

theorem beside_updateL1 (q : Nat) (s : State) (b : Nat) (l : Loc) (v : Nat) :
    Beside q s (s.updateL1 b l v) ∧ (s.updateL1 b l v).squads = s.squads := by
  unfold State.updateL1
  dsimp only
  split
  · exact ⟨beside_setL1 q s b _, rfl⟩
  · exact ⟨beside_refl q s, rfl⟩

theorem beside_storeL1 (q : Nat) (s : State) (b : Nat) (l : Loc) (v : Nat) :
    Beside q s (s.storeL1 b l v) ∧ (s.storeL1 b l v).squads = s.squads := by
  unfold State.storeL1
  split
  · obtain ⟨drops, same⟩ := beside_dropSynonyms q s b l.addr l.va
    obtain ⟨updates, same'⟩ := beside_updateL1 q (s.dropSynonyms b l.addr l.va) b l v
    exact ⟨beside_trans drops updates, same'.trans same⟩
  · exact ⟨beside_refl q s, rfl⟩

-- What the squad takes -----------------------------------------------------------------------------------------------------------------

/-- Of the machine t differs in what squad q has seen and may acquire later. -/
structure Takes (q : Nat) (s t : State) : Prop where
  frame : t = { s with hist := t.hist, squads := t.squads }
  squads : SameSquadsBut q s t
  learns : OnlyLearns s t (.squad q)
  squad : t.squad q = { s.squad q with pend := (t.squad q).pend }

theorem takes_of_learns {q : Nat} {s t : State} (h : Learns s t (.squad q)) : Takes q s t := by
  obtain ⟨frame, learns⟩ := h
  have squad : ∀ p, t.squad p = s.squad p := fun p => by rw [frame, squad_setHist]
  refine ⟨?_, fun p _ => squad p, learns, by rw [squad q]⟩
  rw [show t.squads = s.squads by rw [frame]; rfl]
  exact frame

theorem takes_apart {q : Nat} {s t : State} (h : Takes q s t) : Apart q s t := by
  refine ⟨h.squads, by rw [h.frame], fun b => ?_⟩
  rw [h.frame]
  rfl

theorem takes_pend {q : Nat} {s t : State} (h : Takes q s t) (p : List (Nat × Head)) :
    Takes q s (t.setSquad q { t.squad q with pend := p }) := by
  obtain ⟨frame, squads, learns, squad⟩ := h
  refine ⟨?_, fun r hr => (squad_setSquad_ne t q r _ hr).trans (squads r hr), learns, ?_⟩
  · conv_lhs => rw [frame]
    rfl
  · rw [squad_setSquad_same, squad]

/-- A strong access that reads from releases takes them at once, or leaves them for the next acquire FENCE (10 R214). -/
theorem takes_takeHeads (s : State) (q : Nat) (o : Outst) (hs : List Head) : Takes q s (s.takeHeads q o hs) := by
  have acquires : ∀ sc ks, Takes q s (s.acquire (.squad q) sc ks) := fun sc ks => takes_of_learns (learns_acquire s (.squad q) sc ks)
  have leaves : ∀ t, Takes q s t → ∀ new, Takes q s
      (if new = [] then t else t.setSquad q { t.squad q with pend := (t.squad q).pend ++ new }) := by
    intro t ht new
    split
    · exact ht
    · exact takes_pend ht _
  unfold State.takeHeads
  cases o.ord with
  | ordinary => exact takes_of_learns (learns_refl s (.squad q))
  | acquire => exact acquires _ _
  | acqrel => exact acquires _ _
  | relaxed => exact leaves _ (acquires _ _) _
  | release => exact leaves _ (acquires _ _) _

end Sys2Proof.Machine
end

section
/-! What performing a store, an acknowledgement or an atomic leaves (02 R45; 09 R199, R200; 10 R208). -/

namespace Sys2Proof.Machine

theorem signedOf_lt_iff {n v old : Nat} (hn : n = 4 ∨ n = 8) :
    signedOf n v < signedOf n old ↔ (BitVec.ofNat (8 * n) v).toInt < (BitVec.ofNat (8 * n) old).toInt := by
  have signed : ∀ x, signedOf n x = (BitVec.ofNat (8 * n) x).toInt := by
    intro x
    unfold signedOf sextNat
    dsimp only
    rw [BitVec.toInt_eq_toNat_cond, BitVec.toNat_ofNat]
    rcases hn with rfl | rfl <;> split <;> split <;> omega
  rw [signed, signed]

/-- What Table 9-7 gives of an atomic is what the model computes. -/
theorem rmwValue_rmwRows {n : Nat} (hn : n = 4 ∨ n = 8) {e : Nat × (Nat → Nat → Nat → Nat → Nat)} (he : e ∈ rmwRows) (old v c : Nat) :
    rmwValue e.1 n old v c = e.2 n old v c := by
  simp only [rmwRows, List.mem_cons, List.not_mem_nil, or_false] at he
  rcases he with rfl | rfl | rfl | rfl | rfl | rfl | rfl | rfl | rfl | rfl
  exacts [rfl, rfl, rfl, rfl, rfl, rfl, rfl, rfl, if_congr (signedOf_lt_iff hn) rfl rfl, if_congr (signedOf_lt_iff hn) rfl rfl]


-- A write at its home ----------------------------------------------------------------------------------------------------------

/-- u is s after a write of n bytes at a by squad q was performed at its home. -/
structure HomeWrote (q : Nat) (store : Bool) (heads : List Head) (a n v : Nat) (s u : State) : Prop extends Apart q s u where
  allSquads : u.squads = s.squads
  mem : u.mem = cellPutList s.mem a (numBytes n v)
  hist : u.hist = s.writeBy q store heads a n :: s.hist
  writes : u.writes = s.writes + 1

section
variable {q a n v : Nat} {store : Bool} {heads : List Head} {s t u : State}

theorem wrote_homeWrite : HomeWrote q store heads a n v s (s.homeWrite (.squad q) store heads a n v) := by
  have frame := homeWrite_frame s q store heads a n v
  dsimp only at frame
  rw [frame]
  exact ⟨⟨fun _ _ => rfl, rfl, fun _ => rfl⟩, rfl, rfl, rfl, rfl⟩

theorem wrote_beside (h : HomeWrote q store heads a n v s u) (k : Beside q u t ∧ t.squads = u.squads) : HomeWrote q store heads a n v s t :=
  ⟨apart_trans h.toApart k.1.toApart, k.2.trans h.allSquads, k.1.mem.trans h.mem, k.1.hist.trans h.hist, k.1.writes.trans h.writes⟩

theorem HomeWrote.squad (h : HomeWrote q store heads a n v s u) (p : Nat) : u.squad p = s.squad p := by
  unfold State.squad
  rw [h.allSquads]

end

-- A store ------------------------------------------------------------------------------------------------------------------------

/-- Every squad of its block must see a store (09 R190). -/
theorem mustSee_store {e : Write} {p q : Nat} (hby : e.by_ = .squad q) (hst : e.store = true) (hb : blockOfSquad p = blockOfSquad q)
    (s : State) (strong : Bool) (sc a n : Nat) : s.mustSee p strong sc a n e = true := by
  unfold State.mustSee
  rw [hby, hst]
  simp [hb]

/-- A release passes on what happens before it, and itself (10 R214, R215). -/
theorem releasesOf_release {o : Outst} (h : o.ord = .release) (x : Squad) (q : Nat) (k : Seen) :
    (⟨.squad q, o.scope, o.seen ++ [k]⟩ : Head) ∈ x.releasesOf q o k := by
  unfold Squad.releasesOf
  simp [h]

/-- A store that waits for its home's acknowledgement stands for it among its squad's results, in issue order (10 R208). -/
theorem awaitsAck_written {x y : Squad} {k : Nat} {o : Outst} {l : Loc} {serial : Nat} (ks : List Seen)
    (hy : y = { x with out := (x.out.take k ++ x.out.drop (k + 1)).takeWhile (fun e => decide (e.word ≤ o.word)) ++
      { o with kind := .ack l serial } :: (x.out.take k ++ x.out.drop (k + 1)).dropWhile (fun e => decide (e.word ≤ o.word)) }) :
    AwaitsAck x (y.written o ks) k o l serial := by
  generalize hxs : x.out.take k ++ x.out.drop (k + 1) = xs at hy
  have early : ∀ e ∈ xs.takeWhile (fun e => decide (e.word ≤ o.word)), e.word ≤ o.word :=
    fun e he => by simpa using List.mem_takeWhile_imp he
  have keeps := passedOn_of_le (ks := ks) early
  refine ⟨xs.takeWhile (fun e => decide (e.word ≤ o.word)), passedOn o ks (xs.dropWhile (fun e => decide (e.word ≤ o.word))), ?_, early, ?_, ?_⟩
  · rw [hxs]
    have stay := stay_passedOn o ks xs
    rwa [← List.takeWhile_append_dropWhile (p := fun e => decide (e.word ≤ o.word)) (l := xs), passedOn_append, keeps,
      List.takeWhile_append_dropWhile] at stay
  · intro e he
    obtain ⟨f, hf, rfl⟩ : ∃ f, f ∈ (xs.dropWhile (fun e => decide (e.word ≤ o.word))).head? ∧ _ = e := by
      rw [passedOn, List.head?_map] at he
      exact Option.mem_map.1 he
    have late := List.head?_dropWhile_not (fun e => decide (e.word ≤ o.word)) xs
    rw [Option.mem_def.1 hf] at late
    have word : o.word < f.word := by simpa using late
    split <;> exact word
  · have self : passedOn o ks [{ o with kind := .ack l serial }] = [{ o with kind := .ack l serial }] :=
      passedOn_of_le (fun e he => by rw [List.mem_singleton.1 he])
    subst hy
    unfold Squad.written
    dsimp only
    rw [if_pos (by simp), if_neg (by simp), ← List.singleton_append, passedOn_append, passedOn_append, keeps, self, List.append_assoc]

theorem squad_awaitAck (s : State) (q : Nat) (o : Outst) (l : Loc) (serial : Nat) :
    (s.awaitAck q o l serial).squad q = { s.squad q with
      out := (s.squad q).out.takeWhile (fun e => decide (e.word ≤ o.word)) ++
        { o with kind := .ack l serial } :: (s.squad q).out.dropWhile (fun e => decide (e.word ≤ o.word)) } := squad_setSquad_same s q _

theorem performKind_store {o : Outst} {l : Loc} {v : BitVec 64} (ho : o.kind = .store l v) (s : State) (q : Nat) :
    let w := (s.homeWrite (.squad q) true ((s.squad q).releasesOf q o ⟨s.writes + 1, l.addr, l.len⟩) l.addr l.len
      (v.toNat % 2 ^ (8 * l.len))).storeL1 (blockOfSquad q) l (v.toNat % 2 ^ (8 * l.len))
    s.performKind q o = if Config.ackLater s.clock then w.awaitAck q o l (s.writes + 1) else w := by
  unfold State.performKind
  rw [ho]

/-- A write takes place at its home the same whether its result is still listed. -/
theorem wrote_without {s u : State} {q k a n v : Nat} {store : Bool} {heads : List Head}
    (h : HomeWrote q store heads a n v (s.without q k) u) :
    Apart q s u ∧ u.squad q = { s.squad q with out := (s.squad q).out.take k ++ (s.squad q).out.drop (k + 1) } ∧
    u.mem = cellPutList s.mem a (numBytes n v) ∧ u.hist = s.writeBy q store heads a n :: s.hist ∧ u.writes = s.writes + 1 :=
  ⟨apart_trans (beside_without s q k).toApart h.toApart, (h.squad q).trans (squad_without s q k), h.mem, h.hist, h.writes⟩

/-- What a store leaves of memory and of the order, acknowledged or not (10 R208, R209, R214). -/
theorem store_leaves {s t : State} {q : Nat} {o : Outst} {l : Loc} {v : Nat}
    (mem : t.mem = cellPutList s.mem l.addr (numBytes l.len (v % 2 ^ (8 * l.len))))
    (hist : t.hist = s.writeBy q true ((s.squad q).releasesOf q o ⟨s.writes + 1, l.addr, l.len⟩) l.addr l.len :: s.hist)
    (writes : t.writes = s.writes + 1) :
    Stores s t l.addr l.len v ∧ Performed s t q l.addr l.len ∧
    (o.ord = .release → (⟨.squad q, o.scope, o.seen ++ [⟨s.writes + 1, l.addr, l.len⟩]⟩ : Head) ∈ (listAt t.hist 0 default).heads) ∧
    ∀ p, blockOfSquad p = blockOfSquad q → ∀ strong sc, t.mustSee p strong sc l.addr l.len (listAt t.hist 0 default) = true := by
  refine ⟨stores_mod (stores_of_mem mem), performed_writeBy hist (onlyLearns_of_hist_eq rfl _) writes, fun hr => ?_, fun p hp strong sc => ?_⟩
  · rw [hist]
    exact releasesOf_release hr (s.squad q) q _
  · rw [hist]
    exact mustSee_store rfl rfl hp t strong sc _ _

theorem store_written {s : State} {q k : Nat} {o : Outst} (h : MayWrite s q k o) (cycles : Nat) {l : Loc} {v : BitVec 64}
    (ho : o.kind = .store l v) :
    ∃ t, exec (.variableResultWriteback q k cycles) s = .next t ∧
      ((ResultWritten (s.squad q) (t.squad q) k o ∧ PutsValue (s.squad q) (t.squad q) .none 0) ∨
        AwaitsAck (s.squad q) (t.squad q) k o l (s.writes + 1)) ∧ SameSquadsBut q s t ∧
      Stores s t l.addr l.len v.toNat ∧ Performed s t q l.addr l.len ∧
      (o.ord = .release → (⟨.squad q, o.scope, o.seen ++ [⟨s.writes + 1, l.addr, l.len⟩]⟩ : Head) ∈ (listAt t.hist 0 default).heads) ∧
      ∀ p, blockOfSquad p = blockOfSquad q → ∀ strong sc, t.mustSee p strong sc l.addr l.len (listAt t.hist 0 default) = true := by
  let n := v.toNat % 2 ^ (8 * l.len)
  let heads := (s.squad q).releasesOf q o ⟨s.writes + 1, l.addr, l.len⟩
  let w := ((s.without q k).homeWrite (.squad q) true heads l.addr l.len n).storeL1 (blockOfSquad q) l n
  obtain ⟨apart, squad, mem, hist, writes⟩ := wrote_without (wrote_beside wrote_homeWrite (beside_storeL1 q _ (blockOfSquad q) l n) :
    HomeWrote q true heads l.addr l.len n (s.without q k) w)
  have effect : (s.without q k).performKind q o = if Config.ackLater s.clock then w.awaitAck q o l (s.writes + 1) else w := by
    rw [performKind_store ho, squad_without]
    rfl
  by_cases late : Config.ackLater s.clock = true
  · rw [if_pos late] at effect
    have waits := squad_awaitAck w q o l (s.writes + 1)
    have after : Beside q w (w.awaitAck q o l (s.writes + 1)) := beside_setSquad q w _
    obtain ⟨t, ht, same, beside, ends⟩ := writeback_ends h cycles effect (apart_trans apart after.toApart) (by rw [waits, squad])
    have beside := beside_trans after beside
    refine ⟨t, ht, .inr ?_, same, store_leaves (beside.mem.trans mem) (beside.hist.trans hist) (beside.writes.trans writes)⟩
    rw [ends]
    exact awaitsAck_written _ (by rw [waits, squad])
  · rw [if_neg late] at effect
    obtain ⟨t, ht, same, beside, ends⟩ := writeback_ends h cycles effect apart (by rw [squad])
    refine ⟨t, ht, .inl ⟨?_, ?_⟩, same, store_leaves (beside.mem.trans mem) (beside.hist.trans hist) (beside.writes.trans writes)⟩
    · rw [ends]
      exact resultWritten_written _ (by rw [squad])
    · rw [ends]
      exact putsValue_none _ _ (congrArg Squad.sregs squad) (congrArg Squad.vregs squad) 0

-- An acknowledgement ---------------------------------------------------------------------------------------------------------------

theorem ack_written {s : State} {q k : Nat} {o : Outst} (h : MayWrite s q k o) (cycles : Nat) {l : Loc} {serial : Nat}
    (ho : o.kind = .ack l serial) :
    ∃ t, exec (.variableResultWriteback q k cycles) s = .next t ∧ ResultWritten (s.squad q) (t.squad q) k o ∧
      PutsValue (s.squad q) (t.squad q) .none 0 ∧ SameSquadsBut q s t ∧ SameBytes s t ∧ t.hist = s.hist := by
  have effect : (s.without q k).performKind q o = s.without q k := by
    unfold State.performKind
    rw [ho]
  have squad := squad_without s q k
  obtain ⟨t, ht, same, beside, ends⟩ := writeback_ends h cycles effect (beside_without s q k).toApart (by rw [squad])
  refine ⟨t, ht, ?_, ?_, same, fun a => ?_, beside.hist⟩
  · rw [ends]
    exact resultWritten_written _ (by rw [squad])
  · rw [ends]
    exact putsValue_none _ _ (congrArg Squad.sregs squad) (congrArg Squad.vregs squad) 0
  · unfold State.byte
    rw [beside.mem]
    rfl

-- An atomic ---------------------------------------------------------------------------------------------------------------------------

theorem source_rmw {o : Outst} {l : Loc} {op : Nat} {v c : BitVec 64} {d : Dst} (ho : o.kind = .rmw l op v c d) (s : State) (q src : Nat) :
    s.source q o src = src := by
  unfold State.source
  rw [ho]

theorem beside_deliver (s : State) (q : Nat) (o : Outst) (d : Dst) (v : BitVec 64) :
    Beside q s (s.deliver q o d v) ∧ ((s.deliver q o d v).squad q).run = (s.squad q).run := by
  unfold State.deliver
  dsimp only
  split
  · exact ⟨beside_setSquad q s _, by rw [squad_setSquad_same]⟩
  · exact ⟨beside_setSquad q s _, by rw [squad_setSquad_same, put_frame]⟩

theorem squad_deliver_pair (s : State) (q : Nat) (o : Outst) (lo hi : Nat) (v : BitVec 64) (hs : ∀ n, s.source q o n = n) :
    (s.deliver q o (.vpair lo hi) v).squad q = { s.squad q with out := (s.squad q).out ++
      [{ o with kind := .value (.vreg lo) (v &&& 0xFFFFFFFF), ord := .ordinary },
       { o with kind := .value (.vreg hi) (v >>> 32), ord := .ordinary }] } := by
  have meter : o.meter.map (s.source q o) = o.meter := by
    rw [show s.source q o = id from funext hs, Option.map_id, id]
  unfold State.deliver
  dsimp only
  rw [squad_setSquad_same, meter]
  rfl

/-- The squad's record after an access whose value reached its destination as a whole. -/
theorem delivered_put {x y : Squad} {k : Nat} {o : Outst} {v : BitVec 64} (ks : List Seen) (d : Dst)
    (hy : y = { x with out := x.out.take k ++ x.out.drop (k + 1), pend := y.pend }) :
    ResultWritten x ((y.put d v).written o ks) k o ∧ PutsValue x ((y.put d v).written o ks) d v := by
  refine ⟨resultWritten_written ks ?_, ?_⟩
  · rw [put_frame, hy]
  · have puts := putsValue_put y d v
    rw [hy] at puts ⊢
    exact puts

/-- An access's value reaches its destination, a pair's register by register (02 R50; 18 R337). -/
theorem delivered_deliver {s : State} {x : Squad} {q k : Nat} {o : Outst} (ks : List Seen) (d : Dst) (v : BitVec 64)
    (hs : ∀ n, s.source q o n = n)
    (hy : s.squad q = { x with out := x.out.take k ++ x.out.drop (k + 1), pend := (s.squad q).pend }) :
    Delivered x (((s.deliver q o d v).squad q).written o ks) k o d v o.meter := by
  have whole : ∀ e, let y := ((s.setSquad q ((s.squad q).put e v)).squad q).written o ks
      ResultWritten x y k o ∧ PutsValue x y e v := by
    intro e
    rw [squad_setSquad_same]
    exact delivered_put ks e hy
  cases d with
  | vpair lo hi =>
    have halves : ∀ a b : OutKind, passedOn o ks [{ o with kind := a, ord := .ordinary }, { o with kind := b, ord := .ordinary }] =
        [{ o with kind := a, ord := .ordinary }, { o with kind := b, ord := .ordinary }] := fun a b =>
      passedOn_of_le (fun e he => by rcases List.mem_pair.1 he with rfl | rfl <;> exact Nat.le_refl _)
    refine ⟨passedOn o ks (x.out.take k ++ x.out.drop (k + 1)), stay_passedOn o ks _, ?_⟩
    rw [squad_deliver_pair s q o lo hi v hs, hy]
    unfold Squad.written
    dsimp only
    rw [if_pos (by simp), if_neg (by simp), passedOn_append, halves]
  | none => exact whole .none
  | sreg c => exact whole (.sreg c)
  | vreg c => exact whole (.vreg c)

theorem rmw_written {s : State} {q k : Nat} {o : Outst} (h : MayWrite s q k o) (cycles : Nat) {l : Loc} {op : Nat} {v c : BitVec 64} {d : Dst}
    (ho : o.kind = .rmw l op v c d) (hn : l.len = 4 ∨ l.len = 8) :
    ∃ t, exec (.variableResultWriteback q k cycles) s = .next t ∧
      Delivered (s.squad q) (t.squad q) k o d (BitVec.ofNat 64 (s.read l.addr l.len)) o.meter ∧ SameSquadsBut q s t ∧
      Performed s t q l.addr l.len ∧ ∀ e ∈ rmwRows, e.1 = op → Stores s t l.addr l.len
        (e.2 l.len (s.read l.addr l.len) (v.toNat % 2 ^ (8 * l.len)) (c.toNat % 2 ^ (8 * l.len))) := by
  let r := s.without q k
  let new := rmwValue op l.len (r.read l.addr l.len) (v.toNat % 2 ^ (8 * l.len)) (c.toNat % 2 ^ (8 * l.len))
  let hs := r.headsAt seesAll l.addr l.len
  let heads := hs ++ (r.squad q).releasesOf q o ⟨r.writes + 1, l.addr, l.len⟩
  let w := r.homeWrite (.squad q) false heads l.addr l.len new
  let w1 := if isPhys l.addr then w.dropSynonyms (blockOfSquad q) l.addr l.va else w
  let w2 := w1.takeHeads q o hs
  have drops : Beside q w w1 ∧ w1.squads = w.squads := by
    unfold w1
    split
    · exact beside_dropSynonyms q w _ _ _
    · exact ⟨beside_refl q w, rfl⟩
  obtain ⟨apart, squad, mem, hist, writes⟩ := wrote_without (wrote_beside wrote_homeWrite drops : HomeWrote q false heads l.addr l.len new r w1)
  have takes : Takes q w1 w2 := takes_takeHeads w1 q o hs
  have reads : r.read l.addr l.len = s.read l.addr l.len := read_congr r s l.len l.addr (fun _ _ _ => rfl)
  have effect : r.performKind q o = w2.deliver q o d (BitVec.ofNat 64 (r.read l.addr l.len)) := by
    unfold State.performKind
    rw [ho]
  obtain ⟨delivers, run⟩ := beside_deliver w2 q o d (BitVec.ofNat 64 (r.read l.addr l.len))
  have apart2 : Apart q w1 w2 := takes_apart takes
  obtain ⟨t, ht, same, beside, ends⟩ := writeback_ends h cycles effect (apart_trans apart (apart_trans apart2 delivers.toApart))
    (by rw [run, takes.squad, squad])
  have after := beside_trans delivers beside
  refine ⟨t, ht, ?_, same, ?_, fun e he hop => ?_⟩
  · rw [ends, ← reads]
    exact delivered_deliver _ d _ (source_rmw ho w2 q) (by rw [takes.squad, squad])
  · exact performed_writeBy hist (onlyLearns_trans takes.learns (onlyLearns_of_hist_eq after.hist _))
      (after.writes.trans (by rw [takes.frame]; exact writes))
  · subst hop
    rw [← rmwValue_rmwRows hn he, ← reads]
    exact stores_of_mem (after.mem.trans (by rw [takes.frame]; exact mem))

/-- Settles O22: each kind of result by what its own effect leaves, and by what every result's writeback leaves alike (writeback_ends). -/
theorem storeWriteback : Obligations.StoreWriteback := by
  unfold Obligations.StoreWriteback
  intro s q k cycles o h
  exact ⟨fun l v ho => store_written h cycles ho, fun l serial ho => ack_written h cycles ho,
    fun l op v c d ho hn => rmw_written h cycles ho hn⟩

end Sys2Proof.Machine
end

section
/-! The word that a stream's turn meets (02 R33, R35, R52, R61): from the bytes fetched to what the step answers. -/

namespace Sys2Proof.Machine

-- What is decoded ------------------------------------------------------------------------------------------------------------

theorem encodeScalar_of_lane? {i : Instr} {op : LaneOp} {f : LaneForm} (h : i.lane? = some (op, f)) : encodeScalar i = none := by
  obtain ⟨c, hc, rfl⟩ := laneCtor_of_lane? h
  unfold laneCtor at hc
  split at hc <;> cases hc <;> rfl

/-- A word of the scalar stream is no lane word (02 Table 2-1). -/
theorem lane?_of_decodeScalar {i : Instr} {w : BitVec 32} (h : decodeScalar w = .ok i) : i.lane? = none := by
  cases hl : i.lane? with
  | none => rfl
  | some p =>
    have coded := (decodeScalar_reads w i h).1
    rw [encodeScalar_of_lane? hl] at coded
    cases coded

theorem ne_vimm_of_decodeScalar {i : Instr} {w : BitVec 32} (h : decodeScalar w = .ok i) (m : BitVec 1) (k : BitVec 4) (vd : BitVec 11)
    (n : BitVec 32) : i ≠ .vimm m k vd n := by
  rintro rfl
  cases (decodeScalar_reads w _ h).1

-- The fetch --------------------------------------------------------------------------------------------------------------------

theorem onlyTlbs_fetchWhere_actor {ps : List (BitVec 64 × Nat)} {s t : State} {b : Nat} {as : List (Nat × Nat)}
    {r : Except FetchOut (List (Nat × Nat))} (h : s.fetchWhere b ps as = (t, r)) : t.actor = s.actor := by
  induction ps generalizing s as with
  | nil => cases h; rfl
  | cons p rest ih =>
    unfold State.fetchWhere at h
    have access := onlyTlbs_actor (onlyTlbs_access s b .exec p.1 p.2)
    rcases ha : s.access b .exec p.1 p.2 with ⟨u, e⟩
    rw [ha] at h access
    cases e with
    | ok a c =>
      have checked : (u.checkStorage a).actor = u.actor := by rw [checkStorage_frame]
      exact (ih h).trans (checked.trans access)
    | _ => cases h; exact access

theorem fetch_of_fetchIs {s t : State} {b : Nat} {st : Stream} {pc : BitVec 64} {bs : List Byte} (h : FetchIs s t b st pc bs) :
    s.fetch b st pc = (t, .word bs) ∧ t.actor = s.actor := by
  obtain ⟨as, where_, good, rfl, same⟩ := h
  refine ⟨?_, onlyTlbs_fetchWhere_actor where_⟩
  unfold State.fetch
  rw [where_]
  dsimp only
  rw [good]
  dsimp only
  rw [if_pos same.symm]

-- A step --------------------------------------------------------------------------------------------------------------------------

theorem step_runs {s t v : State} {u : Turn} {i : Instr} (hn : s.nextTurn = (u, t)) (h : t.prepare u = (some i, v)) :
    step s = endStep (exec i v) := by
  unfold step
  rw [hn]
  dsimp only
  rw [h]

theorem step_idles {s t v : State} {u : Turn} (hn : s.nextTurn = (u, t)) (h : t.prepare u = (none, v)) : step s = endStep (.next v) := by
  unfold step
  rw [hn]
  dsimp only
  rw [h]

-- The word decoded ----------------------------------------------------------------------------------------------------------------

/-- The state in which a squad's fetched word is decoded: a scalar word leaves no lanes over to replay. -/
def State.fetched (t : State) (lane : Bool) : State := if lane then t else t.setSq { t.sq with replay := none }

theorem sq_fetched (t : State) (lane : Bool) : (t.fetched lane).sq = { t.sq with replay := (t.fetched lane).sq.replay } := by
  cases lane
  · unfold State.fetched
    rw [if_neg (by simp), sq_setSq]
  · rfl

theorem actor_afterFetch (t : State) (lane : Bool) (i : Instr) : (t.afterFetch lane i).actor = t.actor := by
  unfold State.afterFetch
  split <;> rfl

/-- Lanes left over from a fault wait only for a word that is replayed (09 R206). -/
theorem afterFetch_eq (t : State) (lane : Bool) (i : Instr) :
    (if replayable i then t.fetched lane else (t.fetched lane).setSq { (t.fetched lane).sq with replay := none }) = t.afterFetch lane i := by
  unfold State.afterFetch State.fetched
  cases lane <;> cases replayable i
  · simp only [Bool.false_eq_true, false_and, if_false, sq_setSq, setSq_setSq]
  · rfl
  · rfl
  · rfl

/-- A word that may issue: the hazards looked at, then the data of its sources (02 R52; 16 R366). -/
def State.issued (u : State) (i : Instr) : Option Instr × State :=
  match u.hazardOf i with
  | none =>
    (match u.badSource i, i.lane? with
     | some a, some (op, f) => (none, u.lateLane 0 (laneTdst op f (laneEf op f u.sq.fmt)) a)
     | _, _ => (some i, u))
  | some tv =>
    (none, match i.lane? with
      | some (_, f) => u.trapL f.m 0x01 0 tv (hazardTdst i u.sq.fmt)
      | none =>
        (match i with
         | .vimm _ k _ _ => u.trapL k 0x01 0 tv (hazardTdst i u.sq.fmt)
         | _ => u.trapS 0x01 tv (hazardTdst i u.sq.fmt)))

/-- The stream a squad's word is of. -/
abbrev squadStream (lane : Bool) : Stream := if lane then .lane else .scalar

section
variable {t u : State} {lane : Bool} {i : Instr} {q : Nat} {bs : List Byte}

theorem decoded_ok (hd : decodeBytes (squadStream lane) bs = .ok i) (hw : t.sq.accessWaits i = false)
    (hl : ¬(replayable i = false ∧ lane = true ∧ t.sq.lane.map LaneRun.left = some 0)) :
    (t.fetched lane).decoded q (squadStream lane) bs = (t.afterFetch lane i).issued i := by
  have waits : (t.fetched lane).sq.accessWaits i = false := by rw [sq_fetched]; exact hw
  have left : (t.fetched lane).sq.lane = t.sq.lane := by rw [sq_fetched]
  have stream : squadStream lane = .lane ↔ lane = true := by cases lane <;> simp
  unfold State.decoded
  rw [hd]
  dsimp only
  rw [if_neg (by rw [waits]; simp), if_neg (by rw [left, stream]; exact hl), afterFetch_eq]
  rfl

theorem decoded_error {e : BadEncoding} (hd : decodeBytes (squadStream lane) bs = .error e) :
    (t.fetched lane).decoded q (squadStream lane) bs = (some (.illegalInstruction q
      (if lane then .lane (BitVec.ofNat 96 (leValue bs)) else .scalar (BitVec.ofNat 32 (leValue bs)))), t.fetched lane) := by
  unfold State.decoded
  rw [hd]
  cases lane <;> rfl

theorem issued_good (hh : u.hazardOf i = none) (hb : u.badSource i = none) : u.issued i = (some i, u) := by
  unfold State.issued
  rw [hh, hb]

theorem issued_badSource {a : Nat} {op : LaneOp} {f : LaneForm} (hh : u.hazardOf i = none) (hb : u.badSource i = some a)
    (hi : i.lane? = some (op, f)) : u.issued i = (none, u.lateLane 0 (laneTdst op f (laneEf op f u.sq.fmt)) a) := by
  unfold State.issued
  rw [hh, hb, hi]

theorem issued_hazard_scalar {tv : BitVec 64} {w : BitVec 32} (hh : u.hazardOf i = some tv) (hd : decodeScalar w = .ok i) :
    u.issued i = (none, u.trapS 0x01 tv (hazardTdst i u.sq.fmt)) := by
  unfold State.issued
  rw [hh, lane?_of_decodeScalar hd]
  dsimp only
  split
  · next m k vd n => exact absurd rfl (ne_vimm_of_decodeScalar hd m k vd n)
  · rfl

end

/-- A word of the lane stream is VIMM, LANE_UDF or one with a lane form (02 R40). -/
theorem lane?_of_decodeLane {i : Instr} {w : BitVec 96} (h : decodeLane w = .ok i) :
    (∃ m k vd n, i = .vimm m k vd n) ∨ (∃ n, i = .laneUdf n) ∨ ∃ op f, i.lane? = some (op, f) := by
  obtain ⟨coded, -⟩ := decodeLane_reads w i h
  unfold encodeLane at coded
  split at coded
  · exact .inl ⟨_, _, _, _, rfl⟩
  · exact .inr (.inl ⟨_, rfl⟩)
  · split at coded
    · cases coded
    · next op f hl => exact .inr (.inr ⟨op, f, hl⟩)

section
variable {u : State} {i : Instr} {tv : BitVec 64}

theorem of_hazardOf_eq_some (hh : u.hazardOf i = some tv) :
    u.namesRegisters i = true ∧ (u.gangOf u.actor).desc.hchk ≠ 0 ∧ hazard? i u.sq = some tv := by
  unfold State.hazardOf at hh
  split at hh
  · cases hh
  · next h =>
    obtain ⟨checks, names⟩ := not_or.1 h
    exact ⟨by simpa using names, checks, hh⟩

/-- LANE_UDF names no register, so a hazard is of a word under a mask (02 R41). -/
theorem issued_hazard_lane {w : BitVec 96} (hh : u.hazardOf i = some tv) (hd : decodeLane w = .ok i) :
    ∃ k, u.issued i = (none, u.trapL k 0x01 0 tv (hazardTdst i u.sq.fmt)) := by
  rcases lane?_of_decodeLane hd with ⟨m, k, vd, n, rfl⟩ | ⟨n, rfl⟩ | ⟨op, f, hi⟩
  · refine ⟨k, ?_⟩
    unfold State.issued
    rw [hh]
    rfl
  · cases (of_hazardOf_eq_some hh).2.2
  · refine ⟨f.m, ?_⟩
    unfold State.issued
    rw [hh, hi]

end

-- The turns of the streams -------------------------------------------------------------------------------------------------------------

/-- The chosen squad of a cluster meets the word it fetched (04 R100, R101). -/
theorem prepare_issue {s t : State} {core cluster q : Nat} {lane : Bool} {bs : List Byte}
    (hc : s.computing (devOfRet (retOfCore core)) = true) :
    let all := s.clusterSquads core cluster
    let s2 := all.foldl State.wake s
    let v : State := { s2.countChoice all (some q) lane with actor := q }
    s2.choose (all.filter (fun p => s2.ready p lane)) lane = some q → v.sq.canTake = false →
    FetchIs v t (blockOfSquad q) (squadStream lane) (if lane then v.sq.lpc else v.sq.pc) bs →
    s.prepare (.issue core cluster lane) = (t.fetched lane).decoded q (squadStream lane) bs ∧ t.actor = q := by
  intro all s2 v choose stays fetch
  obtain ⟨word, actor⟩ := fetch_of_fetchIs fetch
  refine ⟨?_, actor⟩
  unfold State.prepare State.issueTurn
  dsimp only
  rw [if_neg (by rw [hc]; simp), choose]
  dsimp only
  unfold State.squadWord
  dsimp only
  rw [if_neg (by rw [stays]; simp), word]
  dsimp only
  cases lane <;> rfl

theorem prepare_pacer {s t : State} {b : Nat} {bs : List Byte} :
    let v : State := { s with actor := b }
    (v.gang (gangOfBlock b)).issues = true → v.computing (devOfRet (v.gang (gangOfBlock b)).ret) = true →
    v.pacer.run = .running → v.pacer.flight.all TileOp.worked = true → FetchIs v t b .tile v.pacer.tpc bs →
    (∀ i, decodeBytes .tile bs = .ok i → s.prepare (.pacer b) = (some i, t)) ∧
    (∀ e, decodeBytes .tile bs = .error e →
      s.prepare (.pacer b) = (some (.illegalInstruction b (.tile (BitVec.ofNat 64 (leValue bs)))), t)) := by
  intro v issues computing runs worked fetch
  have word := (fetch_of_fetchIs fetch).1
  refine ⟨fun i hd => ?_, fun e hd => ?_⟩
  all_goals
    unfold State.prepare State.pacerTurn
    dsimp only
    rw [if_pos ⟨issues, computing, runs, worked⟩, word]
    dsimp only
    rw [hd]

end Sys2Proof.Machine
end

section
/-! The wake of a WAITSEQ (12 R253; 10 R214), and the sources a lane word reads (16 R366). -/

namespace Sys2Proof.Machine

-- WAITSEQ ------------------------------------------------------------------------------------------------------------------------

/-- What a read that misses no write reads from is the same, but for what parties have seen, after one of them has seen more. -/
theorem seenByte_of_onlyLearns {h k : List Write} {p : Party} (hk : List.Forall₂ (MoreSeen p) h k) (a : Nat) (v : Byte) :
    Option.Rel (MoreSeen p) (seenByte seesAll a v h).2 (seenByte seesAll a v k).2 := by
  induction hk generalizing v with
  | nil => exact .none
  | @cons e f rest rest' hef _ ih =>
    unfold seenByte
    rw [show f.old = e.old by rw [hef.1]]
    cases tabGet? e.old a with
    | none => exact ih v
    | some old => exact .some hef

theorem readFrom_of_onlyLearns {s t : State} {p : Party} (hl : OnlyLearns s t p) (hm : t.mem = s.mem) (a n : Nat) :
    List.Forall₂ (MoreSeen p) (s.readFrom seesAll a n) (t.readFrom seesAll a n) := by
  unfold State.readFrom
  have same : ∀ i, t.byte i = s.byte i := fun i => by unfold State.byte; rw [hm]
  generalize List.range n = is
  induction is with
  | nil => exact .nil
  | cons i rest ih =>
    rw [List.filterMap_cons, List.filterMap_cons, same]
    have rel := seenByte_of_onlyLearns hl (a + i) (s.byte (a + i))
    generalize (seenByte seesAll (a + i) (s.byte (a + i)) s.hist).2 = x at rel
    generalize (seenByte seesAll (a + i) (s.byte (a + i)) t.hist).2 = y at rel
    cases rel with
    | none => exact ih
    | some h => exact .cons h ih

/-- A read finds the same releases after a party has seen more. -/
theorem headsAt_of_onlyLearns {s t : State} {p : Party} (hl : OnlyLearns s t p) (hm : t.mem = s.mem) (a n : Nat) :
    t.headsAt seesAll a n = s.headsAt seesAll a n := by
  have heads : (t.readFrom seesAll a n).flatMap (·.heads) = (s.readFrom seesAll a n).flatMap (·.heads) := by
    have reads := readFrom_of_onlyLearns hl hm a n
    generalize s.readFrom seesAll a n = xs, t.readFrom seesAll a n = ys at reads
    induction reads with
    | nil => rfl
    | cons h _ ih => rw [List.flatMap_cons, List.flatMap_cons, ih, h.1]
  unfold State.headsAt
  rw [heads]

/-- A strong acquire of a doubleword (12 R253). -/
theorem learns_acquireWord (s : State) (p : Party) (scope a : Nat) : Learns s (s.acquireWord p scope a) p :=
  learns_trans (learns_observe s p seesAll a 8) (learns_acquire _ p scope _)

theorem hasSeen_acquireWord (s : State) (p : Party) (scope a : Nat) :
    HasSeen (s.acquireWord p scope a) p ((s.readFrom seesAll a 8).map (fun e => ⟨e.serial, a, 8⟩)) :=
  hasSeen_of_onlyLearns (learns_acquire _ p scope _).2 (hasSeen_observe s p seesAll a 8)

theorem hasSeen_acquireWord_head {s : State} {p : Party} {scope a : Nat} {h : Head} (hh : h ∈ s.headsAt seesAll a 8)
    (hi : s.inclusive h.party h.scope p scope = true) : HasSeen (s.acquireWord p scope a) p h.seen := by
  have observes := learns_observe s p seesAll a 8
  refine hasSeen_acquire ?_ ((inclusive_of_learns observes _ _ _ _).trans hi)
  rw [headsAt_of_onlyLearns observes.2 (by rw [observes.1]; rfl)]
  exact hh

/-- What a WAITSEQ whose doubleword has reached the value leaves: the squad goes on, its acquire done (12 R253). -/
def State.waitedOver (s : State) (q scope a : Nat) : State :=
  let t := (s.acquireWord (.squad q) scope a).setSquad q { s.squad q with run := .running, pc := (s.squad q).pc + 4, latch := none }
  if 3 ≤ scope then t.dropL1 (blockOfSquad q) else t

/-- The home's recall of a line apart, the squad takes its acquire, or reads and stays parked. -/
theorem wake_waitseq {s : State} {q a scope : Nat} {v : BitVec 64} (hw : (s.squad q).run = .waitseq a v scope) (hm : s.mayRun q = true)
    (ht : (s.squad q).canTake = false) (hl : s.wsLocked a = false) (hr : s.wsRefreshing a = false) (hb : s.isBad a 8 = false) :
    ∃ R, s.wake q = if v.toNat ≤ s.read a 8 then { s with rets := R }.waitedOver q scope a
      else { s with rets := R }.observe (.squad q) seesAll a 8 := by
  refine ⟨(s.recall a).rets, ?_⟩
  have poke : s.poke q = s := by
    unfold State.poke
    exact if_neg (fun h => by rw [ht] at h; simp at h)
  have read : (s.recall a).read a 8 = s.read a 8 := read_congr _ _ 8 a (fun i _ _ => by unfold State.byte; rw [recall_mem])
  unfold State.wake
  dsimp only
  rw [poke, hw]
  dsimp only
  rw [if_neg (by rw [hm, hl, hr]; simp), if_neg (by rw [hb]; simp), read, ← recall_frame]
  unfold State.waitedOver
  rw [recall_frame]
  rfl

theorem waitedOver_ends (s : State) (q scope a : Nat) :
    let t := s.waitedOver q scope a
    t.hist = (s.acquireWord (.squad q) scope a).hist ∧ t.mem = s.mem ∧ SameSquadsBut q s t ∧
    t.squad q = { s.squad q with run := .running, pc := (s.squad q).pc + 4, latch := none } ∧
    (3 ≤ scope → (t.block (blockOfSquad q)).l1 = []) := by
  obtain ⟨frame, -⟩ := learns_acquireWord s (.squad q) scope a
  let w := s.acquireWord (.squad q) scope a
  let u := w.setSquad q { s.squad q with run := .running, pc := (s.squad q).pc + 4, latch := none }
  have others : SameSquadsBut q s u := fun p hp => by
    rw [squad_setSquad_ne _ _ _ _ hp, show w = s.setHist w.hist from frame, squad_setHist]
  have mem : u.mem = s.mem := by rw [show u.mem = w.mem from rfl, show w = s.setHist w.hist from frame]; rfl
  intro t
  by_cases hs : 3 ≤ scope
  · have ht : t = u.dropL1 (blockOfSquad q) := if_pos hs
    have squads : t.squads = u.squads := by rw [ht, dropL1_squads]
    have squad : ∀ p, t.squad p = u.squad p := fun p => by unfold State.squad; rw [squads]
    refine ⟨by rw [ht, dropL1_frame]; rfl, ?_, fun p hp => (squad p).trans (others p hp), (squad q).trans (squad_setSquad_same w q _), fun _ => ?_⟩
    · rw [ht, dropL1_frame]; exact mem
    · rw [ht, dropL1_block_same]
  · have ht : t = u := if_neg hs
    exact ⟨by rw [ht]; rfl, by rw [ht]; exact mem, ht ▸ others, by rw [ht]; exact squad_setSquad_same w q _, fun h => absurd h hs⟩

theorem waitseqWakes : WaitseqWakes := by
  intro s q a scope v hw hm ht hl hr hb
  obtain ⟨R, wake⟩ := wake_waitseq hw hm ht hl hr hb
  let r : State := { s with rets := R }
  have each : ∀ {t : State}, HasSeen t (.squad q) ((s.readFrom seesAll a 8).map (fun e => ⟨e.serial, a, 8⟩)) →
      ∀ e ∈ s.readFrom seesAll a 8, HasSeen t (.squad q) [⟨e.serial, a, 8⟩] := by
    intro t h e he k hk
    rw [List.mem_singleton.1 hk]
    exact h _ (List.mem_map_of_mem he)
  by_cases hv : v.toNat ≤ s.read a 8
  · rw [wake, if_pos hv]
    obtain ⟨hist, mem, others, own, l1⟩ := waitedOver_ends r q scope a
    have seen : ∀ ks, HasSeen (r.acquireWord (.squad q) scope a) (.squad q) ks → HasSeen (r.waitedOver q scope a) (.squad q) ks := by
      intro ks h
      unfold HasSeen at h ⊢
      rwa [hist]
    have learns : OnlyLearns s (r.waitedOver q scope a) (.squad q) := by
      have h := (learns_acquireWord r (.squad q) scope a).2
      unfold OnlyLearns at h ⊢
      rwa [hist]
    exact ⟨fun i => by unfold State.byte; rw [mem], learns, each (seen _ (hasSeen_acquireWord r (.squad q) scope a)),
      fun h => absurd hv (by omega), fun _ => ⟨others, own, l1, fun h hh hi => seen _ (hasSeen_acquireWord_head (s := r) hh hi)⟩⟩
  · rw [wake, if_neg hv]
    obtain ⟨frame, learns⟩ := learns_observe r (.squad q) seesAll a 8
    exact ⟨fun i => by rw [frame]; rfl, learns, each (hasSeen_observe r (.squad q) seesAll a 8), fun _ => by rw [frame]; rfl,
      fun h => absurd h hv⟩

-- A lane word's sources --------------------------------------------------------------------------------------------------------------

theorem active_eq_runs (x : Squad) (mk : BitVec 4) : x.active mk = x.runs mk := by
  unfold Squad.active Squad.runs
  cases x.replay with
  | some r => rfl
  | none => rfl

theorem mem_activeLanes (act : BitVec 32) (l : Nat) : l ∈ activeLanes act ↔ l < 32 ∧ bitAt act l = true := by
  unfold activeLanes
  rw [List.mem_filter, List.mem_range]

/-- Lanes of its sources that a lane word reads. -/
def sourceLanes (op : LaneOp) (act : BitVec 32) : List Nat := if crossLane op && act ≠ 0 then lanes32 else activeLanes act

theorem of_mem_sourceLanes {op : LaneOp} {act : BitVec 32} {l : Nat} (h : l ∈ sourceLanes op act) :
    l < 32 ∧ (bitAt act l = true ∨ op = 0x28 ∨ op / 16 = 8) := by
  unfold sourceLanes at h
  split at h
  · next hc =>
    obtain ⟨cross, -⟩ := Bool.and_eq_true_iff.1 hc
    exact ⟨List.mem_range.1 h, .inr (by simpa using cross)⟩
  · exact ((mem_activeLanes act l).1 h).imp id .inl

theorem mem_sourceLanes (op : LaneOp) {act : BitVec 32} {l : Nat} (hl : l < 32) (ha : bitAt act l = true) : l ∈ sourceLanes op act := by
  unfold sourceLanes
  split
  · exact List.mem_range.2 hl
  · exact (mem_activeLanes act l).2 ⟨hl, ha⟩

/-- Units of the vector registers a lane word reads (16 R366). -/
def State.sourceUnits (u : State) (i : Instr) (op : LaneOp) (f : LaneForm) : List Nat :=
  (i.regs u.sq.fmt).2.2.1.flatMap (fun r => (sourceLanes op (u.sq.active f.m)).map (fun l => vregUnit u.actor (u.sq.vcell r l)))

theorem mem_sourceUnits {u : State} {i : Instr} {op : LaneOp} {f : LaneForm} {a : Nat} :
    a ∈ u.sourceUnits i op f ↔
      ∃ r ∈ (i.regs u.sq.fmt).2.2.1, ∃ l ∈ sourceLanes op (u.sq.active f.m), vregUnit u.actor (u.sq.vcell r l) = a := by
  unfold State.sourceUnits
  simp only [List.mem_flatMap, List.mem_map]

theorem badSource_eq {u : State} {i : Instr} {op : LaneOp} {f : LaneForm} (hi : i.lane? = some (op, f)) :
    u.badSource i = if u.bad = [] ∨ (f.badIndex op u.sq.vws).isSome then none else (u.sourceUnits i op f).find? (fun a => u.isBad a 4) := by
  unfold State.badSource
  rw [hi]
  rfl

theorem sourcesGood : SourcesGood := by
  intro u i op f hi unit
  rw [badSource_eq hi]
  refine ⟨fun a ha => ?_, fun hnone hreg r hr l hl hact => ?_⟩
  · split at ha
    · cases ha
    · obtain ⟨r, hr, l, hl, rfl⟩ := mem_sourceUnits.1 (List.mem_of_find?_eq_some ha)
      obtain ⟨lt, reads⟩ := of_mem_sourceLanes hl
      rw [active_eq_runs] at reads
      exact ⟨by simpa using List.find?_some ha, r, l, hr, lt, rfl, reads⟩
  · have read : unit r l ∈ u.sourceUnits i op f :=
      mem_sourceUnits.2 ⟨r, hr, l, mem_sourceLanes op hl (by rw [active_eq_runs]; exact hact), rfl⟩
    split at hnone
    · next h =>
      rcases h with empty | beyond
      · unfold State.isBad
        rw [empty]
        rfl
      · rw [hreg] at beyond
        cases beyond
    · simpa using List.find?_eq_none.1 hnone _ read

end Sys2Proof.Machine
end

section
/-! What a step runs (02 R33, R52, R61; 04 R100). -/

namespace Sys2Proof.Machine

/-- The turn of a cluster whose chosen squad has fetched its word: what the step answers. -/
theorem step_issue {s s1 t : State} {core cluster q : Nat} {lane : Bool} {bs : List Byte}
    (hn : s.nextTurn = (.issue core cluster lane, s1))
    (hp : s1.prepare (.issue core cluster lane) = (t.fetched lane).decoded q (squadStream lane) bs) (hq : t.actor = q) :
    (∀ i, decodeBytes (squadStream lane) bs = .ok i → t.sq.accessWaits i = false →
      ¬(replayable i = false ∧ lane = true ∧ t.sq.lane.map LaneRun.left = some 0) → (t.afterFetch lane i).hazardOf i = none →
      ((t.afterFetch lane i).badSource i = none → step s = endStep (exec i (t.afterFetch lane i))) ∧
      (∀ a op f, (t.afterFetch lane i).badSource i = some a → i.lane? = some (op, f) → let u := t.afterFetch lane i
        step s = endStep (.next (u.lateLane 0 (laneTdst op f (laneEf op f u.sq.fmt)) a)))) ∧
    (∀ i tv, decodeBytes (squadStream lane) bs = .ok i → t.sq.accessWaits i = false →
      ¬(replayable i = false ∧ lane = true ∧ t.sq.lane.map LaneRun.left = some 0) → let u := t.afterFetch lane i
      u.hazardOf i = some tv → u.namesRegisters i = true ∧ (u.gangOf q).desc.hchk ≠ 0 ∧ hazard? i u.sq = some tv ∧
        (lane = false → step s = endStep (.next (u.trapS 0x01 tv (hazardTdst i u.sq.fmt)))) ∧
        (lane = true → ∃ k, step s = endStep (.next (u.trapL k 0x01 0 tv (hazardTdst i u.sq.fmt))))) ∧
    (∀ e, decodeBytes (squadStream lane) bs = .error e →
      step s = endStep (exec (.illegalInstruction q (if lane then .lane (BitVec.ofNat 96 (leValue bs)) else .scalar (BitVec.ofNat 32 (leValue bs))))
        (if lane then t else t.setSq { t.sq with replay := none }))) := by
  refine ⟨fun i hd hw hl hh => ⟨fun hb => ?_, fun a op f hb hi => ?_⟩, fun i tv hd hw hl => ?_, fun e hd => ?_⟩
  · rw [decoded_ok hd hw hl, issued_good hh hb] at hp
    exact step_runs hn hp
  · rw [decoded_ok hd hw hl, issued_badSource hh hb hi] at hp
    exact step_idles hn hp
  · intro u hh
    rw [decoded_ok hd hw hl] at hp
    obtain ⟨names, checks, hazard⟩ := of_hazardOf_eq_some hh
    rw [actor_afterFetch, hq] at checks
    refine ⟨names, checks, hazard, fun scalar => ?_, fun onLane => ?_⟩
    · subst scalar
      rw [issued_hazard_scalar hh hd] at hp
      exact step_idles hn hp
    · subst onLane
      obtain ⟨k, traps⟩ := issued_hazard_lane hh hd
      rw [traps] at hp
      exact ⟨k, step_idles hn hp⟩
  · rw [decoded_error hd] at hp
    exact step_runs hn hp

theorem step_pacer {s s1 t : State} {b : Nat} {bs : List Byte} (hn : s.nextTurn = (.pacer b, s1)) :
    let v : State := { s1 with actor := b }
    (v.gang (gangOfBlock b)).issues = true → v.computing (devOfRet (v.gang (gangOfBlock b)).ret) = true →
    v.pacer.run = .running → v.pacer.flight.all TileOp.worked = true →
    FetchIs v t b .tile v.pacer.tpc bs → (∀ i, decodeBytes .tile bs = .ok i → step s = endStep (exec i t)) ∧
      (∀ e, decodeBytes .tile bs = .error e → step s = endStep (exec (.illegalInstruction b (.tile (BitVec.ofNat 64 (leValue bs)))) t)) := by
  intro v issues computing runs worked fetch
  obtain ⟨ok, error⟩ := prepare_pacer issues computing runs worked fetch
  exact ⟨fun i hd => step_runs hn (ok i hd), fun e hd => step_runs hn (error e hd)⟩

/-- Settles O58: each turn's state is the one that prepare names, and a step answers what the word met there answers. -/
theorem stepRunsDecoded : Obligations.StepRunsDecoded := by
  unfold Obligations.StepRunsDecoded
  refine ⟨?_, fun s s1 b t bs hn => step_pacer hn, fun s s1 b n hn => step_idles hn rfl, fun s s1 i hn hi => step_runs hn (if_pos hi),
    waitseqWakes, fun s t hs ht => ?_, sourcesGood, fun s f hf => ?_⟩
  · intro s s1 core cluster lane q t bs hn hc all s2 choose v st stays fetch
    obtain ⟨prepared, actor⟩ := prepare_issue hc choose stays fetch
    exact step_issue hn prepared actor
  · obtain ⟨u, hu, -, rfl⟩ := endStep_cases _ _ ht
    cases hu
    exact ⟨rfl, rfl⟩
  · unfold endStep
    dsimp only
    rw [hf]

end Sys2Proof.Machine
end

section
/-! What stowing registers writes of memory (16 R317, R319, Tables 16-4 and 16-5): bytes of the gang's own frame alone. -/

namespace Sys2Proof.Machine

theorem nblocks_le_four {d : Desc} (h : d.blocks ≠ 3) : d.nblocks ≤ 4 := by
  have le : d.blocks.toNat ≤ 2 := by bv_omega
  exact Nat.pow_le_pow_right (by decide : 0 < 2) le

theorem blocks_ne_three_of_checkDesc {d : Desc} (h : checkDesc d false = 0) : d.blocks ≠ 3 := by
  intro bad
  unfold checkDesc at h
  rw [if_pos (.inr (.inl bad))] at h
  exact absurd h (by decide)

/-- The keys of a gang's squads name the gang, one of its blocks and one of the block's squads. -/
theorem of_mem_gangSquads {s : State} {g q : Nat} (hd : (s.gang g).desc.blocks ≠ 3) (hq : q ∈ s.gangSquads g) :
    gangOfSquad q = g ∧ blkidOfSquad q < (s.gang g).desc.nblocks ∧ sqidOf q < (s.gang g).desc.nsquads := by
  have four := nblocks_le_four hd
  obtain ⟨b, hb, hq⟩ := List.mem_flatMap.1 hq
  obtain ⟨k, hk, rfl⟩ := List.mem_map.1 hb
  obtain ⟨i, hi, rfl⟩ := List.mem_map.1 hq
  have hk := List.mem_range.1 hk
  have block : gangOfBlock (4 * g + k) = g := by unfold gangOfBlock; omega
  rw [block] at hi
  have hi := List.mem_range.1 hi
  have sixteen : (s.gang g).desc.nsquads ≤ 16 := (s.gang g).desc.squads.isLt
  have gang : gangOfSquad (squadKey (4 * g + k) i) = g := by unfold gangOfSquad squadKey; omega
  have blkid : blkidOfSquad (squadKey (4 * g + k) i) = k := by unfold blkidOfSquad squadKey; omega
  have sqid : sqidOf (squadKey (4 * g + k) i) = i := by unfold sqidOf squadKey; omega
  rw [gang, blkid, sqid]
  exact ⟨rfl, hk, hi⟩

/-- The record of a squad, its vector registers and those of its held lanes lie in its gang's frame. -/
theorem recordAt_in_frame (d : Desc) (f : Nat) {b q : Nat} (hb : b < d.nblocks) (hq : q < d.nsquads) :
    f ≤ d.recordAt f b q ∧ d.recordAt f b q + (4096 + 256 * d.nvws) ≤ f + d.frameSize := by
  have blocks : (b + 1) * d.blockPart ≤ d.nblocks * d.blockPart := Nat.mul_le_mul_right _ hb
  have squads : (q + 1) * (4096 + 256 * d.nvws) ≤ d.nsquads * (4096 + 256 * d.nvws) := Nat.mul_le_mul_right _ hq
  have part : 81920 + d.nsquads * (4096 + 256 * d.nvws) ≤ d.blockPart := by unfold Desc.blockPart; omega
  rw [Nat.succ_mul] at blocks squads
  unfold Desc.recordAt Desc.blockAt Desc.frameSize
  omega

/-- Moving the marks of a squad's vector registers to its frame changes nothing else. -/
theorem stowMarks_frame (s : State) (q f : Nat) : s.stowMarks q f = { s with bad := (s.stowMarks q f).bad } := by
  unfold State.stowMarks
  dsimp only
  split
  · rfl
  · exact List.foldlRecOn _ _ (motive := fun t : State => t = { s with bad := t.bad }) rfl
      (fun t ht p _ => congrArg (fun u : State => u.moveMarks _ _ 128) ht)

theorem actor_pasteMem (s : State) (a n : Nat) (c : Cells 8) : (s.pasteMem a n c).actor = s.actor :=
  onlyTlbs_actor (s := s) (t := s.recallRange a n) (onlyTlbs_recallRange s a n)

theorem actor_stowSquad (s : State) (f q : Nat) : (s.stowSquad f q).actor = s.actor := by
  have bare (t : State) (a n : Nat) : (t.unwrite a n).actor = t.actor := rfl
  have marks (t : State) (p : Nat) : (t.stowMarks q p).actor = t.actor := (congrArg State.actor (stowMarks_frame t q p)).trans rfl
  unfold State.stowSquad
  dsimp only
  rw [bare, actor_pasteMem, marks, actor_pasteMem, actor_pasteMem]

theorem actor_headerChanged (s : State) (g : Nat) : (s.headerChanged g).actor = s.actor := by
  unfold State.headerChanged
  dsimp only
  split <;> rfl

theorem actor_stowRegs (s : State) (g : Nat) : (s.stowRegs g).actor = s.actor := by
  unfold State.stowRegs
  rw [actor_headerChanged]
  change (s.stowSquads g _).actor = s.actor
  unfold State.stowSquads
  dsimp only
  split
  · rfl
  · exact List.foldlRecOn _ _ (motive := fun t : State => t.actor = s.actor) rfl (fun t ht q _ => (actor_stowSquad t _ q).trans ht)

theorem actor_leave (s : State) (g : Nat) (why : Away) : (s.leave g why).actor = s.actor := by
  unfold State.leave
  dsimp only
  split
  · change State.actor (if _ then _ else _) = _
    split
    · exact actor_stowRegs _ g
    · rfl
  · split <;> rfl
  · split <;> rfl

theorem byte_pasteMem_outside (s : State) {a n i : Nat} (c : Cells 8) (h : ¬ (a ≤ i ∧ i < a + n)) : (s.pasteMem a n c).byte i = s.byte i := by
  rw [byte_pasteMem, if_neg h]

theorem byte_stowSquad_outside (s : State) (f q : Nat) {i : Nat} (h : let r := (s.gangOf q).desc.recordAt f (blkidOfSquad q) (sqidOf q)
    ¬ (r ≤ i ∧ i < r + (4096 + 256 * (s.gangOf q).desc.nvws))) : (s.stowSquad f q).byte i = s.byte i := by
  dsimp only at h
  have marks (t : State) (p : Nat) : (t.stowMarks q p).byte i = t.byte i := (congrArg (State.byte · i) (stowMarks_frame t q p)).trans rfl
  have bare (t : State) (a n : Nat) : (t.unwrite a n).byte i = t.byte i := rfl
  unfold State.stowSquad
  dsimp only
  rw [bare, byte_pasteMem_outside, marks, byte_pasteMem_outside, byte_pasteMem_outside]
  · omega
  · unfold Desc.vregsAt; omega
  · unfold Desc.heldAt Desc.vregsAt; omega

/-- Stowing does not reach a byte that the gang has no frame around, its descriptor being one that 04 R89 lets pass. -/
def Unstowed (x : Gang) (i : Nat) : Prop := x.frame = none ∨ (x.desc.blocks ≠ 3 ∧ OutsideFrame x i)

theorem byte_stowSquads {s : State} {g i : Nat} {qs : List Nat} (h : Unstowed (s.gang g) i) (hq : ∀ q ∈ qs, q ∈ s.gangSquads g) :
    (s.stowSquads g qs).byte i = s.byte i := by
  unfold State.stowSquads
  dsimp only
  split
  · rfl
  next o ho =>
  obtain none | ⟨good, outside⟩ := h
  · rw [ho] at none; cases none
  change (qs.foldl _ s).byte i = s.byte i
  refine (List.foldlRecOn qs _ (motive := fun t => Stowed s t ∧ t.byte i = s.byte i) ⟨stowed_refl s, rfl⟩ fun t ht q hm => ?_).2
  obtain ⟨stowed, same⟩ := ht
  obtain ⟨gang, block, squad⟩ := of_mem_gangSquads good (hq q hm)
  have desc : (t.gangOf q).desc = (s.gang g).desc := by
    unfold State.gangOf
    rw [gang, stowed.2.1 g]
    rfl
  obtain ⟨lo, hi⟩ := recordAt_in_frame (s.gang g).desc ((s.gang g).frameAt o) block squad
  have away := outside o ho
  refine ⟨stowed_trans stowed (stowed_stowSquad ..), (byte_stowSquad_outside t _ q ?_).trans same⟩
  rw [desc]
  omega

theorem byte_stowRegs {s : State} {g i : Nat} (h : Unstowed (s.gang g) i) : (s.stowRegs g).byte i = s.byte i := by
  have header (t : State) : (t.headerChanged g).byte i = t.byte i := by
    unfold State.headerChanged
    dsimp only
    split <;> rfl
  unfold State.stowRegs
  rw [header]
  exact byte_stowSquads h (fun _ => id)

theorem unstowed_congr {x y : Gang} {i : Nat} (hf : y.frame = x.frame) (hd : y.desc = x.desc) (hr : y.ret = x.ret) (h : Unstowed x i) :
    Unstowed y i := by
  unfold Unstowed OutsideFrame Gang.frameAt at *
  rw [hf, hd, hr]
  exact h

/-- A gang that yields its cores stands on none already, or leaves them now (04 R102, R103). -/
theorem leave_yield_of_not_resident {s : State} {g : Nat} (h : (s.gang g).place ≠ .resident) : s.leave g .yield = s := by
  unfold State.leave
  dsimp only
  split
  · next hp => exact absurd hp h
  · rfl
  · rfl

theorem place_leave {s : State} {g : Nat} (h : (s.gang g).place = .resident) (why : Away) :
    ((s.leave g why).gang g).place = .leaving why := by
  obtain ⟨-, gang, -⟩ := stowed_leave h why
  rw [gang g, gang_setGang_same]
  rfl

theorem squads_leave (s : State) (g : Nat) (why : Away) : (s.leave g why).squads = s.squads := by
  by_cases h : (s.gang g).place = .resident
  · exact (stowed_leave h why).1
  · unfold State.leave
    dsimp only
    split
    · next hp => exact absurd hp h
    · split <;> rfl
    · split <;> rfl

theorem byte_leave {s : State} {g i : Nat} (h : Unstowed (s.gang g) i) (why : Away) : (s.leave g why).byte i = s.byte i := by
  unfold State.leave
  dsimp only
  split
  · change State.byte (if _ then _ else _) i = _
    split
    · refine byte_stowRegs (unstowed_congr ?_ ?_ ?_ h) <;> rw [gang_setGang_same]
    · rfl
  · split <;> rfl
  · split <;> rfl

end Sys2Proof.Machine
end

section
/-! SYNC, EXIT and YIELD of a squad that may leave its superstep (03 R71; 04 R103, R107). -/

namespace Sys2Proof.Machine

theorem checkAbsent_quiet {s : State} {b : Nat} (h : ∀ q ∈ s.squadsOf b, ∀ w, (s.squad q).run ≠ .diverge w) : s.checkAbsent b = s := by
  have nobody : s.diverging b = [] := by
    refine List.filter_eq_nil_iff.2 fun q hq => ?_
    cases hr : (s.squad q).run with
    | diverge w => exact absurd hr (h q (List.mem_filter.1 hq).1 w)
    | _ => simp
  unfold State.checkAbsent
  exact if_neg (fun hd => hd.1 nobody)

theorem deliverTiles_of_none {s : State} {b : Nat} (h : (s.block b).pacer.faults = []) : s.deliverTiles b = s := by
  unfold State.deliverTiles
  rw [h]
  rfl

/-- A block is as calm once one squad has gone to a state that waits for no other squad. -/
theorem calmBlock_apart {q b : Nat} {s t : State} (h : CalmBlock s b) (ht : Apart q s t) (hb : ∀ k, (t.squad q).run ≠ .barrier k)
    (hd : ∀ w, (t.squad q).run ≠ .diverge w) : CalmBlock t b := by
  obtain ⟨quiet, together, faults⟩ := h
  refine ⟨quietBlock_apart quiet ht hb, fun p hp w => ?_, by rw [ht.pacers]; exact faults⟩
  by_cases hpq : p = q
  · subst hpq; exact hd w
  · rw [ht.squads p hpq]
    refine together p ?_ w
    unfold State.squadsOf State.gang at hp ⊢
    rwa [ht.gangs] at hp

theorem slice_low_eq_zero_iff (a : BitVec 64) (k : Nat) : slice a 0 k = 0 ↔ a.toNat % 2 ^ k = 0 := by
  rw [← BitVec.toNat_inj]; simp

/-- The acting squad's record as it parks, its region ended. -/
abbrev Squad.parksAs (x : Squad) (r : RunState) : Squad := { x with region := none, run := r }

theorem drained_leaveChecks {s : State} (h : MayLeave s) (srcs : List (BitVec 6)) (tdst : BitVec 64) (k : List (BitVec 64) → State → Res) :
    s.drained srcs (fun vs u => u.leaveChecks tdst (k vs)) = k (srcs.map s.sq.readS) s.unlatched := by
  obtain ⟨⟨out, latch⟩, handler, stack, -⟩ := h
  have outside : ¬ s.unlatched.sq.handler.isSome = true := by simp [State.unlatched, handler]
  have closed : ¬ (s.unlatched.block (blockOfSquad s.unlatched.actor)).stack ≠ [] := not_not.2 stack
  rw [drained_ready s _ _ out latch]
  change s.unlatched.leaveChecks tdst _ = _
  unfold State.leaveChecks
  rw [if_neg outside, if_neg closed]

/-- s beside its acting squad, which has parked. -/
structure Parked (s t : State) (r : RunState) : Prop extends Apart s.actor s t where
  actor : t.actor = s.actor
  squad : t.sq = s.sq.parksAs r

theorem parked_parkAs {s w : State} (hl : s.sq.latch = none) (ha : w.actor = s.actor) (hs : w.squads = s.unlatched.squads)
    (hg : w.gangs = s.gangs) (hb : w.blocks = s.blocks) (r : RunState) : Parked s (w.parkAs r) r := by
  have squad (p : Nat) : w.squad p = s.unlatched.squad p := by unfold State.squad; rw [hs]
  have sq : w.sq = { s.sq with latch := none } := by
    unfold State.sq
    rw [ha, squad]
    exact sq_setSq s _
  refine ⟨⟨fun p hp => ?_, hg, fun b => ?_⟩, ha, ?_⟩
  · refine (squad_setSq_ne w _ p (by rwa [ha])).trans ((squad p).trans ?_)
    exact squad_setSq_ne s _ p hp
  · change (tabGet w.blocks b {}).pacer = _
    rw [hb]
    rfl
  · refine (sq_setSq w _).trans ?_
    rw [sq]
    simp [Squad.endRegion, hl]

theorem parked_unlatched {s : State} (h : MayLeave s) (r : RunState) : Parked s (s.unlatched.parkAs r) r :=
  parked_parkAs (w := s.unlatched) h.1.2 rfl rfl rfl rfl r

theorem onlySquad_unlatched_parkAs {s : State} (h : MayLeave s) (r : RunState) : OnlySquad s (s.unlatched.parkAs r) :=
  ⟨rfl, (parked_unlatched h r).squads, fun _ => rfl⟩

theorem Parked.run {s t : State} {r : RunState} (h : Parked s t r) : (t.squad s.actor).run = r := by
  rw [← h.actor]
  exact congrArg Squad.run h.squad

/-- The block of a squad that has parked is calm still, unless it waits for other squads. -/
theorem Parked.calm {s t : State} {r : RunState} (h : Parked s t r) (hs : MayLeave s) (hb : ∀ k, r ≠ .barrier k)
    (hd : ∀ w, r ≠ .diverge w) : CalmBlock t (blockOfSquad s.actor) := by
  obtain ⟨-, -, -, calm⟩ := hs
  exact calmBlock_apart calm h.toApart (fun k => h.run ▸ hb k) (fun w => h.run ▸ hd w)

theorem exec_sync {s : State} (h : MayLeave s) (m : BitVec 1) (d : BitVec 6) :
    exec (.sync m d) s = .next (s.unlatched.parkAs (.sync d (s.job (s.jobOf s.actor)).jstep)) := by
  obtain ⟨-, together, -⟩ := (parked_unlatched h (.sync d (s.job (s.jobOf s.actor)).jstep)).calm h nofun nofun
  change execSync m d s = _
  unfold execSync
  rw [drained_leaveChecks h]
  exact congrArg Host.Outcome.next (checkAbsent_quiet together)

theorem exec_exit {s : State} (h : MayLeave s) (m : BitVec 1) : exec (.exit m) s = .next (s.unlatched.parkAs .exited) := by
  obtain ⟨quiet, together, faults⟩ := (parked_unlatched h .exited).calm h nofun nofun
  change execExit m s = _
  unfold execExit
  rw [drained_leaveChecks h]
  change Host.Outcome.next ((((s.unlatched.parkAs .exited).deliverTiles (blockOfSquad s.actor)).checkAbsent (blockOfSquad s.actor)).barriers
    (blockOfSquad s.actor)) = _
  rw [deliverTiles_of_none faults, checkAbsent_quiet together, barriers_quiet quiet]

theorem onlyTlbs_of_access {s t : State} {b : Nat} {kind : Kind} {a : BitVec 64} {n : Nat} {r : Acc} (h : s.access b kind a n = (t, r)) :
    OnlyTlbs s t := by
  have := onlyTlbs_access s b kind a n
  rwa [h] at this

/-- The state in which a YIELD has parked its squad, the checks of its word having left the machine at v. -/
def State.yielded (v : State) (k : Nat) (value cont : BitVec 64) : State := (v.checkStorage k).parkAs (.yield k value cont)

theorem parked_yielded {s v : State} (h : MayLeave s) (hv : OnlyTlbs s.unlatched v) (k : Nat) (value cont : BitVec 64) :
    Parked s (v.yielded k value cont) (.yield k value cont) := by
  unfold State.yielded
  have frame := checkStorage_frame v k
  have actor : v.actor = s.actor := onlyTlbs_actor (s := s.unlatched) hv
  have squads : v.squads = s.unlatched.squads := onlyTlbs_squads hv
  have gangs : v.gangs = s.gangs := onlyTlbs_gangs (s := s.unlatched) hv
  have blocks : v.blocks = s.blocks := onlyTlbs_blocks (s := s.unlatched) hv
  exact parked_parkAs h.1.2 ((congrArg State.actor frame).trans actor) ((congrArg State.squads frame).trans squads)
    ((congrArg State.gangs frame).trans gangs) ((congrArg State.blocks frame).trans blocks) _

theorem byte_yielded (v : State) (k : Nat) (value cont : BitVec 64) (i : Nat) : (v.yielded k value cont).byte i = v.byte i :=
  congrArg (cellGet · i) (checkStorage_mem v k)

/-- A YIELD on a readable word: its squad parks, and with the last unexited squad of its gang the gang leaves. -/
theorem exec_yield {s v : State} (h : MayLeave s) (m : BitVec 1) {a b c : BitVec 6} {k : Nat} {ca : Bool}
    (ha : (s.sq.readS a).toNat % 8 = 0) (hc : (s.sq.readS c).toNat % 4 = 0)
    (hv : s.unlatched.access (blockOfSquad s.actor) .read (s.sq.readS a) 8 = (v, .ok k ca)) :
    let y := v.yielded k (s.sq.readS b) (s.sq.readS c)
    exec (.yield m a b c) s = .next (if y.allYield (gangOfSquad s.actor) then y.leave (gangOfSquad s.actor) .yield else y) := by
  intro y
  have parked := parked_yielded h (onlyTlbs_of_access hv) k (s.sq.readS b) (s.sq.readS c)
  obtain ⟨-, together, -⟩ := parked.calm h nofun nofun
  have alignedCont : ¬ slice (s.sq.readS c) 0 2 ≠ 0 := not_not.2 ((slice_low_eq_zero_iff _ 2).2 hc)
  have alignedWord : ¬ slice (s.sq.readS a) 0 3 ≠ 0 := not_not.2 ((slice_low_eq_zero_iff _ 3).2 ha)
  change execYield m a b c s = _
  unfold execYield
  rw [drained_leaveChecks h]
  dsimp only [argAt, listAt, List.map, List.getElem?_cons_zero, List.getElem?_cons_succ, Option.getD_some]
  rw [if_neg alignedCont, if_neg alignedWord]
  rw [show s.unlatched.actor = s.actor from rfl, hv]
  change Host.Outcome.next (if y.allYield (gangOfSquad y.actor) then y.leave (gangOfSquad y.actor) .yield
    else y.checkAbsent (blockOfSquad y.actor)) = _
  rw [parked.actor, checkAbsent_quiet together]

/-- Where a gang stands, one of whose squads has parked in YIELD: the state y after the word, and t once the gang has left where all have
yielded. -/
structure YieldEnds (s y t : State) (g : Nat) : Prop where
  actor : t.actor = y.actor
  squads : t.squads = y.squads
  stays : (t.gang g).place = (s.gang g).place → t.mem = y.mem
  outside : ∀ i, Unstowed (s.gang g) i → t.byte i = y.byte i
  leaves : y.allYield g = true → (s.gang g).place = .resident → (t.gang g).place = .leaving .yield
  waits : y.allYield g = false → (t.gang g).place = (s.gang g).place

theorem YieldEnds.squad {s y t : State} {g : Nat} (h : YieldEnds s y t g) (q : Nat) : t.squad q = y.squad q := by
  unfold State.squad
  rw [h.squads]

theorem YieldEnds.sq {s y t : State} {g : Nat} (h : YieldEnds s y t g) : t.sq = y.sq := by
  unfold State.sq
  rw [h.actor, h.squad]

theorem yieldEnds {s y : State} {g : Nat} (hg : y.gang g = s.gang g) : YieldEnds s y (if y.allYield g then y.leave g .yield else y) g := by
  by_cases all : y.allYield g = true
  · rw [if_pos all]
    refine ⟨actor_leave .., squads_leave .., fun same => ?_, fun i hi => byte_leave (hg ▸ hi) _,
      fun _ resident => place_leave (hg ▸ resident) _,
      fun some => absurd all (by simp [some])⟩
    have off : (y.gang g).place ≠ .resident := by
      intro resident
      rw [place_leave resident, ← hg, resident] at same
      cases same
    rw [leave_yield_of_not_resident off]
  · rw [if_neg all]
    exact ⟨rfl, rfl, fun _ => rfl, fun _ _ => rfl, fun yes => absurd yes all, fun _ => by rw [hg]⟩

theorem allYield_iff (s : State) (g : Nat) :
    s.allYield g = true ↔ ∀ q ∈ s.gangSquads g, (s.squad q).exited = true ∨ ∃ x y z, (s.squad q).run = .yield x y z := by
  have one (r : RunState) : (match r with | .yield _ _ _ => true | _ => false) = true ↔ ∃ x y z, r = .yield x y z := by
    cases r <;> simp
  unfold State.allYield
  simp only [List.all_eq_true, Bool.or_eq_true]
  exact forall₂_congr fun q _ => or_congr_right (one _)

theorem gangSquads_congr {s t : State} (h : t.gangs = s.gangs) (g : Nat) : t.gangSquads g = s.gangSquads g := by
  unfold State.gangSquads State.blocksOf State.squadsOf State.gang
  rw [h]

/-- Settles O45: a squad that may leave its superstep parks with its region ended, and a gang that leaves its cores by a YIELD writes to its
frame alone. -/
theorem syncExitYield : Obligations.SyncExitYield := by
  unfold Obligations.SyncExitYield
  intro s m h
  refine ⟨fun d => ⟨_, exec_sync h m d, onlySquad_unlatched_parkAs h _, (parked_unlatched h _).squad⟩,
    ⟨_, exec_exit h m, onlySquad_unlatched_parkAs h _, (parked_unlatched h _).squad⟩, fun a b c v k ca ha hc hv => ?_⟩
  have parked := parked_yielded h (onlyTlbs_of_access hv) k (s.sq.readS b) (s.sq.readS c)
  have gang : (v.yielded k (s.sq.readS b) (s.sq.readS c)).gang (gangOfSquad s.actor) = s.gangOf s.actor := by
    unfold State.gangOf State.gang
    rw [parked.gangs]
  have ends := yieldEnds gang
  have members := gangSquads_congr parked.gangs (gangOfSquad s.actor)
  refine ⟨_, exec_yield h m ha hc hv, fun p hp => (ends.squad p).trans (parked.squads p hp), ?_, ?_, ?_, ?_, ?_⟩
  · rintro (none | same) i
    · exact (ends.outside i (.inl none)).trans (byte_yielded ..)
    · exact (congrArg (cellGet · i) (ends.stays same)).trans (byte_yielded ..)
  · intro good i outside
    exact (ends.outside i (.inr ⟨blocks_ne_three_of_checkDesc good, outside⟩)).trans (byte_yielded ..)
  · exact ends.sq.trans parked.squad
  · intro others resident
    refine ends.leaves ((allYield_iff _ _).2 fun q hq => ?_) resident
    rw [members] at hq
    by_cases self : q = s.actor
    · subst self
      exact .inr ⟨_, _, _, parked.run⟩
    · rw [parked.squads q self]
      exact others q hq self
  · rintro ⟨q, hq, other, running⟩
    refine ends.waits (Bool.eq_false_iff.2 fun all => ?_)
    have ended := (allYield_iff _ _).1 all q (members ▸ hq)
    rw [parked.squads q other] at ended
    obtain exited | ⟨_, _, _, yields⟩ := ended
    · simp [Squad.exited, running] at exited
    · rw [running] at yields; cases yields

end Sys2Proof.Machine
end

section
/-! O49's clause on parked squads fails for a gang of eight blocks (Table 4-1 reserves BLOCKS 3, 04 R89 refuses it): its blocks' numbers
run on into those of the next gang, and what a squad waits for is asked of the gang that its number names. -/

namespace Sys2Proof.Machine

/-- An exchange superstep of device 0. Gang 0 stands there with eight blocks, of which 4 to 7 are gang 1's by their numbers; gang 1 has
been pre-empted on device 1. Squad 64, the first of block 4, is parked in SYNC, and gang 1's job has gone a step on since. -/
def straddlingState : State :=
  { devs := [(0, { phase := 1 })]
    jobs := [(jobKey 1 0, { jstep := 1 })]
    gangs := [(0, { desc := { blocks := 3 } }), (1, { ret := 48, place := .away .preempt })]
    squads := [(64, { run := .sync 1 0 })] }

theorem straddlingState_gangsOn : straddlingState.gangsOn 0 = [0] := by decide

theorem squad_straddlingState (q : Nat) : straddlingState.squad q = { run := if q = 64 then .sync 1 0 else .running } := by
  by_cases h : q = 64
  · subst h; rfl
  · have none : tabGet? straddlingState.squads q = none := by simp [straddlingState, tabGet?, Ne.symm h]
    simp [State.squad, tabGet, none, h]

theorem settled_straddlingState : Settled straddlingState 0 := by
  intro g hg
  rw [straddlingState_gangsOn, List.mem_singleton] at hg
  subst hg
  refine ⟨by decide, by decide, fun q _ => ?_, fun b _ k m => PacerRun.noConfusion⟩
  rw [squad_straddlingState]
  exact ⟨rfl, fun k => by dsimp only; split <;> exact RunState.noConfusion⟩

/-- The boundary leaves the squad where it is: gang 1 issues nothing. -/
theorem straddlingState_stays : ((run1 (.exchangeToComputeBoundary 0 0) straddlingState).squad 64).run = .sync 1 0 := by decide +kernel

/-- Refutes O49: in `straddlingState`, squad 64 of gang 0, parked in SYNC at JSTEP 0 of a job now at JSTEP 1, does not go on at the boundary. -/
theorem not_boundaries : ¬ Obligations.Boundaries := by
  unfold Obligations.Boundaries
  rintro ⟨-, -, -, resumesParked, -⟩
  obtain ⟨t, ran, resumed⟩ := resumesParked straddlingState 0 0 (by decide) settled_straddlingState rfl
    (fun r _ => ⟨⟨rfl, rfl, rfl, rfl, rfl, rfl, rfl⟩, fun p hp => by cases hp⟩)
    (fun g hg => by
      rw [straddlingState_gangsOn, List.mem_singleton] at hg
      subst hg
      decide)
    (.inl (by decide))
  obtain ⟨sync, -⟩ := resumed 0 (by decide) 64 (by decide)
  obtain ⟨-, goesOn⟩ := sync 1 0 rfl
  have run := congrArg Squad.run (goesOn (by decide)).1
  have stays := straddlingState_stays
  unfold run1 at stays
  rw [ran] at stays
  exact RunState.noConfusion (stays.symm.trans run)

end Sys2Proof.Machine
end

section
/-! Launches queued by POST and SUBMIT (04 R89, R91, R92, R104): what the poster's record read leaves, and what an entry of a queue is. -/

namespace Sys2Proof.Machine

-- A record read (10 R368) ------------------------------------------------------------------------------------------------------

/-- t is s but for what a record read touches: the TLBs and the memory its walks write, the lines it recalls, the order of what it read,
and storage met that is not there. -/
def RecordReads (s t : State) : Prop :=
  t = { s with mem := t.mem, hist := t.hist, rets := t.rets, cores := t.cores, columns := t.columns, stop := t.stop }

theorem recordReads_trans {s t u : State} (h : RecordReads s t) (k : RecordReads t u) : RecordReads s u := by
  unfold RecordReads at *
  rw [k, h]

theorem recordReads_of_onlyTlbs {s t : State} (h : OnlyTlbs s t) : RecordReads s t := by
  unfold RecordReads
  rw [h]

theorem recordReads_of_learns {s t : State} {p : Party} (h : Learns s t p) : RecordReads s t := by
  unfold RecordReads
  rw [h.1]
  rfl

theorem recordReads_checkStorage (s : State) (a : Nat) : RecordReads s (s.checkStorage a) := by
  unfold RecordReads
  rw [checkStorage_frame]

theorem RecordReads.actor {s t : State} (h : RecordReads s t) : t.actor = s.actor := by rw [h]
theorem RecordReads.squads {s t : State} (h : RecordReads s t) : t.squads = s.squads := by rw [h]
theorem RecordReads.gangs {s t : State} (h : RecordReads s t) : t.gangs = s.gangs := by rw [h]

theorem recordReads_recordParts (s : State) (va : BitVec 64) (n : Nat) (as : List Nat) : RecordReads s (s.recordParts va n as).1 := by
  induction n generalizing s va as with
  | zero => rfl
  | succ n ih =>
    have access := recordReads_of_onlyTlbs (onlyTlbs_access s (blockOfSquad s.actor) .read va 8)
    unfold State.recordParts
    rcases ha : s.access (blockOfSquad s.actor) .read va 8 with ⟨u, r⟩
    rw [ha] at access
    cases r with
    | ok a c => exact recordReads_trans access (recordReads_trans (recordReads_checkStorage u a) (ih ..))
    | _ => exact access

theorem recordReads_readRecord {s v : State} {va : BitVec 64} {n : Nat} {tdst : BitVec 64} {ds : List (BitVec 64)}
    (h : s.readRecord va n tdst = .ok v ds) : RecordReads s v := by
  have parts := recordReads_recordParts s va n []
  unfold State.readRecord at h
  split at h
  · cases h
  rcases hu : s.recordParts va n [] with ⟨u, r⟩
  rw [hu] at h parts
  cases r with
  | error e => cases e <;> cases h
  | ok as =>
    dsimp only at h
    split at h
    · cases h
    split at h
    · cases h
    cases h
    exact List.foldlRecOn _ _ (motive := RecordReads s) parts fun t ht a _ => recordReads_trans ht
      (recordReads_trans (recordReads_of_onlyTlbs (onlyTlbs_recall t a)) (recordReads_of_learns (learns_observe ..)))

-- An entry of a queue (04 R92) ------------------------------------------------------------------------------------------------

/-- The entry that a descriptor becomes in its queue. -/
def State.entryFor (s : State) (d : Desc) (word : BitVec 64) : Entry := ⟨s.clock, d, d.gcount.toNat, 0, 0, false, false, false, word⟩

theorem entries_enqueue (s : State) (r : Nat) (d : Desc) (word : BitVec 64) :
    ((s.enqueue r d word).ret r).entries = (s.ret r).entries ++ [s.entryFor d word] := by
  have ret : (s.enqueue r d word).ret r = { s.ret r with entries := (s.ret r).entries ++ [s.entryFor d word] } := ret_setRet_same s r _
  rw [ret]

-- POST (04 R104) ----------------------------------------------------------------------------------------------------------------

/-- A card as a gang posts it: of the gang's job and address space, and of no higher priority. -/
def Gang.posts (g : Gang) (c : Desc) : Desc :=
  { c with job := BitVec.ofNat 16 g.job, asid := g.desc.asid, prio := if g.desc.prio < c.prio then g.desc.prio else c.prio }

theorem exec_post {s v : State} (h : Unparked s) (m : BitVec 1) (d a b : BitVec 6) {ds : List (BitVec 64)}
    (hv : s.unlatched.readRecord (s.sq.readS a) 8 (tdstScalar d) = .ok v ds) :
    exec (.post m d a b) s = .next (v.regionEnds.postCard m d (s.sq.readS a) (s.sq.readS b) ds) := by
  obtain ⟨out, latch⟩ := h
  change execPost m d a b s = _
  unfold execPost
  rw [waitRegion_ready s _ _ (.inr out), atIssue_fresh _ _ latch]
  change (match s.unlatched.readRecord (s.sq.readS a) 8 (tdstScalar d) with
    | .stop v => Host.Outcome.next v
    | .wait v => .next (v.holdWord _)
    | .ok v ds => .next (v.regionEnds.postCard m d (s.sq.readS a) (s.sq.readS b) ds)) = _
  rw [hv]

/-- A card that passes its checks goes to the poster's own reticle. -/
theorem postCard_own (s : State) (m : BitVec 1) (d : BitVec 6) (addr : BitVec 64) (ds : List (BitVec 64))
    (good : checkDesc ((s.gangOf s.actor).posts (parseDesc ds)) (descReserved ds) = 0)
    (free : (s.ret (s.gangOf s.actor).ret).queueFree ((s.gangOf s.actor).posts (parseDesc ds)).prio = true) :
    s.postCard m d addr 0 ds = ((s.enqueue (s.gangOf s.actor).ret ((s.gangOf s.actor).posts (parseDesc ds)) 0).issueValue d 0).done m := by
  unfold Gang.posts at good free ⊢
  unfold State.postCard
  dsimp only
  rw [if_neg (by decide), if_neg (fun h => h.1 rfl), if_neg (not_not.2 good), if_pos rfl, if_pos free]

/-- A scalar destination is one register. -/
theorem halves_value_dstS (x : Squad) (d : BitVec 6) (v : BitVec 64) : (OutKind.value (x.dstS d) v).halves = [.value (x.dstS d) v] := by
  unfold Squad.dstS
  split <;> rfl

/-- The acting squad's record once its word has left a value outstanding and is done. -/
theorem sq_issueValue_done (s : State) (d : BitVec 6) (v : BitVec 64) (m : BitVec 1) (h : s.sq.out = []) :
    ∃ o, o.kind = .value (s.sq.dstS d) v ∧ ((s.issueValue d v).done m).sq.out = [o] ∧
      ((s.issueValue d v).done m).sq.region = s.sq.region ∧ ((s.issueValue d v).done m).sq.pc = s.sq.pc + 4 := by
  refine ⟨s.outst .ordinary 0 0 tdstNone none (.value (s.sq.dstS d) v), rfl, ?_⟩
  have issued : (s.issueValue d v).sq = { s.sq with out := [s.outst .ordinary 0 0 tdstNone none (.value (s.sq.dstS d) v)] } := by
    unfold State.issueValue
    rw [sq_issue, h]
    simp [halves_value_dstS]
  rw [done_spec, sq_setSq, issued]
  exact ⟨rfl, rfl, rfl⟩

theorem squad_issueValue_done (s : State) (d : BitVec 6) (v : BitVec 64) (m : BitVec 1) {q : Nat} (h : q ≠ s.actor) :
    ((s.issueValue d v).done m).squad q = s.squad q :=
  (squad_setSq_ne (s.issueValue d v) _ q h).trans (squad_setSq_ne s _ q h)

/-- What a POST whose card is queued leaves, its record read having left the machine at v. -/
theorem post_queued {s v : State} (h : Unparked s) (m : BitVec 1) {d a b : BitVec 6} {ds : List (BitVec 64)}
    (hv : s.unlatched.readRecord (s.sq.readS a) 8 (tdstScalar d) = .ok v ds) (own : s.sq.readS b = 0)
    (good : checkDesc ((s.gangOf s.actor).posts (parseDesc ds)) (descReserved ds) = 0)
    (free : (v.ret (s.gangOf s.actor).ret).queueFree ((s.gangOf s.actor).posts (parseDesc ds)).prio = true) :
    ∃ t o e, exec (.post m d a b) s = .next t ∧ SameBytes v t ∧ SameSquadsBut s.actor s t ∧ t.sq.out = [o] ∧ t.sq.region = none ∧
      o.kind = .value (s.sq.dstS d) 0 ∧ t.sq.pc = s.sq.pc + 4 ∧
      (t.ret (s.gangOf s.actor).ret).entries = (v.ret (s.gangOf s.actor).ret).entries ++ [e] ∧
      e.desc = (s.gangOf s.actor).posts (parseDesc ds) ∧ e.left = ((s.gangOf s.actor).posts (parseDesc ds)).gcount.toNat ∧ e.next = 0 := by
  have reads := recordReads_readRecord hv
  have actor : v.actor = s.actor := reads.actor
  have gang : v.regionEnds.gangOf v.regionEnds.actor = s.gangOf s.actor := by
    change tabGet v.gangs (gangOfSquad v.actor) {} = _
    rw [reads.gangs, actor]
    rfl
  have squad (q : Nat) : v.squad q = s.unlatched.squad q := by unfold State.squad; rw [reads.squads]
  have sq : v.regionEnds.sq = { s.sq with region := none, latch := none } := by
    have : v.sq = { s.sq with latch := none } := by
      unfold State.sq
      rw [actor, squad]
      exact sq_setSq s _
    refine (sq_setSq v _).trans ?_
    rw [this]
    rfl
  have queued := postCard_own v.regionEnds m d (s.sq.readS a) ds (by rwa [gang]) (by rwa [gang])
  rw [gang] at queued
  let u := v.regionEnds.enqueue (s.gangOf s.actor).ret ((s.gangOf s.actor).posts (parseDesc ds)) 0
  have usq : u.sq = { s.sq with region := none, latch := none } := sq
  obtain ⟨o, kind, out, region, pc⟩ := sq_issueValue_done u d 0 m (by rw [usq]; exact h.1)
  rw [usq] at kind region pc
  refine ⟨(u.issueValue d 0).done m, o, v.regionEnds.entryFor ((s.gangOf s.actor).posts (parseDesc ds)) 0, ?_, fun _ => rfl, fun q hq => ?_,
    out, region, kind, pc, entries_enqueue v.regionEnds _ _ 0, rfl, rfl, rfl⟩
  · rw [exec_post h m d a b hv, own, queued]
  · refine (squad_issueValue_done u d 0 m (by rwa [← actor] at hq)).trans ?_
    refine (squad_setSq_ne v _ q (by rwa [← actor] at hq)).trans ((squad q).trans ?_)
    exact squad_setSq_ne s _ q hq

-- SUBMIT (04 R91) ---------------------------------------------------------------------------------------------------------------

/-- The physical address that a write to a submission port names. -/
abbrev submitAddr (value : BitVec 64) : Nat := value.toNat / 64 % 2 ^ 46 * 64

/-- The machine once the home of machine address a has recalled its line. -/
def State.recalls (s : State) (a : Nat) : State := (s.checkStorage a).recall a

theorem recalls_frame (s : State) (a : Nat) : s.recalls a = { s with stop := (s.checkStorage a).stop, rets := (s.recalls a).rets } := by
  have storage := checkStorage_frame s a
  have line := recall_frame (s.checkStorage a) a
  unfold State.recalls
  rw [line, storage]

theorem recalls_mem (s : State) (a : Nat) : (s.recalls a).mem = s.mem := by rw [recalls_frame]
theorem recalls_bad (s : State) (a : Nat) : (s.recalls a).bad = s.bad := by rw [recalls_frame]
theorem recalls_jobs (s : State) (a : Nat) : (s.recalls a).jobs = s.jobs := by rw [recalls_frame]
theorem recalls_squads (s : State) (a : Nat) : (s.recalls a).squads = s.squads := by rw [recalls_frame]

theorem recall_ret (s : State) (a r : Nat) : (s.recall a).ret r = { s.ret r with snoop := ((s.recall a).ret r).snoop } := by
  unfold State.recall
  dsimp only
  split
  · split
    · by_cases h : r = 48 * (a / 2 ^ 52) + homeOf a
      · subst h; rw [ret_setRet_same]
      · rw [ret_setRet_ne _ _ _ _ h]
    · rfl
  · rfl

theorem recalls_ret (s : State) (a r : Nat) : (s.recalls a).ret r = { s.ret r with snoop := ((s.recalls a).ret r).snoop } := by
  have storage : (s.checkStorage a).ret r = s.ret r := by rw [checkStorage_frame]; rfl
  have line := recall_ret (s.checkStorage a) a r
  rw [storage] at line
  exact line

theorem readDesc_congr {s t : State} (h : t.mem = s.mem) (d pa : Nat) : t.readDesc d pa = s.readDesc d pa := by
  unfold State.readDesc
  refine List.map_congr_left fun i _ => congrArg _ (read_congr _ _ 8 _ fun j _ _ => ?_)
  unfold State.byte
  rw [h]

theorem descBad_congr {s t : State} (h : t.bad = s.bad) (d pa : Nat) : t.descBad d pa = s.descBad d pa := by
  unfold State.descBad State.isBad
  rw [h]

theorem liveJob_congr {s t : State} (h : t.jobs = s.jobs) (d : Nat) (c : Desc) : t.liveJob d c = s.liveJob d c := by
  unfold State.liveJob State.jobLive
  rw [h]

theorem slice_submitAddr (value : BitVec 64) : (slice value 6 46).toNat * 64 = submitAddr value := by
  simp [slice, BitVec.extractLsb'_toNat, Nat.shiftRight_eq_div_pow]

/-- The descriptor that stands at a physical address. -/
def State.descAt (s : State) (d pa : Nat) : Desc := parseDesc (s.readDesc d pa)

/-- The status of its submission (04 R89, R91). -/
def State.submitStatus (s : State) (d pa : Nat) : Nat :=
  if s.liveJob d (s.descAt d pa) then checkDesc (s.descAt d pa) (descReserved (s.readDesc d pa)) else 0x15

/-- A write to a port that is done: a descriptor with uncorrectable data, one that is refused, one that is accepted. -/
theorem exec_submit {s t : State} {r n : Nat} {value : BitVec 64} (hn : n < 16) (done : (tabGet (s.ret r).ports n {}).done = true)
    (ht : t = s.recalls (physAddr (devOfRet r) (submitAddr value))) :
    exec (.submit r n value) s =
      if s.descBad (devOfRet r) (submitAddr value) then .next (t.setPort r n ⟨true, Config.badDescStatus t.clock, none⟩).tick
      else if s.submitStatus (devOfRet r) (submitAddr value) ≠ 0 then
        .next (t.setPort r n ⟨true, BitVec.ofNat 8 (s.submitStatus (devOfRet r) (submitAddr value)), none⟩)
      else .next ((((t.handOff .host (devOfRet r)).handOff (.service (devOfRet r)) (devOfRet r)).setPort r n
        ⟨false, 0, some (s.descAt (devOfRet r) (submitAddr value))⟩).retryPort r n) := by
  have accepts : ¬ (16 ≤ n ∨ (tabGet (s.ret r).ports n {}).done = false) := by rw [done]; simp; omega
  have desc := readDesc_congr (ht ▸ recalls_mem s _) (devOfRet r) (submitAddr value)
  have bad := descBad_congr (ht ▸ recalls_bad s _) (devOfRet r) (submitAddr value)
  have live := liveJob_congr (ht ▸ recalls_jobs s _) (devOfRet r)
  change execSubmit r n value s = _
  unfold execSubmit State.submitStatus State.descAt
  dsimp only
  rw [if_neg accepts, slice_submitAddr]
  simp only [← desc, ← live, ← bad, ht]
  rfl

/-- What a submission leaves of the machine: memory, squads, and the queues as it found them. -/
structure SubmitLeaves (s t : State) (r n : Nat) (new : List Entry) (p : Port) : Prop where
  bytes : SameBytes s t
  squads : t.squads = s.squads
  entries : (t.ret r).entries = (s.ret r).entries ++ new
  port : tabGet (t.ret r).ports n {} = p

/-- A port's record written. -/
theorem submitLeaves_setPort {s u : State} {r n : Nat} {new : List Entry} {p : Port} (h : SubmitLeaves s u r n new p) (q : Port) :
    SubmitLeaves s (u.setPort r n q) r n new q := by
  have ret : (u.setPort r n q).ret r = { u.ret r with ports := tabPut (u.ret r).ports n q } := ret_setRet_same u r _
  exact ⟨h.bytes, h.squads, by rw [ret]; exact h.entries, by rw [ret]; exact tabGet_tabPut_same ..⟩

theorem submitLeaves_recalls (s : State) (r n a : Nat) :
    SubmitLeaves s (s.recalls a) r n [] (tabGet (s.ret r).ports n {}) := by
  have ret := recalls_ret s a r
  refine ⟨fun i => ?_, recalls_squads s a, by rw [ret, List.append_nil], by rw [ret]⟩
  unfold State.byte
  rw [recalls_mem]

theorem submitLeaves_handOff {s u : State} {r n : Nat} {new : List Entry} {p : Port} (h : SubmitLeaves s u r n new p) (q : Party) (d : Nat) :
    SubmitLeaves s (u.handOff q d) r n new p := ⟨h.bytes, h.squads, h.entries, h.port⟩

theorem submitLeaves_tick {s u : State} {r n : Nat} {new : List Entry} {p : Port} (h : SubmitLeaves s u r n new p) :
    SubmitLeaves s u.tick r n new p := ⟨h.bytes, h.squads, h.entries, h.port⟩

/-- A submission with room in its queue is queued as it is made. -/
theorem submitLeaves_retryPort {s u : State} {r n : Nat} {c : Desc} (h : SubmitLeaves s u r n [] ⟨false, 0, some c⟩)
    (free : (s.ret r).queueFree c.prio = true) :
    SubmitLeaves s (u.retryPort r n) r n [u.entryFor c 0] ⟨true, 0, none⟩ := by
  have entries := h.entries
  rw [List.append_nil] at entries
  have room : (u.ret r).queueFree c.prio = true := by
    unfold Reticle.queueFree Reticle.queueLen at free ⊢
    rwa [entries]
  have retried : u.retryPort r n = (u.enqueue r c 0).setPort r n ⟨true, 0, none⟩ := by
    unfold State.retryPort
    dsimp only
    rw [h.port]
    exact if_pos room
  rw [retried]
  have queued : SubmitLeaves s (u.enqueue r c 0) r n [u.entryFor c 0] (tabGet ((u.enqueue r c 0).ret r).ports n {}) :=
    ⟨h.bytes, h.squads, by rw [entries_enqueue, entries], rfl⟩
  exact submitLeaves_setPort queued _

section
variable {s : State} {r n : Nat} {value : BitVec 64} (hn : n < 16) (done : (tabGet (s.ret r).ports n {}).done = true)
include hn done

/-- A descriptor of a live job that passes its checks, with room in its queue. -/
theorem submit_queued (clean : s.descBad (devOfRet r) (submitAddr value) = false)
    (good : s.submitStatus (devOfRet r) (submitAddr value) = 0)
    (free : (s.ret r).queueFree (s.descAt (devOfRet r) (submitAddr value)).prio = true) :
    ∃ t e, exec (.submit r n value) s = .next t ∧ e.desc = s.descAt (devOfRet r) (submitAddr value) ∧
      SubmitLeaves s t r n [e] ⟨true, 0, none⟩ := by
  have runs := exec_submit (value := value) hn done rfl
  rw [if_neg (by rw [clean]; exact Bool.false_ne_true), if_neg (not_not.2 good)] at runs
  have meets := submitLeaves_recalls s r n (physAddr (devOfRet r) (submitAddr value))
  have handed := submitLeaves_handOff (submitLeaves_handOff meets .host (devOfRet r)) (.service (devOfRet r)) (devOfRet r)
  exact ⟨_, _, runs, rfl, submitLeaves_retryPort (submitLeaves_setPort handed _) free⟩

/-- A descriptor that is refused: its status is reported, and nothing queued. -/
theorem submit_refused (clean : s.descBad (devOfRet r) (submitAddr value) = false)
    (bad : s.submitStatus (devOfRet r) (submitAddr value) ≠ 0) :
    ∃ t, exec (.submit r n value) s = .next t ∧
      SubmitLeaves s t r n [] ⟨true, BitVec.ofNat 8 (s.submitStatus (devOfRet r) (submitAddr value)), none⟩ := by
  have runs := exec_submit (value := value) hn done rfl
  rw [if_neg (by rw [clean]; exact Bool.false_ne_true), if_pos bad] at runs
  exact ⟨_, runs, submitLeaves_setPort (submitLeaves_recalls s r n _) _⟩

/-- A descriptor that holds uncorrectable data (16 R366). -/
theorem submit_uncorrectable (corrupt : s.descBad (devOfRet r) (submitAddr value) = true) :
    ∃ t st, exec (.submit r n value) s = .next t ∧ SubmitLeaves s t r n [] ⟨true, st, none⟩ := by
  have runs := exec_submit (value := value) hn done rfl
  rw [if_pos corrupt] at runs
  exact ⟨_, _, runs, submitLeaves_tick (submitLeaves_setPort (submitLeaves_recalls s r n _) _)⟩

end

/-- Settles O48: POST by what its record read leaves, SUBMIT by the status of its descriptor. -/
theorem postAndSubmit : Obligations.PostAndSubmit := by
  unfold Obligations.PostAndSubmit
  refine ⟨fun s m d a b v ds h hv own good free => post_queued h m hv own good free,
    fun s r n value hn done clean => ⟨fun live good free => ?_, fun live bad => ?_, fun dead => ?_⟩, fun s r n value hn done corrupt => ?_⟩
  · have status : s.submitStatus (devOfRet r) (submitAddr value) = 0 := (if_pos live).trans good
    obtain ⟨t, e, runs, desc, bytes, squads, entries, port⟩ := submit_queued hn done clean status free
    exact ⟨t, e, runs, bytes, squads, entries, desc, port⟩
  · have status : s.submitStatus (devOfRet r) (submitAddr value) = checkDesc _ _ := if_pos live
    obtain ⟨t, runs, bytes, squads, entries, port⟩ := submit_refused hn done clean (by rw [status]; exact bad)
    exact ⟨t, runs, bytes, squads, entries.trans (List.append_nil _), by rw [port, status]; rfl⟩
  · have status : s.submitStatus (devOfRet r) (submitAddr value) = 0x15 := if_neg fun live => Bool.false_ne_true (dead.symm.trans live)
    obtain ⟨t, runs, bytes, squads, entries, port⟩ := submit_refused hn done clean (by rw [status]; decide)
    exact ⟨t, runs, bytes, squads, entries.trans (List.append_nil _), by rw [port, status]; rfl⟩
  · obtain ⟨t, st, runs, bytes, squads, entries, port⟩ := submit_uncorrectable hn done corrupt
    exact ⟨t, st, runs, bytes, squads, entries.trans (List.append_nil _), port⟩

end Sys2Proof.Machine
end

section
/-! The images of a gang in its frame (16 R319, R320, Table 16-4): what spilling a block writes, and what filling it writes. -/

namespace Sys2Proof.Machine

-- What moving to and from frames changes of the machine ----------------------------------------------------------------

/-- t is s but for what moving to and from the frames of the gangs gs changes: memory, the host's lines and overwrites, marks, blocks, and
of these gangs alone their records. -/
structure MovesFrames (gs : Set Nat) (s t : State) : Prop where
  frame : t = { s with mem := t.mem, rets := t.rets, blocks := t.blocks, bad := t.bad, wrote := t.wrote, gangs := t.gangs }
  others : ∀ k, k ∉ gs → t.gang k = s.gang k

section
variable {gs : Set Nat}

theorem MovesFrames.squads {s t : State} (h : MovesFrames gs s t) : t.squads = s.squads := by rw [h.frame]
theorem MovesFrames.cores {s t : State} (h : MovesFrames gs s t) : t.cores = s.cores := by rw [h.frame]

theorem movesFrames_trans {s t u : State} (h : MovesFrames gs s t) (k : MovesFrames gs t u) : MovesFrames gs s u := by
  refine ⟨?_, fun g hg => (k.others g hg).trans (h.others g hg)⟩
  rw [k.frame, h.frame]

theorem movesFrames_of_gangs_eq {s t : State}
    (h : t = { s with mem := t.mem, rets := t.rets, blocks := t.blocks, bad := t.bad, wrote := t.wrote }) : MovesFrames gs s t := by
  have gangs : t.gangs = s.gangs := by rw [h]
  exact ⟨by rw [h], fun g _ => by unfold State.gang; rw [gangs]⟩

theorem movesFrames_refl (s : State) : MovesFrames gs s s := movesFrames_of_gangs_eq rfl

theorem movesFrames_foldl {α : Type} (f : State → α → State) (as : List α) (hf : ∀ t, ∀ a ∈ as, MovesFrames gs t (f t a)) (s : State) :
    MovesFrames gs s (as.foldl f s) :=
  List.foldlRecOn as f (motive := MovesFrames gs s) (movesFrames_refl s) (fun t ht a ha => movesFrames_trans ht (hf t a ha))

theorem movesFrames_pasteMem (s : State) (a n : Nat) (c : Cells 8) : MovesFrames gs s (s.pasteMem a n c) := by
  have recalled : s.recallRange a n = { s with rets := (s.recallRange a n).rets } := by
    unfold State.recallRange
    dsimp only
    split
    · split <;> rfl
    · rfl
  refine movesFrames_of_gangs_eq ?_
  unfold State.pasteMem
  rw [recalled]

theorem movesFrames_moveMarks (s : State) (a b n : Nat) (c : Bool) : MovesFrames gs s (s.moveMarks a b n c) := movesFrames_of_gangs_eq rfl
theorem movesFrames_unwrite (s : State) (a n : Nat) : MovesFrames gs s (s.unwrite a n) := movesFrames_of_gangs_eq rfl
theorem movesFrames_setBlock (s : State) (b : Nat) (x : Block) : MovesFrames gs s (s.setBlock b x) := movesFrames_of_gangs_eq rfl

theorem movesFrames_moveBytes (s : State) (a b n : Nat) : MovesFrames gs s (s.moveBytes a b n) :=
  movesFrames_trans (movesFrames_pasteMem s b n _) (movesFrames_moveMarks _ a b n false)

theorem movesFrames_stowMarks (s : State) (q f : Nat) : MovesFrames gs s (s.stowMarks q f) :=
  movesFrames_of_gangs_eq (by rw [stowMarks_frame])

theorem movesFrames_setGang (s : State) {g : Nat} (hg : g ∈ gs) (x : Gang) : MovesFrames gs s (s.setGang g x) :=
  ⟨rfl, fun k hk => gang_setGang_ne s g k x fun e => hk (e ▸ hg)⟩

theorem movesFrames_headerChanged (s : State) (g : Nat) : MovesFrames gs s (s.headerChanged g) := by
  unfold State.headerChanged
  dsimp only
  split
  · exact movesFrames_refl s
  · exact movesFrames_unwrite ..

theorem movesFrames_stowSquad (s : State) (f q : Nat) : MovesFrames gs s (s.stowSquad f q) := by
  unfold State.stowSquad
  exact movesFrames_trans (movesFrames_trans (movesFrames_trans (movesFrames_trans (movesFrames_pasteMem ..) (movesFrames_pasteMem ..))
    (movesFrames_stowMarks ..)) (movesFrames_pasteMem ..)) (movesFrames_unwrite ..)

theorem movesFrames_stowBlock (s : State) (d : Desc) (f b : Nat) : MovesFrames gs s (s.stowBlock d f b) := by
  unfold State.stowBlock
  exact movesFrames_trans (movesFrames_trans (movesFrames_trans (movesFrames_trans (movesFrames_trans (movesFrames_setBlock ..)
    (movesFrames_unwrite ..)) (movesFrames_pasteMem ..)) (movesFrames_moveMarks ..)) (movesFrames_moveBytes ..)) (movesFrames_moveBytes ..)

theorem movesFrames_stowSquads (s : State) {g : Nat} (hg : g ∈ gs) (qs : List Nat) : MovesFrames gs s (s.stowSquads g qs) := by
  unfold State.stowSquads
  dsimp only
  split
  · exact movesFrames_refl s
  · exact movesFrames_trans (movesFrames_foldl _ qs (fun t q _ => movesFrames_stowSquad t _ q) s) (movesFrames_setGang _ hg _)

theorem movesFrames_stowRegs (s : State) {g : Nat} (hg : g ∈ gs) : MovesFrames gs s (s.stowRegs g) := by
  unfold State.stowRegs
  exact movesFrames_trans (movesFrames_trans (movesFrames_stowSquads s hg _) (movesFrames_setGang _ hg _)) (movesFrames_headerChanged ..)

theorem movesFrames_stowStaged (s : State) {g : Nat} (hg : g ∈ gs) (b : Nat) : MovesFrames gs s (s.stowStaged g b) :=
  movesFrames_trans (movesFrames_stowSquads s hg _) (movesFrames_setGang _ hg _)

theorem movesFrames_stowImages (s : State) {g : Nat} (hg : g ∈ gs) : MovesFrames gs s (s.stowImages g) := by
  unfold State.stowImages
  dsimp only
  refine movesFrames_trans ?_ (movesFrames_setGang _ hg _)
  split
  · exact movesFrames_refl s
  · exact movesFrames_foldl _ _ (fun t b _ => movesFrames_stowBlock t _ _ b) s

end

-- Where a block's images lie (Table 16-4) ----------------------------------------------------------------------------------

/-- The byte at i is one of the part of block k in the frame at f. -/
def Desc.InPart (d : Desc) (f k i : Nat) : Prop := d.blockAt f k ≤ i ∧ i < d.blockAt f k + d.blockPart

theorem inPart_in_frame {d : Desc} {f k i : Nat} (hk : k < d.nblocks) (h : d.InPart f k i) : f ≤ i ∧ i < f + d.frameSize := by
  obtain ⟨lo, hi⟩ := h
  have blocks : (k + 1) * d.blockPart ≤ d.nblocks * d.blockPart := Nat.mul_le_mul_right _ hk
  rw [Nat.succ_mul] at blocks
  unfold Desc.blockAt at lo hi
  unfold Desc.frameSize
  omega

theorem inPart_index {d : Desc} {f k i : Nat} (h : d.InPart f k i) : (i - f - 4096) / d.blockPart = k := by
  obtain ⟨lo, hi⟩ := h
  unfold Desc.blockAt at lo hi
  exact Nat.div_eq_of_lt_le (by omega) (by rw [Nat.succ_mul]; omega)

theorem inPart_unique {d : Desc} {f j k i : Nat} (hj : d.InPart f j i) (hk : d.InPart f k i) : j = k :=
  (inPart_index hj).symm.trans (inPart_index hk)

/-- The places of a block's images in its part, one after another. -/
theorem images_in_part (d : Desc) (f k : Nat) :
    d.blockAt f k ≤ d.accsAt f k ∧ d.accsAt f k + 65536 ≤ d.scratchAt f k ∧ d.scratchAt f k + d.scratchBytes = d.poolAt f k ∧
      d.poolAt f k + d.poolBytes = d.blockAt f k + d.blockPart := by
  unfold Desc.poolAt Desc.scratchAt Desc.scratchBytes Desc.poolBytes Desc.recordAt Desc.accsAt Desc.blockPart
  omega

-- Spilling a block ----------------------------------------------------------------------------------------------------------

theorem byte_moveBytes (s : State) (a b n i : Nat) :
    (s.moveBytes a b n).byte i = if b ≤ i ∧ i < b + n then s.byte (a + (i - b)) else s.byte i := by
  unfold State.moveBytes
  rw [byte_moveMarks, byte_pasteMem]
  split
  · unfold State.takeMem
    rw [cellGet_cellTake, if_pos (by omega)]
    rfl
  · rfl

/-- What a block's images hold in s, its part of the frame at f holds in t. -/
def FrameHolds (d : Desc) (f b : Nat) (s t : State) : Prop :=
  Copied s t (d.scratchAt f (b % 4)) (localAddr b 0) d.scratchBytes ∧ Copied s t (d.poolAt f (b % 4)) (poolAddr b 0) d.poolBytes ∧
    ∀ i, i < 16384 → t.read (d.accsAt f (b % 4) + 4 * i) 4 = (cellGet (s.block b).accs i).toNat

theorem frameHolds_congr {d : Desc} {f b : Nat} {s s' t t' : State} (h : FrameHolds d f b s t) (hb : (s'.block b).accs = (s.block b).accs)
    (hs : ∀ i, 2 ^ 80 ≤ i → s'.byte i = s.byte i) (ht : ∀ i, d.InPart f (b % 4) i → t'.byte i = t.byte i) : FrameHolds d f b s' t' := by
  obtain ⟨scratch, pool, accs⟩ := h
  obtain ⟨lo, accsEnd, scratchEnd, poolEnd⟩ := images_in_part d f (b % 4)
  refine ⟨fun i hi => ?_, fun i hi => ?_, fun i hi => ?_⟩
  · rw [ht _ ⟨by omega, by omega⟩, scratch i hi, hs _ (by unfold localAddr; omega)]
  · rw [ht _ ⟨by omega, by omega⟩, pool i hi, hs _ (by unfold poolAddr; omega)]
  · rw [hb, ← accs i hi]
    exact read_congr _ _ 4 _ fun j hlo hhi => ht j ⟨by omega, by omega⟩

/-- Store a block's accumulators to its part of the frame at f. -/
def State.stowAccs (s : State) (d : Desc) (f b : Nat) : State :=
  s.pasteMem (d.accsAt f (b % 4)) 65536 (cellsToBytes 4 (cellTake (s.block b).accs 0 16384))

theorem byte_stowBlock (s : State) (d : Desc) (f b i : Nat) : (s.stowBlock d f b).byte i =
    (((s.stowAccs d f b).moveBytes (localAddr b 0) (d.scratchAt f (b % 4)) d.scratchBytes).moveBytes (poolAddr b 0)
      (d.poolAt f (b % 4)) d.poolBytes).byte i := by
  have accs : ((s.setBlock b { s.block b with pacer := (s.block b).pacer.layDown }).block b).accs = (s.block b).accs := by
    rw [block_setBlock_same]
  unfold State.stowBlock State.stowAccs
  simp only [byte_moveBytes, byte_moveMarks, byte_pasteMem]
  have bare (u : State) (a n : Nat) : (u.unwrite a n).block b = u.block b := rfl
  rw [bare, accs]
  rfl

theorem byte_stowBlock_outside (s : State) (d : Desc) (f b : Nat) {i : Nat} (h : ¬ d.InPart f (b % 4) i) :
    (s.stowBlock d f b).byte i = s.byte i := by
  obtain ⟨lo, accsEnd, scratchEnd, poolEnd⟩ := images_in_part d f (b % 4)
  unfold Desc.InPart at h
  rw [byte_stowBlock, byte_moveBytes, if_neg (by omega), byte_moveBytes, if_neg (by omega)]
  exact byte_pasteMem_outside s _ (by omega)

theorem frameHolds_stowBlock (s : State) (d : Desc) (f b : Nat) (below : ∀ i, d.InPart f (b % 4) i → i < 2 ^ 80) :
    FrameHolds d f b s (s.stowBlock d f b) := by
  obtain ⟨lo, accsEnd, scratchEnd, poolEnd⟩ := images_in_part d f (b % 4)
  have source {i : Nat} (hi : 2 ^ 80 ≤ i) : (s.stowAccs d f b).byte i = s.byte i := by
    refine byte_pasteMem_outside s _ fun inside => ?_
    have := below i ⟨by omega, by omega⟩
    omega
  have apart {a n i : Nat} (ha : d.blockAt f (b % 4) ≤ a) (hn : a + n ≤ d.blockAt f (b % 4) + d.blockPart) (hi : 2 ^ 80 ≤ i) :
      ¬ (a ≤ i ∧ i < a + n) := fun inside => by
    have := below i ⟨by omega, by omega⟩
    omega
  refine ⟨fun i hi => ?_, fun i hi => ?_, fun i hi => ?_⟩
  · rw [byte_stowBlock, byte_moveBytes, if_neg (by omega), byte_moveBytes, if_pos (by omega), Nat.add_sub_cancel_left,
      source (by unfold localAddr; omega)]
  · rw [byte_stowBlock, byte_moveBytes, if_pos (by omega), Nat.add_sub_cancel_left, byte_moveBytes,
      if_neg (apart (by omega) (by omega) (by unfold poolAddr; omega)), source (by unfold poolAddr; omega)]
  · have words := read_pasteWords s 4 (by decide) rfl (d.accsAt f (b % 4)) 65536 i _ (cellsWf_cellTake (s.block b).accs 0 16384) (by omega)
    rw [cellGet_cellTake, if_pos hi, Nat.zero_add] at words
    rw [← words]
    refine read_congr _ _ 4 _ fun j hlo hhi => ?_
    rw [byte_stowBlock, byte_moveBytes, if_neg (by omega), byte_moveBytes, if_neg (by omega)]
    rfl

-- Spilling a gang's images ----------------------------------------------------------------------------------------------------

theorem of_mem_blocksOf {s : State} {g b : Nat} (hd : (s.gang g).desc.blocks ≠ 3) (hb : b ∈ s.blocksOf g) :
    b / 4 = g ∧ b % 4 < (s.gang g).desc.nblocks := by
  have four := nblocks_le_four hd
  obtain ⟨k, hk, rfl⟩ := List.mem_map.1 hb
  have hk := List.mem_range.1 hk
  omega

theorem blocksOf_nodup (s : State) (g : Nat) : (s.blocksOf g).Nodup :=
  List.nodup_range.map fun j k (h : 4 * g + j = 4 * g + k) => Nat.add_left_cancel h

/-- Blocks of one gang, each once. -/
def OneGang (g : Nat) (bs : List Nat) : Prop := bs.Nodup ∧ ∀ b ∈ bs, b / 4 = g

theorem oneGang_cons {g b : Nat} {bs : List Nat} (h : OneGang g (b :: bs)) :
    OneGang g bs ∧ b / 4 = g ∧ ∀ c ∈ bs, c / 4 = g ∧ c % 4 ≠ b % 4 := by
  obtain ⟨nodup, gang⟩ := h
  obtain ⟨fresh, rest⟩ := List.nodup_cons.1 nodup
  refine ⟨⟨rest, fun c hc => gang c (List.mem_cons_of_mem _ hc)⟩, gang b List.mem_cons_self, fun c hc => ?_⟩
  have hc4 := gang c (List.mem_cons_of_mem _ hc)
  have hb4 := gang b List.mem_cons_self
  have ne : c ≠ b := fun e => fresh (e ▸ hc)
  exact ⟨hc4, by omega⟩

theorem byte_stowBlocks_outside {d : Desc} {f i : Nat} (bs : List Nat) (h : ∀ b ∈ bs, ¬ d.InPart f (b % 4) i) (s : State) :
    (bs.foldl (fun t b => t.stowBlock d f b) s).byte i = s.byte i :=
  List.foldlRecOn bs _ (motive := fun t : State => t.byte i = s.byte i) rfl
    fun t ht b hb => (byte_stowBlock_outside t d f b (h b hb)).trans ht

theorem frameHolds_stowBlocks {d : Desc} {f g : Nat} {bs : List Nat} (one : OneGang g bs)
    (below : ∀ b ∈ bs, ∀ i, d.InPart f (b % 4) i → i < 2 ^ 80) (s : State) :
    ∀ b ∈ bs, FrameHolds d f b s (bs.foldl (fun t b => t.stowBlock d f b) s) := by
  induction bs generalizing s with
  | nil => intro b hb; cases hb
  | cons a rest ih =>
    obtain ⟨one', -, others⟩ := oneGang_cons one
    intro b hb
    rw [List.foldl_cons]
    rcases List.mem_cons.1 hb with rfl | hrest
    · refine frameHolds_congr (frameHolds_stowBlock s d f b (below b List.mem_cons_self)) rfl (fun _ _ => rfl) fun i hi => ?_
      exact byte_stowBlocks_outside rest (fun c hc part => (others c hc).2 (inPart_unique part hi)) _
    · refine frameHolds_congr (ih one' (fun c hc => below c (List.mem_cons_of_mem _ hc)) (s.stowBlock d f a) b hrest) ?_ (fun i hi => ?_)
        (fun _ _ => rfl)
      · rw [(stowed_stowBlock s d f a).2.2 b]
        rfl
      · refine (byte_stowBlock_outside s d f a fun part => ?_).symm
        have := below a List.mem_cons_self i part
        omega

theorem gang_stowImages (s : State) (g : Nat) : (s.stowImages g).gang g = { s.gang g with spilled := true, overB := [] } :=
  gang_setGang_same _ g _

theorem byte_stowImages {s : State} {g i : Nat} (h : Unstowed (s.gang g) i) : (s.stowImages g).byte i = s.byte i := by
  unfold State.stowImages
  dsimp only
  split
  · rfl
  next o ho =>
  obtain none | ⟨good, outside⟩ := h
  · rw [ho] at none; cases none
  have away := outside o ho
  refine byte_stowBlocks_outside (s.blocksOf g) (fun b hb part => ?_) s
  have inside := inPart_in_frame (of_mem_blocksOf good hb).2 part
  omega

/-- A gang's images stand in its frame once they are spilled (16 R317, R320). -/
theorem frameHolds_stowImages {s : State} {g o b : Nat} (good : (s.gang g).desc.blocks ≠ 3) (ho : (s.gang g).frame = some o)
    (fits : (s.gang g).frameAt o + (s.gang g).desc.frameSize ≤ 2 ^ 80) (hb : b ∈ s.blocksOf g) :
    FrameHolds (s.gang g).desc ((s.gang g).frameAt o) b s (s.stowImages g) := by
  have images := frameHolds_stowBlocks (d := (s.gang g).desc) (f := (s.gang g).frameAt o) (g := g)
    ⟨blocksOf_nodup s g, fun b hb => (of_mem_blocksOf good hb).1⟩
    (fun b hb i part => by have := inPart_in_frame (of_mem_blocksOf good hb).2 part; omega) s b hb
  unfold State.stowImages
  dsimp only
  rw [ho]
  exact images

-- Filling a block -------------------------------------------------------------------------------------------------------------

theorem byte_pasteTaken (s t : State) (a b n i : Nat) :
    (t.pasteMem b n (s.takeMem a n)).byte i = if b ≤ i ∧ i < b + n then s.byte (a + (i - b)) else t.byte i := by
  rw [byte_pasteMem]
  split
  · unfold State.takeMem
    rw [cellGet_cellTake, if_pos (by omega)]
    rfl
  · rfl

/-- The byte at i is one of the local or pooled memory that block b has (04 R90). -/
def Desc.InWindows (d : Desc) (b i : Nat) : Prop :=
  (localAddr b 0 ≤ i ∧ i < localAddr b 0 + d.scratchBytes) ∨ (poolAddr b 0 ≤ i ∧ i < poolAddr b 0 + d.poolBytes)

/-- What a block's part of the frame at f holds in s, its images hold in t. -/
def ImagesHold (d : Desc) (f b : Nat) (s t : State) : Prop :=
  Copied s t (localAddr b 0) (d.scratchAt f (b % 4)) d.scratchBytes ∧ Copied s t (poolAddr b 0) (d.poolAt f (b % 4)) d.poolBytes ∧
    ∀ i, i < 16384 → cellGet (t.block b).accs i = BitVec.ofNat 32 (s.read (d.accsAt f (b % 4) + 4 * i) 4)

theorem imagesHold_congr {d : Desc} {f b : Nat} {s s' t t' : State} (h : ImagesHold d f b s t) (hb : t'.block b = t.block b)
    (hs : ∀ i, d.InPart f (b % 4) i → s'.byte i = s.byte i) (ht : ∀ i, d.InWindows b i → t'.byte i = t.byte i) :
    ImagesHold d f b s' t' := by
  obtain ⟨scratch, pool, accs⟩ := h
  obtain ⟨lo, accsEnd, scratchEnd, poolEnd⟩ := images_in_part d f (b % 4)
  refine ⟨fun i hi => ?_, fun i hi => ?_, fun i hi => ?_⟩
  · rw [ht _ (.inl ⟨by omega, by omega⟩), scratch i hi, hs _ ⟨by omega, by omega⟩]
  · rw [ht _ (.inr ⟨by omega, by omega⟩), pool i hi, hs _ ⟨by omega, by omega⟩]
  · rw [hb, accs i hi]
    exact congrArg _ (read_congr _ _ 4 _ fun j hlo hhi => (hs j ⟨by omega, by omega⟩).symm)

/-- A gang's descriptor gives its blocks no more than the scratchpad and the pooled slice of a core (04 R89). -/
theorem windows_of_checkDesc {d : Desc} (h : checkDesc d false = 0) : d.scratchBytes ≤ 2 ^ 18 ∧ d.poolBytes ≤ 2 ^ 20 := by
  have within : ¬ (d.loc = 0 ∨ 16 < d.loc.toNat ∨ d.loc < d.l1 ∨ 16 < d.pool.toNat ∨ 4096 < d.nsquads * d.nvws ∨ 2048 < d.nvws ∨
      d.gcount = 0 ∨ 4096 < d.gcount.toNat) := by
    intro bad
    unfold checkDesc at h
    split at h
    · exact absurd h (by decide)
    · exact absurd h (by decide)
  unfold Desc.scratchBytes Desc.poolBytes
  omega

/-- What one block has lies below what any block of its gang has pooled, and apart from what another has. -/
theorem inWindows_unique {d : Desc} {g b c i : Nat} (sizes : d.scratchBytes ≤ 2 ^ 18 ∧ d.poolBytes ≤ 2 ^ 20) (hb4 : b / 4 = g)
    (hc4 : c / 4 = g) (hb : d.InWindows b i) (hc : d.InWindows c i) : b = c := by
  unfold Desc.InWindows localAddr poolAddr at hb hc
  omega

theorem not_inWindows_of_lt {d : Desc} {b i : Nat} (h : i < 2 ^ 80) : ¬ d.InWindows b i := by
  unfold Desc.InWindows localAddr poolAddr
  omega

/-- A block filled whose control the host has not overwritten (17 R323). -/
theorem fillBlock_eq {x : Gang} (h : x.overB = []) (s : State) (f b : Nat) :
    let u := (s.pasteMem (localAddr b 0) x.desc.scratchBytes (s.takeMem (x.desc.scratchAt f (b % 4)) x.desc.scratchBytes)).pasteMem
      (poolAddr b 0) x.desc.poolBytes (s.takeMem (x.desc.poolAt f (b % 4)) x.desc.poolBytes)
    s.fillBlock x f b = u.setBlock b { u.block b with accs := bytesToCells 4 32 (s.takeMem (x.desc.accsAt f (b % 4)) 65536) } := by
  unfold State.fillBlock
  rw [h]
  rfl

theorem movesFrames_fillBlock {gs : Set Nat} {x : Gang} (h : x.overB = []) (s : State) (f b : Nat) :
    MovesFrames gs s (s.fillBlock x f b) := by
  rw [fillBlock_eq h]
  exact movesFrames_trans (movesFrames_trans (movesFrames_pasteMem ..) (movesFrames_pasteMem ..)) (movesFrames_setBlock ..)

theorem byte_fillBlock {x : Gang} (h : x.overB = []) (s : State) (f b i : Nat) : (s.fillBlock x f b).byte i =
    if poolAddr b 0 ≤ i ∧ i < poolAddr b 0 + x.desc.poolBytes then s.byte (x.desc.poolAt f (b % 4) + (i - poolAddr b 0))
    else if localAddr b 0 ≤ i ∧ i < localAddr b 0 + x.desc.scratchBytes then s.byte (x.desc.scratchAt f (b % 4) + (i - localAddr b 0))
    else s.byte i := by
  have control (u : State) (y : Block) : (u.setBlock b y).byte i = u.byte i := rfl
  rw [fillBlock_eq h, control, byte_pasteTaken, byte_pasteTaken]

theorem byte_fillBlock_outside {x : Gang} (h : x.overB = []) (s : State) (f b : Nat) {i : Nat} (hi : ¬ x.desc.InWindows b i) :
    (s.fillBlock x f b).byte i = s.byte i := by
  obtain ⟨scratch, pool⟩ := not_or.1 hi
  rw [byte_fillBlock h, if_neg pool, if_neg scratch]

theorem block_fillBlock_ne {x : Gang} (h : x.overB = []) (s : State) (f : Nat) {b c : Nat} (hc : c ≠ b) :
    (s.fillBlock x f b).block c = s.block c := by
  have pasted (u : State) (a n : Nat) (w : Cells 8) : (u.pasteMem a n w).block c = u.block c := by
    have blocks : (u.recallRange a n).blocks = u.blocks := onlyTlbs_blocks (onlyTlbs_recallRange u a n)
    exact congrArg (tabGet · c {}) blocks
  rw [fillBlock_eq h, block_setBlock_ne _ _ _ _ hc, pasted, pasted]

theorem imagesHold_fillBlock {x : Gang} (h : x.overB = []) (sizes : x.desc.scratchBytes ≤ 2 ^ 18 ∧ x.desc.poolBytes ≤ 2 ^ 20)
    (s : State) (f b : Nat) : ImagesHold x.desc f b s (s.fillBlock x f b) := by
  refine ⟨fun i hi => ?_, fun i hi => ?_, fun i hi => ?_⟩
  · rw [byte_fillBlock h, if_neg (by unfold localAddr poolAddr; omega), if_pos (by omega), Nat.add_sub_cancel_left]
  · rw [byte_fillBlock h, if_pos (by omega), Nat.add_sub_cancel_left]
  · rw [fillBlock_eq h, block_setBlock_same]
    exact cellGet_bytesToCells_takeMem s 4 (x.desc.accsAt f (b % 4)) 65536 i (by decide) (by omega)

-- Filling a gang's images --------------------------------------------------------------------------------------------------------

section
variable {x : Gang} (clean : x.overB = [])
include clean

theorem byte_fillBlocks_outside {f i : Nat} (bs : List Nat) (h : ∀ b ∈ bs, ¬ x.desc.InWindows b i) (s : State) :
    (bs.foldl (fun t b => t.fillBlock x f b) s).byte i = s.byte i :=
  List.foldlRecOn bs _ (motive := fun t : State => t.byte i = s.byte i) rfl
    fun t ht b hb => (byte_fillBlock_outside clean t f b (h b hb)).trans ht

theorem block_fillBlocks_outside {f c : Nat} (bs : List Nat) (h : c ∉ bs) (s : State) :
    (bs.foldl (fun t b => t.fillBlock x f b) s).block c = s.block c :=
  List.foldlRecOn bs _ (motive := fun t : State => t.block c = s.block c) rfl
    fun t ht b hb => (block_fillBlock_ne clean t f fun e : c = b => h (e ▸ hb)).trans ht

theorem imagesHold_fillBlocks {f g : Nat} {bs : List Nat} (one : OneGang g bs)
    (sizes : x.desc.scratchBytes ≤ 2 ^ 18 ∧ x.desc.poolBytes ≤ 2 ^ 20)
    (below : ∀ b ∈ bs, ∀ i, x.desc.InPart f (b % 4) i → i < 2 ^ 80) (s : State) :
    ∀ b ∈ bs, ImagesHold x.desc f b s (bs.foldl (fun t b => t.fillBlock x f b) s) := by
  induction bs generalizing s with
  | nil => intro b hb; cases hb
  | cons a rest ih =>
    obtain ⟨one', ga, others⟩ := oneGang_cons one
    have apart {c : Nat} (hc : c ∈ rest) : c ≠ a := fun e => (others c hc).2 (e ▸ rfl)
    intro b hb
    rw [List.foldl_cons]
    rcases List.mem_cons.1 hb with rfl | hrest
    · refine imagesHold_congr (imagesHold_fillBlock clean sizes s f b) ?_ (fun _ _ => rfl) fun i hi => ?_
      · exact block_fillBlocks_outside clean rest (fun hc => apart hc rfl) _
      · exact byte_fillBlocks_outside clean rest (fun c hc win => apart hc (inWindows_unique sizes (others c hc).1 ga win hi)) _
    · refine imagesHold_congr (ih one' (fun c hc => below c (List.mem_cons_of_mem _ hc)) (s.fillBlock x f a) b hrest) rfl (fun i hi => ?_)
        (fun _ _ => rfl)
      exact (byte_fillBlock_outside clean s f a (not_inWindows_of_lt (below b hb i hi))).symm

end

theorem movesFrames_fillImages {gs : Set Nat} {s : State} {g : Nat} (hg : g ∈ gs) (clean : (s.gang g).overB = []) :
    MovesFrames gs s (s.fillImages g) := by
  unfold State.fillImages
  dsimp only
  refine movesFrames_trans ?_ (movesFrames_setGang _ hg _)
  split
  · exact movesFrames_refl s
  · exact movesFrames_foldl _ _ (fun t b _ => movesFrames_fillBlock clean t _ b) s

theorem gang_fillImages (s : State) (g : Nat) : (s.fillImages g).gang g = { s.gang g with spilled := false, overB := [] } :=
  gang_setGang_same _ g _

theorem byte_fillImages_of_no_frame {s : State} {g : Nat} (h : (s.gang g).frame = none) (i : Nat) : (s.fillImages g).byte i = s.byte i := by
  unfold State.fillImages
  dsimp only
  rw [h]
  rfl

/-- A gang's images are what its frame holds once they are filled (16 R317, R320). -/
theorem imagesHold_fillImages {s : State} {g o b : Nat} (good : checkDesc (s.gang g).desc false = 0) (clean : (s.gang g).overB = [])
    (ho : (s.gang g).frame = some o) (fits : (s.gang g).frameAt o + (s.gang g).desc.frameSize ≤ 2 ^ 80) (hb : b ∈ s.blocksOf g) :
    ImagesHold (s.gang g).desc ((s.gang g).frameAt o) b s (s.fillImages g) := by
  have blocks := blocks_ne_three_of_checkDesc good
  have images := imagesHold_fillBlocks clean (f := (s.gang g).frameAt o) (g := g)
    ⟨blocksOf_nodup s g, fun b hb => (of_mem_blocksOf blocks hb).1⟩ (windows_of_checkDesc good)
    (fun b hb i part => by have := inPart_in_frame (of_mem_blocksOf blocks hb).2 part; omega) s b hb
  unfold State.fillImages
  dsimp only
  rw [ho]
  exact images

end Sys2Proof.Machine
end

section
/-! Gangs that leave their cores and come back: image moves, shadow banks, pages, repairs, terminations (04 R93; 16 R314, R317 to R321,
R366, R367). -/

namespace Sys2Proof.Machine

-- Image moves (04 R93; 16 R320) -----------------------------------------------------------------------------------------------

/-- The plan of a gang's reticle brings it back. -/
def State.planned (s : State) (g : Nat) : Bool := (s.planOf (s.gang g).ret).placements.any (fun p => p.gang = some g)

section
variable {s : State} {g : Nat} (known : (tabGet? s.gangs g).isSome = true) (exchange : s.computing (devOfRet (s.gang g).ret) = false)
include known exchange

theorem known_in_exchange : ¬ ((tabGet? s.gangs g).isNone = true ∨ s.computing (devOfRet (s.gang g).ret) = true) := by
  rw [exchange, Option.isNone_eq_false_iff.2 known]
  simp

theorem exec_imageSpillFill_spills (stays : s.planned g = false)
    (leaves : (s.planOf (s.gang g).ret).victims.contains g = true ∨ (s.gang g).place.isAway = true)
    (whole : (s.gang g).spilled = false) (quiet : s.imagesQuiet g = true) :
    exec (.imageSpillFill g) s = .next (s.stowImages g) := by
  have spills : (((s.planOf (s.gang g).ret).victims.contains g || (s.gang g).place.isAway) && !(s.gang g).spilled && s.imagesQuiet g) = true := by
    rw [(Bool.or_eq_true _ _).mpr leaves, whole, quiet]
    rfl
  change execImageSpillFill g s = _
  unfold execImageSpillFill
  unfold State.planned at stays
  dsimp only
  rw [if_neg (known_in_exchange known exchange), if_neg (Bool.eq_false_iff.1 stays), if_pos spills]

theorem exec_imageSpillFill_planned (back : s.planned g = true) :
    exec (.imageSpillFill g) s = .next (if (s.gang g).spilled then s.fillImages g else s) := by
  change execImageSpillFill g s = _
  unfold execImageSpillFill
  unfold State.planned at back
  dsimp only
  rw [if_neg (known_in_exchange known exchange), if_pos back]
  split <;> rfl

end

-- The shadow bank of a core (16 R320, R321) --------------------------------------------------------------------------------------

theorem stowed_stowStaged (s : State) (g b : Nat) : Stowed s (s.stowStaged g b) :=
  stowed_trans (stowed_stowSquads ..) (stowed_setGang _ _ _ rfl)

theorem unstowed_of_stowed {s t : State} (h : Stowed s t) {g i : Nat} (hi : Unstowed (s.gang g) i) : Unstowed (t.gang g) i := by
  obtain ⟨-, gang, -⟩ := h
  refine unstowed_congr ?_ ?_ ?_ hi <;> rw [gang g] <;> rfl

theorem blocksOf_of_stowed {s t : State} (h : Stowed s t) (g : Nat) : t.blocksOf g = s.blocksOf g := by
  obtain ⟨-, gang, -⟩ := h
  unfold State.blocksOf
  rw [gang g]
  rfl

theorem byte_stowStaged {s : State} {g b i : Nat} (h : Unstowed (s.gang g) i) (hb : b ∈ s.blocksOf g) :
    (s.stowStaged g b).byte i = s.byte i :=
  byte_stowSquads h fun _ hq => List.mem_flatMap.2 ⟨b, hb, hq⟩

/-- The blocks of a gang that stand in the shadow bank of core c, given to its frame one after another. -/
def State.stowBank (s : State) (c : Nat) (e : Nat × Gang) : State :=
  (e.2.staged.filter (fun b => e.2.place.isAway && decide (s.coreNo b = c % 128))).foldl (fun u b => u.stowStaged e.1 b) s

theorem drainShadow_eq (s : State) (c : Nat) : s.drainShadow c =
    (s.gangs.filter (fun e => decide (e.2.ret = retOfCore c))).foldl (fun t e => t.stowBank c e)
      (s.setCore c { s.core c with draining := false }) := rfl

theorem movesFrames_stowBank (s : State) (c : Nat) (e : Nat × Gang) : MovesFrames Set.univ s (s.stowBank c e) :=
  movesFrames_foldl _ _ (fun t b _ => movesFrames_stowStaged t (Set.mem_univ e.1) b) s

theorem movesFrames_drainShadow (s : State) (c : Nat) :
    MovesFrames Set.univ (s.setCore c { s.core c with draining := false }) (s.drainShadow c) :=
  movesFrames_foldl _ _ (fun t e _ => movesFrames_stowBank t c e) _

theorem core_drainShadow (s : State) (c k : Nat) :
    (s.drainShadow c).core k = (s.setCore c { s.core c with draining := false }).core k := by
  unfold State.core
  rw [(movesFrames_drainShadow s c).cores]
  rfl

theorem drainShadow_of_nothing_staged {s : State} (h : ∀ e ∈ s.gangs, e.2.staged = []) (c : Nat) :
    s.drainShadow c = s.setCore c { s.core c with draining := false } := by
  rw [drainShadow_eq]
  refine List.foldlRecOn _ _ (motive := fun t => t = s.setCore c { s.core c with draining := false }) rfl fun t ht e he => ?_
  unfold State.stowBank
  rw [h e (List.mem_filter.1 he).1]
  exact ht

theorem stowBank_keeps {s t : State} {c i : Nat} {e : Nat × Gang} (ht : Stowed s t) (hi : Unstowed (s.gang e.1) i)
    (staged : ∀ b ∈ e.2.staged, b ∈ s.blocksOf e.1) : Stowed s (t.stowBank c e) ∧ (t.stowBank c e).byte i = t.byte i := by
  refine List.foldlRecOn _ _ (motive := fun u => Stowed s u ∧ u.byte i = t.byte i) ⟨ht, rfl⟩ fun u hu b hb => ?_
  obtain ⟨stowed, same⟩ := hu
  have mem : b ∈ u.blocksOf e.1 := blocksOf_of_stowed stowed e.1 ▸ staged b (List.mem_filter.1 hb).1
  exact ⟨stowed_trans stowed (stowed_stowStaged u e.1 b), (byte_stowStaged (unstowed_of_stowed stowed hi) mem).trans same⟩

/-- A shadow bank drains into frames alone. -/
theorem byte_drainShadow {s : State} {i : Nat}
    (h : ∀ e ∈ s.gangs, Unstowed (s.gang e.1) i ∧ ∀ b ∈ e.2.staged, b ∈ s.blocksOf e.1) (c : Nat) : (s.drainShadow c).byte i = s.byte i := by
  have kept : Stowed s (s.drainShadow c) ∧ (s.drainShadow c).byte i = s.byte i := by
    rw [drainShadow_eq]
    refine List.foldlRecOn _ _ (motive := fun t => Stowed s t ∧ t.byte i = s.byte i) ⟨stowed_of_eq rfl rfl rfl, rfl⟩ fun t ht e he => ?_
    obtain ⟨stowed, same⟩ := ht
    obtain ⟨outside, staged⟩ := h e (List.mem_filter.1 he).1
    obtain ⟨stowed', same'⟩ := stowBank_keeps (c := c) stowed outside staged
    exact ⟨stowed', same'.trans same⟩
  exact kept.2

-- Pages and repairs (16 R314, R367) ------------------------------------------------------------------------------------------------

theorem onlyGang_setGang (s : State) (g : Nat) (x : Gang) : OnlyGang s (s.setGang g x) g x :=
  ⟨rfl, gang_setGang_same s g x, fun k hk => gang_setGang_ne s g k x hk⟩

theorem exec_pageFetchCompletion {s : State} {g : Nat} (known : (tabGet? s.gangs g).isSome = true)
    (exchange : s.computing (devOfRet (s.gang g).ret) = false) (told : s.gangHeld g = false) :
    exec (.pageFetchCompletion (.gang g)) s = .next (s.setGang g ((s.gang g).nowWaits Away.fetched)) := by
  change execPageFetchCompletion (.gang g) s = _
  unfold execPageFetchCompletion
  dsimp only
  rw [if_neg (by rw [told, exchange, Option.isNone_eq_false_iff.2 known]; simp)]

theorem exec_makeGangReady {s : State} {g : Nat} (known : (tabGet? s.gangs g).isSome = true) (told : s.gangHeld g = false) :
    exec (.makeGangReady g) s = .next (s.setGang g ((s.gang g).nowWaits Away.repaired)) := by
  change execMakeGangReady g s = _
  unfold execMakeGangReady
  rw [if_neg (by rw [told, Option.isNone_eq_false_iff.2 known]; simp)]

theorem nowWaits_away {x : Gang} {w : Away} (place : x.place = .away w) {f h : Away → Away} (hf : ∀ v, f v = h v) :
    x.nowWaits f = { x with place := .away (f w), more := x.more.map h } := by
  unfold Gang.nowWaits
  rw [place, List.map_congr_left fun v _ => hf v]

/-- A gang that does not wait for what is done waits as before. -/
theorem nowWaits_of_fixed {x : Gang} {w : Away} (place : x.place = .away w) {f : Away → Away} (hw : f w = w)
    (hf : ∀ v ∈ x.more, f v = v) : x.nowWaits f = x := by
  have more : x.more.map f = x.more := (List.map_congr_left hf).trans (List.map_id' x.more)
  unfold Gang.nowWaits
  rw [more, place]
  dsimp only
  rw [hw, ← place]

theorem repaired_of_ne {w : Away} (h : w ≠ .repair false) : w.repaired = w := by
  cases w with
  | repair b =>
    cases b with
    | false => exact absurd rfl h
    | true => rfl
  | _ => rfl

-- Termination (16 R318) ------------------------------------------------------------------------------------------------------------

theorem byte_headerChanged (s : State) (g i : Nat) : (s.headerChanged g).byte i = s.byte i := by
  unfold State.headerChanged
  dsimp only
  split <;> rfl

/-- The registers of a gang that stands in this place go to its frame: one that is away has them there. -/
def State.stowRegsFrom (s : State) (g : Nat) (p : Place) : State :=
  match p with
  | .away _ => s
  | _ => s.stowRegs g

theorem stowRegsFrom_eq (s : State) (g : Nat) (p : Place) : s.stowRegsFrom g p = s ∨ s.stowRegsFrom g p = s.stowRegs g := by
  cases p with
  | away w => exact .inl rfl
  | _ => exact .inr rfl

theorem movesFrames_stowRegsFrom (s : State) (g : Nat) (p : Place) : MovesFrames {g} s (s.stowRegsFrom g p) := by
  obtain h | h := stowRegsFrom_eq s g p <;> rw [h]
  · exact movesFrames_refl s
  · exact movesFrames_stowRegs s rfl

theorem byte_stowRegsFrom {s : State} {g i : Nat} (h : Unstowed (s.gang g) i) (p : Place) :
    Unstowed ((s.stowRegsFrom g p).gang g) i ∧ (s.stowRegsFrom g p).byte i = s.byte i := by
  obtain e | e := stowRegsFrom_eq s g p <;> rw [e]
  · exact ⟨h, rfl⟩
  · exact ⟨unstowed_of_stowed (stowed_stowRegs s g) h, byte_stowRegs h⟩

section
variable {s : State} {g : Nat} (fresh : (s.gang g).term = none) (cause : BitVec 8) (blk sq : Nat) (addr : BitVec 64) (extra : List (BitVec 64))
include fresh

theorem terminate_eq : s.terminate g cause blk sq addr extra =
    let t := (s.setGang g { s.gang g with term := some ⟨cause, blk, sq, addr, extra⟩ }).stowRegsFrom g (s.gang g).place
    if (s.gang g).spilled then t.headerChanged g else (t.stowImages g).headerChanged g := by
  have running : ¬ (s.gang g).term.isSome = true := by simp [fresh]
  unfold State.terminate
  exact if_neg running

theorem movesFrames_terminate : MovesFrames {g} s (s.terminate g cause blk sq addr extra) := by
  rw [terminate_eq fresh]
  have regs := movesFrames_trans (movesFrames_setGang (gs := {g}) s rfl { s.gang g with term := some ⟨cause, blk, sq, addr, extra⟩ })
    (movesFrames_stowRegsFrom _ g (s.gang g).place)
  dsimp only
  split
  · exact movesFrames_trans regs (movesFrames_headerChanged ..)
  · exact movesFrames_trans (movesFrames_trans regs (movesFrames_stowImages _ rfl)) (movesFrames_headerChanged ..)

theorem byte_terminate {i : Nat} (h : Unstowed (s.gang g) i) : (s.terminate g cause blk sq addr extra).byte i = s.byte i := by
  have ended : Unstowed ((s.setGang g { s.gang g with term := some ⟨cause, blk, sq, addr, extra⟩ }).gang g) i := by
    rw [gang_setGang_same]
    exact h
  obtain ⟨outside, same⟩ := byte_stowRegsFrom ended (s.gang g).place
  rw [terminate_eq fresh]
  dsimp only
  split
  · exact (byte_headerChanged ..).trans same
  · exact (byte_headerChanged ..).trans ((byte_stowImages outside).trans same)

theorem gang_terminate : let t := s.terminate g cause blk sq addr extra
    (t.gang g).term = some ⟨cause, blk, sq, addr, extra⟩ ∧ (t.gang g).place = (s.gang g).place := by
  obtain ⟨-, gang, -⟩ := stowed_terminate fresh cause blk sq addr extra
  have ended := gang g
  rw [gang_setGang_same] at ended
  exact ⟨congrArg Gang.term ended, by rw [ended]; rfl⟩

end

theorem exec_serviceSoftwareTermination {s : State} {g : Nat} (known : (tabGet? s.gangs g).isSome = true) (cause : BitVec 8) :
    exec (.serviceSoftwareTermination g cause) s = .next (s.terminate g cause 0 0 0 []) := by
  change execServiceSoftwareTermination g cause s = _
  unfold execServiceSoftwareTermination
  rw [if_neg (by rw [Option.isNone_eq_false_iff.2 known]; exact Bool.false_ne_true)]

/-- Settles O50: images and registers move between a gang and its own frame, part by part; a gang's record alone says what it waits
for and how it ended. -/
theorem gangEvents : Obligations.GangEvents := by
  unfold Obligations.GangEvents
  intro s g x planned fits rest known good
  have blocks := blocks_ne_three_of_checkDesc good
  refine ⟨fun exchange stays leaves whole quiet => ?_, fun exchange back spilled clean => ?_, fun exchange back whole => ?_, fun c => ?_,
    fun exchange told page => ?_, fun told repair => ?_, fun told page more => ?_, fun cause fresh => ?_⟩
  · have moves := movesFrames_stowImages (gs := {g}) s rfl
    exact ⟨_, exec_imageSpillFill_spills known exchange stays leaves whole quiet, moves.squads, gang_stowImages s g, moves.others,
      fun a outside => byte_stowImages (.inr ⟨blocks, outside⟩), fun o ho fit b hb => frameHolds_stowImages blocks ho fit hb⟩
  · have moves := movesFrames_fillImages (gs := {g}) (s := s) rfl clean
    have runs := exec_imageSpillFill_planned known exchange back
    rw [if_pos spilled] at runs
    refine ⟨_, runs, moves.squads, (gang_fillImages s g).trans ?_, moves.others, byte_fillImages_of_no_frame,
      fun o ho fit b hb => imagesHold_fillImages good clean ho fit hb⟩
    rw [← clean]
  · have runs := exec_imageSpillFill_planned known exchange back
    rwa [if_neg (by rw [whole]; exact Bool.false_ne_true)] at runs
  · refine ⟨s.drainShadow c, rfl, (movesFrames_drainShadow s c).squads, ?_, fun k hk => ?_, fun none => ?_, fun gangs a outside => ?_⟩
    · rw [core_drainShadow, core_setCore_same]
    · rw [core_drainShadow, core_setCore_ne _ _ _ _ hk]
    · rw [drainShadow_of_nothing_staged none]
      rfl
    · refine byte_drainShadow (fun e he => ?_) c
      obtain ⟨same, desc, staged⟩ := gangs e he
      exact ⟨same ▸ .inr ⟨blocks_ne_three_of_checkDesc desc, outside e he⟩, staged⟩
  · refine ⟨_, exec_pageFetchCompletion known exchange told, ?_⟩
    rw [nowWaits_away page (h := fun w => match w with | .swap _ => .swap true | k => k) fun w => by cases w <;> rfl]
    exact onlyGang_setGang s g _
  · refine ⟨_, exec_makeGangReady known told, ?_⟩
    rw [nowWaits_away repair (h := fun w => match w with | .repair _ => .repair true | k => k) fun w => by cases w <;> rfl]
    exact onlyGang_setGang s g _
  · refine ⟨_, exec_makeGangReady known told, ?_⟩
    rw [nowWaits_of_fixed page rfl fun w hw => repaired_of_ne (more w hw)]
    exact onlyGang_setGang s g _
  · obtain ⟨term, place⟩ := gang_terminate fresh cause 0 0 0 []
    have moves := movesFrames_terminate fresh cause 0 0 0 []
    exact ⟨_, exec_serviceSoftwareTermination known cause, term, place, moves.squads,
      fun a outside => byte_terminate fresh cause 0 0 0 [] (.inr ⟨blocks, outside⟩), moves.others⟩

end Sys2Proof.Machine
end

section
/-! O59's clause on barriers fails where an arrival of COUNT 0 waits to be counted. No word issues one (arriveSub, 11 R243), but the
statement's premise speaks of the counts alone, and an arrival of a squad is counted without a second check (log 45). -/

namespace Sys2Proof.Machine

/-- The machine after reset, but for an arrival of squad 0 at barrier 0 of block 0 that expects no arrivals at all. -/
def expectsNoneState : State := { blocks := [(0, { arrivals := [⟨0, 0, 0, 0, 0⟩] })] }

theorem barriersLegal_expectsNoneState : BarriersLegal expectsNoneState := by
  intro b k
  left
  by_cases first : b = 0
  · subst first; rfl
  · have unlisted : expectsNoneState.block b = {} := by simp [State.block, expectsNoneState, tabGet, tabGet?, Ne.symm first]
    rw [unlisted]
    rfl

/-- Counted, the arrival is the first of a generation that expects none, and so does not complete it. -/
theorem countArrival_expectsNoneState : ((expectsNoneState.countArrival 0 0).block 0).bar 0 = { cnt := 1, exp := 0 } := by decide

/-- Refutes O59: counting the arrival of `expectsNoneState` leaves a barrier of count 1 whose generation expects 0. -/
theorem not_stepKeepsInvariant : ¬ Obligations.StepKeepsInvariant := by
  unfold Obligations.StepKeepsInvariant
  rintro ⟨-, -, -, -, barriers, -⟩
  have legal := barriers expectsNoneState (expectsNoneState.countArrival 0 0) 0 0 0 0 0 0
    (.inr (.inr (.inr (.inr (.inr rfl))))) barriersLegal_expectsNoneState 0 0
  rw [countArrival_expectsNoneState] at legal
  exact absurd legal (by decide)

end Sys2Proof.Machine
end

section
/-! The ends of the scalar stream's words (02 R45, R46): a word that writes a register, one that leaves a result outstanding, one that
goes to an address, one that writes another part of its squad's record. -/

namespace Sys2Proof.Machine

/-- What a scalar register reads is of the register cells and the window alone. -/
theorem readS_congr {x y : Squad} (cells : x.sregs = y.sregs) (window : x.swb = y.swb) (r : BitVec 6) : x.readS r = y.readS r := by
  simp only [Squad.readS, Squad.scell, cells, window]

/-- A register written, wherever its squad goes on. -/
theorem reads_written (x : Squad) (d : BitVec 6) (v : BitVec 64) (pc : BitVec 64) (latch : Option (List (BitVec 64))) (run : RunState) :
    let y : Squad := { x with sregs := (x.writeS d v).sregs, pc := pc, latch := latch, run := run }
    y.readS d = (if d = 0 then 0 else v) ∧ ∀ r, r ≠ d → y.readS r = x.readS r := by
  intro y
  have reads : ∀ r, y.readS r = (x.writeS d v).readS r := readS_congr rfl (by rw [writeS_eq])
  exact ⟨(reads d).trans (readS_writeS_same x d v), fun r hr => (reads r).trans (readS_writeS_ne x d r v hr)⟩

/-- A word of fixed latency writes its value and goes on. -/
theorem result_ends (s : State) (m : BitVec 1) (d : BitVec 6) (v : BitVec 64) :
    ∃ t, s.result m d v = .next t ∧ ScalarWrites s t m d v := by
  refine ⟨_, result_spec s m d v, ?_⟩
  unfold ScalarWrites
  rw [sq_setSq]
  obtain ⟨same, others⟩ := reads_written s.sq d v (s.sq.pc + 4) none (s.sq.afterMarker (m = 1))
  exact ⟨same, others, rfl, onlySquad_setSq _ _⟩

theorem result_writes {i : Instr} {s : State} {m : BitVec 1} {d : BitVec 6} {v : BitVec 64} (run : exec i s = s.result m d v) :
    ∃ t, exec i s = .next t ∧ ScalarWrites s t m d v := by
  rw [run]
  exact result_ends s m d v

/-- A word whose value is what a row of a table says. -/
theorem row_writes {i : Instr} {s : State} {m : BitVec 1} {d : BitVec 6} {v : BitVec 64} {row : BitVec 64 → Prop}
    (run : exec i s = s.result m d v) (value : row v) : ∃ t v, exec i s = .next t ∧ row v ∧ ScalarWrites s t m d v := by
  obtain ⟨t, ran, writes⟩ := result_writes run
  exact ⟨t, v, ran, value, writes⟩

/-- A word of variable latency leaves its value outstanding for sd. -/
theorem row_leaves {i : Instr} {s : State} {m : BitVec 1} {d : BitVec 6} {v : BitVec 64} {row : BitVec 64 → Prop}
    (run : exec i s = s.resultLater m d v) (value : row v) :
    ∃ t v, exec i s = .next t ∧ row v ∧ ScalarLeaves s t m .ordinary 0 (.value (s.sq.dstS d) v) none := by
  refine ⟨_, v, run, value, ?_, ?_, fun q hq => ?_, fun _ => rfl⟩
  · rw [done_spec, sq_setSq, State.issueValue, sq_issue]
    simp [halves_value_dstS, State.outst, Squad.afterMarker, tdstNone]
  · rfl
  · exact squad_issueValue_done s d v m hq

/-- A jump writes no register. -/
theorem goto_goes {i : Instr} {s : State} {m : BitVec 1} {pc : BitVec 64} (run : exec i s = .next (s.setSq (s.sq.goto m pc))) :
    ∃ t, exec i s = .next t ∧ ScalarGoes s t m pc :=
  ⟨_, run, by rw [sq_setSq, goto_spec]; rfl, onlySquad_setSq _ _⟩

/-- A branch goes by its condition. -/
theorem branch_goes {i : Instr} {s : State} {m : BitVec 1} {taken : Bool} {o : BitVec 15} {row : Prop}
    (run : exec i s = s.branch m taken o) (cond : taken = true ↔ row) : ∃ t, exec i s = .next t ∧
      (row → ScalarGoes s t m (s.sq.pc + BitVec.ofInt 64 (4 * o.toInt))) ∧ (¬ row → ScalarGoes s t m (s.sq.pc + 4)) := by
  refine ⟨_, run, fun yes => ⟨?_, onlySquad_setSq _ _⟩, fun no => ⟨?_, onlySquad_setSq _ _⟩⟩ <;> rw [sq_setSq]
  · rw [if_pos (cond.2 yes), goto_spec, rel_eq]; rfl
  · rw [if_neg (mt cond.1 no), advance_eq]; rfl

/-- A word that has changed its squad's record goes on to the next word. -/
theorem advance_ends {i : Instr} {s : State} {m : BitVec 1} {x : Squad} (run : exec i s = .next (s.setSq (x.advance m))) :
    ∃ t, exec i s = .next t ∧ OnlySquad s t ∧ t.sq = { x with pc := x.pc + 4, latch := none, run := x.runAfter (m = 1) } :=
  ⟨_, run, onlySquad_setSq _ _, by rw [sq_setSq, advance_eq]; rfl⟩

end Sys2Proof.Machine
end

section
/-! The integer words (05 R119 to R121): what each operation computes, by number, by sign or by bit. -/

namespace Sys2Proof.Machine

theorem aluMulh_toInt (a b : BitVec 64) : (aluMulh a b).toInt = a.toInt * b.toInt / 2 ^ 64 := by
  have ha := And.intro (BitVec.le_toInt a) (BitVec.toInt_lt (x := a))
  have hb := And.intro (BitVec.le_toInt b) (BitVec.toInt_lt (x := b))
  norm_num at ha hb
  have bound : |a.toInt * b.toInt| ≤ 2 ^ 63 * 2 ^ 63 := by
    rw [abs_mul]
    exact mul_le_mul (abs_le.2 ⟨by linarith, by linarith⟩) (abs_le.2 ⟨by linarith, by linarith⟩) (abs_nonneg _) (by norm_num)
  obtain ⟨low, high⟩ := abs_le.1 bound
  rw [aluMulh]
  exact BitVec.toInt_ofInt_eq_self (by norm_num) (by omega) (by omega)

theorem aluMulhu_toNat (a b : BitVec 64) : (aluMulhu a b).toNat = a.toNat * b.toNat / 2 ^ 64 := by
  have bound : a.toNat * b.toNat < 2 ^ 64 * 2 ^ 64 := Nat.mul_lt_mul'' a.isLt b.isLt
  rw [aluMulhu, BitVec.toNat_ofNat, Nat.mod_eq_of_lt (Nat.div_lt_of_lt_mul bound)]

theorem aluShl_toNat (a b : BitVec 64) : (aluShl a b).toNat = a.toNat * 2 ^ (b.toNat % 64) % 2 ^ 64 := by
  rw [aluShl, BitVec.toNat_shiftLeft, Nat.shiftLeft_eq]

theorem aluShr_toNat (a b : BitVec 64) : (aluShr a b).toNat = a.toNat / 2 ^ (b.toNat % 64) := by
  rw [aluShr, BitVec.toNat_ushiftRight, Nat.shiftRight_eq_div_pow]

theorem aluSar_toInt (a b : BitVec 64) : (aluSar a b).toInt = a.toInt / 2 ^ (b.toNat % 64) := by
  rw [aluSar, BitVec.toInt_sshiftRight, Int.shiftRight_eq_div_pow]
  norm_num

theorem aluMin_toInt (a b : BitVec 64) : (aluMin a b).toInt = min a.toInt b.toInt := by
  rw [min_comm, min_def_lt, aluMin]
  simp only [BitVec.slt_iff_toInt_lt, apply_ite BitVec.toInt]

theorem aluMax_toInt (a b : BitVec 64) : (aluMax a b).toInt = max a.toInt b.toInt := by
  rw [max_def_lt, aluMax]
  simp only [BitVec.slt_iff_toInt_lt, apply_ite BitVec.toInt]

theorem aluMinu_toNat (a b : BitVec 64) : (aluMinu a b).toNat = min a.toNat b.toNat := by
  rw [min_comm, min_def_lt, aluMinu]
  simp only [BitVec.lt_def, apply_ite BitVec.toNat]

theorem aluMaxu_toNat (a b : BitVec 64) : (aluMaxu a b).toNat = max a.toNat b.toNat := by
  rw [max_def_lt, aluMaxu]
  simp only [BitVec.lt_def, apply_ite BitVec.toNat]

theorem aluSet_eq (p : Prop) [Decidable p] : aluSet p = if p then 1 else 0 := by simp [aluSet]

theorem aluSet_slt (a b : BitVec 64) : aluSet (a.slt b) = if a.toInt < b.toInt then 1 else 0 := by
  simp [aluSet, BitVec.slt_iff_toInt_lt]

theorem aluLea_toNat (k : Nat) (a b : BitVec 64) : (aluLea k a b).toNat = (a.toNat + 2 ^ k * b.toNat) % 2 ^ 64 := by
  rw [aluLea, BitVec.toNat_add, BitVec.toNat_shiftLeft, Nat.shiftLeft_eq, Nat.add_mod_mod, Nat.mul_comm]

end Sys2Proof.Machine
end

section
/-! The integer, constant and branch words against their tables (05 Tables 5-3 to 5-5, R123). -/

namespace Sys2Proof.Machine

/-- Settles O1: row by row, the word's own operation computes what Table 5-3 says. -/
theorem integerRegisterWords : Obligations.IntegerRegisterWords := by
  unfold Obligations.IntegerRegisterWords
  simp only [intRows, List.forall_mem_cons]
  exact ⟨
    fun _ _ _ _ _ => row_writes rfl (BitVec.toNat_add _ _),
    fun _ _ _ _ _ => row_writes rfl (BitVec.toNat_sub _ _),
    fun _ _ _ _ _ => row_writes rfl (BitVec.toNat_mul _ _),
    fun _ _ _ _ _ => row_writes rfl (aluMulh_toInt _ _),
    fun _ _ _ _ _ => row_writes rfl (aluMulhu_toNat _ _),
    fun _ _ _ _ _ => row_writes rfl (fun _ => BitVec.getLsbD_and),
    fun _ _ _ _ _ => row_writes rfl (fun _ => BitVec.getLsbD_or),
    fun _ _ _ _ _ => row_writes rfl (fun _ => BitVec.getLsbD_xor),
    fun _ _ _ _ _ => row_writes rfl (aluShl_toNat _ _),
    fun _ _ _ _ _ => row_writes rfl (aluShr_toNat _ _),
    fun _ _ _ _ _ => row_writes rfl (aluSar_toInt _ _),
    fun _ _ _ _ _ => row_writes rfl (aluMin_toInt _ _),
    fun _ _ _ _ _ => row_writes rfl (aluMax_toInt _ _),
    fun _ _ _ _ _ => row_writes rfl (aluMinu_toNat _ _),
    fun _ _ _ _ _ => row_writes rfl (aluMaxu_toNat _ _),
    fun _ _ _ _ _ => row_writes rfl (aluSet_slt _ _),
    fun _ _ _ _ _ => row_writes rfl (aluSet_eq _),
    fun _ _ _ _ _ => row_writes rfl (aluSet_eq _),
    fun _ _ _ _ _ => row_writes rfl ((aluSet_eq _).trans (ite_not ..)),
    fun _ _ _ _ _ => row_writes rfl ((aluLea_toNat 0 _ _).trans (by rw [pow_zero, one_mul])),
    fun _ _ _ _ _ => row_writes rfl (aluLea_toNat 1 _ _),
    fun _ _ _ _ _ => row_writes rfl (aluLea_toNat 2 _ _),
    fun _ _ _ _ _ => row_writes rfl (aluLea_toNat 3 _ _),
    List.forall_mem_nil _⟩

/-- A shift by an immediate is the shift by a register that holds it. -/
theorem shift_imm (i : BitVec 6) : (i.setWidth 64).toNat % 64 = i.toNat := by
  rw [BitVec.toNat_setWidth_of_le (by decide), Nat.mod_eq_of_lt i.isLt]

/-- Settles O2, each word as its group member of Table 5-3. -/
theorem integerImmediateWords : Obligations.IntegerImmediateWords := by
  unfold Obligations.IntegerImmediateWords
  simp only [immRows, shiftRows, List.forall_mem_cons]
  refine ⟨⟨
    fun _ _ _ _ _ => row_writes rfl (BitVec.toNat_add _ _),
    fun _ _ _ _ _ => row_writes rfl (fun _ => BitVec.getLsbD_and),
    fun _ _ _ _ _ => row_writes rfl (fun _ => BitVec.getLsbD_or),
    fun _ _ _ _ _ => row_writes rfl (fun _ => BitVec.getLsbD_xor),
    fun _ _ _ _ _ => row_writes rfl (aluSet_slt _ _),
    fun _ _ _ _ _ => row_writes rfl (aluSet_eq _),
    fun _ _ _ _ _ => row_writes rfl (BitVec.toNat_mul _ _),
    List.forall_mem_nil _⟩,
    fun _ _ _ _ i => row_writes rfl ?_,
    fun _ _ _ _ i => row_writes rfl ?_,
    fun _ _ _ _ i => row_writes rfl ?_,
    List.forall_mem_nil _⟩
  · rw [aluShl_toNat, shift_imm]
  · rw [aluShr_toNat, shift_imm]
  · rw [aluSar_toInt, shift_imm]

/-- Settles O4: a shift left by 13 is a product with 2^13. -/
theorem constantAndMoveWords : Obligations.ConstantAndMoveWords := by
  intro s m d
  have upper (i : BitVec 19) : i.signExtend 64 <<< 13 = BitVec.ofInt 64 (i.toInt * 2 ^ 13) := by
    rw [BitVec.shiftLeft_eq_mul_twoPow, BitVec.ofInt_mul]; rfl
  refine ⟨fun i => result_writes rfl, fun i => ?_, fun i => ?_, result_writes rfl⟩
  · rw [← upper]; exact result_writes rfl
  · rw [← upper]; exact result_writes rfl

theorem slt_eq_false_iff (a b : BitVec 64) : (!a.slt b) = true ↔ b.toInt ≤ a.toInt := by
  rw [Bool.not_eq_true', ← Bool.not_eq_true, BitVec.slt_iff_toInt_lt, not_lt]

theorem mask_eq_zero_iff (v : BitVec 32) : v = 0 ↔ ∀ l, l < 32 → v.getLsbD l = false :=
  ⟨fun h l _ => by rw [h]; exact BitVec.getLsbD_zero, fun h => BitVec.eq_of_getLsbD_eq fun l hl => (h l hl).trans BitVec.getLsbD_zero.symm⟩

theorem mask_ne_zero_iff (v : BitVec 32) : v ≠ 0 ↔ ∃ l, l < 32 ∧ v.getLsbD l = true := by
  simp only [ne_eq, mask_eq_zero_iff, not_forall, Bool.not_eq_false, exists_prop]

theorem mask_eq_allOnes_iff (v : BitVec 32) : v = 0xFFFFFFFF ↔ ∀ l, l < 32 → v.getLsbD l = true := by
  have ones (l : Nat) (hl : l < 32) : (0xFFFFFFFF#32).getLsbD l = true := (BitVec.getLsbD_allOnes (v := 32)).trans (decide_eq_true hl)
  exact ⟨fun h l hl => by rw [h]; exact ones l hl, fun h => BitVec.eq_of_getLsbD_eq fun l hl => (h l hl).trans (ones l hl).symm⟩

/-- Settles O5: each row's condition is the one its word tests. -/
theorem branchWords : Obligations.BranchWords := by
  intro s m
  simp only [branchRows, maskBranchRows, List.forall_mem_cons]
  refine ⟨⟨
    fun _ _ => branch_goes rfl decide_eq_true_iff,
    fun _ _ => branch_goes rfl decide_eq_true_iff,
    fun _ _ => branch_goes rfl BitVec.slt_iff_toInt_lt,
    fun _ _ => branch_goes rfl (slt_eq_false_iff _ _),
    fun _ _ => branch_goes rfl BitVec.slt_iff_toInt_lt,
    fun _ _ => branch_goes rfl (slt_eq_false_iff _ _),
    List.forall_mem_nil _⟩, ⟨
    fun _ _ => branch_goes rfl (decide_eq_true_iff.trans (mask_ne_zero_iff _)),
    fun _ _ => branch_goes rfl (decide_eq_true_iff.trans (mask_eq_zero_iff _)),
    fun _ _ => branch_goes rfl (decide_eq_true_iff.trans (mask_eq_allOnes_iff _)),
    List.forall_mem_nil _⟩, fun o => ?_⟩
  rw [← rel_eq]
  exact goto_goes rfl

end Sys2Proof.Machine
end

section
/-! Counting bits, and the divisions (05 R119). -/

namespace Sys2Proof.Machine

/-- The zeros above the highest one of w bits. -/
theorem clzNat_spec (w v : Nat) : let n := clzNat w v
    n ≤ w ∧ (∀ i, w - n ≤ i → i < w → v.testBit i = false) ∧ (n < w → v.testBit (w - 1 - n) = true) := by
  have low (i : Nat) (hi : i < w) : v.testBit i = (v % 2 ^ w).testBit i := by simp [hi]
  intro n
  by_cases zero : v % 2 ^ w = 0
  · have all : n = w := if_pos zero
    rw [all]
    exact ⟨le_refl w, fun i _ hi => by rw [low i hi, zero, Nat.zero_testBit], fun h => absurd h (lt_irrefl w)⟩
  · have top : (v % 2 ^ w).log2 < w := (Nat.log2_lt zero).2 (Nat.mod_lt _ (Nat.two_pow_pos w))
    have some_ : n = w - 1 - (v % 2 ^ w).log2 := if_neg zero
    have place : w - 1 - n = (v % 2 ^ w).log2 := by omega
    refine ⟨by omega, fun i above hi => ?_, fun _ => ?_⟩
    · rw [low i hi]
      exact Nat.testBit_lt_two_pow ((Nat.log2_lt zero).1 (by omega))
    · rw [place, low _ top]
      exact Nat.testBit_log2 zero

/-- The zeros below the lowest one of w bits. -/
theorem ctzNat_spec (w v : Nat) : ctzNat w v ≤ w ∧ (∀ i, i < ctzNat w v → v.testBit i = false) ∧
    (ctzNat w v < w → v.testBit (ctzNat w v) = true) := by
  induction w generalizing v with
  | zero => simp [ctzNat]
  | succ k ih =>
    by_cases odd : v % 2 = 1
    · simp [ctzNat, odd, Nat.testBit_zero]
    · obtain ⟨most, below, at_⟩ := ih (v / 2)
      simp only [ctzNat, if_neg odd, Nat.add_comm 1, Nat.testBit_succ]
      refine ⟨by omega, fun i hi => ?_, fun h => at_ (by omega)⟩
      cases i with
      | zero => simp [Nat.testBit_zero, odd]
      | succ j => rw [Nat.testBit_succ]; exact below j (by omega)

/-- The ones among w bits. -/
theorem popcNat_eq (w v : Nat) : popcNat w v = ((List.range w).filter (fun i => v.testBit i)).length := by
  induction w generalizing v with
  | zero => rfl
  | succ k ih =>
    have rest : (List.map Nat.succ (List.range k)).filter (fun i => v.testBit i) =
        List.map Nat.succ ((List.range k).filter (fun i => (v / 2).testBit i)) := by
      rw [List.filter_map]
      congr 2
      funext i
      exact Nat.testBit_succ v i
    rw [popcNat, ih, List.range_succ_eq_map, List.filter_cons, rest]
    rcases Nat.mod_two_eq_zero_or_one v with even | odd
    · simp [Nat.testBit_zero, even]
    · simp [Nat.testBit_zero, odd, Nat.add_comm 1]

theorem aluDivu_toNat (a b : BitVec 64) : (aluDivu a b).toNat = if b = 0 then 2 ^ 64 - 1 else a.toNat / b.toNat := by
  unfold aluDivu
  split
  · rfl
  · exact Nat.mod_eq_of_lt ((Nat.div_le_self _ _).trans_lt a.isLt)

theorem aluRemu_toNat (a b : BitVec 64) : (aluRemu a b).toNat = if b = 0 then a.toNat else a.toNat % b.toNat := by
  unfold aluRemu
  split
  · rfl
  · exact Nat.mod_eq_of_lt ((Nat.mod_le _ _).trans_lt a.isLt)

/-- Settles O3: the counts are those of the register's number; a division's row is its own operation. -/
theorem countAndDivisionWords : Obligations.CountAndDivisionWords := by
  refine ⟨fun s m d a => ?_, ?_⟩
  · have count {n : Nat} (h : n ≤ 64) : (BitVec.ofNat 64 n).toNat = n := Nat.mod_eq_of_lt (by omega)
    obtain ⟨clzLe, above, top⟩ := clzNat_spec 64 (s.sq.readS a).toNat
    obtain ⟨ctzLe, below, lowest⟩ := ctzNat_spec 64 (s.sq.readS a).toNat
    obtain ⟨tClz, ranClz, writesClz⟩ := result_writes (i := .clz m d a) (s := s) rfl
    obtain ⟨tCtz, ranCtz, writesCtz⟩ := result_writes (i := .ctz m d a) (s := s) rfl
    obtain ⟨tPopc, ranPopc, writesPopc⟩ := result_writes (i := .popc m d a) (s := s) rfl
    refine ⟨⟨tClz, _, ranClz, writesClz, ?_⟩, ⟨tCtz, _, ranCtz, writesCtz, ?_⟩, ⟨tPopc, _, ranPopc, writesPopc, ?_⟩⟩
    · rw [count clzLe]
      refine ⟨clzLe, fun i hi => ?_, top⟩
      by_cases h : i < 64
      · exact above i hi h
      · exact BitVec.getLsbD_of_ge _ _ (not_lt.1 h)
    · rw [count ctzLe]
      exact ⟨ctzLe, below, lowest⟩
    · rw [popcNat_eq, count ((List.length_filter_le _ _).trans_eq List.length_range)]
      rfl
  · simp only [divRows, List.forall_mem_cons]
    exact ⟨
      fun _ _ _ _ _ => row_leaves rfl rfl,
      fun _ _ _ _ _ => row_leaves rfl (aluDivu_toNat _ _),
      fun _ _ _ _ _ => row_leaves rfl rfl,
      fun _ _ _ _ _ => row_leaves rfl (aluRemu_toNat _ _),
      List.forall_mem_nil _⟩

end Sys2Proof.Machine
end

section
/-! Jumps, LANE, masks, FMT and the control registers (05 R124 to R130). -/

namespace Sys2Proof.Machine

/-- Settles O6: a target that is a multiple of 4 passes the check of JR and LJR. -/
theorem indirectJumpWords : Obligations.IndirectJumpWords := by
  refine fun s m => ⟨fun a i aligned => ?_, fun o => ?_⟩
  · have passes : misaligned4 (s.sq.readS a + imm13 i) ≠ true := by
      rw [ne_eq, misaligned4_iff]; exact not_not_intro aligned
    exact ⟨goto_goes (if_neg passes), advance_ends (x := { s.sq with lpc := s.sq.readS a + imm13 i }) (if_neg passes)⟩
  · have twelve : 12 * o.signExtend 64 = BitVec.ofInt 64 (12 * o.toInt) := by rw [BitVec.ofInt_mul]; rfl
    rw [← twelve]
    exact advance_ends (x := { s.sq with lpc := s.sq.lpc + 12 * o.signExtend 64 }) rfl

/-- Settles O7: a LANE of at least one word begins the enqueuing. -/
theorem laneWord : Obligations.LaneWord := by
  intro s m n positive _
  refine ⟨_, rfl, onlySquad_setSq _ _, ?_⟩
  rw [sq_setSq, Squad.enqueueLanes, if_neg (by omega)]

/-- Settles O8, MSET and SETF by the record they leave, MGET and GETF as words that write their value to sd. -/
theorem maskAndFormatWords : Obligations.MaskAndFormatWords := by
  refine fun s m => ⟨fun n a => ?_, fun d n => ?_, fun a b => ?_, fun d => ?_⟩
  · obtain ⟨t, ran, only, sq⟩ := advance_ends (i := .mset m n a) (s := s) rfl
    refine ⟨t, ran, only, ?_, fun k hk => ?_, ?_⟩ <;> rw [sq]
    · exact readM_writeM_same s.sq n _
    · exact readM_writeM_ne s.sq n k _ hk
    · rfl
  · have wide : BitVec.ofNat 64 (s.sq.readM n).toNat = (s.sq.readM n).setWidth 64 := BitVec.ofNat_toNat _ _
    rw [wide]
    exact result_writes rfl
  · obtain ⟨t, ran, only, sq⟩ := advance_ends (i := .setf m a b) (s := s) rfl
    refine ⟨t, ran, only, fun i hi => ?_, ?_⟩ <;> rw [sq]
    · by_cases chosen : (s.sq.readS b).getLsbD i <;> simp [hi, chosen]
    · rfl
  · have wide : BitVec.ofNat 64 s.sq.fmt.toNat = s.sq.fmt.setWidth 64 := BitVec.ofNat_toNat _ _
    rw [wide]
    exact result_writes rfl

end Sys2Proof.Machine
end

section
/-! The control registers (05 R128, R129; 09 R195). -/

namespace Sys2Proof.Machine

theorem freeWord_eq (c : Channel) : c.freeWord = c.free := by
  unfold Channel.freeWord Channel.free
  split
  · rfl
  · congr 1
    ring

/-- Each row of Table 5-8 is an arm of the model's table, the row of WSREF apart. -/
theorem control_of_row : ∀ e ∈ controlRows, ∀ s : State, s.control e.1 = some (e.2 s) ∧ e.1 ≠ 0x016 := by
  simp [controlRows, State.control, State.chosenChannel, freeWord_eq, State.retOf, State.gangOf]

/-- A number that the table does not list has no value. -/
theorem control_of_unlisted {n : BitVec 12} (unlisted : n ∉ controlNumbers) (s : State) : s.control n = none := by
  unfold State.control
  split
  case h_32 => rfl
  all_goals
    rename_i number
    exact absurd (eq_ofNat_of_toNat_eq number ▸ by decide) unlisted

/-- A word that does not stand is an illegal one: the word's bits are TVAL (02 R61). -/
theorem illegal_took {i : Instr} {s : State} (h : CanTrap s) {word : Instr} {tdst : BitVec 64} (run : exec i s = s.illegal word tdst) :
    ∃ t, exec i s = .next t ∧ TookTrap s t 0x01 false false 0 (scalarTval word) tdst 0 (s.sq.readM 0) :=
  ⟨_, run, trapS_took h _ _ _⟩

/-- A GETX of a register that has a value. -/
theorem exec_getx_of_control {s : State} {n : BitVec 12} {v : BitVec 64} (value : s.control n = some v) (m : BitVec 1) (d : BitVec 6) :
    exec (.getx m d n) s = (s.noteRead n).result m d v := by
  change execGetx m d n s = _
  rw [execGetx, value]

/-- A GETX of one that has none. -/
theorem exec_getx_of_none {s : State} {n : BitVec 12} (none_ : s.control n = none) (m : BitVec 1) (d : BitVec 6) :
    exec (.getx m d n) s = s.illegal (.getx m d n) (tdstScalar d) := by
  change execGetx m d n s = _
  rw [execGetx, none_]

theorem noteRead_of_ne (s : State) {n : BitVec 12} (h : n ≠ 0x016) : s.noteRead n = s := if_neg h

/-- A read of WSREF moves the tick that its device has shown, and nothing else. -/
theorem noteRead_wsref (s : State) : s.noteRead 0x016 =
    s.setDev (s.devOf s.actor) { s.dev (s.devOf s.actor) with fine := s.refreshFine (s.devOf s.actor) } := rfl

/-- Settles O9: a row is an arm of `State.control`; WSREF shows a tick of its half-window, none earlier than the last it has shown. -/
theorem getxReads : Obligations.GetxReads := by
  refine ⟨fun e he s m d => ?_, fun s m d => ?_, fun s h m d n unlisted => ?_⟩
  · obtain ⟨value, plain⟩ := control_of_row e he s
    refine result_writes ((exec_getx_of_control value m d).trans ?_)
    rw [noteRead_of_ne s plain]
  · intro D f shown
    obtain ⟨t, ran, same, others, sq, frame, squads, -⟩ := result_ends (s.noteRead 0x016) m d
      (wsref f ((s.dev D).pos.toNat + s.refreshFine D))
    rw [noteRead_wsref] at frame
    have dev (j : Nat) : t.dev j = (s.noteRead 0x016).dev j := by rw [frame]; rfl
    refine ⟨t, s.refreshFine D, (exec_getx_of_control rfl m d).trans ran, le_max_left _ _,
      max_lt shown (Nat.mod_lt _ (by decide)), same, others, sq, ?_, squads, ?_, fun j hj => ?_⟩
    · rw [frame]; rfl
    · exact (dev D).trans (dev_setDev_same s D _)
    · exact (dev j).trans (dev_setDev_ne s D j _ hj)
  · exact illegal_took h (exec_getx_of_none (control_of_unlisted unlisted s) m d)

/-- Each row is an arm of the model's table of writable fields. -/
theorem setControl_of_row : ∀ e ∈ setxRows, ∀ (x : Squad) (v : BitVec 64), x.setControl e.1 v = some (e.2 x v) := by
  simp [setxRows, Squad.setControl, mergeBits, slice, BitVec.setWidth_eq_extractLsb']

/-- No row changes what decides how its squad goes on. -/
theorem setxRow_keeps : ∀ e ∈ setxRows, ∀ (x : Squad) (v : BitVec 64), (e.2 x v).pc = x.pc ∧ (e.2 x v).runAfter = x.runAfter := by
  simp [setxRows, funext_iff, Squad.runAfter]

theorem setControl_of_unlisted {n : BitVec 12} (unlisted : n ∉ setxRows.map (·.1)) (x : Squad) (v : BitVec 64) :
    x.setControl n v = none := by
  unfold Squad.setControl
  split
  case h_14 => rfl
  all_goals
    rename_i number
    exact absurd (eq_ofNat_of_toNat_eq number ▸ by decide) unlisted

/-- Settles O10: a row is an arm of `Squad.setControl`. -/
theorem setxWrites : Obligations.SetxWrites := by
  refine ⟨fun e he s m a => ?_, fun s h m a n unlisted => ?_⟩
  · have value := setControl_of_row e he s.sq (s.sq.readS a)
    have run : exec (.setx m a e.1) s = .next (s.setSq ((e.2 s.sq (s.sq.readS a)).advance m)) := by
      change execSetx m a e.1 s = _
      rw [execSetx, value]
    obtain ⟨t, ran, only, sq⟩ := advance_ends run
    obtain ⟨pc, run_⟩ := setxRow_keeps e he s.sq (s.sq.readS a)
    rw [pc, run_] at sq
    exact ⟨t, ran, only, sq⟩
  · have run : exec (.setx m a n) s = s.illegal (.setx m a n) tdstNone := by
      change execSetx m a n s = _
      rw [execSetx, setControl_of_unlisted unlisted]
    exact illegal_took h run

end Sys2Proof.Machine
end

section
/-! Segments of registers and their spill areas (05 R111 to R118): which cells a segment has, what clearing segments leaves, what
spilling them leaves of memory. -/

namespace Sys2Proof.Machine

-- Segments --------------------------------------------------------------------------------------------------------------------

theorem mem_upto {lo hi n : Nat} : n ∈ upto lo hi ↔ lo ≤ n ∧ n < hi := by
  simp only [upto, List.mem_map, List.mem_range]
  exact ⟨fun ⟨i, hi, e⟩ => by omega, fun h => ⟨n - lo, by omega, by omega⟩⟩

/-- Segments fewer than w apart are not one physical segment of w. -/
theorem mod_ne_of_lt {w m n : Nat} (h : m < n) (near : n < m + w) : n % w ≠ m % w := by
  intro e
  obtain ⟨c, hc⟩ := (Nat.modEq_iff_dvd' (le_of_lt h)).1 (Eq.symm e)
  rcases c with _ | c
  · omega
  · have : w ≤ w * (c + 1) := Nat.le_mul_of_pos_right w c.succ_pos
    omega

/-- A windowed scalar register lies in the segment of its place in the window. -/
theorem readS_window (x : Squad) {r : Nat} (hr : r < 48) :
    x.readS (BitVec.ofNat 6 (16 + r)) = cellGet x.sregs (ssegCell (x.swb + r / 16) + r % 16) := by
  have number : (BitVec.ofNat 6 (16 + r)).toNat = 16 + r := Nat.mod_eq_of_lt (by omega)
  have named : BitVec.ofNat 6 (16 + r) ≠ 0 := fun e => by
    rw [e] at number
    exact absurd (number.symm.trans BitVec.toNat_zero) (by omega)
  rw [Squad.readS, if_neg named, Squad.scell, number, if_neg (by omega), Nat.add_sub_cancel_left]
  rfl

/-- A vector register lies in the segment of its place in the window, where VWS is whole segments. -/
theorem readV_window (x : Squad) (hv : x.vws % 64 = 0) (r l : Nat) :
    x.readV r l = cellGet x.vregs (x.vsegCell (x.vwb + r / 64) + (32 * (r % 64) + l)) := by
  obtain ⟨w, hw⟩ := Nat.dvd_of_mod_eq_zero hv
  have place : (64 * x.vwb + r) % x.vws = 64 * (x.vwb + r / 64) % x.vws + r % 64 := by
    have low : (64 * x.vwb + r) % 64 = r % 64 := by omega
    have high : (64 * x.vwb + r) / 64 = x.vwb + r / 64 := by omega
    rw [hw, Nat.mod_mul, Nat.mul_mod_mul_left, low, high, Nat.add_comm]
  rw [Squad.readV, Squad.vcell, Squad.vsegCell, place]
  congr 1
  ring

/-- Two vector segments have a cell in common only as one physical segment. -/
theorem vsegCell_mod {x : Squad} {w m n i : Nat} (hw : x.vws = 64 * w) (hi : i < 2048)
    (h : x.vsegCell n ≤ x.vsegCell m + i ∧ x.vsegCell m + i < x.vsegCell n + 2048) : n % w = m % w := by
  simp only [Squad.vsegCell, hw, Nat.mul_mod_mul_left] at h
  omega

/-- What clearing segments leaves in a cell. -/
theorem cellGet_foldl_cellClear {w : Nat} (first : Nat → Nat) (len : Nat) (ns : List Nat) (c : Cells w) (i : Nat) :
    cellGet (ns.foldl (fun c n => cellClear c (first n) len) c) i =
      if ∃ n ∈ ns, first n ≤ i ∧ i < first n + len then 0 else cellGet c i := by
  induction ns generalizing c with
  | nil => simp
  | cons n rest ih =>
    rw [List.foldl_cons, ih, cellGet_cellClear]
    by_cases later : ∃ m ∈ rest, first m ≤ i ∧ i < first m + len
    · simp [later]
    · by_cases here : first n ≤ i ∧ i < first n + len <;> simp [later, here]

theorem foldl_zeroS (ns : List Nat) (x : Squad) :
    ns.foldl Squad.zeroS x = { x with sregs := ns.foldl (fun c n => cellClear c (ssegCell n) 16) x.sregs } := by
  induction ns generalizing x with
  | nil => rfl
  | cons n rest ih => rw [List.foldl_cons, ih]; rfl

theorem foldl_zeroV (ns : List Nat) (x : Squad) :
    ns.foldl Squad.zeroV x = { x with vregs := ns.foldl (fun c n => cellClear c (x.vsegCell n) 2048) x.vregs } := by
  induction ns generalizing x with
  | nil => rfl
  | cons n rest ih => rw [List.foldl_cons, ih]; rfl

-- Spilling ---------------------------------------------------------------------------------------------------------------------

/-- t is s but for what a spill writes: memory, the host's copies of its lines, the marks of uncorrectable units. -/
structure SpillsOnly (s t : State) : Prop where
  frame : t = { s with mem := t.mem, rets := t.rets, bad := t.bad }
  snoop : SameRetsButSnoop s t

theorem spillsOnly_refl (s : State) : SpillsOnly s s := ⟨rfl, fun _ => rfl⟩

theorem spillsOnly_trans {s t u : State} (h : SpillsOnly s t) (k : SpillsOnly t u) : SpillsOnly s u :=
  ⟨by rw [k.frame, h.frame], fun r => by rw [k.snoop r, h.snoop r]⟩

theorem SpillsOnly.squad {s t : State} (h : SpillsOnly s t) (q : Nat) : t.squad q = s.squad q := by rw [h.frame]; rfl
theorem SpillsOnly.scalarSpill {s t : State} (h : SpillsOnly s t) (q n : Nat) : t.scalarSpill q n = s.scalarSpill q n := by
  rw [h.frame]; rfl
theorem SpillsOnly.vectorSpill {s t : State} (h : SpillsOnly s t) (q n : Nat) : t.vectorSpill q n = s.vectorSpill q n := by
  rw [h.frame]; rfl

theorem spillsOnly_recallRange (s : State) (a n : Nat) : SpillsOnly s (s.recallRange a n) := by
  unfold State.recallRange
  dsimp only
  split
  · split
    · refine ⟨rfl, fun r => ?_⟩
      by_cases h : r = 48 * (a / 2 ^ 52) + homeOf a
      · subst h; rw [ret_setRet_same]
      · rw [ret_setRet_ne _ _ _ _ h]
    · exact spillsOnly_refl s
  · exact spillsOnly_refl s

theorem spillsOnly_pasteMem (s : State) (a n : Nat) (c : Cells 8) : SpillsOnly s (s.pasteMem a n c) :=
  spillsOnly_trans (spillsOnly_recallRange s a n) ⟨rfl, fun _ => rfl⟩

theorem spillsOnly_spillS (s : State) (q n : Nat) : SpillsOnly s (s.spillS q n) := spillsOnly_pasteMem ..
theorem spillsOnly_spillV (s : State) (q n : Nat) : SpillsOnly s (s.spillV q n) :=
  spillsOnly_trans (spillsOnly_pasteMem ..) ⟨rfl, fun _ => rfl⟩

/-- A way of spilling numbered segments, from states that differ from s by spills: segment n goes to the len bytes from base + len n,
and what it writes there is of s alone. -/
structure SpillsTo (s : State) (spill : State → Nat → State) (base len : Nat) : Prop where
  only : ∀ t n, SpillsOnly t (spill t n)
  inside : ∀ t n a, SpillsOnly s t → base + len * n ≤ a → a < base + len * n + len → (spill t n).byte a = (spill s n).byte a
  outside : ∀ t n a, SpillsOnly s t → a < base + len * n ∨ base + len * n + len ≤ a → (spill t n).byte a = t.byte a

theorem spillsTo_spillS (s : State) (q : Nat) : SpillsTo s (fun t n => t.spillS q n) (s.spillOf q) 128 := by
  refine ⟨fun t n => spillsOnly_spillS t q n, fun t n a h low high => ?_, fun t n a h out => ?_⟩
  · have here : t.scalarSpill q n = s.scalarSpill q n := h.scalarSpill q n
    have lies : s.scalarSpill q n ≤ a ∧ a < s.scalarSpill q n + 128 := ⟨low, high⟩
    simp only [State.spillS, byte_pasteMem, here, h.squad, if_pos lies]
  · refine byte_spillS_outside t q n a ?_
    rw [h.scalarSpill]
    exact fun lies => out.elim (not_lt.2 lies.1) (not_le.2 lies.2)

theorem spillsTo_spillV (s : State) (q : Nat) :
    SpillsTo s (fun t n => t.spillV q n) (s.spillOf q + 128 * (s.job (s.jobOf q)).sseg) 8192 := by
  refine ⟨fun t n => spillsOnly_spillV t q n, fun t n a h low high => ?_, fun t n a h out => ?_⟩
  · have here : t.vectorSpill q n = s.vectorSpill q n := h.vectorSpill q n
    have lies : s.vectorSpill q n ≤ a ∧ a < s.vectorSpill q n + 8192 := ⟨low, high⟩
    simp only [State.spillV, byte_moveMarks, byte_pasteMem, here, h.squad, if_pos lies]
  · refine byte_spillV_outside t q n a ?_
    rw [h.vectorSpill]
    exact fun lies => out.elim (not_lt.2 lies.1) (not_le.2 lies.2)

section
variable {s : State} {spill : State → Nat → State} {base len : Nat}

theorem SpillsTo.foldl_only (h : SpillsTo s spill base len) (ns : List Nat) {t : State} (ht : SpillsOnly s t) :
    SpillsOnly s (ns.foldl spill t) :=
  List.foldlRecOn ns spill ht fun u hu n _ => spillsOnly_trans hu (h.only u n)

/-- A byte of no area spilled to stays. -/
theorem SpillsTo.foldl_outside (h : SpillsTo s spill base len) {a : Nat} (ns : List Nat)
    (out : ∀ n ∈ ns, a < base + len * n ∨ base + len * n + len ≤ a) {t : State} (ht : SpillsOnly s t) :
    (ns.foldl spill t).byte a = t.byte a := by
  induction ns generalizing t with
  | nil => rfl
  | cons n rest ih =>
    exact (ih (fun m hm => out m (List.mem_cons_of_mem n hm)) (spillsOnly_trans ht (h.only t n))).trans
      (h.outside t n a ht (out n List.mem_cons_self))

/-- A byte of an area spilled to is what spilling that segment alone writes. -/
theorem SpillsTo.foldl_inside (h : SpillsTo s spill base len) {n a : Nat} (low : base + len * n ≤ a) (high : a < base + len * n + len)
    (ns : List Nat) (hn : n ∈ ns) {t : State} (ht : SpillsOnly s t) : (ns.foldl spill t).byte a = (spill s n).byte a := by
  induction ns generalizing t with
  | nil => cases hn
  | cons m rest ih =>
    have then_ := spillsOnly_trans ht (h.only t m)
    by_cases later : n ∈ rest
    · exact ih later then_
    · obtain rfl : n = m := (List.mem_cons.1 hn).resolve_right later
      refine (h.foldl_outside rest (fun k hk => ?_) then_).trans (h.inside t n a ht low high)
      rcases lt_or_gt_of_ne (fun e : k = n => later (e ▸ hk)) with before | after
      · have := Nat.mul_le_mul_left len (Nat.succ_le_of_lt before)
        rw [Nat.mul_succ] at this
        exact .inr (by omega)
      · have := Nat.mul_le_mul_left len (Nat.succ_le_of_lt after)
        rw [Nat.mul_succ] at this
        exact .inl (by omega)

theorem SpillsTo.foldl_read (h : SpillsTo s spill base len) {n a k : Nat} (low : base + len * n ≤ a) (high : a + k ≤ base + len * n + len)
    {ns : List Nat} (hn : n ∈ ns) : (ns.foldl spill s).read a k = (spill s n).read a k :=
  read_congr _ _ k a fun i hi hk => h.foldl_inside (by omega) (by omega) ns hn (spillsOnly_refl s)

end

/-- Marks copied stay where they were, and come to the place copied to. -/
theorem mem_bad_moveMarks_copy {s t : State} (same : t.bad = s.bad) (a b n : Nat) :
    (∀ u ∈ s.bad, u ∈ (t.moveMarks a b n true).bad) ∧
    ∀ u ∈ (t.moveMarks a b n true).bad, u ∈ s.bad ∨ (32 * u < b + n ∧ b < 32 * u + 32) := by
  rw [← same]
  refine ⟨fun u hu => List.mem_append_left _ (List.mem_filter.2 ⟨hu, rfl⟩), fun u hu => ?_⟩
  rcases List.mem_append.1 hu with old | new
  · exact .inl (List.mem_filter.1 old).1
  · obtain ⟨v, hv, rfl⟩ := List.mem_map.1 new
    obtain ⟨_, inside⟩ := List.mem_filter.1 hv
    simp only [Bool.and_eq_true, decide_eq_true_eq] at inside
    exact .inr (by omega)

theorem bad_recallRange (s : State) (a n : Nat) : (s.recallRange a n).bad = s.bad := by
  unfold State.recallRange
  dsimp only
  split
  · split <;> rfl
  · rfl

theorem bad_foldl_spillS (q : Nat) (ns : List Nat) (s : State) : (ns.foldl (fun t n => t.spillS q n) s).bad = s.bad :=
  List.foldlRecOn ns _ (motive := fun t : State => t.bad = s.bad) rfl fun t ht _ _ => (bad_recallRange t _ _).trans ht

/-- A vector segment spilled takes its marks with it (log 37). -/
theorem mem_bad_spillV (s : State) (q n : Nat) : (∀ u ∈ s.bad, u ∈ (s.spillV q n).bad) ∧
    ∀ u ∈ (s.spillV q n).bad, u ∈ s.bad ∨ (32 * u < s.vectorSpill q n + 8192 ∧ s.vectorSpill q n < 32 * u + 32) :=
  mem_bad_moveMarks_copy (bad_recallRange s _ _) _ _ _

/-- The marks of t are those of s and others in the areas of vector segments ns of squad q. -/
def VectorMarks (q : Nat) (ns : List Nat) (s t : State) : Prop :=
  (∀ u ∈ s.bad, u ∈ t.bad) ∧
  ∀ u ∈ t.bad, u ∈ s.bad ∨ ∃ n ∈ ns, 32 * u < s.vectorSpill q n + 8192 ∧ s.vectorSpill q n < 32 * u + 32

theorem vectorMarks_foldl_spillV (s : State) (q : Nat) (ns : List Nat) : VectorMarks q ns s (ns.foldl (fun t n => t.spillV q n) s) := by
  suffices SpillsOnly s (ns.foldl (fun t n => t.spillV q n) s) ∧ VectorMarks q ns s (ns.foldl (fun t n => t.spillV q n) s) from this.2
  refine List.foldlRecOn ns _ (motive := fun t => SpillsOnly s t ∧ VectorMarks q ns s t)
    ⟨spillsOnly_refl s, fun u hu => hu, fun u hu => .inl hu⟩ ?_
  rintro t ⟨only, kept, came⟩ n hn
  obtain ⟨stay, come⟩ := mem_bad_spillV t q n
  refine ⟨spillsOnly_trans only (spillsOnly_spillV t q n), fun u hu => stay u (kept u hu), fun u hu => ?_⟩
  rcases come u hu with old | new
  · exact came u old
  · rw [only.vectorSpill] at new
    exact .inr ⟨n, hn, new⟩

end Sys2Proof.Machine
end

section
/-! Calls (05 R115 to R117; 16 R313): the slide of the windows, what it spills, the wait before it. -/

namespace Sys2Proof.Machine

-- The slide of a squad's windows --------------------------------------------------------------------------------------------------

/-- The segments that a slide clears: those new in the window. -/
abbrev newS (x : Squad) (j : Nat) : List Nat := upto (max (x.swb + 3) (x.swb + j)) (x.swb + j + 3)
abbrev newV (x : Squad) (k : Nat) : List Nat := upto (x.vwb + k + x.vws / 64 - k) (x.vwb + k + x.vws / 64)

theorem slideUp_eq (x : Squad) (k j : Nat) : x.slideUp k j = { x with
    swb := x.swb + j, vwb := x.vwb + k, rlo := max x.rlo (x.swb + j - 4),
    sregs := (newS x j).foldl (fun c n => cellClear c (ssegCell n) 16) x.sregs,
    vregs := (newV x k).foldl (fun c n => cellClear c (x.vsegCell n) 2048) x.vregs } := by
  have rlo : (if 7 < x.swb + j + 3 - x.rlo then x.swb + j + 3 - 7 else x.rlo) = max x.rlo (x.swb + j - 4) := by
    split <;> omega
  simp only [Squad.slideUp, foldl_zeroS, foldl_zeroV, rlo]
  rfl

/-- Registers below s16 stay in a slide. -/
theorem readS_slideUp_global (x : Squad) (k j : Nat) {r : BitVec 6} (hr : r.toNat < 16) : (x.slideUp k j).readS r = x.readS r := by
  have apart : ¬ ∃ n ∈ newS x j, ssegCell n ≤ r.toNat ∧ r.toNat < ssegCell n + 16 := by
    rintro ⟨n, _, h⟩
    unfold ssegCell at h
    omega
  simp only [Squad.readS, Squad.scell, if_pos hr, slideUp_eq, cellGet_foldl_cellClear, if_neg apart]

/-- The window's registers keep their values under their new names, new ones are zero (05 R116). -/
theorem readS_slideUp_window (x : Squad) (k : Nat) {j r : Nat} (hj : j < 4) (hr : r < 48) :
    (x.slideUp k j).readS (BitVec.ofNat 6 (16 + r)) =
      if r + 16 * j < 48 then x.readS (BitVec.ofNat 6 (16 + (r + 16 * j))) else 0 := by
  rw [readS_window _ hr, slideUp_eq]
  dsimp only
  rw [cellGet_foldl_cellClear]
  by_cases shared : r + 16 * j < 48
  · have apart : ¬ ∃ n ∈ newS x j, ssegCell n ≤ ssegCell (x.swb + j + r / 16) + r % 16 ∧
        ssegCell (x.swb + j + r / 16) + r % 16 < ssegCell n + 16 := by
      rintro ⟨n, hn, h⟩
      have := mem_upto.1 hn
      unfold ssegCell at h
      omega
    have segment : x.swb + (r + 16 * j) / 16 = x.swb + j + r / 16 := by omega
    rw [if_neg apart, if_pos shared, readS_window x shared, segment, Nat.add_mul_mod_self_left]
  · have cleared : ∃ n ∈ newS x j, ssegCell n ≤ ssegCell (x.swb + j + r / 16) + r % 16 ∧
        ssegCell (x.swb + j + r / 16) + r % 16 < ssegCell n + 16 :=
      ⟨x.swb + j + r / 16, mem_upto.2 (by omega), by omega⟩
    rw [if_pos cleared, if_neg shared]

/-- The vector window's likewise, where VWS is whole segments. -/
theorem readV_slideUp {x : Squad} (hv : x.vws % 64 = 0) {k : Nat} (j : Nat) (hk : 64 * k ≤ x.vws) {r l : Nat} (hr : r < x.vws)
    (hl : l < 32) : (x.slideUp k j).readV r l = if r + 64 * k < x.vws then x.readV (r + 64 * k) l else 0 := by
  obtain ⟨w, hw⟩ := Nat.dvd_of_mod_eq_zero hv
  have slid : (x.slideUp k j).vws % 64 = 0 := by rw [slideUp_eq]; exact hv
  have cell : 32 * (r % 64) + l < 2048 := by omega
  rw [readV_window _ slid, slideUp_eq]
  change cellGet _ (x.vsegCell (x.vwb + k + r / 64) + (32 * (r % 64) + l)) = _
  rw [cellGet_foldl_cellClear]
  by_cases shared : r + 64 * k < x.vws
  · have apart : ¬ ∃ n ∈ newV x k, x.vsegCell n ≤ x.vsegCell (x.vwb + k + r / 64) + (32 * (r % 64) + l) ∧
        x.vsegCell (x.vwb + k + r / 64) + (32 * (r % 64) + l) < x.vsegCell n + 2048 := by
      rintro ⟨n, hn, h⟩
      have := mem_upto.1 hn
      exact mod_ne_of_lt (by omega) (by omega) (vsegCell_mod hw cell h)
    have segment : x.vwb + (r + 64 * k) / 64 = x.vwb + k + r / 64 := by omega
    rw [if_neg apart, if_pos shared, readV_window x hv, segment, Nat.add_mul_mod_self_left]
  · have cleared : ∃ n ∈ newV x k, x.vsegCell n ≤ x.vsegCell (x.vwb + k + r / 64) + (32 * (r % 64) + l) ∧
        x.vsegCell (x.vwb + k + r / 64) + (32 * (r % 64) + l) < x.vsegCell n + 2048 :=
      ⟨x.vwb + k + r / 64, mem_upto.2 (by omega), by omega, by omega⟩
    rw [if_pos cleared, if_neg shared]

-- What a slide spills ---------------------------------------------------------------------------------------------------------------

section
variable (s : State) (q k j : Nat)

/-- The segments that a slide spills. -/
abbrev leavingV (s : State) (q k : Nat) : List Nat := upto (s.squad q).vwb ((s.squad q).vwb + k)
abbrev leavingS (s : State) (q j : Nat) : List Nat := upto (s.squad q).rlo (max (s.squad q).rlo ((s.squad q).swb + j - 4))

theorem spillUp_eq : s.spillUp q k j =
    (leavingS s q j).foldl (fun t n => t.spillS q n) ((leavingV s q k).foldl (fun t n => t.spillV q n) s) := by
  simp only [State.spillUp, slideUp_eq]

theorem spillsOnly_spillV_foldl : SpillsOnly s ((leavingV s q k).foldl (fun t n => t.spillV q n) s) :=
  (spillsTo_spillV s q).foldl_only _ (spillsOnly_refl s)

theorem spillsOnly_spillUp : SpillsOnly s (s.spillUp q k j) := by
  rw [spillUp_eq]
  exact (spillsTo_spillS s q).foldl_only _ (spillsOnly_spillV_foldl s q k)

/-- A scalar segment that leaves stands in the spill area (05 R116). -/
theorem read_spillUp_scalar {n i : Nat} (low : (s.squad q).rlo ≤ n) (high : n < max (s.squad q).rlo ((s.squad q).swb + j - 4))
    (hi : i < 16) : (s.spillUp q k j).read (s.scalarSpill q n + 8 * i) 8 = (cellGet (s.squad q).sregs (16 + 16 * (n % 7) + i)).toNat := by
  have lies : s.spillOf q + 128 * n ≤ s.scalarSpill q n + 8 * i := Nat.le_add_right _ _
  have cell : ssegCell n = 16 + 16 * (n % 7) := by rw [ssegCell, Nat.mul_comm]
  rw [spillUp_eq, ← cell, ← read_spillS s q n i hi]
  refine read_congr _ _ 8 _ fun a ha hb => (spillsTo_spillS s q).foldl_inside (n := n) (le_trans lies ha) ?_ _ (mem_upto.2 ⟨low, high⟩)
    (spillsOnly_spillV_foldl s q k)
  unfold State.scalarSpill at hb
  omega

/-- A vector segment that leaves does too; the scalar ones, spilled after it, lie before the vector part of the area. -/
theorem read_spillUp_vector (within : (s.squad q).swb + j ≤ (s.job (s.jobOf q)).sseg) (hv : (s.squad q).vws % 64 = 0)
    {n r l : Nat} (hn : n < k) (hr : r < 64) (hl : l < 32) :
    (s.spillUp q k j).read (s.vectorSpill q ((s.squad q).vwb + n) + (128 * r + 4 * l)) 4 = ((s.squad q).readV (64 * n + r) l).toNat := by
  have area : s.vectorSpill q ((s.squad q).vwb + n) =
    s.spillOf q + 128 * (s.job (s.jobOf q)).sseg + 8192 * ((s.squad q).vwb + n) := rfl
  have place : 128 * r + 4 * l = 4 * (32 * r + l) := by ring
  have segment : (s.squad q).vwb + (64 * n + r) / 64 = (s.squad q).vwb + n := by omega
  have register : (64 * n + r) % 64 = r := by omega
  rw [spillUp_eq, readV_window _ hv, segment, register, ← read_spillV s q _ _ (by omega), place]
  refine (read_congr _ _ 4 _ fun a ha _ => ?_).trans
    ((spillsTo_spillV s q).foldl_read (ns := leavingV s q k) (n := (s.squad q).vwb + n) (by omega) (by omega)
      (mem_upto.2 ⟨by omega, by omega⟩))
  refine (spillsTo_spillS s q).foldl_outside _ (fun m hm => .inr ?_) (spillsOnly_spillV_foldl s q k)
  have := mem_upto.1 hm
  omega

/-- No other byte differs. -/
theorem byte_spillUp_outside {a : Nat}
    (scalar : ∀ n, (s.squad q).rlo ≤ n → n < max (s.squad q).rlo ((s.squad q).swb + j - 4) →
      a < s.scalarSpill q n ∨ s.scalarSpill q n + 128 ≤ a)
    (vector : ∀ n, n < k → a < s.vectorSpill q ((s.squad q).vwb + n) ∨ s.vectorSpill q ((s.squad q).vwb + n) + 8192 ≤ a) :
    (s.spillUp q k j).byte a = s.byte a := by
  rw [spillUp_eq]
  refine ((spillsTo_spillS s q).foldl_outside _ (fun n hn => ?_) (spillsOnly_spillV_foldl s q k)).trans
    ((spillsTo_spillV s q).foldl_outside _ (fun n hn => ?_) (spillsOnly_refl s))
  · obtain ⟨low, high⟩ := mem_upto.1 hn
    exact scalar n low high
  · obtain ⟨low, high⟩ := mem_upto.1 hn
    have out := vector (n - (s.squad q).vwb) (by omega)
    rwa [Nat.add_sub_cancel' low] at out

theorem vectorMarks_spillUp : VectorMarks q (leavingV s q k) s (s.spillUp q k j) := by
  have marks := vectorMarks_foldl_spillV s q (leavingV s q k)
  unfold VectorMarks at marks ⊢
  rwa [spillUp_eq, bad_foldl_spillS]

end

-- Calls -----------------------------------------------------------------------------------------------------------------------------

/-- The state that a call spills from. -/
def State.callAt (s : State) (r : Option Checkpoint) : State := s.setSq { s.sq with region := r, latch := none }

/-- What is left of a call once its checks have passed and its wait is over, the region that its squad stood in being r. -/
def State.callEnd (s : State) (m : BitVec 1) (k j : Nat) (r : Option Checkpoint) (target : BitVec 64) : State :=
  let w := (s.callAt r).spillUp s.actor k j
  w.setSq (((w.sq.endRegion.slideUp k j).writeS 15 (linkWord k j w.sq.pc)).goto m target)

/-- The record that a call leaves. -/
def Squad.called (x : Squad) (m : BitVec 1) (k j : Nat) (target : BitVec 64) : Squad :=
  (({ x with region := none, latch := none }.slideUp k j).writeS 15 (linkWord k j x.pc)).goto m target

/-- A scalar register written, and a jump. -/
theorem goto_writeS_eq (x : Squad) (d : BitVec 6) (v : BitVec 64) (m : BitVec 1) (pc : BitVec 64) : (x.writeS d v).goto m pc =
    { x with sregs := (x.writeS d v).sregs, pc := pc, latch := none, run := x.runAfter (m = 1) } := by
  rw [goto_spec, writeS_eq]
  rfl

section
variable (x : Squad) (m : BitVec 1) (k j : Nat) (target : BitVec 64)

theorem slideUp_of_region : ({ x with region := none, latch := none } : Squad).slideUp k j =
    { x.slideUp k j with region := none, latch := none } := by
  simp only [slideUp_eq, newS, newV, Squad.vsegCell]

theorem called_slideUp : x.called m k j target = { x.slideUp k j with
    sregs := ((x.slideUp k j).writeS 15 (linkWord k j x.pc)).sregs, pc := target, run := x.runAfter (m = 1), region := none,
    latch := none } := by
  have runs : (x.slideUp k j).runAfter (m = 1) = x.runAfter (m = 1) := by rw [slideUp_eq]; rfl
  rw [Squad.called, slideUp_of_region, goto_writeS_eq, ← runs]
  generalize x.slideUp k j = y
  rfl

/-- A call changes s15 alone of what its slide leaves. -/
theorem readS_called : (x.called m k j target).readS 15 = linkWord k j x.pc ∧
    ∀ r, r ≠ 15 → (x.called m k j target).readS r = (x.slideUp k j).readS r := by
  rw [called_slideUp]
  generalize x.slideUp k j = y
  exact reads_written { y with region := none } 15 (linkWord k j x.pc) target none (x.runAfter (m = 1))

theorem readV_called (r l : Nat) : (x.called m k j target).readV r l = (x.slideUp k j).readV r l := by
  rw [called_slideUp]
  generalize x.slideUp k j = y
  simp only [Squad.readV, Squad.vcell]

theorem called_eq : x.called m k j target = { x with
    sregs := (x.called m k j target).sregs, vregs := (x.called m k j target).vregs, swb := x.swb + j, vwb := x.vwb + k,
    rlo := max x.rlo (x.swb + j - 4), pc := target, run := x.runAfter (m = 1), region := none, latch := none } := by
  rw [called_slideUp, slideUp_eq]
end

section
variable (s : State) (m : BitVec 1) (k j : Nat) (r : Option Checkpoint) (target : BitVec 64)

theorem squad_callAt : (s.callAt r).squad s.actor = { s.sq with region := r, latch := none } := sq_setSq s _

theorem scalarSpill_callAt (q n : Nat) : (s.callAt r).scalarSpill q n = s.scalarSpill q n := rfl
theorem vectorSpill_callAt (q n : Nat) : (s.callAt r).vectorSpill q n = s.vectorSpill q n := rfl
theorem job_callAt (q : Nat) : (s.callAt r).job ((s.callAt r).jobOf q) = s.job (s.jobOf q) := rfl

/-- A call changes memory by its spills alone, and its squad's record. -/
theorem callEnd_eq : s.callEnd m k j r target = ((s.callAt r).spillUp s.actor k j).setSq (s.sq.called m k j target) := by
  have only := spillsOnly_spillUp (s.callAt r) s.actor k j
  have sq : ((s.callAt r).spillUp s.actor k j).sq = { s.sq with region := r, latch := none } := by
    have actor : ((s.callAt r).spillUp s.actor k j).actor = s.actor := by rw [only.frame]; rfl
    rw [sq_eq, actor, only.squad, squad_callAt]
  change State.setSq ((s.callAt r).spillUp s.actor k j) (((((s.callAt r).spillUp s.actor k j).sq.endRegion.slideUp k j).writeS 15
    (linkWord k j ((s.callAt r).spillUp s.actor k j).sq.pc)).goto m target) = _
  rw [sq]
  rfl

theorem slidUp_callEnd (hj : j < 4) (within : s.sq.swb + j ≤ (s.job (s.jobOf s.actor)).sseg) :
    SlidUp s (s.callEnd m k j r target) k j := by
  have only := spillsOnly_spillUp (s.callAt r) s.actor k j
  have at_ := squad_callAt s r
  obtain ⟨_, others⟩ := readS_called s.sq m k j target
  have record := called_eq s.sq m k j target
  have scalar := @read_spillUp_scalar (s.callAt r) s.actor k j
  have vector := @read_spillUp_vector (s.callAt r) s.actor k j
  have outside := @byte_spillUp_outside (s.callAt r) s.actor k j
  obtain ⟨kept, came⟩ := vectorMarks_spillUp (s.callAt r) s.actor k j
  have actor : ((s.callAt r).spillUp s.actor k j).actor = s.actor := by rw [only.frame]; rfl
  simp only [leavingV, at_, scalarSpill_callAt, vectorSpill_callAt, job_callAt] at scalar vector outside came
  rw [callEnd_eq]
  unfold SlidUp
  dsimp only
  rw [sq_setSq]
  have swb : (s.sq.called m k j target).swb = s.sq.swb + j := by rw [record]
  have vwb : (s.sq.called m k j target).vwb = s.sq.vwb + k := by rw [record]
  have rlo : (s.sq.called m k j target).rlo = max s.sq.rlo (s.sq.swb + j - 4) := by rw [record]
  have pc : (s.sq.called m k j target).pc = target := by rw [record]
  have run : (s.sq.called m k j target).run = s.sq.runAfter (m = 1) := by rw [record]
  rw [swb, vwb, rlo, pc, run]
  refine ⟨rfl, rfl, rfl, fun i hi => ?_, fun i hi => ?_, fun n i low high hi => scalar low high hi,
    fun hv hk hpos => ⟨fun i l hi hl => ?_, fun n i l hn hi hl => vector within hv hn hi hl⟩, fun a => outside, record, ?_,
    fun p hp => ?_, ?_, kept, fun u hu => (came u hu).imp_right ?_⟩
  · rw [others i (by rintro rfl; exact absurd hi (by decide)), readS_slideUp_global _ _ _ (by omega)]
  · rw [others _ (fun e => ?_), readS_slideUp_window _ _ hj hi]
    have number := congrArg BitVec.toNat e
    rw [BitVec.toNat_ofNat, Nat.mod_eq_of_lt (by omega)] at number
    exact absurd number (by change 16 + i ≠ 15; omega)
  · rw [readV_called, readV_slideUp hv j hk hi hl]
  · rw [only.frame]; rfl
  · rw [squad_setSq_ne _ _ _ (by rwa [actor]), only.squad]
    exact squad_setSq_ne _ _ _ hp
  · exact only.snoop
  · rintro ⟨n, hn, near⟩
    obtain ⟨low, high⟩ := mem_upto.1 hn
    exact ⟨n - s.sq.vwb, by omega, by rwa [Nat.add_sub_cancel' low]⟩
end

-- The words -------------------------------------------------------------------------------------------------------------------------

/-- What a call does once it need not wait. -/
def callGo (m : BitVec 1) (k j : Nat) (target : List (BitVec 64) → BitVec 64) (vs : List (BitVec 64)) (u : State) : Res :=
  let w := u.spillUp u.actor k j
  .next (w.setSq (((w.sq.endRegion.slideUp k j).writeS 15 (linkWord k j w.sq.pc)).goto m (target vs)))

/-- A call that has to wait for the squad's results. -/
def CallWaits (x : Squad) (k j : Nat) : Prop := 0 < k ∨ 7 < x.swb + j + 3 - x.rlo ∨ x.region ≠ none

/-- A call whose target is aligned and whose windows fit. -/
def CallFits (s : State) (v : BitVec 5) (w : BitVec 2) (target : BitVec 64) : Prop :=
  target.toNat % 4 = 0 ∧ 64 * v.toNat ≤ s.sq.vws ∧ s.sq.vwb + v.toNat ≤ (s.job (s.jobOf s.actor)).vseg ∧
    s.sq.swb + w.toNat ≤ (s.job (s.jobOf s.actor)).sseg

section
variable {s : State} (m : BitVec 1) {v : BitVec 5} {w : BitVec 2} {srcs : List (BitVec 6)} {f : List (BitVec 64) → BitVec 64}

theorem call_fits (hl : s.sq.latch = none) (fits : CallFits s v w (f (srcs.map s.sq.readS))) : s.call m v w srcs f =
    if 0 < v.toNat ∨ 7 < s.sq.swb + w.toNat + 3 - s.sq.rlo then s.drained srcs (callGo m v.toNat w.toNat f)
    else s.endingRegion srcs (callGo m v.toNat w.toNat f) := by
  obtain ⟨aligned, vws, vseg, sseg⟩ := fits
  have even : ¬ misaligned4 (f (srcs.map s.sq.readS)) = true := fun h => (misaligned4_iff _).1 h aligned
  simp only [State.call, hl, if_neg even, if_neg (not_lt.2 vws), if_neg (not_lt.2 vseg), if_neg (not_lt.2 sseg)]
  rfl

/-- With results outstanding it waits at its PC, its sources kept. -/
theorem call_waits (hl : s.sq.latch = none) (fits : CallFits s v w (f (srcs.map s.sq.readS))) (ho : s.sq.out ≠ [])
    (waits : CallWaits s.sq v.toNat w.toNat) :
    s.call m v w srcs f = .next (s.setSq { s.sq with latch := some (srcs.map s.sq.readS), run := .parked }) := by
  rw [call_fits m hl fits]
  split
  · exact drained_waits s srcs _ ho hl
  · next no =>
    have region : s.sq.region ≠ none := by
      rcases waits with shifts | spills | region
      · exact absurd (.inl shifts) no
      · exact absurd (.inr spills) no
      · exact region
    rw [State.endingRegion, waitRegion_waits s _ _ region ho, atIssue_fresh _ _ hl]

/-- It runs otherwise. -/
theorem call_ready (hl : s.sq.latch = none) (fits : CallFits s v w (f (srcs.map s.sq.readS)))
    (ready : s.sq.out = [] ∨ ¬ CallWaits s.sq v.toNat w.toNat) :
    ∃ r, s.call m v w srcs f = .next (s.callEnd m v.toNat w.toNat r (f (srcs.map s.sq.readS))) := by
  rw [call_fits m hl fits]
  split
  · next shifts =>
    have ho : s.sq.out = [] := ready.resolve_right fun no => no (shifts.elim .inl fun spills => .inr (.inl spills))
    exact ⟨s.sq.region, drained_ready s srcs _ ho hl⟩
  · have free : s.sq.region = none ∨ s.sq.out = [] := ready.symm.imp_left fun no => by
      by_contra region
      exact no (.inr (.inr region))
    exact ⟨none, endingRegion_ready s srcs _ free hl⟩

/-- What a call that runs leaves. -/
theorem call_slides (hl : s.sq.latch = none) (fits : CallFits s v w (f (srcs.map s.sq.readS)))
    (ready : s.sq.out = [] ∨ ¬ CallWaits s.sq v.toNat w.toNat) :
    ∃ t, s.call m v w srcs f = .next t ∧ SlidUp s t v.toNat w.toNat ∧ t.sq.readS 15 = linkWord v.toNat w.toNat s.sq.pc ∧
      t.sq.pc = f (srcs.map s.sq.readS) ∧ t.sq.run = s.sq.runAfter (m = 1) := by
  obtain ⟨r, run⟩ := call_ready m hl fits ready
  refine ⟨_, run, slidUp_callEnd s m _ _ r _ w.isLt fits.2.2.2, ?_⟩
  rw [callEnd_eq, sq_setSq]
  exact ⟨(readS_called ..).1, by rw [called_eq], by rw [called_eq]⟩

end

/-- The target of a CALL at an aligned PC is aligned. -/
theorem rel_aligned {n : Nat} {x : Squad} (pc : x.pc.toNat % 4 = 0) (o : BitVec n) : (x.rel o).toNat % 4 = 0 := by
  have offset : (BitVec.ofInt 64 (4 * o.toInt)).toNat % 4 = 0 := by
    rw [BitVec.toNat_ofInt]
    omega
  rw [rel_eq, BitVec.toNat_add]
  omega

/-- Settles O11: a call that need not wait spills and slides as SlidUp says, segment by segment; one that waits keeps its sources. -/
theorem callWords : Obligations.CallWords := by
  unfold Obligations.CallWords
  intro s m v w hl vws vseg sseg
  have call (pc : s.sq.pc.toNat % 4 = 0) (o : BitVec 18) : CallFits s v w (s.sq.rel o) := ⟨rel_aligned pc o, vws, vseg, sseg⟩
  have callr (a : BitVec 6) (ha : (s.sq.readS a).toNat % 4 = 0) : CallFits s v w (s.sq.readS a) := ⟨ha, vws, vseg, sseg⟩
  refine ⟨fun ho waits => ⟨fun pc o => ?_, fun a ha => ?_⟩, fun ready pc o => ?_, fun ready a ha => ?_⟩
  · exact ⟨_, call_waits (srcs := []) (f := fun _ => s.sq.rel o) m hl (call pc o) ho waits, onlySquad_setSq _ _, sq_setSq _ _⟩
  · exact ⟨_, call_waits (srcs := [a]) (f := fun vs => argAt vs 0) m hl (callr a ha) ho waits, onlySquad_setSq _ _, sq_setSq _ _⟩
  · rw [← rel_eq]
    exact call_slides (srcs := []) (f := fun _ => s.sq.rel o) m hl (call pc o) ready
  · exact call_slides (srcs := [a]) (f := fun vs => argAt vs 0) m hl (callr a ha) ready

end Sys2Proof.Machine
end

section
/-! Returns (05 R118): what filling segments from the spill area leaves of the squad's registers, the slide back. -/

namespace Sys2Proof.Machine

-- Filling --------------------------------------------------------------------------------------------------------------------------

/-- t is s but for register cells of squad q. -/
structure FillsOnly (q : Nat) (s t : State) : Prop where
  frame : t = { s with squads := t.squads }
  others : SameSquadsBut q s t
  record : t.squad q = { s.squad q with sregs := (t.squad q).sregs, vregs := (t.squad q).vregs }

section
variable {q : Nat} {s t u : State}

theorem fillsOnly_refl (q : Nat) (s : State) : FillsOnly q s s := ⟨rfl, fun _ _ => rfl, rfl⟩

theorem fillsOnly_trans (h : FillsOnly q s t) (k : FillsOnly q t u) : FillsOnly q s u :=
  ⟨by rw [k.frame, h.frame], fun p hp => (k.others p hp).trans (h.others p hp), by rw [k.record, h.record]⟩

theorem FillsOnly.read (h : FillsOnly q s t) (a n : Nat) : t.read a n = s.read a n :=
  read_congr _ _ n a fun _ _ _ => by rw [h.frame]; rfl
theorem FillsOnly.scalarSpill (h : FillsOnly q s t) (n : Nat) : t.scalarSpill q n = s.scalarSpill q n := by rw [h.frame]; rfl
theorem FillsOnly.vectorSpill (h : FillsOnly q s t) (n : Nat) : t.vectorSpill q n = s.vectorSpill q n := by rw [h.frame]; rfl
theorem FillsOnly.vsegCell (h : FillsOnly q s t) (n : Nat) : (t.squad q).vsegCell n = (s.squad q).vsegCell n := by rw [h.record]; rfl
theorem FillsOnly.actor (h : FillsOnly q s t) : t.actor = s.actor := by rw [h.frame]

end

theorem squad_fillS (s : State) (q n : Nat) : (s.fillS q n).squad q = { s.squad q with sregs := ((s.fillS q n).squad q).sregs } := by
  rw [State.fillS, squad_setSquad_same]

theorem squad_fillV (s : State) (q n : Nat) : (s.fillV q n).squad q = { s.squad q with vregs := ((s.fillV q n).squad q).vregs } := by
  rw [State.fillV, squad_setSquad_same]

theorem fillsOnly_fillS (s : State) (q n : Nat) : FillsOnly q s (s.fillS q n) :=
  ⟨rfl, fun p hp => squad_setSquad_ne _ _ _ _ hp, by rw [squad_fillS]⟩

theorem fillsOnly_fillV (s : State) (q n : Nat) : FillsOnly q s (s.fillV q n) :=
  ⟨rfl, fun p hp => squad_setSquad_ne _ _ _ _ hp, by rw [squad_fillV]⟩

/-- A way of filling numbered segments of squad q, from states that differ from s by fills: the len cells from first n take what value
says of s, the others stay. -/
structure FillsFrom {w : Nat} (q : Nat) (s : State) (fill : State → Nat → State) (cells : State → Cells w) (first : Nat → Nat)
    (len : Nat) (value : Nat → Nat → BitVec w) : Prop where
  only : ∀ t n, FillsOnly q t (fill t n)
  cell : ∀ t n c, FillsOnly q s t → cellGet (cells (fill t n)) c =
    if first n ≤ c ∧ c < first n + len then value n (c - first n) else cellGet (cells t) c

theorem fillsFrom_fillS (q : Nat) (s : State) : FillsFrom q s (fun t n => t.fillS q n) (fun t => (t.squad q).sregs) ssegCell 16
    (fun n i => BitVec.ofNat 64 (s.read (s.scalarSpill q n + 8 * i) 8)) :=
  ⟨fun t n => fillsOnly_fillS t q n, fun t n c h => by rw [sregs_fillS, h.scalarSpill, h.read]⟩

theorem fillsFrom_fillV (q : Nat) (s : State) : FillsFrom q s (fun t n => t.fillV q n) (fun t => (t.squad q).vregs)
    (s.squad q).vsegCell 2048 (fun n i => BitVec.ofNat 32 (s.read (s.vectorSpill q n + 4 * i) 4)) :=
  ⟨fun t n => fillsOnly_fillV t q n, fun t n c h => by rw [vregs_fillV, h.vectorSpill, h.read, h.vsegCell]⟩

section
variable {w q : Nat} {s : State} {fill : State → Nat → State} {cells : State → Cells w} {first : Nat → Nat} {len : Nat}
  {value : Nat → Nat → BitVec w} (h : FillsFrom q s fill cells first len value)
include h

theorem FillsFrom.foldl_only (ns : List Nat) {t : State} (ht : FillsOnly q s t) : FillsOnly q s (ns.foldl fill t) :=
  List.foldlRecOn ns fill ht fun u hu n _ => fillsOnly_trans hu (h.only u n)

/-- A cell of no segment filled stays. -/
theorem FillsFrom.foldl_outside {c : Nat} (ns : List Nat) (out : ∀ n ∈ ns, ¬ (first n ≤ c ∧ c < first n + len)) {t : State}
    (ht : FillsOnly q s t) : cellGet (cells (ns.foldl fill t)) c = cellGet (cells t) c := by
  induction ns generalizing t with
  | nil => rfl
  | cons n rest ih =>
    rw [List.foldl_cons, ih (fun m hm => out m (List.mem_cons_of_mem n hm)) (fillsOnly_trans ht (h.only t n)), h.cell t n c ht,
      if_neg (out n List.mem_cons_self)]

/-- A cell of one of them alone takes its value. -/
theorem FillsFrom.foldl_inside {c n : Nat} (ns : List Nat) (hn : n ∈ ns) (lies : first n ≤ c ∧ c < first n + len)
    (alone : ∀ m ∈ ns, first m ≤ c ∧ c < first m + len → m = n) {t : State} (ht : FillsOnly q s t) :
    cellGet (cells (ns.foldl fill t)) c = value n (c - first n) := by
  induction ns generalizing t with
  | nil => cases hn
  | cons m rest ih =>
    have then_ := fillsOnly_trans ht (h.only t m)
    by_cases later : n ∈ rest
    · exact ih later (fun k hk => alone k (List.mem_cons_of_mem m hk)) then_
    · obtain rfl : n = m := (List.mem_cons.1 hn).resolve_right later
      have apart : ∀ k ∈ rest, ¬ (first k ≤ c ∧ c < first k + len) := fun k hk inside =>
        later (alone k (List.mem_cons_of_mem n hk) inside ▸ hk)
      rw [List.foldl_cons, h.foldl_outside rest apart then_, h.cell t n c ht, if_pos lies]

end

-- The fill of a return ---------------------------------------------------------------------------------------------------------------

section
variable (s : State) (q k j : Nat)

/-- The segments that a return fills. -/
abbrev comingV (x : Squad) (k : Nat) : List Nat := upto (x.vwb - k) x.vwb
abbrev comingS (x : Squad) (j : Nat) : List Nat := upto (x.swb - j) x.rlo

theorem fillsOnly_fillV_foldl (ns : List Nat) : FillsOnly q s (ns.foldl (fun t n => t.fillV q n) s) :=
  (fillsFrom_fillV q s).foldl_only ns (fillsOnly_refl q s)

theorem fillsOnly_fillDown : FillsOnly q s (s.fillDown q k j) :=
  (fillsFrom_fillS q s).foldl_only _ (fillsOnly_fillV_foldl s q _)

theorem sregs_foldl_fillV (ns : List Nat) : ((ns.foldl (fun t n => t.fillV q n) s).squad q).sregs = (s.squad q).sregs :=
  List.foldlRecOn ns _ (motive := fun t : State => (t.squad q).sregs = (s.squad q).sregs) rfl fun t ht n _ => by rw [squad_fillV, ht]

theorem vregs_foldl_fillS (ns : List Nat) (t : State) : ((ns.foldl (fun t n => t.fillS q n) t).squad q).vregs = (t.squad q).vregs :=
  List.foldlRecOn ns _ (motive := fun u : State => (u.squad q).vregs = (t.squad q).vregs) rfl fun u hu n _ => by rw [squad_fillS, hu]

/-- A scalar cell of no segment that comes back stays. -/
theorem sregs_fillDown_outside {c : Nat} (out : ∀ n ∈ comingS (s.squad q) j, ¬ (ssegCell n ≤ c ∧ c < ssegCell n + 16)) :
    cellGet ((s.fillDown q k j).squad q).sregs c = cellGet (s.squad q).sregs c :=
  ((fillsFrom_fillS q s).foldl_outside _ out (fillsOnly_fillV_foldl s q _)).trans (by rw [sregs_foldl_fillV])

/-- Fewer than eight segments come back from the area, each to cells of its own. -/
theorem sregs_fillDown_inside {n i : Nat} (near : (s.squad q).rlo ≤ (s.squad q).swb - j + 7) (low : (s.squad q).swb - j ≤ n)
    (high : n < (s.squad q).rlo) (hi : i < 16) : cellGet ((s.fillDown q k j).squad q).sregs (ssegCell n + i) =
      BitVec.ofNat 64 (s.read (s.scalarSpill q n + 8 * i) 8) := by
  refine ((fillsFrom_fillS q s).foldl_inside _ (mem_upto.2 ⟨low, high⟩) ⟨by omega, by omega⟩ (fun m hm lies => ?_)
    (fillsOnly_fillV_foldl s q _)).trans (by rw [Nat.add_sub_cancel_left])
  have := mem_upto.1 hm
  unfold ssegCell at lies
  omega

/-- A vector cell of no segment that comes back stays. -/
theorem vregs_fillDown_outside {c : Nat}
    (out : ∀ n ∈ comingV (s.squad q) k, ¬ ((s.squad q).vsegCell n ≤ c ∧ c < (s.squad q).vsegCell n + 2048)) :
    cellGet ((s.fillDown q k j).squad q).vregs c = cellGet (s.squad q).vregs c := by
  rw [State.fillDown, vregs_foldl_fillS]
  exact (fillsFrom_fillV q s).foldl_outside _ out (fillsOnly_refl q s)

/-- No more vector segments come back than there are, each to cells of its own. -/
theorem vregs_fillDown_inside {n i : Nat} (hv : (s.squad q).vws % 64 = 0) (hk : 64 * k ≤ (s.squad q).vws)
    (low : (s.squad q).vwb - k ≤ n) (high : n < (s.squad q).vwb) (hi : i < 2048) :
    cellGet ((s.fillDown q k j).squad q).vregs ((s.squad q).vsegCell n + i) =
      BitVec.ofNat 32 (s.read (s.vectorSpill q n + 4 * i) 4) := by
  obtain ⟨w, hw⟩ := Nat.dvd_of_mod_eq_zero hv
  rw [State.fillDown, vregs_foldl_fillS]
  refine ((fillsFrom_fillV q s).foldl_inside _ (mem_upto.2 ⟨low, high⟩) ⟨by omega, by omega⟩ (fun m hm lies => ?_)
    (fillsOnly_refl q s)).trans (by rw [Nat.add_sub_cancel_left])
  have := mem_upto.1 hm
  have same := vsegCell_mod hw hi lies
  rcases lt_trichotomy m n with before | equal | after
  · exact absurd same.symm (mod_ne_of_lt before (by omega))
  · exact equal
  · exact absurd same (mod_ne_of_lt after (by omega))

end

-- The word -----------------------------------------------------------------------------------------------------------------------

/-- The record that a return leaves, the registers being those of x. -/
def Squad.returned (x : Squad) (m : BitVec 1) (k j : Nat) (target : BitVec 64) : Squad := (x.endRegion.slideDown k j).goto m target

theorem returned_eq (x : Squad) (m : BitVec 1) (k j : Nat) (target : BitVec 64) : x.returned m k j target = { x with
    vwb := x.vwb - k, swb := x.swb - j, rlo := min x.rlo (x.swb - j), pc := target, run := x.runAfter (m = 1), region := none,
    latch := none } := by
  rw [Squad.returned, goto_spec]
  rfl

/-- What a return leaves once its checks have passed and its wait is over. -/
def State.returnEnd (s : State) (m : BitVec 1) (k j : Nat) (target : BitVec 64) : State :=
  let w := s.fillDown s.actor k j
  w.setSq (w.sq.returned m k j target)

theorem onlySquad_trans {s t u : State} (h : OnlySquad s t) (k : OnlySquad t u) : OnlySquad s u := by
  obtain ⟨frame, others, bytes⟩ := h
  obtain ⟨frame', others', bytes'⟩ := k
  have actor : t.actor = s.actor := by rw [frame]
  exact ⟨by rw [frame', frame], fun p hp => (others' p (by rwa [actor])).trans (others p hp), fun b => (bytes' b).trans (bytes b)⟩

/-- The fields of a link word (05 R117). -/
theorem link_fields {k j : Nat} (hk : k < 32) (hj : j < 4) (a : BitVec 55) :
    let link : BitVec 64 := BitVec.ofNat 5 k ++ (BitVec.ofNat 2 j ++ (a ++ 0#2))
    (slice link 59 5).toNat = k ∧ (slice link 57 2).toNat = j ∧ slice link 2 55 = a := by
  intro link
  have top : slice link 59 5 = BitVec.ofNat 5 k := BitVec.extractLsb'_append_eq_left
  have middle : slice link 57 2 = BitVec.ofNat 2 j :=
    (BitVec.extractLsb'_append_eq_of_add_le (by omega)).trans BitVec.extractLsb'_append_eq_left
  have address : slice link 2 55 = a := (BitVec.extractLsb'_append_eq_of_add_le (by omega)).trans
    ((BitVec.extractLsb'_append_eq_of_add_le (by omega)).trans BitVec.extractLsb'_append_eq_left)
  rw [top, middle, address]
  exact ⟨Nat.mod_eq_of_lt hk, Nat.mod_eq_of_lt hj, rfl⟩

section
variable {s : State} (m : BitVec 1) {k j : Nat} {a : BitVec 55}

theorem ret_runs (link : s.sq.readS 15 = BitVec.ofNat 5 k ++ (BitVec.ofNat 2 j ++ (a ++ 0#2))) (hk : k < 32) (hj : j < 4)
    (ho : s.sq.out = []) (hl : s.sq.latch = none) (vwb : k ≤ s.sq.vwb) (swb : j ≤ s.sq.swb) (vws : 64 * k ≤ s.sq.vws)
    (good : s.fillBad s.actor k j = none) :
    exec (.ret m) s = .next ((s.setSq { s.sq with latch := none }).returnEnd m k j ((a ++ 0#2).signExtend 64)) := by
  obtain ⟨isk, isj, isa⟩ := link_fields hk hj a
  have sq : (s.setSq { s.sq with latch := none }).squad s.actor = { s.sq with latch := none } := sq_setSq s _
  have good' : (s.setSq { s.sq with latch := none }).fillBad s.actor k j = none := by
    rw [← good, State.fillBad, sq]
    rfl
  have fits : ¬ (s.sq.vwb < k ∨ s.sq.swb < j ∨ s.sq.vws < 64 * k) := by omega
  change execRet m s = _
  simp only [execRet, hl, link, isk, isj, isa, if_neg fits, drained_ready s _ _ ho hl, waitRegion_ready s _ _ (.inr ho), setSq_actor,
    good', ite_self]
  rfl

end

section
variable (s : State) (m : BitVec 1) (k j : Nat) (target : BitVec 64)

theorem sq_fillDown : (s.fillDown s.actor k j).sq = { s.sq with
    sregs := ((s.fillDown s.actor k j).squad s.actor).sregs, vregs := ((s.fillDown s.actor k j).squad s.actor).vregs } := by
  rw [sq_eq, (fillsOnly_fillDown s s.actor k j).actor]
  exact (fillsOnly_fillDown s s.actor k j).record

theorem onlySquad_returnEnd : OnlySquad s (s.returnEnd m k j target) := by
  have only := fillsOnly_fillDown s s.actor k j
  refine ⟨?_, fun p hp => ?_, fun a => ?_⟩ <;> unfold State.returnEnd <;> dsimp only
  · rw [only.frame]; rfl
  · rw [squad_setSq_ne _ _ _ (by rwa [only.actor]), only.others p hp]
  · rw [only.frame]; rfl

/-- The record that a return leaves, but for the registers filled. -/
theorem sq_returnEnd : (s.returnEnd m k j target).sq = { s.sq with
    sregs := ((s.fillDown s.actor k j).squad s.actor).sregs, vregs := ((s.fillDown s.actor k j).squad s.actor).vregs,
    vwb := s.sq.vwb - k, swb := s.sq.swb - j, rlo := min s.sq.rlo (s.sq.swb - j), pc := target, run := s.sq.runAfter (m = 1),
    region := none, latch := none } := by
  unfold State.returnEnd
  dsimp only
  rw [sq_setSq, returned_eq, sq_fillDown]
  rfl

/-- Registers below s16 stay in a return. -/
theorem readS_returnEnd_global {r : BitVec 6} (hr : r.toNat < 16) : (s.returnEnd m k j target).sq.readS r = s.sq.readS r := by
  have apart : ∀ n ∈ comingS (s.squad s.actor) j, ¬ (ssegCell n ≤ r.toNat ∧ r.toNat < ssegCell n + 16) := fun n _ lies => by
    unfold ssegCell at lies
    omega
  rw [sq_returnEnd]
  simp only [Squad.readS, Squad.scell, if_pos hr, sregs_fillDown_outside s s.actor k j apart]
  rfl

/-- A windowed register comes from the spill area where its segment had left, and is the segment's own otherwise (05 R118). -/
theorem readS_returnEnd_window (near : s.sq.rlo ≤ s.sq.swb - j + 7) {n i : Nat} (hn : n < 3) (hi : i < 16) :
    (s.returnEnd m k j target).sq.readS (BitVec.ofNat 6 (16 + (16 * n + i))) =
      if s.sq.swb - j + n < s.sq.rlo then BitVec.ofNat 64 (s.read (s.scalarSpill s.actor (s.sq.swb - j + n) + 8 * i) 8)
      else cellGet s.sq.sregs (16 + 16 * ((s.sq.swb - j + n) % 7) + i) := by
  have segment : (16 * n + i) / 16 = n := by omega
  have register : (16 * n + i) % 16 = i := by omega
  rw [readS_window _ (by omega), sq_returnEnd, segment, register]
  dsimp only
  split
  · next left => exact sregs_fillDown_inside s s.actor k j near (Nat.le_add_right _ _) left hi
  · next stayed =>
    rw [sregs_fillDown_outside, ssegCell, Nat.mul_comm 16 (_ % 7)]
    · rfl
    · intro p hp lies
      have := mem_upto.1 hp
      unfold ssegCell at lies
      rw [← sq_eq] at this
      omega

/-- A vector register likewise, where VWS is whole segments. -/
theorem readV_returnEnd (hv : s.sq.vws % 64 = 0) (hk : 64 * k ≤ s.sq.vws) (vwb : k ≤ s.sq.vwb) {r l : Nat} (hr : r < s.sq.vws)
    (hl : l < 32) : (s.returnEnd m k j target).sq.readV r l =
      if r < 64 * k then BitVec.ofNat 32 (s.read (s.vectorSpill s.actor (s.sq.vwb - k + r / 64) + (128 * (r % 64) + 4 * l)) 4)
      else s.sq.readV (r - 64 * k) l := by
  have cell : 32 * (r % 64) + l < 2048 := by omega
  rw [readV_window _ (by rw [sq_returnEnd]; exact hv), sq_returnEnd]
  change cellGet _ (s.sq.vsegCell (s.sq.vwb - k + r / 64) + (32 * (r % 64) + l)) = _
  split
  · next left =>
    have place : 128 * (r % 64) + 4 * l = 4 * (32 * (r % 64) + l) := by ring
    rw [place]
    exact vregs_fillDown_inside s s.actor k j hv hk (Nat.le_add_right _ _) (by rw [← sq_eq]; omega) cell
  · next stayed =>
    obtain ⟨w, hw⟩ := Nat.dvd_of_mod_eq_zero hv
    have segment : s.sq.vwb - k + r / 64 = s.sq.vwb + (r - 64 * k) / 64 := by omega
    have register : r % 64 = (r - 64 * k) % 64 := by omega
    rw [readV_window _ hv, ← segment, ← register]
    refine vregs_fillDown_outside s s.actor k j fun n hn lies => ?_
    have := mem_upto.1 hn
    rw [← sq_eq] at this
    exact mod_ne_of_lt (by omega) (by omega) (vsegCell_mod hw cell lies).symm

end

/-- Settles O12: with nothing outstanding a return runs at once; no two segments that it fills have a cell in common. -/
theorem returnWord : Obligations.ReturnWord := by
  unfold Obligations.ReturnWord
  intro s m k j a link hk hj ho hl vwb swb vws good
  have run := ret_runs m link hk hj ho hl vwb swb vws good
  -- The return runs in s with the latch cleared: all that it reads is as in s.
  have fresh : (s.setSq { s.sq with latch := none }).sq = { s.sq with latch := none } := sq_setSq s _
  have only := onlySquad_setSq s { s.sq with latch := none }
  have read : ∀ b n, (s.setSq { s.sq with latch := none }).read b n = s.read b n := fun b n => read_congr _ _ n b fun _ _ _ => rfl
  have scalar : ∀ n, (s.setSq { s.sq with latch := none }).scalarSpill s.actor n = s.scalarSpill s.actor n := fun _ => rfl
  have vector : ∀ n, (s.setSq { s.sq with latch := none }).vectorSpill s.actor n = s.vectorSpill s.actor n := fun _ => rfl
  have actor : (s.setSq { s.sq with latch := none }).actor = s.actor := rfl
  generalize s.setSq { s.sq with latch := none } = u at run fresh only read scalar vector actor
  have record := sq_returnEnd u m k j ((a ++ 0#2).signExtend 64)
  have low := @readS_returnEnd_global u m k j ((a ++ 0#2).signExtend 64)
  have window := @readS_returnEnd_window u m k j ((a ++ 0#2).signExtend 64)
  have wide := @readV_returnEnd u m k j ((a ++ 0#2).signExtend 64)
  simp only [fresh, actor, read, scalar, vector] at record low window wide
  have swb' : (u.returnEnd m k j ((a ++ 0#2).signExtend 64)).sq.swb = s.sq.swb - j := by rw [record]
  have vwb' : (u.returnEnd m k j ((a ++ 0#2).signExtend 64)).sq.vwb = s.sq.vwb - k := by rw [record]
  refine ⟨_, run, onlySquad_trans only (onlySquad_returnEnd u m k j _), by rw [record], ?_⟩
  rw [swb', vwb']
  refine ⟨Nat.sub_add_cancel swb, Nat.sub_add_cancel vwb, by rw [record], fun r => low, fun near n i => window near,
    fun hv _ r l => wide hv vws vwb, ?_⟩
  rw [record]
  rfl

end Sys2Proof.Machine
end

section
/-! The numbers of a floating-point format (06 R133): a run of bit patterns of one exponent is a run of multiples of one unit. -/

namespace Sys2Proof.Machine

/-- What rounding uses of a format: it has fraction bits, and the exponent of all ones lies one past twice the bias (06 Table 6-2). -/
structure FFmt.Standard (f : FFmt) : Prop where
  fraction : 1 ≤ f.p
  fraction_le : f.p ≤ 23
  bias_pos : 1 ≤ f.bias
  exponents : 2 ^ f.k = 2 * f.bias + 2

theorem standard_of_mem {f : FFmt} (hf : f ∈ floatFormats) : f.Standard := by
  simp only [floatFormats, List.mem_cons, List.not_mem_nil, or_false] at hf
  obtain rfl | rfl | rfl := hf
  · exact ⟨by decide, by decide, by decide, rfl⟩
  · exact ⟨by decide, by decide, by decide, rfl⟩
  · exact ⟨by decide, by decide, by decide, rfl⟩

/-- A magnitude as a real number. -/
noncomputable def FFmt.value (f : FFmt) (b : Nat) : ℝ := (f.magnitude b : ℝ)

/-- Distance of the neighbouring magnitudes in the j-th run of patterns: the subnormal and the first normal ones are run 0. -/
noncomputable def FFmt.ulp (f : FFmt) (j : Nat) : ℝ := 2 ^ ((j : Int) + f.emin - f.p)

variable {f : FFmt}

theorem ulp_pos (f : FFmt) (j : Nat) : 0 < f.ulp j := zpow_pos two_pos _

/-- Above the subnormal ones, the pattern of fraction i and exponent field j + 1. -/
theorem magnitude_normal (f : FFmt) (j : Nat) {i : Nat} (hi : i < 2 ^ f.p) :
    f.magnitude ((j + 1) * 2 ^ f.p + i) = ((2 ^ f.p + i : Nat) : ℚ) * 2 ^ ((j : Int) + f.emin - f.p) := by
  have pos : 0 < 2 ^ f.p := Nat.two_pow_pos _
  have notSmall : ¬ (j + 1) * 2 ^ f.p + i < 2 ^ f.p := by have : 0 ≤ j * 2 ^ f.p := Nat.zero_le _; rw [Nat.succ_mul]; omega
  have field : ((j + 1) * 2 ^ f.p + i) / 2 ^ f.p = j + 1 := by
    rw [Nat.add_comm, Nat.add_mul_div_right _ _ pos, Nat.div_eq_of_lt hi, Nat.zero_add]
  have fraction : ((j + 1) * 2 ^ f.p + i) % 2 ^ f.p = i := by
    rw [Nat.add_comm, Nat.add_mul_mod_self_right, Nat.mod_eq_of_lt hi]
  rw [FFmt.magnitude, if_neg notSmall, field, fraction, FFmt.emin]
  congr 2
  push_cast
  ring

/-- Run j: its patterns count its unit. The pattern after its last one goes on counting. -/
theorem value_run {j i : Nat} (low : j = 0 ∨ 2 ^ f.p ≤ i) (high : i ≤ 2 ^ (f.p + 1)) :
    f.value (j * 2 ^ f.p + i) = i * f.ulp j := by
  have pos : 0 < 2 ^ f.p := Nat.two_pow_pos _
  have twice : 2 ^ (f.p + 1) = 2 ^ f.p + 2 ^ f.p := by omega
  unfold FFmt.value FFmt.ulp
  rcases lt_or_ge i (2 ^ f.p) with small | normal
  · obtain rfl : j = 0 := low.resolve_right (not_le.2 small)
    rw [Nat.zero_mul, Nat.zero_add, FFmt.magnitude, if_pos small]
    push_cast
    rw [zero_add]
  · obtain ⟨d, rfl⟩ := Nat.exists_eq_add_of_le normal
    rcases lt_or_ge d (2 ^ f.p) with inside | last
    · rw [show j * 2 ^ f.p + (2 ^ f.p + d) = (j + 1) * 2 ^ f.p + d by ring, magnitude_normal f j inside]
      push_cast
      rfl
    · obtain rfl : d = 2 ^ f.p := by omega
      rw [show j * 2 ^ f.p + (2 ^ f.p + 2 ^ f.p) = (j + 1 + 1) * 2 ^ f.p + 0 by ring, magnitude_normal f (j + 1) pos]
      have next : ((j + 1 : Nat) : Int) + f.emin - f.p = ((j : Int) + f.emin - f.p) + 1 := by push_cast; ring
      rw [next, zpow_add_one₀ two_ne_zero]
      push_cast
      ring

/-- Every pattern lies in a run. -/
theorem exists_run (f : FFmt) (b : Nat) : ∃ j i, b = j * 2 ^ f.p + i ∧ (j = 0 ∨ 2 ^ f.p ≤ i) ∧ i < 2 ^ (f.p + 1) := by
  have pos : 0 < 2 ^ f.p := Nat.two_pow_pos _
  have twice : 2 ^ (f.p + 1) = 2 ^ f.p + 2 ^ f.p := by omega
  rcases lt_or_ge b (2 ^ f.p) with small | normal
  · exact ⟨0, b, by omega, .inl rfl, by omega⟩
  · obtain ⟨d, rfl⟩ := Nat.exists_eq_add_of_le normal
    have split := Nat.div_add_mod' d (2 ^ f.p)
    have rest := Nat.mod_lt d pos
    exact ⟨d / 2 ^ f.p, 2 ^ f.p + d % 2 ^ f.p, by omega, .inr (by omega), by omega⟩

theorem value_zero (f : FFmt) : f.value 0 = 0 := by
  simpa using value_run (f := f) (j := 0) (i := 0) (.inl rfl) (Nat.zero_le _)

/-- A pattern and its next one in one run. -/
theorem exists_step (f : FFmt) (b : Nat) :
    ∃ j i : Nat, i + 1 ≤ 2 ^ (f.p + 1) ∧ f.value b = i * f.ulp j ∧ f.value (b + 1) = ((i + 1 : Nat) : ℝ) * f.ulp j := by
  obtain ⟨j, i, rfl, low, high⟩ := exists_run f b
  exact ⟨j, i, high, value_run low high.le, value_run (i := i + 1) (low.imp_right (fun h => h.trans (Nat.le_succ _))) high⟩

theorem value_strictMono (f : FFmt) : StrictMono f.value := by
  refine strictMono_nat_of_lt_succ fun b => ?_
  obtain ⟨j, i, -, here, next⟩ := exists_step f b
  rw [here, next]
  exact mul_lt_mul_of_pos_right (by exact_mod_cast Nat.lt_succ_self i) (ulp_pos f j)

/-- The smallest normal magnitude. -/
theorem value_normal (f : FFmt) : f.value (2 ^ f.p) = 2 ^ f.emin := by
  have := value_run (f := f) (j := 0) (i := 2 ^ f.p) (.inl rfl) (Nat.pow_le_pow_right two_pos (Nat.le_succ _))
  rw [Nat.zero_mul, Nat.zero_add] at this
  rw [this, FFmt.ulp]
  push_cast
  rw [← zpow_natCast, ← zpow_add₀ two_ne_zero]
  congr 1
  ring

theorem inf_eq (std : f.Standard) : f.inf = (2 * f.bias + 1) * 2 ^ f.p := by
  rw [FFmt.inf, std.exponents]
  rfl

/-- The last run ends at the bits of infinity. -/
theorem inf_eq_run (std : f.Standard) : f.inf = (2 * f.bias - 1) * 2 ^ f.p + 2 ^ (f.p + 1) := by
  have := std.bias_pos
  rw [inf_eq std, pow_succ, Nat.mul_comm (2 ^ f.p) 2, ← Nat.add_mul]
  congr 1
  omega

/-- The power of two at which overflow begins. -/
theorem value_inf (std : f.Standard) : f.value f.inf = 2 ^ ((f.bias : Int) + 1) := by
  have := std.bias_pos
  rw [inf_eq_run std, value_run (.inr (Nat.pow_le_pow_right two_pos (Nat.le_succ _))) le_rfl, FFmt.ulp]
  push_cast
  rw [← zpow_natCast, ← zpow_add₀ two_ne_zero]
  congr 1
  have : ((2 * f.bias - 1 : Nat) : Int) = 2 * f.bias - 1 := by omega
  rw [FFmt.emin, this]
  push_cast
  ring

theorem inf_pos (std : f.Standard) : 2 ^ (f.p + 1) < f.inf := by
  have := std.bias_pos
  have pos : 0 < 2 ^ f.p := Nat.two_pow_pos _
  rw [inf_eq std]
  nlinarith [pow_succ 2 f.p]

end Sys2Proof.Machine
end

section
/-! Rounding to an integer: a magnitude divided by a power of two (06 R135, Table 6-3). -/

namespace Sys2Proof.Machine

/-- Where a mode takes the magnitude of a number of one sign. -/
inductive Direction where
  | nearest | down | up

theorem mode_cases (mode : BitVec 2) : mode = 0 ∨ mode = 1 ∨ mode = 2 ∨ mode = 3 := by
  revert mode
  decide

def direction (mode : BitVec 2) (neg : Bool) : Direction :=
  if mode = 0 then .nearest else if mode = 1 ∨ mode = (if neg then 3 else 2) then .down else .up

/-- n is what the magnitude y rounds to among the naturals. -/
def RoundsNat (d : Direction) (y : ℝ) (n : Nat) : Prop :=
  match d with
  | .nearest => (2 * (n : ℝ) - 1 < 2 * y ∨ 2 * (n : ℝ) - 1 = 2 * y ∧ n % 2 = 0) ∧ (2 * y < 2 * n + 1 ∨ 2 * y = 2 * n + 1 ∧ n % 2 = 0)
  | .down => (n : ℝ) ≤ y ∧ y < n + 1
  | .up => (n : ℝ) - 1 < y ∧ y ≤ n

variable {d : Direction} {mode : BitVec 2} {neg : Bool} {y : ℝ} {n : Nat}

theorem RoundsNat.near (h : RoundsNat d y n) : (n : ℝ) - 1 < y ∧ y < n + 1 := by
  cases d with
  | nearest =>
    obtain ⟨low, high⟩ := h
    constructor
    · rcases low with low | ⟨low, -⟩ <;> linarith
    · rcases high with high | ⟨high, -⟩ <;> linarith
  | down => exact ⟨by linarith [h.1], h.2⟩
  | up => exact ⟨h.1, by linarith [h.2]⟩

theorem RoundsNat.le {k : Nat} (h : RoundsNat d y n) (hk : y ≤ k) : n ≤ k := by
  have : (n : ℝ) < k + 1 := by linarith [h.near.1]
  exact Nat.lt_succ_iff.1 (by exact_mod_cast this)

theorem RoundsNat.ge {k : Nat} (h : RoundsNat d y n) (hk : (k : ℝ) ≤ y) : k ≤ n := by
  have : (k : ℝ) < n + 1 := by linarith [h.near.2]
  exact Nat.lt_succ_iff.1 (by exact_mod_cast this)

theorem roundsNat_self (d : Direction) (n : Nat) : RoundsNat d (n : ℝ) n := by
  cases d with
  | nearest => exact ⟨.inl (by linarith), .inl (by linarith)⟩
  | down => exact ⟨le_rfl, by linarith⟩
  | up => exact ⟨by linarith, le_rfl⟩

/-- Rounding up to an even number at half the unit goes up at the whole unit too. -/
theorem RoundsNat.halve (h : RoundsNat d (2 * y) (2 * n)) (below : y < n) : RoundsNat d y n := by
  have near := h.near.1
  push_cast at near
  cases d with
  | nearest => exact ⟨.inl (by linarith), .inl (by linarith)⟩
  | down =>
    have := h.1
    push_cast at this
    linarith
  | up => exact ⟨by linarith, below.le⟩

/-- A whole part q and a rest less than one, rounded up where the direction takes it up. -/
theorem roundsNat_of_rest {q : Nat} {rest : ℝ} (low : 0 ≤ rest) (high : rest < 1) (up : Bool)
    (hup : up = true ↔ match d with
      | .nearest => 1 < 2 * rest ∨ 2 * rest = 1 ∧ q % 2 = 1
      | .down => False
      | .up => rest ≠ 0) :
    RoundsNat d ((q : ℝ) + rest) (if up then q + 1 else q) := by
  cases up with
  | true =>
    simp only [true_iff, if_true] at hup ⊢
    cases d with
    | nearest =>
      rcases hup with more | ⟨tie, odd⟩
      · exact ⟨.inl (by push_cast; linarith), .inl (by push_cast; linarith)⟩
      · exact ⟨.inr ⟨by push_cast; linarith, by omega⟩, .inl (by push_cast; linarith)⟩
    | down => exact hup.elim
    | up => exact ⟨by push_cast; linarith [lt_of_le_of_ne low (Ne.symm hup)], by push_cast; linarith⟩
  | false =>
    simp only [Bool.false_eq_true, false_iff, if_false] at hup ⊢
    cases d with
    | nearest =>
      obtain ⟨notMore, notTie⟩ := not_or.1 hup
      refine ⟨.inl (by linarith), ?_⟩
      rcases lt_or_eq_of_le (not_lt.1 notMore) with less | tie
      · exact .inl (by linarith)
      · exact .inr ⟨by linarith, Nat.mod_two_ne_one.1 fun odd => notTie ⟨tie, odd⟩⟩
    | down => exact ⟨by linarith, by linarith⟩
    | up =>
      have := not_not.1 hup
      exact ⟨by linarith, by linarith⟩

/-- No natural lies strictly between two neighbours. -/
theorem natCast_ne_add {q k : Nat} {rest : ℝ} (low : 0 < rest) (high : rest < 1) : (k : ℝ) ≠ q + rest := by
  intro eq
  have above : (q : ℝ) < k := by linarith
  have below : (k : ℝ) < (q + 1 : Nat) := by push_cast; linarith
  exact absurd (Nat.cast_lt.1 below) (not_lt.2 (Nat.cast_lt.1 above))

/-- The bits shifted out, as a fraction of the unit. -/
theorem rest_cases (mag n : Nat) : let rest := ((mag % 2 ^ (n + 1) : Nat) : ℝ) / 2 ^ (n + 1)
    0 ≤ rest ∧ rest < 1 ∧ (mag : ℝ) * 2 ^ (-Int.ofNat (n + 1)) = (mag / 2 ^ (n + 1) : Nat) + rest ∧
    (1 < 2 * rest ↔ 2 ^ n < mag % 2 ^ (n + 1)) ∧ (2 * rest = 1 ↔ mag % 2 ^ (n + 1) = 2 ^ n) ∧ (rest = 0 ↔ mag % 2 ^ (n + 1) = 0) := by
  have unit : (0 : ℝ) < 2 ^ (n + 1) := pow_pos two_pos _
  have half : (2 : ℝ) ^ (n + 1) = 2 * 2 ^ n := by rw [pow_succ, mul_comm]
  refine ⟨by positivity, ?_, ?_, ?_, ?_, ?_⟩
  · rw [div_lt_one unit]
    exact_mod_cast Nat.mod_lt _ (Nat.two_pow_pos _)
  · have := congrArg (Nat.cast (R := ℝ)) (Nat.div_add_mod' mag (2 ^ (n + 1)))
    push_cast at this
    rw [Int.ofNat_eq_natCast, zpow_neg, zpow_natCast, ← this]
    field_simp
  · rw [← mul_div_assoc, one_lt_div unit, half, mul_lt_mul_iff_right₀ two_pos]
    exact_mod_cast Iff.rfl
  · rw [← mul_div_assoc, div_eq_one_iff_eq unit.ne', half, mul_right_inj' two_ne_zero]
    exact_mod_cast Iff.rfl
  · rw [div_eq_zero_iff, or_iff_left unit.ne', Nat.cast_eq_zero]

/-- What roundShift answers: the magnitude over 2^sh rounded, and whether that changed it. -/
theorem roundShift_spec (mode : BitVec 2) (neg : Bool) (mag : Nat) (sh : Int) :
    RoundsNat (direction mode neg) ((mag : ℝ) * 2 ^ (-sh)) (roundShift mode neg mag sh).1 ∧
    ((roundShift mode neg mag sh).2 = true ↔ ((roundShift mode neg mag sh).1 : ℝ) ≠ (mag : ℝ) * 2 ^ (-sh)) := by
  match sh with
  | .ofNat 0 => simpa [roundShift] using roundsNat_self _ mag
  | .negSucc n =>
    have exact_ : (mag : ℝ) * 2 ^ (-Int.negSucc n) = ((mag * 2 ^ (n + 1) : Nat) : ℝ) := by
      rw [Int.neg_negSucc, zpow_natCast]
      push_cast
      rfl
    rw [exact_]
    exact ⟨roundsNat_self _ _, by simp [roundShift]⟩
  | .ofNat (n + 1) =>
    obtain ⟨nonneg, fraction, division, more, tie, none_⟩ := rest_cases mag n
    have whole := fun pos k => natCast_ne_add (q := mag / 2 ^ (n + 1)) (k := k) pos fraction
    rw [division]
    simp only [roundShift]
    generalize mag / 2 ^ (n + 1) = q at *
    generalize ((mag % 2 ^ (n + 1) : Nat) : ℝ) / 2 ^ (n + 1) = rest at *
    generalize mag % 2 ^ (n + 1) = r at *
    refine ⟨roundsNat_of_rest nonneg fraction _ ?_, ?_⟩
    · rcases mode_cases mode with rfl | rfl | rfl | rfl <;> cases neg <;> simp [direction, more, tie, none_]
    · rcases nonneg.eq_or_lt with zero | pos
      · obtain rfl : r = 0 := none_.1 zero.symm
        have small : ¬ 2 ^ n < 0 := Nat.not_lt_zero _
        have noTie : 0 ≠ 2 ^ n := (Nat.two_pow_pos n).ne
        simp [← zero, noTie]
      · exact iff_of_true (decide_eq_true fun zero => pos.ne' (none_.2 zero)) (whole pos _)

end Sys2Proof.Machine
end

section
/-! Rounding to a format (06 R135 to R138): the rounded magnitude, overflow, tininess, and what FFmt.round answers. -/

namespace Sys2Proof.Machine

/-- RoundsTo by the direction of the mode. -/
def FFmt.Nears (f : FFmt) (d : Direction) (a : ℝ) (b : Nat) : Prop :=
  b ≤ f.inf ∧ match d with
  | .nearest => (b = 0 ∨ f.value (b - 1) + f.value b < 2 * a ∨ f.value (b - 1) + f.value b = 2 * a ∧ b % 2 = 0) ∧
      (b = f.inf ∨ 2 * a < f.value b + f.value (b + 1) ∨ 2 * a = f.value b + f.value (b + 1) ∧ b % 2 = 0)
  | .down => b < f.inf ∧ f.value b ≤ a ∧ (b + 1 = f.inf ∨ a < f.value (b + 1))
  | .up => (b = 0 ∨ f.value (b - 1) < a) ∧ (b = f.inf ∨ a ≤ f.value b)

variable {f : FFmt} {d : Direction} {mode : BitVec 2} {neg : Bool} {a : ℝ} {b c : Nat}

theorem roundsTo_iff : f.RoundsTo mode neg a b ↔ f.Nears (direction mode neg) a b := by
  have zero : mode = 0 → direction mode neg = .nearest := fun h => if_pos h
  unfold FFmt.RoundsTo FFmt.Nears direction
  split_ifs <;> exact Iff.rfl

/-- What is at most a magnitude rounds to at most that magnitude. -/
theorem FFmt.Nears.le {k : Nat} (h : f.Nears d a b) (hk : a ≤ f.value k) : b ≤ k := by
  by_contra more
  obtain ⟨c, rfl⟩ : ∃ c, b = c + 1 := ⟨b - 1, by omega⟩
  have above : a < f.value (c + 1) := hk.trans_lt (value_strictMono f (not_le.1 more))
  have below : a ≤ f.value c := hk.trans ((value_strictMono f).monotone (by omega))
  obtain ⟨-, h⟩ := h
  cases d with
  | nearest =>
    rw [Nat.add_sub_cancel] at h
    rcases h.1 with zero | low | ⟨low, -⟩
    · omega
    all_goals linarith
  | down => linarith [h.2.1]
  | up =>
    rw [Nat.add_sub_cancel] at h
    rcases h.1 with zero | low
    · omega
    · linarith

theorem FFmt.Nears.lt_of_lt (hb : f.Nears d a b) (hc : f.Nears d a c) : ¬ b < c := by
  intro less
  have mono := (value_strictMono f).monotone
  have notLast : b ≠ f.inf := (less.trans_le hc.1).ne
  have next : f.value b ≤ f.value (c - 1) := mono (by omega)
  have here : f.value (b + 1) ≤ f.value c := mono (by omega)
  have notFirst : c ≠ 0 := by omega
  obtain ⟨-, hb⟩ := hb
  obtain ⟨-, hc⟩ := hc
  cases d with
  | nearest =>
    obtain ⟨-, high⟩ := hb
    obtain ⟨low, -⟩ := hc
    -- Both can only hold of a tie between neighbours, and one of them is odd.
    rcases low.resolve_left notFirst with low | ⟨low, evenC⟩ <;> rcases high.resolve_left notLast with high | ⟨high, evenB⟩
    · linarith
    · linarith
    · linarith
    · have step : c - 1 ≤ b := (value_strictMono f).le_iff_le.1 (by linarith)
      omega
  | down =>
    obtain ⟨-, -, high⟩ := hb
    obtain ⟨notInf, low, -⟩ := hc
    rcases high with last | high
    · omega
    · linarith
  | up =>
    have low := hc.1.resolve_left notFirst
    have high := hb.2.resolve_left notLast
    linarith

theorem FFmt.Nears.unique (hb : f.Nears d a b) (hc : f.Nears d a c) : b = c :=
  le_antisymm (not_lt.1 (hc.lt_of_lt hb)) (not_lt.1 (hb.lt_of_lt hc))

theorem run_parity (std : f.Standard) (j r : Nat) : (j * 2 ^ f.p + r) % 2 = r % 2 := by
  obtain ⟨m, hm⟩ := Nat.exists_eq_add_of_le' std.fraction
  rw [hm, pow_succ, ← Nat.mul_assoc, Nat.add_comm, Nat.add_mul_mod_self_right]

/-- The pattern before one of run j lies one unit below, unless that one is the first of its run. -/
theorem value_run_pred {j r : Nat} (low : j = 0 ∨ 2 ^ f.p ≤ r) (high : r ≤ 2 ^ (f.p + 1)) :
    j * 2 ^ f.p + r = 0 ∨ f.value (j * 2 ^ f.p + r - 1) = (r - 1) * f.ulp j ∨
    (j ≠ 0 ∧ r = 2 ^ f.p ∧ f.value (j * 2 ^ f.p + r - 1) < r * f.ulp j) := by
  have pos : 0 < 2 ^ f.p := Nat.two_pow_pos _
  rcases Nat.eq_zero_or_pos (j * 2 ^ f.p + r) with zero | some_
  · exact .inl zero
  by_cases inside : j = 0 ∨ 2 ^ f.p + 1 ≤ r
  · have rPos : 1 ≤ r := by
      rcases inside with rfl | h
      · omega
      · omega
    refine .inr (.inl ?_)
    rw [Nat.add_sub_assoc rPos, value_run (inside.imp_right fun h => by omega) (by omega), Nat.cast_sub rPos, Nat.cast_one]
  · obtain ⟨notZero, small⟩ := not_or.1 inside
    have first : r = 2 ^ f.p := le_antisymm (by omega) (low.resolve_left notZero)
    refine .inr (.inr ⟨notZero, first, ?_⟩)
    rw [← value_run low high]
    exact value_strictMono f (by omega)

/-- The pattern after one of run j lies one unit above, unless that one is the first of the next run. -/
theorem value_run_succ {j r : Nat} (low : j = 0 ∨ 2 ^ f.p ≤ r) (high : r ≤ 2 ^ (f.p + 1)) :
    f.value (j * 2 ^ f.p + r + 1) = (r + 1) * f.ulp j ∨ r = 2 ^ (f.p + 1) ∧ r * f.ulp j < f.value (j * 2 ^ f.p + r + 1) := by
  rcases high.lt_or_eq with inside | last
  · refine .inl ?_
    rw [Nat.add_assoc, value_run (low.imp_right fun h => by omega) inside]
    push_cast
    ring
  · refine .inr ⟨last, ?_⟩
    rw [← value_run low high]
    exact value_strictMono f (Nat.lt_succ_self _)

/-- In one run of patterns a magnitude rounds as its multiple of the unit does. -/
theorem nears_of_roundsNat {j r : Nat} (std : f.Standard) (low : j = 0 ∨ 2 ^ f.p * f.ulp j ≤ a) (high : a < 2 ^ (f.p + 1) * f.ulp j)
    (nat : RoundsNat d (a / f.ulp j) r) (fits : j * 2 ^ f.p + 2 ^ (f.p + 1) ≤ f.inf) : f.Nears d a (j * 2 ^ f.p + r) := by
  have unit := ulp_pos f j
  obtain ⟨y, rfl⟩ : ∃ y, a = y * f.ulp j := ⟨a / f.ulp j, (div_mul_cancel₀ _ unit.ne').symm⟩
  rw [mul_div_cancel_right₀ _ unit.ne'] at nat
  have yHigh : y < (2 ^ (f.p + 1) : Nat) := by push_cast; exact lt_of_mul_lt_mul_right high unit.le
  have yLow : j ≠ 0 → ((2 ^ f.p : Nat) : ℝ) ≤ y := fun h => by push_cast; exact le_of_mul_le_mul_right (low.resolve_left h) unit
  have rHigh : r ≤ 2 ^ (f.p + 1) := nat.le yHigh.le
  have rLow : j = 0 ∨ 2 ^ f.p ≤ r := or_iff_not_imp_left.2 fun h => nat.ge (yLow h)
  have here : f.value (j * 2 ^ f.p + r) = r * f.ulp j := value_run rLow rHigh
  -- Where a neighbour lies in another run, the magnitude lies on the near side of r.
  have before : j * 2 ^ f.p + r = 0 ∨ f.value (j * 2 ^ f.p + r - 1) = (r - 1) * f.ulp j ∨
      f.value (j * 2 ^ f.p + r - 1) < r * f.ulp j ∧ (r : ℝ) ≤ y := by
    refine (value_run_pred rLow rHigh).imp_right (.imp_right ?_)
    rintro ⟨later, first, less⟩
    exact ⟨less, by rw [first]; exact yLow later⟩
  have after : f.value (j * 2 ^ f.p + r + 1) = (r + 1) * f.ulp j ∨ r * f.ulp j < f.value (j * 2 ^ f.p + r + 1) ∧ y < r := by
    refine (value_run_succ rLow rHigh).imp_right ?_
    rintro ⟨last, less⟩
    exact ⟨less, by rw [last]; exact yHigh⟩
  refine ⟨by omega, ?_⟩
  cases d with
  | nearest =>
    obtain ⟨natLow, natHigh⟩ := nat
    rw [run_parity std, here]
    constructor
    · rcases before with zero | eq | ⟨less, above⟩
      · exact .inl zero
      · rw [eq]
        exact .inr (natLow.imp (fun h => by nlinarith) fun h => ⟨by linear_combination f.ulp j * h.1, h.2⟩)
      · exact .inr (.inl (by nlinarith))
    · rcases after with eq | ⟨less, below⟩
      · rw [eq]
        exact .inr (natHigh.imp (fun h => by nlinarith) fun h => ⟨by linear_combination f.ulp j * h.1, h.2⟩)
      · exact .inr (.inl (by nlinarith))
  | down =>
    obtain ⟨natLow, natHigh⟩ := nat
    have inside : r < 2 ^ (f.p + 1) := by exact_mod_cast natLow.trans_lt yHigh
    rw [here]
    refine ⟨by omega, mul_le_mul_of_nonneg_right natLow unit.le, .inr ?_⟩
    rcases after with eq | ⟨less, below⟩
    · rw [eq]
      exact mul_lt_mul_of_pos_right natHigh unit
    · linarith
  | up =>
    obtain ⟨natLow, natHigh⟩ := nat
    rw [here]
    refine ⟨?_, .inr (mul_le_mul_of_nonneg_right natHigh unit.le)⟩
    rcases before with zero | eq | ⟨less, above⟩
    · exact .inl zero
    · rw [eq]
      exact .inr (mul_lt_mul_of_pos_right natLow unit)
    · exact .inr (less.trans_le (mul_le_mul_of_nonneg_right above unit.le))

/-- At or past the power of two at which overflow begins (06 Table 6-4). -/
theorem nears_overflow (std : f.Standard) (large : f.value f.inf ≤ a) :
    f.Nears d a (match d with | .down => f.maxFinite | _ => f.inf) := by
  have pos : 0 < f.inf := (Nat.zero_le _).trans_lt (inf_pos std)
  have step : f.value (f.inf - 1) < f.value f.inf := value_strictMono f (Nat.sub_lt pos one_pos)
  cases d with
  | nearest => exact ⟨le_rfl, .inr (.inl (by linarith)), .inl rfl⟩
  | down =>
    change f.Nears .down a (f.inf - 1)
    exact ⟨Nat.sub_le _ _, Nat.sub_lt pos one_pos, by linarith, .inl (Nat.sub_add_cancel pos)⟩
  | up => exact ⟨le_rfl, .inr (by linarith), .inl rfl⟩

end Sys2Proof.Machine
end

section
/-! What FFmt.round answers (06 R135 to R139): one rounding of the exact magnitude. -/

namespace Sys2Proof.Machine

/-- The magnitude rounded to the format's precision, whatever its exponent. -/
def FFmt.leading (f : FFmt) (mode : BitVec 2) (neg : Bool) (mag : Nat) : Nat × Bool :=
  roundShift mode neg mag ((Nat.log2 mag : Int) - f.p)

/-- The exponent of what that gives. -/
def FFmt.exponent (f : FFmt) (mode : BitVec 2) (neg : Bool) (mag : Nat) (e : Int) : Int :=
  (Nat.log2 mag : Int) + e + (if (f.leading mode neg mag).1 = 2 ^ (f.p + 1) then 1 else 0)

section
variable {f : FFmt} {mode : BitVec 2} {ftz neg : Bool} {mag : Nat} {e : Int}

theorem magnitude_bounds (hm : mag ≠ 0) (e : Int) :
    (2 : ℝ) ^ ((Nat.log2 mag : Int) + e) ≤ mag * 2 ^ e ∧ (mag : ℝ) * 2 ^ e < 2 ^ ((Nat.log2 mag : Int) + e + 1) := by
  have pos : (0 : ℝ) < 2 ^ e := zpow_pos two_pos _
  rw [add_right_comm, zpow_add₀ two_ne_zero, zpow_add₀ two_ne_zero, ← Nat.cast_succ, zpow_natCast, zpow_natCast]
  exact ⟨mul_le_mul_of_nonneg_right (by exact_mod_cast Nat.log2_self_le hm) pos.le,
    mul_lt_mul_of_pos_right (by exact_mod_cast Nat.lt_log2_self) pos⟩

/-- A magnitude by the unit of a run. -/
theorem div_ulp (f : FFmt) (j mag : Nat) (e : Int) :
    (mag : ℝ) * 2 ^ e / f.ulp j = mag * 2 ^ (-((j : Int) + f.emin - f.p - e)) := by
  rw [FFmt.ulp, mul_div_assoc, ← zpow_sub₀ two_ne_zero]
  congr 2
  ring

theorem pow_mul_ulp (f : FFmt) (j k : Nat) : (2 : ℝ) ^ k * f.ulp j = 2 ^ ((j : Int) + f.emin - f.p + k) := by
  rw [FFmt.ulp, ← zpow_natCast, ← zpow_add₀ two_ne_zero, add_comm]

theorem two_zpow_le {m n : Int} : (2 : ℝ) ^ m ≤ 2 ^ n ↔ m ≤ n := zpow_le_zpow_iff_right₀ one_lt_two
theorem two_zpow_lt {m n : Int} : (2 : ℝ) ^ m < 2 ^ n ↔ m < n := zpow_lt_zpow_iff_right₀ one_lt_two

/-- Rounding to the format's precision keeps the leading bit, or carries into the next one; towards zero it does not carry. -/
theorem leading_spec (f : FFmt) (mode : BitVec 2) (neg : Bool) (hm : mag ≠ 0) :
    let y : ℝ := mag * 2 ^ (-((Nat.log2 mag : Int) - f.p)); let t := f.leading mode neg mag
    RoundsNat (direction mode neg) y t.1 ∧ (t.2 = true ↔ (t.1 : ℝ) ≠ y) ∧ y < 2 ^ (f.p + 1) ∧ 2 ^ f.p ≤ t.1 ∧ t.1 ≤ 2 ^ (f.p + 1) ∧
    (direction mode neg = .down → t.1 ≠ 2 ^ (f.p + 1)) := by
  obtain ⟨nat, changed⟩ := roundShift_spec mode neg mag ((Nat.log2 mag : Int) - f.p)
  obtain ⟨low, high⟩ := magnitude_bounds hm (-((Nat.log2 mag : Int) - f.p))
  rw [show (Nat.log2 mag : Int) + -((Nat.log2 mag : Int) - f.p) = (f.p : Int) by ring] at low high
  rw [zpow_natCast] at low
  rw [← Nat.cast_succ, zpow_natCast] at high
  refine ⟨nat, changed, high, nat.ge (by push_cast; exact low), nat.le (by push_cast; exact high.le), fun down carry => ?_⟩
  rw [down] at nat
  have := nat.1
  rw [show (roundShift mode neg mag ((Nat.log2 mag : Int) - f.p)).1 = 2 ^ (f.p + 1) from carry] at this
  push_cast at this
  exact absurd high (not_lt.2 this)

/-- A normal magnitude rounds as its leading bits do. -/
theorem nears_leading (std : f.Standard) (hm : mag ≠ 0) {j : Nat} (hj : (Nat.log2 mag : Int) + e = j + f.emin)
    (fits : j + 1 ≤ 2 * f.bias) :
    f.Nears (direction mode neg) (mag * 2 ^ e) (j * 2 ^ f.p + (f.leading mode neg mag).1) := by
  obtain ⟨nat, -⟩ := leading_spec f mode neg hm
  obtain ⟨low, high⟩ := magnitude_bounds hm e
  have rounds : j * 2 ^ f.p + 2 ^ (f.p + 1) ≤ f.inf := by
    have := Nat.mul_le_mul_right (2 ^ f.p) fits
    rw [inf_eq std, pow_succ]
    nlinarith
  refine nears_of_roundsNat std (.inr ?_) ?_ ?_ rounds
  · rw [pow_mul_ulp]
    exact (two_zpow_le.2 (by omega)).trans low
  · rw [pow_mul_ulp]
    exact high.trans_le (two_zpow_le.2 (by push_cast; omega))
  · rw [div_ulp]
    convert nat using 4
    omega

/-- Tininess is seen after rounding with an unbounded exponent (06 R137). -/
theorem tiny_iff (std : f.Standard) (hm : mag ≠ 0) :
    f.Tiny mode neg (mag * 2 ^ e) ↔ f.exponent mode neg mag e < f.emin := by
  obtain ⟨-, -, -, -, most, -⟩ := leading_spec f mode neg hm
  obtain ⟨low, high⟩ := magnitude_bounds hm e
  have twice : 2 * ((mag : ℝ) * 2 ^ e) = mag * 2 ^ (e + 1) := by rw [zpow_add_one₀ two_ne_zero]; ring
  have normal : f.value (2 ^ f.p) = 2 ^ f.emin := value_normal f
  have biasPos := std.bias_pos
  have below : (mag : ℝ) * 2 ^ e < f.value (2 ^ f.p) ↔ (Nat.log2 mag : Int) + e < f.emin := by
    rw [normal]
    refine ⟨fun h => two_zpow_lt.1 (low.trans_lt h), fun h => high.trans_le (two_zpow_le.2 (by omega))⟩
  -- Just below the smallest normal value, twice the magnitude is the least normal run's.
  have justBelow (h : (Nat.log2 mag : Int) + e = f.emin - 1) :
      f.Nears (direction mode neg) (2 * ((mag : ℝ) * 2 ^ e)) (f.leading mode neg mag).1 := by
    have := nears_leading (mode := mode) (neg := neg) (e := e + 1) (j := 0) std hm (by push_cast; omega) (by omega)
    rwa [Nat.zero_mul, Nat.zero_add, ← twice] at this
  unfold FFmt.Tiny
  change (mag : ℝ) * 2 ^ e < f.value (2 ^ f.p) ∧ _ ↔ _
  rw [below]
  unfold FFmt.exponent
  constructor
  · rintro ⟨less, all⟩
    split
    · next carry =>
      by_contra notLess
      have := all _ (roundsTo_iff.2 (justBelow (by omega)))
      rw [carry, pow_succ] at this
      omega
    · omega
  · intro less
    have less' : (Nat.log2 mag : Int) + e < f.emin := by split at less <;> omega
    refine ⟨less', fun c hc => ?_⟩
    have nears := roundsTo_iff.1 hc
    rcases (Int.le_sub_one_iff.2 less').lt_or_eq with far | near
    · have : c ≤ 2 ^ f.p := nears.le (by
        rw [normal, twice]
        exact (magnitude_bounds hm (e + 1)).2.le.trans (two_zpow_le.2 (by omega)))
      have := Nat.two_pow_pos f.p
      omega
    · rw [nears.unique (justBelow near)]
      have noCarry : (f.leading mode neg mag).1 ≠ 2 ^ (f.p + 1) := fun carry => by rw [if_pos carry] at less; omega
      rw [mul_comm 2, ← pow_succ]
      omega

/-- What is not tiny and not an overflow, or is tiny and not flushed, or overflows: one of four sets of flags. -/
theorem rounded_of {x : ℝ} {r : LaneRes} {b : Nat} (sign : neg = true ↔ x < 0) (kept : ¬(ftz = true ∧ f.Tiny mode neg |x|))
    (nears : f.Nears (direction mode neg) |x| b) (hv : r.v = BitVec.ofNat 64 ((if neg then f.signBit else 0) + b))
    (flags : ((b = f.inf ∨ f.value f.inf ≤ |x|) ∧ ¬ f.Tiny mode neg |x| ∧ r.flags = flagOF ||| flagNX) ∨
      (¬(b = f.inf ∨ f.value f.inf ≤ |x|) ∧
        (f.value b ≠ |x| ∧ f.Tiny mode neg |x| ∧ r.flags = flagUF ||| flagNX ∨
          f.value b ≠ |x| ∧ ¬ f.Tiny mode neg |x| ∧ r.flags = flagNX ∨ f.value b = |x| ∧ r.flags = 0))) :
    f.Rounded mode ftz x r := by
  refine ⟨neg, sign, fun flush tiny => absurd ⟨flush, tiny⟩ kept, fun _ => ⟨b, roundsTo_iff.2 nears, hv, ?_⟩⟩
  change r.flags.toNat < 8 ∧ (r.flags.getLsbD 0 = true ↔ (b = f.inf ∨ f.value f.inf ≤ |x|) ∨ f.value b ≠ |x|) ∧
    (r.flags.getLsbD 1 = true ↔ ((b = f.inf ∨ f.value f.inf ≤ |x|) ∨ f.value b ≠ |x|) ∧ f.Tiny mode neg |x|) ∧
    (r.flags.getLsbD 2 = true ↔ (b = f.inf ∨ f.value f.inf ≤ |x|))
  rcases flags with ⟨large, notTiny, fl⟩ | ⟨inRange, ⟨inexact, tiny, fl⟩ | ⟨inexact, notTiny, fl⟩ | ⟨same, fl⟩⟩
  · simp [fl, large, notTiny]
  · simp [fl, inRange, inexact, tiny]
  · simp [fl, inRange, inexact, notTiny]
  · simp [fl, inRange, same]

theorem sign_iff {a : ℝ} (pos : 0 < a) : neg = true ↔ (if neg then -1 else 1) * a < 0 := by
  cases neg <;> simp [pos, pos.le]

theorem abs_signed (neg : Bool) {a : ℝ} (pos : 0 < a) : |(if neg then -1 else 1) * a| = a := by
  cases neg <;> simp [abs_of_pos pos]

/-- The arms of FFmt.round, for a magnitude that is not zero. -/
theorem round_eq (f : FFmt) (mode : BitVec 2) (ftz neg : Bool) (hm : mag ≠ 0) (e : Int) :
    f.round mode ftz neg mag e =
      (let s := if neg then f.signBit else 0; let E := f.exponent mode neg mag e
      if E < f.emin then
        if ftz then ⟨BitVec.ofNat 64 s, flagUF ||| flagNX⟩
        else
          let t := roundShift mode neg mag (f.emin - f.p - e)
          ⟨BitVec.ofNat 64 (s + t.1), if t.2 then flagUF ||| flagNX else 0⟩
      else if (f.bias : Int) < E then
        ⟨BitVec.ofNat 64 (s + (match direction mode neg with | .down => f.maxFinite | _ => f.inf)), flagOF ||| flagNX⟩
      else
        let t := f.leading mode neg mag
        ⟨BitVec.ofNat 64 (s + (E + f.bias).toNat * 2 ^ f.p + ((if t.1 = 2 ^ (f.p + 1) then 2 ^ f.p else t.1) - 2 ^ f.p)),
          if t.2 then flagNX else 0⟩) := by
  have modes : (if (mode = 0 || (mode = 2 && neg) || (mode = 3 && !neg)) = true then f.inf else f.maxFinite) =
      match direction mode neg with | .down => f.maxFinite | _ => f.inf := by
    rcases mode_cases mode with rfl | rfl | rfl | rfl <;> cases neg <;> rfl
  rw [← modes]
  exact if_neg hm

theorem magnitude_pos (hm : mag ≠ 0) (e : Int) : (0 : ℝ) < mag * 2 ^ e :=
  mul_pos (by exact_mod_cast Nat.pos_of_ne_zero hm) (zpow_pos two_pos _)

/-- A tiny magnitude that is not flushed rounds to a multiple of the least unit. -/
theorem rounded_subnormal (std : f.Standard) (hm : mag ≠ 0) (tiny : f.exponent mode neg mag e < f.emin) :
    let t := roundShift mode neg mag (f.emin - f.p - e)
    f.Rounded mode false ((if neg then -1 else 1) * (mag * 2 ^ e))
      ⟨BitVec.ofNat 64 ((if neg then f.signBit else 0) + t.1), if t.2 then flagUF ||| flagNX else 0⟩ := by
  have abs_ := abs_signed neg (magnitude_pos hm e)
  have isTiny := (tiny_iff std hm).2 tiny
  obtain ⟨nat, changed⟩ := roundShift_spec mode neg mag (f.emin - f.p - e)
  have less : (mag : ℝ) * 2 ^ e < 2 ^ f.p * f.ulp 0 := by
    have := isTiny.1
    rwa [show (f.magnitude (2 ^ f.p) : ℝ) = 2 ^ f.emin from value_normal f, show f.emin = ((0 : Nat) : Int) + f.emin - f.p + f.p by simp,
      ← pow_mul_ulp] at this
  have twice : (2 : ℝ) ^ f.p * f.ulp 0 ≤ 2 ^ (f.p + 1) * f.ulp 0 :=
    mul_le_mul_of_nonneg_right (pow_le_pow_right₀ one_le_two (Nat.le_succ _)) (ulp_pos f 0).le
  have scaled : (mag : ℝ) * 2 ^ (-(f.emin - f.p - e)) = mag * 2 ^ e / f.ulp 0 := by rw [div_ulp]; simp
  rw [scaled] at nat changed
  have few : (roundShift mode neg mag (f.emin - f.p - e)).1 ≤ 2 ^ f.p := nat.le (by
    push_cast
    exact ((div_lt_iff₀ (ulp_pos f 0)).2 less).le)
  have fits := inf_pos std
  have more := Nat.pow_lt_pow_succ (a := 2) (n := f.p) one_lt_two
  have nears := nears_of_roundsNat (j := 0) std (.inl rfl) (less.trans_le twice) nat (by omega)
  have value := value_run (f := f) (j := 0) (.inl rfl) (few.trans more.le)
  rw [Nat.zero_mul, Nat.zero_add] at nears value
  have inRange : ¬((roundShift mode neg mag (f.emin - f.p - e)).1 = f.inf ∨ f.value f.inf ≤ mag * 2 ^ e) := by
    rintro (eq | large)
    · omega
    · have := value_strictMono f (more.trans fits)
      rw [show f.value (2 ^ f.p) = 2 ^ f.p * f.ulp 0 by
        simpa using value_run (f := f) (j := 0) (i := 2 ^ f.p) (.inl rfl) more.le] at this
      linarith
  refine rounded_of (sign_iff (magnitude_pos hm e)) (by simp) (by rwa [abs_]) rfl (.inr ⟨by rwa [abs_], ?_⟩)
  rw [abs_, value, ne_eq, ← eq_div_iff (ulp_pos f 0).ne']
  by_cases exact_ : (roundShift mode neg mag (f.emin - f.p - e)).2 = true
  · exact .inl ⟨changed.1 exact_, isTiny, if_pos exact_⟩
  · exact .inr (.inr ⟨not_not.1 (mt changed.2 exact_), if_neg exact_⟩)

/-- A magnitude that rounds past the largest finite value (06 R136). -/
theorem rounded_overflow (std : f.Standard) (hm : mag ≠ 0) (large : (f.bias : Int) < f.exponent mode neg mag e) :
    f.Rounded mode ftz ((if neg then -1 else 1) * (mag * 2 ^ e))
      ⟨BitVec.ofNat 64 ((if neg then f.signBit else 0) + (match direction mode neg with | .down => f.maxFinite | _ => f.inf)),
        flagOF ||| flagNX⟩ := by
  have abs_ := abs_signed neg (magnitude_pos hm e)
  have biasPos := std.bias_pos
  have emin : f.emin = 1 - (f.bias : Int) := rfl
  have notTiny : ¬ f.Tiny mode neg (mag * 2 ^ e) := by
    rw [tiny_iff std hm]
    omega
  obtain ⟨-, -, -, -, -, noCarry⟩ := leading_spec f mode neg hm
  unfold FFmt.exponent at large
  rcases lt_or_ge (f.bias : Int) (Nat.log2 mag + e) with far | near
  · -- The magnitude itself reaches the power of two.
    have reached : f.value f.inf ≤ mag * 2 ^ e := by
      rw [value_inf std]
      exact (two_zpow_le.2 (by omega)).trans (magnitude_bounds hm e).1
    refine rounded_of (sign_iff (magnitude_pos hm e)) (by rw [abs_]; exact fun h => notTiny h.2) ?_ rfl
      (.inl ⟨.inr (by rwa [abs_]), by rwa [abs_], rfl⟩)
    rw [abs_]
    exact nears_overflow std reached
  · -- Its rounding carries into it.
    have carry : (f.leading mode neg mag).1 = 2 ^ (f.p + 1) := by
      by_contra no
      rw [if_neg no] at large
      omega
    rw [if_pos carry] at large
    have nears := nears_leading (mode := mode) (neg := neg) (e := e) (j := 2 * f.bias - 1) std hm (by omega) (by omega)
    rw [carry, ← inf_eq_run std] at nears
    have toInf : (match direction mode neg with | .down => f.maxFinite | _ => f.inf) = f.inf := by
      cases h : direction mode neg with
      | down => exact absurd carry (noCarry h)
      | nearest | up => rfl
    rw [toInf]
    exact rounded_of (sign_iff (magnitude_pos hm e)) (by rw [abs_]; exact fun h => notTiny h.2) (by rwa [abs_]) rfl
      (.inl ⟨.inl rfl, by rwa [abs_], rfl⟩)

/-- The bits that FFmt.round puts together for a normal result. -/
theorem normal_bits {j r : Nat} (low : 2 ^ f.p ≤ r) {E : Int}
    (hE : E = (j : Int) + f.emin + if r = 2 ^ (f.p + 1) then 1 else 0) :
    (E + f.bias).toNat * 2 ^ f.p + ((if r = 2 ^ (f.p + 1) then 2 ^ f.p else r) - 2 ^ f.p) = j * 2 ^ f.p + r := by
  have emin : f.emin = 1 - (f.bias : Int) := rfl
  split at hE
  · next carry =>
    have place : (E + f.bias).toNat = j + 2 := by omega
    rw [place, if_pos carry, carry, pow_succ]
    ring_nf
    omega
  · next stays =>
    have place : (E + f.bias).toNat = j + 1 := by omega
    rw [place, if_neg stays, Nat.succ_mul]
    omega

/-- From just below the smallest normal magnitude, rounding to full precision carries to it, and so does rounding to the unit there. -/
theorem nears_carry (std : f.Standard) (below : (Nat.log2 mag : Int) + e + 1 = f.emin) (hm : mag ≠ 0)
    (carry : (f.leading mode neg mag).1 = 2 ^ (f.p + 1)) :
    (mag : ℝ) * 2 ^ e < f.value (2 ^ f.p) ∧ f.Nears (direction mode neg) (mag * 2 ^ e) (2 ^ f.p) := by
  obtain ⟨nat, -, yHigh, -⟩ := leading_spec f mode neg hm
  have infPos := inf_pos std
  have finer : (mag : ℝ) * 2 ^ (-((Nat.log2 mag : Int) - f.p)) = 2 * (mag * 2 ^ e / f.ulp 0) := by
    rw [div_ulp, mul_left_comm, ← zpow_one_add₀ two_ne_zero]
    congr 2
    push_cast
    omega
  rw [finer] at nat yHigh
  have less : (mag : ℝ) * 2 ^ e / f.ulp 0 < (2 ^ f.p : Nat) := by
    push_cast
    rw [pow_succ] at yHigh
    linarith
  have rounds : RoundsNat (direction mode neg) (mag * 2 ^ e / f.ulp 0) (2 ^ f.p) := by
    refine RoundsNat.halve ?_ less
    rwa [← pow_succ', ← carry]
  have more := Nat.pow_lt_pow_succ (a := 2) (n := f.p) one_lt_two
  have value := value_run (f := f) (j := 0) (i := 2 ^ f.p) (.inl rfl) more.le
  have nears := nears_of_roundsNat (j := 0) std (.inl rfl) (by
    rw [← div_lt_iff₀ (ulp_pos f 0)]
    exact less.trans (by exact_mod_cast more)) rounds (by omega)
  rw [Nat.zero_mul, Nat.zero_add] at nears value
  exact ⟨by rwa [value, ← div_lt_iff₀ (ulp_pos f 0)], nears⟩

/-- A rounding that does not pass the largest exponent does not reach infinity's pattern. -/
theorem run_lt_inf (std : f.Standard) {j r : Nat} (most : r ≤ 2 ^ (f.p + 1))
    (small : (j : Int) + (if r = 2 ^ (f.p + 1) then 1 else 0) + 1 ≤ 2 * f.bias) : j * 2 ^ f.p + r < f.inf := by
  rw [inf_eq std]
  split at small
  · next carry =>
    have := Nat.mul_le_mul_right (2 ^ f.p) (show j + 2 ≤ 2 * f.bias by omega)
    rw [carry, pow_succ]
    nlinarith [Nat.two_pow_pos f.p]
  · next stays =>
    have := Nat.mul_le_mul_right (2 ^ f.p) (show j + 1 ≤ 2 * f.bias by omega)
    rw [pow_succ] at most stays
    have : r < 2 ^ f.p * 2 := lt_of_le_of_ne most stays
    nlinarith

/-- A magnitude that rounds into the normal range. -/
theorem rounded_normal (std : f.Standard) (hm : mag ≠ 0) (notTiny : ¬ f.exponent mode neg mag e < f.emin)
    (fits : ¬ (f.bias : Int) < f.exponent mode neg mag e) :
    let t := f.leading mode neg mag
    f.Rounded mode ftz ((if neg then -1 else 1) * (mag * 2 ^ e))
      ⟨BitVec.ofNat 64 ((if neg then f.signBit else 0) + (f.exponent mode neg mag e + f.bias).toNat * 2 ^ f.p +
        ((if t.1 = 2 ^ (f.p + 1) then 2 ^ f.p else t.1) - 2 ^ f.p)), if t.2 then flagNX else 0⟩ := by
  intro t
  have abs_ := abs_signed neg (magnitude_pos hm e)
  have isNot := mt (tiny_iff std hm).1 notTiny
  have biasPos := std.bias_pos
  have emin : f.emin = 1 - (f.bias : Int) := rfl
  have infPos := inf_pos std
  obtain ⟨nat, changed, yHigh, least, most, -⟩ := leading_spec f mode neg hm
  obtain ⟨-, high⟩ := magnitude_bounds hm e
  have exponent : f.exponent mode neg mag e = (Nat.log2 mag : Int) + e + if t.1 = 2 ^ (f.p + 1) then 1 else 0 := rfl
  -- It suffices to name the rounded bits, in range, and to say when they are exact.
  suffices found : ∃ b, (f.exponent mode neg mag e + f.bias).toNat * 2 ^ f.p +
        ((if t.1 = 2 ^ (f.p + 1) then 2 ^ f.p else t.1) - 2 ^ f.p) = b ∧
      f.Nears (direction mode neg) (mag * 2 ^ e) b ∧ b ≠ f.inf ∧ (t.2 = true ↔ f.value b ≠ mag * 2 ^ e) by
    obtain ⟨b, bits, nears, inside, inexact⟩ := found
    have less : ¬ f.value f.inf ≤ mag * 2 ^ e := by
      rw [value_inf std, not_le]
      refine high.trans_le (two_zpow_le.2 ?_)
      split at exponent <;> omega
    rw [Nat.add_assoc, bits]
    refine rounded_of (sign_iff (magnitude_pos hm e)) (by rw [abs_]; exact fun h => isNot h.2) (by rwa [abs_]) rfl
      (.inr ⟨by rw [abs_]; exact not_or.2 ⟨inside, less⟩, .inr ?_⟩)
    rw [abs_]
    by_cases lost : t.2 = true
    · exact .inl ⟨inexact.1 lost, isNot, if_pos lost⟩
    · exact .inr ⟨not_not.1 (mt inexact.2 lost), if_neg lost⟩
  rcases lt_or_ge ((Nat.log2 mag : Int) + e) f.emin with below | normal
  · -- From just below the smallest normal value it carries to it.
    have carry : t.1 = 2 ^ (f.p + 1) := by
      by_contra no
      rw [if_neg no] at exponent
      omega
    rw [if_pos carry] at exponent
    have place : (f.exponent mode neg mag e + f.bias).toNat = 1 := by omega
    obtain ⟨less, nears⟩ := nears_carry (e := e) std (by omega) hm carry
    rw [pow_succ] at infPos
    refine ⟨2 ^ f.p, by rw [place, if_pos carry]; omega, nears, by omega, iff_of_true (changed.2 ?_) less.ne'⟩
    rw [show (f.leading mode neg mag).1 = 2 ^ (f.p + 1) from carry]
    push_cast
    exact yHigh.ne'
  · obtain ⟨j, hj⟩ : ∃ j : Nat, (Nat.log2 mag : Int) + e = j + f.emin := ⟨((Nat.log2 mag : Int) + e - f.emin).toNat, by omega⟩
    have small : (j : Int) + (if t.1 = 2 ^ (f.p + 1) then 1 else 0) + 1 ≤ 2 * f.bias := by omega
    have run : j + 1 ≤ 2 * f.bias := by split at small <;> omega
    refine ⟨j * 2 ^ f.p + t.1, normal_bits least (by rw [exponent, hj]), nears_leading std hm hj run, (run_lt_inf std most small).ne, ?_⟩
    rw [value_run (.inr least) most, ne_eq, ← eq_div_iff (ulp_pos f j).ne', div_ulp,
      show -((j : Int) + f.emin - f.p - e) = -((Nat.log2 mag : Int) - f.p) by omega]
    exact changed

/-- 06 R135 to R139: FFmt.round rounds the number it is given. -/
theorem round_rounded (std : f.Standard) (mode : BitVec 2) (ftz neg : Bool) (hm : mag ≠ 0) (e : Int) :
    f.Rounded mode ftz ((if neg then -1 else 1) * (mag * 2 ^ e)) (f.round mode ftz neg mag e) := by
  rw [round_eq f mode ftz neg hm e]
  by_cases tiny : f.exponent mode neg mag e < f.emin
  · simp only [if_pos tiny]
    cases ftz with
    | false => exact rounded_subnormal std hm tiny
    | true =>
      have isTiny : f.Tiny mode neg |(if neg then -1 else 1) * ((mag : ℝ) * 2 ^ e)| := by
        rw [abs_signed neg (magnitude_pos hm e), tiny_iff std hm]
        exact tiny
      exact ⟨neg, sign_iff (magnitude_pos hm e), fun _ _ => rfl, fun notFlushed => absurd ⟨rfl, isTiny⟩ notFlushed⟩
  · simp only [if_neg tiny]
    by_cases large : (f.bias : Int) < f.exponent mode neg mag e
    · rw [if_pos large]
      exact rounded_overflow std hm large
    · rw [if_neg large]
      exact rounded_normal std hm tiny large

end

end Sys2Proof.Machine
end

section
/-! Rounding an inexact quotient or root (07 R160): a number between two neighbouring multiples of a unit fine enough rounds as any
other between them, for all that a rounding looks at are multiples of a coarser one. -/

namespace Sys2Proof.Machine

/-- Two magnitudes on the same side of every number that a rounding compares with. -/
def FFmt.Alike (f : FFmt) (a a' : ℝ) : Prop :=
  ∀ (k : Nat) (z : Int), k ≤ 2 ^ (f.p + 2) → ((k : ℝ) * 2 ^ z < a ↔ (k : ℝ) * 2 ^ z < a') ∧ (a < (k : ℝ) * 2 ^ z ↔ a' < (k : ℝ) * 2 ^ z)

variable {f : FFmt} {d : Direction} {mode : BitVec 2} {ftz neg : Bool} {a a' : ℝ}

theorem FFmt.Alike.symm (h : f.Alike a a') : f.Alike a' a := fun k z hk => ⟨(h k z hk).1.symm, (h k z hk).2.symm⟩

theorem FFmt.Alike.double (h : f.Alike a a') : f.Alike (2 * a) (2 * a') := fun k z hk => by
  have half : (k : ℝ) * 2 ^ z = 2 * (k * 2 ^ (z - 1)) := by rw [zpow_sub_one₀ two_ne_zero]; ring
  rw [half]
  simpa using h k (z - 1) hk

theorem FFmt.Alike.le (h : f.Alike a a') {t : ℝ} (ht : ∃ (k : Nat) (z : Int), k ≤ 2 ^ (f.p + 2) ∧ t = k * 2 ^ z) :
    (t < a ↔ t < a') ∧ (a < t ↔ a' < t) ∧ (t ≤ a ↔ t ≤ a') ∧ (a ≤ t ↔ a' ≤ t) ∧ (t = a ↔ t = a') := by
  obtain ⟨k, z, hk, rfl⟩ := ht
  obtain ⟨below, above⟩ := h k z hk
  refine ⟨below, above, ?_, ?_, ?_⟩
  · rw [← not_lt, ← not_lt, above]
  · rw [← not_lt, ← not_lt, below]
  · rw [eq_iff_le_not_lt, eq_iff_le_not_lt, ← not_lt, ← not_lt, above, below]

theorem value_eq_mul (f : FFmt) (b : Nat) : ∃ (k : Nat) (z : Int), k ≤ 2 ^ (f.p + 2) ∧ f.value b = k * 2 ^ z := by
  obtain ⟨j, i, hi, here, -⟩ := exists_step f b
  exact ⟨i, _, (Nat.le_succ i).trans (hi.trans (Nat.pow_le_pow_right two_pos (Nat.le_succ _))), here⟩

/-- The middle of two neighbouring magnitudes. -/
theorem middle_eq_mul (f : FFmt) (b : Nat) :
    ∃ (k : Nat) (z : Int), k ≤ 2 ^ (f.p + 2) ∧ (f.value b + f.value (b + 1)) / 2 = k * 2 ^ z := by
  obtain ⟨j, i, hi, here, next⟩ := exists_step f b
  rw [pow_succ] at hi
  refine ⟨2 * i + 1, (j : Int) + f.emin - f.p - 1, by rw [pow_succ, pow_succ]; omega, ?_⟩
  rw [here, next, zpow_sub_one₀ two_ne_zero, FFmt.ulp]
  push_cast
  ring

theorem FFmt.Alike.nears (h : f.Alike a a') {b : Nat} (nears : f.Nears d a b) : f.Nears d a' b := by
  have value := fun c => h.le (value_eq_mul f c)
  have middle := fun c => h.le (middle_eq_mul f c)
  have sum : ∀ c, (f.value c + f.value (c + 1) < 2 * a ↔ f.value c + f.value (c + 1) < 2 * a') ∧
      (2 * a < f.value c + f.value (c + 1) ↔ 2 * a' < f.value c + f.value (c + 1)) ∧
      (f.value c + f.value (c + 1) = 2 * a ↔ f.value c + f.value (c + 1) = 2 * a') := fun c => by
    obtain ⟨below, above, -, -, same⟩ := middle c
    rw [div_lt_iff₀' two_pos, div_lt_iff₀' two_pos] at below
    rw [lt_div_iff₀' two_pos, lt_div_iff₀' two_pos] at above
    rw [div_eq_iff two_ne_zero, div_eq_iff two_ne_zero, mul_comm a, mul_comm a'] at same
    exact ⟨below, above, same⟩
  obtain ⟨most, nears⟩ := nears
  refine ⟨most, ?_⟩
  cases d with
  | nearest =>
    obtain ⟨low, high⟩ := nears
    constructor
    · rcases Nat.eq_zero_or_pos b with zero | pos
      · exact .inl zero
      · obtain ⟨c, rfl⟩ : ∃ c, b = c + 1 := ⟨b - 1, by omega⟩
        rw [Nat.add_sub_cancel] at low ⊢
        rwa [← (sum c).1, ← (sum c).2.2]
    · rw [eq_comm (a := 2 * a)] at high
      rw [eq_comm (a := 2 * a')]
      rwa [← (sum b).2.1, ← (sum b).2.2]
  | down =>
    obtain ⟨notInf, low, high⟩ := nears
    exact ⟨notInf, (value b).2.2.1.1 low, high.imp_right (value (b + 1)).2.1.1⟩
  | up =>
    obtain ⟨low, high⟩ := nears
    exact ⟨low.imp_right (value (b - 1)).1.1, high.imp_right (value b).2.2.2.1.1⟩

theorem FFmt.Alike.tiny (h : f.Alike a a') (tiny : f.Tiny mode neg a) : f.Tiny mode neg a' :=
  ⟨(h.le (value_eq_mul f (2 ^ f.p))).2.1.1 tiny.1,
    fun c hc => tiny.2 c (roundsTo_iff.2 (h.double.symm.nears (roundsTo_iff.1 hc)))⟩

/-- The same answer is the rounding of either. -/
theorem FFmt.Rounded.alike {x x' : ℝ} {r : LaneRes} (rounded : f.Rounded mode ftz x r) (sign : x < 0 ↔ x' < 0) (h : f.Alike |x| |x'|) :
    f.Rounded mode ftz x' r := by
  obtain ⟨neg, isNeg, flushed, kept⟩ := rounded
  have tiny : f.Tiny mode neg |x| ↔ f.Tiny mode neg |x'| := ⟨h.tiny, h.symm.tiny⟩
  obtain ⟨-, -, reached, -, -⟩ := h.le (value_eq_mul f f.inf)
  refine ⟨neg, isNeg.trans sign, fun flush isTiny => flushed flush (tiny.2 isTiny), fun notFlushed => ?_⟩
  obtain ⟨b, nears, bits, few, nx, uf, of⟩ := kept (by rwa [tiny])
  obtain ⟨-, -, -, -, same⟩ := h.le (value_eq_mul f b)
  refine ⟨b, roundsTo_iff.2 (h.nears (roundsTo_iff.1 nears)), bits, few, ?_⟩
  change (_ ↔ (b = f.inf ∨ f.value f.inf ≤ |x'|) ∨ f.value b ≠ |x'|) ∧
    (_ ↔ ((b = f.inf ∨ f.value f.inf ≤ |x'|) ∨ f.value b ≠ |x'|) ∧ _) ∧ (_ ↔ (b = f.inf ∨ f.value f.inf ≤ |x'|))
  rw [← reached, ne_eq, ← same, ← tiny]
  exact ⟨nx, uf, of⟩

/-- Between two neighbouring multiples of a unit that is fine enough lies no number that a rounding compares with. -/
theorem coarse_outside {q k p : Nat} {z w : Int} (fine : 2 ^ (p + 2) ≤ q) (hk : k ≤ 2 ^ (p + 2)) :
    (k : ℝ) * 2 ^ w ≤ q * 2 ^ z ∨ ((q : ℝ) + 1) * 2 ^ z ≤ k * 2 ^ w := by
  have unit : (0 : ℝ) < 2 ^ z := zpow_pos two_pos _
  refine or_iff_not_imp_left.2 fun above => ?_
  rw [not_le] at above
  -- A coarse multiple above the lower neighbour is a multiple of the unit, so it lies at or above the upper one.
  have coarse : z ≤ w := by
    by_contra finer
    have : (2 : ℝ) ^ w ≤ 2 ^ z := two_zpow_le.2 (by omega)
    have : (k : ℝ) ≤ q := by exact_mod_cast hk.trans fine
    nlinarith [zpow_pos (two_pos (α := ℝ)) w, Nat.cast_nonneg (α := ℝ) k]
  obtain ⟨m, rfl⟩ := Int.le.dest coarse
  have multiple : (k : ℝ) * 2 ^ (z + (m : Int)) = ((k * 2 ^ m : Nat) : ℝ) * 2 ^ z := by
    rw [zpow_add₀ two_ne_zero, zpow_natCast]
    push_cast
    ring
  rw [multiple] at above ⊢
  refine mul_le_mul_of_nonneg_right ?_ unit.le
  exact_mod_cast Nat.succ_le_of_lt (Nat.cast_lt.1 (lt_of_mul_lt_mul_right above unit.le))

/-- Numbers between two such multiples are alike. -/
theorem alike_of_between {q : Nat} {z : Int} (fine : 2 ^ (f.p + 2) ≤ q) (ha : (q : ℝ) * 2 ^ z < a ∧ a < (q + 1) * 2 ^ z)
    (ha' : (q : ℝ) * 2 ^ z < a' ∧ a' < (q + 1) * 2 ^ z) : f.Alike a a' := by
  intro k w hk
  rcases coarse_outside (z := z) (w := w) fine hk with below | above
  · exact ⟨iff_of_true (below.trans_lt ha.1) (below.trans_lt ha'.1),
      iff_of_false (not_lt.2 (below.trans ha.1.le)) (not_lt.2 (below.trans ha'.1.le))⟩
  · exact ⟨iff_of_false (not_lt.2 (ha.2.le.trans above)) (not_lt.2 (ha'.2.le.trans above)),
      iff_of_true (ha.2.trans_le above) (ha'.2.trans_le above)⟩

/-- Rounding a number between two such multiples loses something. -/
theorem inexact_of_between {x : ℝ} {r : LaneRes} {q : Nat} {z : Int} (fine : 2 ^ (f.p + 2) ≤ q)
    (between : (q : ℝ) * 2 ^ z < |x| ∧ |x| < (q + 1) * 2 ^ z) (rounded : f.Rounded mode ftz x r) : r.flags.getLsbD 0 = true := by
  obtain ⟨neg, -, flushed, kept⟩ := rounded
  by_cases flush : ftz = true ∧ f.Tiny mode neg |x|
  · rw [flushed flush.1 flush.2]
    change (flagUF ||| flagNX).getLsbD 0 = true
    decide
  · obtain ⟨b, -, -, -, nx, -, -⟩ := kept flush
    refine nx.2 (.inr fun same => ?_)
    obtain ⟨k, w, hk, value⟩ := value_eq_mul f b
    rw [show (f.magnitude b : ℝ) = f.value b from rfl, value] at same
    rcases coarse_outside (z := z) (w := w) fine hk with below | above
    · linarith [between.1]
    · linarith [between.2]

theorem sticky_between (q : Nat) (e : Int) : (q : ℝ) * 2 ^ (e + 1) < (sticky q true : Nat) * 2 ^ e ∧
    ((sticky q true : Nat) : ℝ) * 2 ^ e < (q + 1) * 2 ^ (e + 1) := by
  have unit : (0 : ℝ) < 2 ^ e := zpow_pos two_pos _
  rw [zpow_add_one₀ two_ne_zero, sticky]
  push_cast
  simp only [if_true]
  constructor <;> nlinarith

/-- A number known to be q units, or between q and q + 1 of them: the bit that `sticky` puts below stands for the rest. -/
theorem round_sticky (std : f.Standard) (mode : BitVec 2) (ftz neg : Bool) {q : Nat} {rest : Bool} {e : Int} (fine : 2 ^ (f.p + 2) ≤ q)
    (exact_ : rest = false → a = q * 2 ^ (e + 1)) (between : rest = true → (q : ℝ) * 2 ^ (e + 1) < a ∧ a < (q + 1) * 2 ^ (e + 1)) :
    f.Rounded mode ftz ((if neg then -1 else 1) * a) (f.round mode ftz neg (sticky q rest) e) := by
  have qPos : 0 < q := (Nat.two_pow_pos _).trans_le fine
  have notZero : sticky q rest ≠ 0 := by unfold sticky; omega
  have rounded := round_rounded std mode ftz neg notZero e
  have unit : (0 : ℝ) < 2 ^ e := zpow_pos two_pos _
  have double : (2 : ℝ) ^ (e + 1) = 2 * 2 ^ e := by rw [zpow_add_one₀ two_ne_zero, mul_comm]
  have pos := magnitude_pos notZero e
  cases rest with
  | false =>
    have : (sticky q false : ℝ) * 2 ^ e = a := by
      rw [exact_ rfl, double, sticky]
      push_cast
      simp
      ring
    rwa [this] at rounded
  | true =>
    have aPos : 0 < a := (by positivity : (0 : ℝ) < q * 2 ^ (e + 1)).trans (between rfl).1
    refine rounded.alike ((sign_iff pos).symm.trans (sign_iff aPos)) ?_
    rw [abs_signed neg pos, abs_signed neg aPos]
    exact alike_of_between fine (sticky_between q e) (between rfl)

/-- A number with the bit that `sticky` puts below set is rounded, and not exactly. -/
theorem round_sticky_inexact (std : f.Standard) (mode : BitVec 2) (ftz neg : Bool) {q : Nat} (e : Int) (fine : 2 ^ (f.p + 2) ≤ q) :
    f.Rounded mode ftz ((if neg then -1 else 1) * (((2 * q + 1 : Nat) : ℝ) * 2 ^ e)) (f.round mode ftz neg (sticky q true) e) ∧
    (f.round mode ftz neg (sticky q true) e).flags.getLsbD 0 = true := by
  have rounded := round_rounded std mode ftz neg (Nat.succ_ne_zero (2 * q)) e
  refine ⟨rounded, inexact_of_between (z := e + 1) fine ?_ rounded⟩
  rw [abs_signed neg (magnitude_pos (Nat.succ_ne_zero _) e)]
  exact sticky_between q e

end Sys2Proof.Machine
end

section
/-! Floating-point sums and products (06 R134 to R139; 07 R159, R165): exact, then rounded once. -/

namespace Sys2Proof.Machine

variable {f : FFmt} {mode : BitVec 2} {ftz s t : Bool} {xs : List FVal}

theorem rat_num (s : Bool) (m : Nat) (e : Int) : ((FVal.num s m e).rat : ℝ) = (if s then -1 else 1) * (m * 2 ^ e) := by
  cases s <;> simp [FVal.rat]

theorem rat_num_eq_zero {s : Bool} {m : Nat} {e : Int} : (FVal.num s m e).rat = 0 ↔ m = 0 := by
  cases s <;> simp [FVal.rat, zpow_ne_zero]

@[simp] theorem round_zero (f : FFmt) (mode : BitVec 2) (ftz s : Bool) (e : Int) : f.round mode ftz s 0 e = ⟨f.zeroOf s, 0⟩ := rfl

@[simp] theorem LaneRes.or_zero (r : LaneRes) : r.or 0 = r := by
  cases r
  simp [LaneRes.or]

@[simp] theorem LaneRes.or_of_none (v : BitVec 64) (fl : BitVec 6) : (⟨v, 0⟩ : LaneRes).or fl = ⟨v, fl⟩ := by
  simp [LaneRes.or]

@[simp] theorem ofVal_zero (f : FFmt) (mode : BitVec 2) (ftz s : Bool) (e : Int) : f.ofVal mode ftz (.num s 0 e) = ⟨f.zeroOf s, 0⟩ := rfl
@[simp] theorem ofVal_inf (f : FFmt) (mode : BitVec 2) (ftz s : Bool) : f.ofVal mode ftz (.inf s) = ⟨f.infOf s, 0⟩ := rfl
@[simp] theorem ofVal_qnan (f : FFmt) (mode : BitVec 2) (ftz : Bool) : f.ofVal mode ftz .qnan = ⟨f.nanOf, 0⟩ := rfl
@[simp] theorem ofVal_snan (f : FFmt) (mode : BitVec 2) (ftz : Bool) : f.ofVal mode ftz .snan = ⟨f.nanOf, flagNV⟩ := rfl

/-- An integer over a power of two, as a datum. -/
theorem rat_of_int (u lo : Int) : (FVal.num (decide (u < 0)) u.natAbs lo).rat = u * 2 ^ lo := by
  rcases lt_or_ge u 0 with neg | nonneg
  · have : (u.natAbs : ℚ) = -u := by rw [Nat.cast_natAbs, abs_of_neg neg]; push_cast; rfl
    simp [FVal.rat, neg, this]
  · have : (u.natAbs : ℚ) = u := by rw [Nat.cast_natAbs, abs_of_nonneg nonneg]
    simp [FVal.rat, not_lt.2 nonneg, this]

/-- A finite datum that is not zero, rounded. -/
theorem ofVal_rounded (std : f.Standard) (mode : BitVec 2) (ftz s : Bool) {m : Nat} (hm : m ≠ 0) (e : Int) :
    f.Rounded mode ftz ((FVal.num s m e).rat : ℝ) (f.ofVal mode ftz (.num s m e)) := by
  rw [rat_num]
  exact round_rounded std mode ftz s hm e

-- Sums ------------------------------------------------------------------------------------------------------------------

theorem foldl_minExp_le (xs : List FVal) (a : Int) :
    let lo := xs.foldl (fun a x => match x with | .num _ (_ + 1) e => min a e | _ => a) a
    lo ≤ a ∧ ∀ s m e, .num s (m + 1) e ∈ xs → lo ≤ e := by
  induction xs generalizing a with
  | nil => exact ⟨le_rfl, fun _ _ _ h => absurd h List.not_mem_nil⟩
  | cons x xs ih =>
    intro lo
    rcases x with ⟨u, _ | k, g⟩ | u | _ | _
    case num.succ =>
      obtain ⟨below, all⟩ := ih (min a g)
      refine ⟨below.trans (min_le_left _ _), fun s m e h => ?_⟩
      rcases List.mem_cons.1 h with eq | later
      · cases eq
        exact below.trans (min_le_right _ _)
      · exact all s m e later
    all_goals
      obtain ⟨below, all⟩ := ih a
      exact ⟨below, fun s m e h => all s m e (by simpa using h)⟩

/-- The least exponent lies at or below each nonzero datum's. -/
theorem minExp_le {s : Bool} {m : Nat} {e : Int} (h : .num s (m + 1) e ∈ xs) : minExp xs ≤ e :=
  (foldl_minExp_le xs 0).2 s m e h

/-- A datum as an integer over a power of two at or below its exponent. -/
theorem scaled_mul {x : FVal} {lo : Int} (finite : x.finite = true) (below : ∀ s m e, x = .num s (m + 1) e → lo ≤ e) :
    (x.scaled lo : ℚ) * 2 ^ lo = x.rat := by
  match x, finite with
  | .num s 0 e, _ => cases s <;> simp [FVal.scaled, FVal.rat]
  | .num s (m + 1) e, _ =>
    have exact_ : (2 : ℚ) ^ (e - lo).toNat * 2 ^ lo = 2 ^ e := by
      have := below s m e rfl
      rw [← zpow_natCast, ← zpow_add₀ two_ne_zero]
      congr 1
      omega
    cases s <;> simp [FVal.scaled, FVal.rat, mul_assoc, exact_, neg_add_rev]
    ring

theorem scaled_sum_mul {lo : Int} (finite : xs.all FVal.finite = true) (below : ∀ s m e, .num s (m + 1) e ∈ xs → lo ≤ e) :
    (((xs.map (fun x => x.scaled lo)).sum : Int) : ℚ) * 2 ^ lo = (xs.map FVal.rat).sum := by
  induction xs with
  | nil => simp
  | cons x xs ih =>
    obtain ⟨here, rest⟩ := (by simpa using finite : x.finite = true ∧ ∀ y ∈ xs, y.finite = true)
    have later := ih (by simpa using rest) fun s m e h => below s m e (List.mem_cons_of_mem x h)
    have this_ := scaled_mul here fun s m e h => below s m e (h ▸ List.mem_cons_self)
    rw [List.map_cons, List.sum_cons, List.map_cons, List.sum_cons, ← later, ← this_]
    push_cast
    ring

def FVal.negative (x : FVal) : Bool := match x with | .num s _ _ => s | _ => false

theorem zeroIs_true (x : FVal) : x.zeroIs true = (x.isZero && x.negative) := by
  rcases x with ⟨u, _ | m, e⟩ | u | _ | _ <;> simp [FVal.zeroIs, FVal.isZero, FVal.negative]

theorem zeroIs_false (x : FVal) : x.zeroIs false = (x.isZero && !x.negative) := by
  rcases x with ⟨u, _ | m, e⟩ | u | _ | _ <;> simp [FVal.zeroIs, FVal.isZero, FVal.negative]

theorem all_zeroIs_true (xs : List FVal) : xs.all (FVal.zeroIs true) = (xs.all FVal.isZero && xs.all FVal.negative) := by
  rw [Bool.eq_iff_iff]
  simp only [Bool.and_eq_true, List.all_eq_true, zeroIs_true, forall₂_and]

theorem all_zeroIs_false (xs : List FVal) : xs.all (FVal.zeroIs false) = (xs.all FVal.isZero && !xs.any FVal.negative) := by
  rw [List.not_any_eq_all_not]
  rw [Bool.eq_iff_iff]
  simp only [Bool.and_eq_true, List.all_eq_true, zeroIs_false, forall₂_and]

theorem finite_of_all (finite : xs.all FVal.finite = true) :
    xs.any FVal.isNan = false ∧ xs.contains (.inf false) = false ∧ xs.contains (.inf true) = false := by
  have each := List.all_eq_true.1 finite
  refine ⟨List.any_eq_false.2 fun x hx => ?_, ?_, ?_⟩
  · have := each x hx
    cases x <;> simp_all [FVal.isNan, FVal.finite]
  all_goals
    rw [List.contains_eq_mem, decide_eq_false_iff_not]
    exact fun h => Bool.noConfusion (each _ h)

/-- The sum of finite data, before it is rounded. -/
theorem fsumVal_finite (mode : BitVec 2) (finite : xs.all FVal.finite = true) : fsumVal mode xs =
    (let lo := minExp xs; let t : Int := (xs.map (fun x => x.scaled lo)).sum
    if t = 0 then (.num (xs.all (FVal.zeroIs true) || (decide (mode = 2) && !xs.all (FVal.zeroIs false))) 0 0, 0)
    else (.num (t < 0) t.natAbs lo, 0)) := by
  obtain ⟨noNan, noInf, noNegInf⟩ := finite_of_all finite
  have unfolded : fsumVal mode xs = (let lo := minExp xs; let t : Int := (xs.map (fun x => x.scaled lo)).sum
      if t = 0 then
        if xs.all FVal.isZero ∧ xs.all FVal.negative then (.num true 0 0, 0)
        else if xs.all FVal.isZero ∧ !(xs.any FVal.negative) then (.num false 0 0, 0)
        else (.num (mode = 2) 0 0, 0)
      else (.num (t < 0) t.natAbs lo, 0)) := by
    unfold fsumVal
    simp only [noNan, noInf, noNegInf, Bool.false_eq_true, if_false]
    rfl
  rw [unfolded, all_zeroIs_true, all_zeroIs_false]
  have mixed : xs.all FVal.negative = true → xs.any FVal.negative = false → xs = [] := fun all none_ => by
    refine List.eq_nil_iff_forall_not_mem.2 fun x hx => ?_
    exact List.any_eq_false.1 none_ x hx (List.all_eq_true.1 all x hx)
  cases xs.all FVal.isZero <;> cases xs.all FVal.negative <;> cases xs.any FVal.negative <;> simp

theorem sum_of_finite (f : FFmt) (mode : BitVec 2) (ftz : Bool) (finite : xs.all FVal.finite = true) :
    f.sum mode ftz xs = f.ofVal mode ftz (fsumVal mode xs).1 := by
  have : (fsumVal mode xs).2 = 0 := by
    rw [fsumVal_finite mode finite]
    simp only
    split <;> rfl
  rw [FFmt.sum, this, LaneRes.or_zero]

/-- A sum of finite data is rounded once; a sum of zero has the sign that its terms agree on, or that of the mode (06 R137). -/
theorem sum_finite (std : f.Standard) (mode : BitVec 2) (ftz : Bool) (finite : xs.all FVal.finite = true) :
    let t := (xs.map FVal.rat).sum
    (t ≠ 0 → f.Rounded mode ftz (t : ℝ) (f.sum mode ftz xs)) ∧
    (t = 0 → f.sum mode ftz xs = ⟨f.zeroOf (xs.all (FVal.zeroIs true) || (decide (mode = 2) && !xs.all (FVal.zeroIs false))), 0⟩) := by
  intro t
  have scaled : (((xs.map (fun x => x.scaled (minExp xs))).sum : Int) : ℚ) * 2 ^ minExp xs = t :=
    scaled_sum_mul finite fun s m e h => minExp_le h
  have zero_iff : (xs.map (fun x => x.scaled (minExp xs))).sum = 0 ↔ t = 0 := by
    rw [← scaled, mul_eq_zero, Int.cast_eq_zero, or_iff_left (zpow_ne_zero _ two_ne_zero)]
  rw [sum_of_finite f mode ftz finite, fsumVal_finite mode finite]
  constructor
  · intro notZero
    simp only [if_neg (mt zero_iff.1 notZero)]
    rw [← scaled, ← rat_of_int]
    exact ofVal_rounded std mode ftz _ (Int.natAbs_ne_zero.2 (mt zero_iff.1 notZero)) _
  · intro zero
    simp only [if_pos (zero_iff.2 zero)]
    rfl

theorem any_isNan_of_mem {x : FVal} (nan : x.isNan = true) (h : x ∈ xs) : xs.any FVal.isNan = true :=
  List.any_eq_true.2 ⟨x, h, nan⟩

theorem any_isNan_eq_false (h1 : .snan ∉ xs) (h2 : .qnan ∉ xs) : xs.any FVal.isNan = false := by
  refine List.any_eq_false.2 fun x hx => ?_
  cases x with
  | num | inf => exact Bool.false_ne_true
  | qnan => exact absurd hx h2
  | snan => exact absurd hx h1

theorem sum_snan (f : FFmt) (mode : BitVec 2) (ftz : Bool) (h : .snan ∈ xs) : f.sum mode ftz xs = ⟨f.nanOf, flagNV⟩ := by
  simp only [FFmt.sum, fsumVal, any_isNan_of_mem (x := .snan) rfl h, List.contains_eq_mem, h, decide_true, if_true, ofVal_qnan,
    LaneRes.or_of_none]

theorem sum_qnan (f : FFmt) (mode : BitVec 2) (ftz : Bool) (h1 : .snan ∉ xs) (h2 : .qnan ∈ xs) :
    f.sum mode ftz xs = ⟨f.nanOf, 0⟩ := by
  simp only [FFmt.sum, fsumVal, any_isNan_of_mem (x := .qnan) rfl h2, List.contains_eq_mem, h1, decide_false, if_true,
    Bool.false_eq_true, if_false, ofVal_qnan, LaneRes.or_of_none]

theorem sum_infs (f : FFmt) (mode : BitVec 2) (ftz : Bool) (h1 : .snan ∉ xs) (h2 : .qnan ∉ xs) (h3 : .inf true ∈ xs)
    (h4 : .inf false ∈ xs) : f.sum mode ftz xs = ⟨f.nanOf, flagNV⟩ := by
  simp only [FFmt.sum, fsumVal, any_isNan_eq_false h1 h2, List.contains_eq_mem, h3, h4, decide_true, if_true, Bool.false_eq_true,
    if_false, ofVal_qnan, LaneRes.or_of_none]

theorem sum_inf (f : FFmt) (mode : BitVec 2) (ftz : Bool) (s : Bool) (h1 : .snan ∉ xs) (h2 : .qnan ∉ xs) (h3 : .inf s ∈ xs)
    (h4 : .inf (!s) ∉ xs) : f.sum mode ftz xs = ⟨f.infOf s, 0⟩ := by
  cases s with
  | false =>
    have h4 : .inf true ∉ xs := h4
    simp only [FFmt.sum, fsumVal, any_isNan_eq_false h1 h2, List.contains_eq_mem, h3, h4, decide_true, decide_false, if_true,
      Bool.false_eq_true, if_false, ofVal_inf, LaneRes.or_of_none]
  | true =>
    have h4 : .inf false ∉ xs := h4
    simp only [FFmt.sum, fsumVal, any_isNan_eq_false h1 h2, List.contains_eq_mem, h3, h4, decide_true, decide_false, if_true,
      Bool.false_eq_true, if_false, ofVal_inf, LaneRes.or_of_none]

/-- 06 R134 to R139; 07 R159, R165. -/
theorem numberSums : NumberSums := by
  intro f hf mode ftz xs _ r
  exact ⟨sum_finite (standard_of_mem hf) mode ftz, sum_snan f mode ftz, fun h1 h2 _ => sum_qnan f mode ftz h1 h2,
    sum_infs f mode ftz, sum_inf f mode ftz⟩

end Sys2Proof.Machine
end

section
/-! Floating-point products, quotients and roots (06 R134 to R139; 07 R159, R160). -/

namespace Sys2Proof.Machine

variable {f : FFmt} {mode : BitVec 2} {ftz s t : Bool} {a b c : FVal}

-- Products --------------------------------------------------------------------------------------------------------------

theorem fmulVal_num (s t : Bool) (m n : Nat) (e g : Int) :
    fmulVal (.num s m e) (.num t n g) = (.num (s != t) (m * n) (e + g), 0) := rfl

theorem fmulVal_inf (h : (a = .inf s ∧ (b = .inf t ∨ ∃ n g, b = .num t (n + 1) g)) ∨ (b = .inf s ∧ ∃ n g, a = .num t (n + 1) g)) :
    fmulVal a b = (.inf (s ^^ t), 0) := by
  rcases h with ⟨rfl, rfl | ⟨n, g, rfl⟩⟩ | ⟨rfl, n, g, rfl⟩
  · rfl
  · rfl
  · rw [Bool.xor_comm]
    rfl

theorem fmulVal_inf_zero {g : Int} (h : (a = .inf s ∧ b = .num t 0 g) ∨ (b = .inf s ∧ a = .num t 0 g)) :
    fmulVal a b = (.qnan, flagNV) := by
  rcases h with ⟨rfl, rfl⟩ | ⟨rfl, rfl⟩ <;> rfl

theorem fmulVal_snan (h : a = .snan ∨ b = .snan) : fmulVal a b = (.qnan, flagNV) := by
  rcases h with rfl | rfl
  · rfl
  · cases a <;> rfl

theorem fmulVal_qnan (ha : a ≠ .snan) (hb : b ≠ .snan) (h : a = .qnan ∨ b = .qnan) : fmulVal a b = (.qnan, 0) := by
  rcases h with rfl | rfl
  · cases b with
    | snan => exact absurd rfl hb
    | _ => rfl
  · cases a with
    | snan => exact absurd rfl ha
    | _ => rfl

/-- A product is a quiet NaN, or raises nothing and is no NaN. -/
theorem fmulVal_nan_or (a b : FVal) :
    (fmulVal a b).1 = .qnan ∨ (fmulVal a b).2 = 0 ∧ (fmulVal a b).1 ≠ .snan := by
  rcases a with ⟨s, _ | m, e⟩ | s | _ | _ <;> rcases b with ⟨t, _ | n, g⟩ | t | _ | _ <;> simp [fmulVal]

theorem or_invalid (v : BitVec 64) : (⟨v, flagNV⟩ : LaneRes).or flagNV = ⟨v, flagNV⟩ := by
  simp [LaneRes.or]

theorem fmulVal_flags (a b : FVal) : (fmulVal a b).2 = 0 ∨ (fmulVal a b).2 = flagNV := by
  rcases a with ⟨s, _ | m, e⟩ | s | _ | _ <;> rcases b with ⟨t, _ | n, g⟩ | t | _ | _ <;> simp [fmulVal]

theorem mul_of {x : FVal} {fl : BitVec 6} (h : fmulVal a b = (x, fl)) (f : FFmt) (mode : BitVec 2) (ftz : Bool) :
    f.mul mode ftz a b = (f.ofVal mode ftz x).or fl := by
  rw [FFmt.mul, h]

theorem fma_of {x : FVal} {fl : BitVec 6} (h : fmulVal a b = (x, fl)) (f : FFmt) (mode : BitVec 2) (ftz : Bool) (c : FVal) :
    f.fma mode ftz a b c = (f.sum mode ftz [x, c]).or fl := by
  rw [FFmt.fma, h]

theorem rat_product (s t : Bool) (m n : Nat) (e g : Int) :
    (FVal.num (s != t) (m * n) (e + g)).rat = (FVal.num s m e).rat * (FVal.num t n g).rat := by
  simp only [FVal.rat, zpow_add₀ (two_ne_zero (α := ℚ))]
  cases s <;> cases t <;> simp <;> ring

/-- The sign of the sum of two zeros, or of two data that cancel. -/
theorem zero_pair_sign {s u z : Bool} {l k : Nat} (both : l = 0 ↔ k = 0) (e h : Int) :
    ([FVal.num s l e, .num u k h].all (FVal.zeroIs true) || (z && !List.all [FVal.num s l e, .num u k h] (FVal.zeroIs false))) =
      if k = 0 ∧ u = s then u else z := by
  rcases Nat.eq_zero_or_pos k with rfl | pos
  · obtain rfl := both.2 rfl
    cases s <;> cases u <;> simp [FVal.zeroIs]
  · obtain ⟨k, rfl⟩ : ∃ i, k = i + 1 := ⟨k - 1, by omega⟩
    obtain ⟨l, rfl⟩ : ∃ i, l = i + 1 := ⟨l - 1, by omega⟩
    simp [FVal.zeroIs]

/-- A product of finite data and a finite addend. -/
theorem fma_finite (std : f.Standard) (mode : BitVec 2) (ftz s t u : Bool) (m n k : Nat) (e g h : Int) :
    let a := FVal.num s m e; let b := FVal.num t n g; let c := FVal.num u k h; let v := a.rat * b.rat + c.rat
    (v ≠ 0 → f.Rounded mode ftz (v : ℝ) (f.fma mode ftz a b c)) ∧
    (v = 0 → f.fma mode ftz a b c = ⟨f.zeroOf (if c.rat = 0 ∧ u = (s ^^ t) then u else decide (mode = 2)), 0⟩) := by
  intro a b c v
  have product := fmulVal_num s t m n e g
  have value : ([FVal.num (s != t) (m * n) (e + g), c].map FVal.rat).sum = v := by
    rw [List.map_cons, List.map_cons, List.map_nil, List.sum_cons, List.sum_cons, List.sum_nil, rat_product, add_zero]
  obtain ⟨some_, zero⟩ := sum_finite (xs := [.num (s != t) (m * n) (e + g), c]) std mode ftz rfl
  rw [fma_of product, LaneRes.or_zero]
  rw [value] at some_ zero
  refine ⟨some_, fun h0 => ?_⟩
  rw [zero h0]
  -- Both terms are zero or neither is.
  have both : m * n = 0 ↔ k = 0 := by
    rw [← rat_num_eq_zero (s := s != t) (e := e + g), rat_product, ← rat_num_eq_zero (s := u) (e := h)]
    constructor <;> intro this <;> linarith
  congr 2
  simp only [show c.rat = 0 ↔ k = 0 from rat_num_eq_zero]
  exact zero_pair_sign both _ _

theorem mul_finite (std : f.Standard) (mode : BitVec 2) (ftz s t : Bool) (m n : Nat) (e g : Int) :
    let a := FVal.num s m e; let b := FVal.num t n g
    (a.rat * b.rat ≠ 0 → f.Rounded mode ftz ((a.rat * b.rat : ℚ) : ℝ) (f.mul mode ftz a b)) ∧
    (a.rat * b.rat = 0 → f.mul mode ftz a b = ⟨f.zeroOf (s ^^ t), 0⟩) := by
  intro a b
  rw [mul_of (fmulVal_num s t m n e g), LaneRes.or_zero, ← rat_product, ne_eq, rat_num_eq_zero]
  refine ⟨fun some_ => ofVal_rounded std mode ftz _ some_ _, fun zero => ?_⟩
  rw [zero, ofVal_zero]

theorem fma_inf (f : FFmt) (mode : BitVec 2) (ftz : Bool) (product : fmulVal a b = (.inf s, 0)) :
    (c.finite = true ∨ c = .inf s → f.fma mode ftz a b c = ⟨f.infOf s, 0⟩) ∧
    (c = .inf (!s) → f.fma mode ftz a b c = ⟨f.nanOf, flagNV⟩) := by
  rw [fma_of product, LaneRes.or_zero]
  constructor
  · intro hc
    refine sum_inf f mode ftz s ?_ ?_ (by simp) ?_
    all_goals
      rcases hc with finite | rfl
      · cases c with
        | num => simp
        | _ => exact Bool.noConfusion finite
      · simp
  · rintro rfl
    cases s <;> exact sum_infs f mode ftz (by simp) (by simp) (by simp) (by simp)

/-- A product that is invalid, whatever is added. -/
theorem mul_fma_invalid (f : FFmt) (mode : BitVec 2) (ftz : Bool) (c : FVal) (product : fmulVal a b = (.qnan, flagNV)) :
    f.mul mode ftz a b = ⟨f.nanOf, flagNV⟩ ∧ f.fma mode ftz a b c = ⟨f.nanOf, flagNV⟩ := by
  rw [mul_of product, fma_of product]
  refine ⟨by rw [ofVal_qnan, LaneRes.or_of_none], ?_⟩
  by_cases signalling : c = .snan
  · rw [sum_snan f mode ftz (by simp [signalling]), or_invalid]
  · rw [sum_qnan f mode ftz (by simpa using Ne.symm signalling) (by simp), LaneRes.or_of_none]

theorem fma_snan (f : FFmt) (mode : BitVec 2) (ftz : Bool) (h : a = .snan ∨ b = .snan ∨ c = .snan) :
    f.fma mode ftz a b c = ⟨f.nanOf, flagNV⟩ := by
  rcases or_assoc.2 h with h | rfl
  · exact (mul_fma_invalid f mode ftz c (fmulVal_snan h)).2
  · rw [FFmt.fma, sum_snan f mode ftz (by simp)]
    rcases fmulVal_flags a b with none_ | invalid
    · rw [none_, LaneRes.or_zero]
    · rw [invalid, or_invalid]

theorem fma_addend_qnan (f : FFmt) (mode : BitVec 2) (ftz : Bool) (h : (f.mul mode ftz a b).v ≠ f.nanOf) :
    f.fma mode ftz a b .qnan = ⟨f.nanOf, 0⟩ := by
  rcases fmulVal_nan_or a b with nan | ⟨none_, notS⟩
  · rw [FFmt.mul, nan] at h
    exact absurd rfl h
  · rw [FFmt.fma, none_, LaneRes.or_zero, sum_qnan f mode ftz (by simpa using Ne.symm notS) (by simp)]

/-- 06 R134 to R139; 07 R159. -/
theorem numberProducts : NumberProducts := by
  intro f hf mode ftz a b c r q
  have std := standard_of_mem hf
  refine ⟨?_, fun s t h => ?_, fun s t g h => mul_fma_invalid f mode ftz c (fmulVal_inf_zero h),
    fun h => (mul_fma_invalid f mode ftz c (fmulVal_snan h)).1, fma_snan f mode ftz, fun ha hb h => ?_, fun h hc => ?_⟩
  · rintro s m e t n g rfl rfl
    obtain ⟨some_, zero⟩ := mul_finite std mode ftz s t m n e g
    refine ⟨some_, zero, ?_, ?_⟩
    · rintro u k h rfl
      exact fma_finite std mode ftz s t u m n k e g h
    · rintro u rfl
      change f.fma _ _ _ _ _ = _
      rw [fma_of (fmulVal_num s t m n e g), LaneRes.or_zero]
      exact sum_inf f mode ftz u (by simp) (by simp) (by simp) (by simp)
  · have product := fmulVal_inf h
    refine ⟨?_, fma_inf f mode ftz product⟩
    change f.mul _ _ _ _ = _
    rw [mul_of product, LaneRes.or_zero, ofVal_inf]
  · have product := fmulVal_qnan ha hb h
    change f.mul _ _ _ _ = _ ∧ (_ → f.fma _ _ _ _ _ = _)
    rw [mul_of product, fma_of product, LaneRes.or_zero, LaneRes.or_zero, ofVal_qnan]
    exact ⟨rfl, fun hc => sum_qnan f mode ftz (by simpa using Ne.symm hc) (by simp)⟩
  · obtain rfl := hc
    exact fma_addend_qnan f mode ftz h

end Sys2Proof.Machine
end

section
/-! Quotients and roots (06 R139; 07 R160): an integer quotient or root of enough bits, and whether anything is left over. -/

namespace Sys2Proof.Machine

variable {f : FFmt} {mode : BitVec 2} {ftz s t : Bool}

theorem signed_xor (s t : Bool) : (if (s != t) = true then (-1 : ℝ) else 1) = (if s = true then -1 else 1) * (if t = true then -1 else 1) := by
  cases s <;> cases t <;> simp

-- Quotients -------------------------------------------------------------------------------------------------------------

/-- A quotient of natural numbers, by its whole part. -/
theorem div_between {k n : Nat} (hn : 0 < n) :
    (k % n = 0 → (k : ℝ) / n = (k / n : Nat)) ∧
    (k % n ≠ 0 → ((k / n : Nat) : ℝ) < k / n ∧ (k : ℝ) / n < (k / n : Nat) + 1) := by
  have pos : (0 : ℝ) < n := by exact_mod_cast hn
  have split : (k : ℝ) = (k / n : Nat) * n + (k % n : Nat) := by exact_mod_cast (Nat.div_add_mod' k n).symm
  constructor
  · intro zero
    rw [zero, Nat.cast_zero, add_zero] at split
    rw [div_eq_iff pos.ne']
    exact split
  · intro some_
    rw [lt_div_iff₀ pos, div_lt_iff₀ pos, add_mul, one_mul]
    have low : (0 : ℝ) < (k % n : Nat) := by exact_mod_cast Nat.pos_of_ne_zero some_
    have high : ((k % n : Nat) : ℝ) < n := by exact_mod_cast Nat.mod_lt k hn
    constructor <;> linarith

theorem div_rounded (std : f.Standard) (mode : BitVec 2) (ftz s t : Bool) {m n : Nat} (hm : m ≠ 0) (hn : n ≠ 0) (e g : Int) :
    f.Rounded mode ftz (((FVal.num s m e).rat / (FVal.num t n g).rat : ℚ) : ℝ) (f.div mode ftz (.num s m e) (.num t n g)) := by
  have unfolded : f.div mode ftz (.num s m e) (.num t n g) = (let w := f.p + 5 + Nat.log2 n
      f.round mode ftz (s != t) (sticky (m * 2 ^ w / n) (m * 2 ^ w % n ≠ 0)) (e - g - w - 1)) := if_neg hn
  have pos : (0 : ℝ) < n := by exact_mod_cast Nat.pos_of_ne_zero hn
  obtain ⟨whole, between⟩ := div_between (k := m * 2 ^ (f.p + 5 + Nat.log2 n)) (Nat.pos_of_ne_zero hn)
  have fine : 2 ^ (f.p + 2) ≤ m * 2 ^ (f.p + 5 + Nat.log2 n) / n := by
    rw [Nat.le_div_iff_mul_le (Nat.pos_of_ne_zero hn)]
    calc 2 ^ (f.p + 2) * n ≤ 2 ^ (f.p + 2) * 2 ^ (Nat.log2 n + 1) := Nat.mul_le_mul_left _ Nat.lt_log2_self.le
      _ = 2 ^ (f.p + 3 + Nat.log2 n) := by rw [← pow_add]; congr 1; omega
      _ ≤ 2 ^ (f.p + 5 + Nat.log2 n) := Nat.pow_le_pow_right two_pos (by omega)
      _ ≤ m * 2 ^ (f.p + 5 + Nat.log2 n) := Nat.le_mul_of_pos_left _ (Nat.pos_of_ne_zero hm)
  rw [unfolded]
  generalize hw : f.p + 5 + Nat.log2 n = w at *
  have value : (((FVal.num s m e).rat / (FVal.num t n g).rat : ℚ) : ℝ) =
      (if (s != t) = true then -1 else 1) * (((m * 2 ^ w : Nat) : ℝ) / n * 2 ^ (e - g - w)) := by
    rw [Rat.cast_div, rat_num, rat_num, signed_xor, zpow_sub₀ two_ne_zero, zpow_sub₀ two_ne_zero, zpow_natCast]
    have := zpow_ne_zero g (two_ne_zero (α := ℝ))
    push_cast
    cases t <;> field_simp <;> simp
  rw [value]
  have unit : (0 : ℝ) < 2 ^ (e - g - w) := zpow_pos two_pos _
  refine round_sticky std mode ftz _ fine (fun none_ => ?_) fun some_ => ?_
  all_goals rw [sub_add_cancel]
  · rw [whole (by simpa using none_)]
  · obtain ⟨low, high⟩ := between (by simpa using some_)
    exact ⟨mul_lt_mul_of_pos_right low unit, mul_lt_mul_of_pos_right high unit⟩

-- Roots -----------------------------------------------------------------------------------------------------------------

/-- The bits of a root, found from the top. -/
theorem isqrt_spec {n : Nat} (k r : Nat) (low : r * r ≤ n) (high : n < (r + 2 ^ k) * (r + 2 ^ k)) : isqrt n k r = Nat.sqrt n := by
  induction k generalizing r with
  | zero => exact Nat.eq_sqrt.2 ⟨low, high⟩
  | succ j ih =>
    rw [isqrt]
    split
    · next fits => exact ih _ fits (by rwa [Nat.add_assoc, ← Nat.two_mul, ← pow_succ'])
    · next large => exact ih _ low (not_le.1 large)

theorem natSqrt_eq (n : Nat) : natSqrt n = Nat.sqrt n := by
  refine isqrt_spec _ _ (Nat.zero_le _) ?_
  rw [Nat.zero_add, ← pow_add]
  exact Nat.lt_log2_self.trans_le (Nat.pow_le_pow_right two_pos (by omega))

theorem sqrt_mul_zpow {x : ℝ} (hx : 0 ≤ x) (h : Int) : Real.sqrt (x * 2 ^ (2 * h)) = Real.sqrt x * 2 ^ h := by
  have square : (2 : ℝ) ^ (2 * h) = (2 ^ h) ^ 2 := by rw [mul_comm, zpow_mul]; norm_cast
  rw [Real.sqrt_mul hx, square, Real.sqrt_sq (zpow_pos two_pos h).le]

/-- The root of a real number, by the root of its whole part. -/
theorem sqrt_between {x : ℝ} {n : Nat} (low : (n : ℝ) ≤ x) (high : x < n + 1) :
    (((Nat.sqrt n * Nat.sqrt n : Nat) : ℝ) = x → Real.sqrt x = Nat.sqrt n) ∧
    (((Nat.sqrt n * Nat.sqrt n : Nat) : ℝ) ≠ x → (Nat.sqrt n : ℝ) < Real.sqrt x ∧ Real.sqrt x < Nat.sqrt n + 1) := by
  have square : ((Nat.sqrt n * Nat.sqrt n : Nat) : ℝ) = (Nat.sqrt n : ℝ) ^ 2 := by push_cast; ring
  rw [square]
  constructor
  · intro same
    rw [← same, Real.sqrt_sq (Nat.cast_nonneg _)]
  · intro differs
    have below : ((Nat.sqrt n : ℝ)) ^ 2 ≤ n := by rw [← square]; exact_mod_cast Nat.sqrt_le n
    have above : (n : ℝ) + 1 ≤ (Nat.sqrt n + 1) ^ 2 := by
      have : n + 1 ≤ (Nat.sqrt n + 1) * (Nat.sqrt n + 1) := Nat.lt_succ_sqrt n
      rw [sq]
      exact_mod_cast this
    rw [Real.lt_sqrt (Nat.cast_nonneg _), Real.sqrt_lt' (by positivity)]
    exact ⟨lt_of_le_of_ne (below.trans low) differs, high.trans_le above⟩

theorem sqrt_rounded (std : f.Standard) (mode : BitVec 2) (ftz : Bool) {m : Nat} (hm : m ≠ 0) (e : Int) :
    f.Rounded mode ftz (Real.sqrt ((FVal.num false m e).rat : ℝ)) (f.sqrt mode ftz (.num false m e)) := by
  have unfolded : f.sqrt mode ftz (.num false m e) = (let w := 2 * (f.p + 4) + (e % 2).toNat; let n := m * 2 ^ w
      let q := natSqrt n; f.round mode ftz false (sticky q (q * q ≠ n)) ((e - w) / 2 - 1)) := by
    rw [FFmt.sqrt, if_neg hm]
    rfl
  simp only [unfolded, natSqrt_eq]
  generalize hw : 2 * (f.p + 4) + (e % 2).toNat = w
  obtain ⟨h, hh⟩ : ∃ h : Int, e - w = 2 * h := ⟨(e - w) / 2, by omega⟩
  have half : (e - w) / 2 = h := by omega
  have value : ((FVal.num false m e).rat : ℝ) = ((m * 2 ^ w : Nat) : ℝ) * 2 ^ (2 * h) := by
    rw [rat_num, ← hh, zpow_sub₀ two_ne_zero, zpow_natCast]
    push_cast
    simp
    field_simp
  have fine : 2 ^ (f.p + 2) ≤ Nat.sqrt (m * 2 ^ w) := by
    rw [Nat.le_sqrt, ← pow_add]
    calc 2 ^ (f.p + 2 + (f.p + 2)) ≤ 2 ^ w := Nat.pow_le_pow_right two_pos (by omega)
      _ ≤ m * 2 ^ w := Nat.le_mul_of_pos_left _ (Nat.pos_of_ne_zero hm)
  obtain ⟨whole, between⟩ := sqrt_between (n := m * 2 ^ w) le_rfl (lt_add_one _)
  rw [value, sqrt_mul_zpow (Nat.cast_nonneg _), half]
  have unit : (0 : ℝ) < 2 ^ h := zpow_pos two_pos _
  have rounded := round_sticky (a := Real.sqrt ((m * 2 ^ w : Nat) : ℝ) * 2 ^ h) (e := h - 1)
    (rest := decide (Nat.sqrt (m * 2 ^ w) * Nat.sqrt (m * 2 ^ w) ≠ m * 2 ^ w)) std mode ftz false fine
    (fun none_ => by
      rw [whole (by exact_mod_cast not_not.1 (of_decide_eq_false none_)), sub_add_cancel])
    (fun some_ => by
      obtain ⟨low, high⟩ := between (by exact_mod_cast of_decide_eq_true some_)
      rw [sub_add_cancel]
      exact ⟨mul_lt_mul_of_pos_right low unit, mul_lt_mul_of_pos_right high unit⟩)
  rwa [if_neg Bool.false_ne_true, one_mul] at rounded

/-- The root of a quotient by n of that many bits is fine enough to round. -/
theorem natSqrt_fine {p n : Nat} (nPos : 0 < n) : 2 ^ (p + 2) ≤ Nat.sqrt (2 ^ (2 * (p + 6 + Nat.log2 n)) / n) := by
  rw [Nat.le_sqrt, ← pow_add, Nat.le_div_iff_mul_le nPos]
  calc 2 ^ (p + 2 + (p + 2)) * n ≤ 2 ^ (p + 2 + (p + 2)) * 2 ^ (Nat.log2 n + 1) := Nat.mul_le_mul_left _ Nat.lt_log2_self.le
    _ = 2 ^ (p + 2 + (p + 2) + (Nat.log2 n + 1)) := (pow_add _ _ _).symm
    _ ≤ 2 ^ (2 * (p + 6 + Nat.log2 n)) := Nat.pow_le_pow_right two_pos (by omega)

/-- A reciprocal root is the root of a quotient, by a power of two. -/
theorem inv_sqrt_eq {n : Nat} (pos : (0 : ℝ) < n) (w : Nat) (h : Int) :
    1 / Real.sqrt ((n : ℝ) * 2 ^ (2 * h)) = Real.sqrt (((2 ^ (2 * w) : Nat) : ℝ) / n) * 2 ^ (-h - w) := by
  have power : ((2 ^ (2 * w) : Nat) : ℝ) = 2 ^ (2 * (w : Int)) := by push_cast; norm_cast
  have quotient : (2 : ℝ) ^ (2 * (w : Int)) / n = (1 / n) * 2 ^ (2 * (w : Int)) := by ring
  rw [sqrt_mul_zpow (Nat.cast_nonneg _), power, quotient, sqrt_mul_zpow (by positivity), Real.sqrt_div zero_le_one, Real.sqrt_one,
    mul_assoc, ← zpow_add₀ two_ne_zero, show (w : Int) + (-h - w) = -h by ring, zpow_neg]
  field_simp

theorem rsqrt_rounded (std : f.Standard) (mode : BitVec 2) (ftz : Bool) {m : Nat} (hm : m ≠ 0) (e : Int) :
    f.Rounded mode ftz (1 / Real.sqrt ((FVal.num false m e).rat : ℝ)) (f.rsqrt mode ftz (.num false m e)) := by
  have unfolded : f.rsqrt mode ftz (.num false m e) = (let n := m * 2 ^ (e % 2).toNat; let w := f.p + 6 + Nat.log2 n
      let q := natSqrt (2 ^ (2 * w) / n)
      f.round mode ftz false (sticky q (q * q * n ≠ 2 ^ (2 * w))) (-((e - e % 2) / 2) - w - 1)) := by
    rw [FFmt.rsqrt, if_neg hm]
    rfl
  simp only [unfolded, natSqrt_eq]
  obtain ⟨h, hh⟩ : ∃ h : Int, e - e % 2 = 2 * h := ⟨e / 2, by omega⟩
  have half : (e - e % 2) / 2 = h := by omega
  have value : ((FVal.num false m e).rat : ℝ) = ((m * 2 ^ (e % 2).toNat : Nat) : ℝ) * 2 ^ (2 * h) := by
    rw [rat_num, ← hh, zpow_sub₀ two_ne_zero]
    have : ((e % 2).toNat : Int) = e % 2 := by omega
    push_cast
    rw [← zpow_natCast, this]
    simp
    field_simp
  have nPos : 0 < m * 2 ^ (e % 2).toNat := Nat.mul_pos (Nat.pos_of_ne_zero hm) (Nat.two_pow_pos _)
  generalize m * 2 ^ (e % 2).toNat = n at value nPos ⊢
  have fine := natSqrt_fine (p := f.p) nPos
  generalize f.p + 6 + Nat.log2 n = w at fine ⊢
  have pos : (0 : ℝ) < n := by exact_mod_cast nPos
  have quotientLow : ((2 ^ (2 * w) / n : Nat) : ℝ) ≤ ((2 ^ (2 * w) : Nat) : ℝ) / n := Nat.cast_div_le
  have quotientHigh : ((2 ^ (2 * w) : Nat) : ℝ) / n < (2 ^ (2 * w) / n : Nat) + 1 := by
    obtain ⟨same, inside⟩ := div_between (k := 2 ^ (2 * w)) nPos
    by_cases none_ : 2 ^ (2 * w) % n = 0
    · linarith [same none_]
    · exact (inside none_).2
  obtain ⟨whole, between⟩ := sqrt_between quotientLow quotientHigh
  rw [eq_div_iff pos.ne', ← Nat.cast_mul, Nat.cast_inj] at whole
  rw [ne_eq, eq_div_iff pos.ne', ← Nat.cast_mul, Nat.cast_inj] at between
  rw [value, inv_sqrt_eq pos w, half]
  have unit : (0 : ℝ) < 2 ^ (-h - w) := zpow_pos two_pos _
  have rounded := round_sticky (a := Real.sqrt (((2 ^ (2 * w) : Nat) : ℝ) / n) * 2 ^ (-h - w)) (e := -h - w - 1)
    (rest := decide (Nat.sqrt (2 ^ (2 * w) / n) * Nat.sqrt (2 ^ (2 * w) / n) * n ≠ 2 ^ (2 * w))) std mode ftz false fine
    (fun none_ => by rw [whole (not_not.1 (of_decide_eq_false none_)), sub_add_cancel])
    (fun some_ => by
      obtain ⟨low, high⟩ := between (of_decide_eq_true some_)
      rw [sub_add_cancel]
      exact ⟨mul_lt_mul_of_pos_right low unit, mul_lt_mul_of_pos_right high unit⟩)
  rwa [if_neg Bool.false_ne_true, one_mul] at rounded

/-- 06 R139; 07 R160. -/
theorem numberQuotients : NumberQuotients := by
  intro f hf mode ftz a b r q p
  have std := standard_of_mem hf
  refine ⟨?_, ?_, ?_, ?_, ?_, ?_, ?_, ?_, ?_⟩
  · rintro s m e t n g rfl rfl
    refine ⟨fun hm hn => div_rounded std mode ftz s t hm hn e g, ?_, ?_, ?_⟩
    · rintro rfl hn
      have : r = f.round mode ftz (s != t) (sticky (0 * _ / n) (decide (0 * _ % n ≠ 0))) _ := if_neg hn
      rw [this]
      simp [sticky]
    · rintro hm rfl
      simp only [r, FFmt.div, hm, if_true, if_false, ofVal_inf]
      exact LaneRes.or_of_none _ _
    · rintro rfl rfl
      rfl
  · rintro s t rfl
    refine ⟨?_, ?_⟩
    · rintro rfl
      rfl
    · rintro n g rfl
      rfl
  · rintro s t m e rfl rfl
    rfl
  · rintro (rfl | rfl)
    · rfl
    · cases a <;> rfl
  · rintro ha hb (rfl | rfl)
    · cases b with
      | snan => exact absurd rfl hb
      | _ => rfl
    · cases a with
      | snan => exact absurd rfl ha
      | _ => rfl
  · rintro s m e rfl
    refine ⟨?_, ?_, ?_⟩
    · rintro hm rfl
      exact ⟨sqrt_rounded std mode ftz hm e, rsqrt_rounded std mode ftz hm e⟩
    · rintro rfl
      refine ⟨rfl, ?_⟩
      simp only [p, FFmt.rsqrt, if_true, ofVal_inf]
      exact LaneRes.or_of_none _ _
    · rintro hm rfl
      exact ⟨(if_neg hm).trans (if_pos rfl), (if_neg hm).trans (if_pos rfl)⟩
  · rintro rfl
    exact ⟨rfl, rfl⟩
  · rintro (rfl | rfl) <;> exact ⟨rfl, rfl⟩
  · rintro rfl
    exact ⟨rfl, rfl⟩

end Sys2Proof.Machine
end

section
/-! Integers of a format as lane registers hold them (06 R131, R132), and shifts by the bits of their result (07 R155). -/

namespace Sys2Proof.Machine

variable {e : Nat} {x : Int}

/-- An integer reduced to a format. -/
def wrapTo (e : Nat) (x : Int) : Int := intRead e (BitVec.ofNat 64 (wrapNat (efBits e) x))

theorem wrapNat_natCast (w k : Nat) : wrapNat w (k : Int) = k % 2 ^ w := by
  rw [wrapNat, show ((2 : Int) ^ w) = ((2 ^ w : Nat) : Int) by push_cast; rfl, ← Int.natCast_mod, Int.toNat_natCast]

/-- The integer formats one by one: signed or not, of 8, 16 or 32 bits. -/
theorem intFormat_cases (lo : 1 ≤ e) (hi : e ≤ 6) :
    (efSigned e = true ∨ efSigned e = false) ∧ (efBits e = 8 ∨ efBits e = 16 ∨ efBits e = 32) := by
  interval_cases e <;> decide

theorem wrapTo_spec (lo : 1 ≤ e) (hi : e ≤ 6) (x : Int) :
    intMin e ≤ wrapTo e x ∧ wrapTo e x ≤ intMax e ∧ (2 ^ efBits e : Int) ∣ wrapTo e x - x ∧
    (intMin e ≤ x → x ≤ intMax e → wrapTo e x = x) := by
  obtain ⟨signed | signed, width | width | width⟩ := intFormat_cases lo hi <;>
    simp only [wrapTo, intRead, intMin, intMax, wrapNat, signed, width, BitVec.toNat_ofNat, true_and, false_and, if_true, if_false,
      Bool.false_eq_true] <;>
    norm_num <;> omega

/-- What is written is read back. -/
theorem intWrite_spec (lo : 1 ≤ e) (hi : e ≤ 6) (x : Int) :
    intRead e (intWrite e x) = wrapTo e x ∧ ((intWrite e x).toNat : Int) = wrapTo e x % 2 ^ 32 := by
  have write : intWrite e x = BitVec.ofNat 64 (wrapNat 32 (wrapTo e x)) := rfl
  obtain ⟨low, high, -, -⟩ := wrapTo_spec lo hi x
  rw [write]
  generalize wrapTo e x = y at *
  revert low high
  obtain ⟨signed | signed, width | width | width⟩ := intFormat_cases lo hi <;>
    simp only [intRead, intMin, intMax, wrapNat, signed, width, BitVec.toNat_ofNat, true_and, false_and, if_true, if_false,
      Bool.false_eq_true] <;>
    norm_num <;> omega

theorem intBounds (lo : 1 ≤ e) (hi : e ≤ 6) : -(2 ^ 31) ≤ intMin e ∧ intMin e ≤ 0 ∧ 0 ≤ intMax e ∧ intMax e < 2 ^ 32 := by
  interval_cases e <;> decide

/-- Whatever integer is written, it is in range and held extended to 32 bits (06 R131). -/
theorem intWrite_held (lo : 1 ≤ e) (hi : e ≤ 6) (z : Int) :
    let y := intRead e (intWrite e z)
    intMin e ≤ y ∧ y ≤ intMax e ∧ (intWrite e z).toNat < 2 ^ 32 ∧
    ((intWrite e z).setWidth 32).toInt = if 2 ^ 31 ≤ y then y - 2 ^ 32 else y := by
  obtain ⟨below, -, -, above⟩ := intBounds lo hi
  obtain ⟨low, high, -, -⟩ := wrapTo_spec lo hi z
  obtain ⟨read, bits⟩ := intWrite_spec lo hi z
  intro y
  rw [show y = wrapTo e z from read]
  refine ⟨low, high, by omega, ?_⟩
  rw [BitVec.toInt_eq_toNat_cond, BitVec.toNat_setWidth]
  split <;> split <;> omega

/-- Fitting wraps, or takes the nearest end of the range with SAT (06 R132). -/
theorem fitInt_cases (e : Nat) (sat : Bool) (x : Int) :
    (sat = false ∨ intMin e ≤ x ∧ x ≤ intMax e) ∧ fitInt e sat x = ⟨intWrite e x, 0⟩ ∨
    sat = true ∧ x < intMin e ∧ fitInt e sat x = ⟨intWrite e (intMin e), flagSAT⟩ ∨
    sat = true ∧ intMin e ≤ x ∧ intMax e < x ∧ fitInt e sat x = ⟨intWrite e (intMax e), flagSAT⟩ := by
  unfold fitInt
  cases sat with
  | false => exact .inl ⟨.inl rfl, rfl⟩
  | true =>
    by_cases low : x < intMin e
    · exact .inr (.inl ⟨rfl, low, if_pos low⟩)
    · by_cases high : intMax e < x
      · exact .inr (.inr ⟨rfl, not_lt.1 low, high, (if_neg low).trans (if_pos high)⟩)
      · exact .inl ⟨.inr ⟨not_lt.1 low, not_lt.1 high⟩, (if_neg low).trans (if_neg high)⟩

/-- 06 R131, R132. -/
theorem fitInt_spec (sat : Bool) (x : Int) (lo : 1 ≤ e) (hi : e ≤ 6) :
    let r := fitInt e sat x
    let y := intRead e r.v
    intMin e ≤ y ∧ y ≤ intMax e ∧ r.v.toNat < 2 ^ 32 ∧ (r.v.setWidth 32).toInt = (if 2 ^ 31 ≤ y then y - 2 ^ 32 else y) ∧
    (intMin e ≤ x → x ≤ intMax e → y = x ∧ r.flags = 0) ∧
    (sat = false → (2 ^ efBits e : Int) ∣ (y - x) ∧ r.flags = 0) ∧
    (sat = true → intMax e < x → y = intMax e ∧ r.flags = flagSAT) ∧
    (sat = true → x < intMin e → y = intMin e ∧ r.flags = flagSAT) := by
  obtain ⟨-, low, high, -⟩ := intBounds lo hi
  have read (z : Int) : intRead e (intWrite e z) = wrapTo e z := (intWrite_spec lo hi z).1
  have keeps (z : Int) := (wrapTo_spec lo hi z).2.2.2
  rcases fitInt_cases e sat x with ⟨fits, eq⟩ | ⟨isSat, less, eq⟩ | ⟨isSat, notLess, more, eq⟩
  · obtain ⟨h1, h2, h3, h4⟩ := intWrite_held lo hi x
    rw [eq]
    refine ⟨h1, h2, h3, h4, fun l h => ⟨(read x).trans (keeps x l h), rfl⟩,
      fun _ => ⟨(read x).symm ▸ (wrapTo_spec lo hi x).2.2.1, rfl⟩, fun s h => ?_, fun s h => ?_⟩
    all_goals rcases fits with notSat | inside
    · exact Bool.noConfusion (notSat.symm.trans s)
    · omega
    · exact Bool.noConfusion (notSat.symm.trans s)
    · omega
  · obtain ⟨h1, h2, h3, h4⟩ := intWrite_held lo hi (intMin e)
    rw [eq]
    exact ⟨h1, h2, h3, h4, fun l _ => absurd less (not_lt.2 l), fun s => Bool.noConfusion (s.symm.trans isSat),
      fun _ h => by omega, fun _ _ => ⟨(read _).trans (keeps _ le_rfl (low.trans high)), rfl⟩⟩
  · obtain ⟨h1, h2, h3, h4⟩ := intWrite_held lo hi (intMax e)
    rw [eq]
    exact ⟨h1, h2, h3, h4, fun _ h => absurd more (not_lt.2 h), fun s => Bool.noConfusion (s.symm.trans isSat),
      fun _ _ => ⟨(read _).trans (keeps _ (low.trans high) le_rfl), rfl⟩, fun _ h => absurd h (not_lt.2 notLess)⟩

-- Shifts ----------------------------------------------------------------------------------------------------------------

theorem testBit_top {k r : Nat} (hr : r < 2 ^ (k + 1)) : r.testBit k = decide (2 ^ k ≤ r) := by
  rw [Nat.testBit_eq_decide_div_mod_eq]
  have pos := Nat.two_pow_pos k
  have less : r / 2 ^ k < 2 := by rwa [Nat.div_lt_iff_lt_mul pos, ← pow_succ']
  refine decide_eq_decide.2 ⟨fun h => ?_, fun h => ?_⟩
  · by_contra small
    rw [Nat.div_eq_of_lt (not_le.1 small)] at h
    omega
  · have : 1 ≤ r / 2 ^ k := (Nat.one_le_div_iff pos).2 h
    omega

/-- A natural of the format's width, written: above it, copies of the sign. -/
theorem intWrite_natCast (lo : 1 ≤ e) (hi : e ≤ 6) {r : Nat} (hr : r < 2 ^ efBits e) :
    (intWrite e r).toNat = 2 ^ efBits e * (if efSigned e = true ∧ r.testBit (efBits e - 1) = true
      then 2 ^ (32 - efBits e) - 1 else 0) + r := by
  have bits := (intWrite_spec lo hi (r : Int)).2
  have top : r.testBit (efBits e - 1) = decide (2 ^ (efBits e - 1) ≤ r) := by
    refine testBit_top ?_
    obtain ⟨-, h | h | h⟩ := intFormat_cases lo hi <;> rwa [h] at hr ⊢
  have reduced : wrapTo e r = if efSigned e = true ∧ 2 ^ (efBits e - 1) ≤ r then (r : Int) - 2 ^ efBits e else r := by
    have small : r % 2 ^ 64 = r := Nat.mod_eq_of_lt (hr.trans_le (Nat.pow_le_pow_right two_pos (by
      obtain ⟨-, h | h | h⟩ := intFormat_cases lo hi <;> omega)))
    rw [wrapTo, intRead, wrapNat_natCast, BitVec.toNat_ofNat, Nat.mod_eq_of_lt hr, small, Nat.mod_eq_of_lt hr]
  rw [top]
  rw [reduced] at bits
  have widths := (intFormat_cases lo hi).2
  by_cases sign : efSigned e = true ∧ 2 ^ (efBits e - 1) ≤ r
  · rw [if_pos sign] at bits
    rw [if_pos ⟨sign.1, decide_eq_true sign.2⟩]
    rcases widths with width | width | width <;> rw [width] at hr bits ⊢ <;> omega
  · rw [if_neg sign] at bits
    rw [if_neg fun h => sign ⟨h.1, of_decide_eq_true h.2⟩]
    rcases widths with width | width | width <;> rw [width] at hr <;> omega

/-- The bits of an integer of a format in a lane register. -/
theorem intWrite_bits (lo : 1 ≤ e) (hi : e ≤ 6) {r : Nat} (hr : r < 2 ^ efBits e) (i : Nat) :
    (intWrite e r).getLsbD i = if i < efBits e then r.testBit i else decide (i < 32) && efSigned e && r.testBit (efBits e - 1) := by
  have widthPos : 1 ≤ efBits e ∧ efBits e ≤ 32 := by obtain ⟨-, h | h | h⟩ := intFormat_cases lo hi <;> omega
  obtain ⟨widthPos, width⟩ := widthPos
  rw [← BitVec.testBit_toNat, intWrite_natCast lo hi hr, Nat.testBit_two_pow_mul_add _ hr]
  split
  · rfl
  · next above =>
    by_cases sign : efSigned e = true ∧ r.testBit (efBits e - 1) = true
    · rw [if_pos sign, Nat.testBit_two_pow_sub_one, sign.1, sign.2]
      simp
      omega
    · rw [if_neg sign, Nat.zero_testBit]
      symm
      simpa [Bool.and_assoc] using fun _ => by simpa using sign

/-- The number that a shift leaves in a format of w bits, before it is extended (07 R155). -/
def shifted (kind w u n : Nat) : Nat :=
  match kind with
  | 0 => wrapNat w (if w ≤ n then 0 else (u * 2 ^ n : Nat))
  | 1 => if w ≤ n then 0 else u / 2 ^ n
  | _ => wrapNat w (sextNat w u / 2 ^ (min n w))

theorem laneShift_eq (kind e : Nat) (a : BitVec 64) (n : Nat) : laneShift kind e a n =
    if e = 10 then ⟨BitVec.ofNat 64 (shifted kind (efBits e) (a.toNat % 2 ^ efBits e) n), 0⟩
    else ⟨intWrite e (shifted kind (efBits e) (a.toNat % 2 ^ efBits e) n), 0⟩ := rfl

theorem wrapNat_lt (w : Nat) (x : Int) : wrapNat w x < 2 ^ w := by
  have := Int.emod_lt_of_pos x (show (0 : Int) < 2 ^ w by positivity)
  have := Int.emod_nonneg x (show (2 ^ w : Int) ≠ 0 by positivity)
  unfold wrapNat
  zify
  omega

theorem shifted_left (w u n : Nat) : shifted 0 w u n = u * 2 ^ n % 2 ^ w := by
  change wrapNat w _ = _
  split
  · next long =>
    obtain ⟨d, rfl⟩ := Nat.exists_eq_add_of_le long
    rw [show u * 2 ^ (w + d) = 2 ^ w * (u * 2 ^ d) by ring, Nat.mul_mod_right]
    exact (wrapNat_natCast w 0).trans (Nat.zero_mod _)
  · exact wrapNat_natCast w _

theorem shifted_right {w u : Nat} (hu : u < 2 ^ w) (n : Nat) : shifted 1 w u n = u / 2 ^ n := by
  change (if w ≤ n then 0 else u / 2 ^ n) = _
  split
  · next long => exact (Nat.div_eq_of_lt (hu.trans_le (Nat.pow_le_pow_right two_pos long))).symm
  · rfl

/-- An arithmetic shift puts copies of the top bit above what it shifts down. -/
theorem shifted_arith {w u : Nat} (hw : 0 < w) (hu : u < 2 ^ w) (n : Nat) :
    shifted 2 w u n = 2 ^ (w - min n w) * (if u.testBit (w - 1) then 2 ^ min n w - 1 else 0) + u / 2 ^ min n w := by
  obtain ⟨v, rfl⟩ : ∃ v, w = v + 1 := ⟨w - 1, by omega⟩
  rw [Nat.add_sub_cancel, testBit_top hu]
  change wrapNat (v + 1) (sextNat (v + 1) u / 2 ^ min n (v + 1)) = _
  obtain ⟨k, hk⟩ : ∃ k, min n (v + 1) = k := ⟨_, rfl⟩
  have few : k ≤ v + 1 := hk ▸ min_le_right _ _
  rw [hk, sextNat, Nat.mod_eq_of_lt hu, Nat.add_sub_cancel]
  have powers : 2 ^ (v + 1 - k) * 2 ^ k = 2 ^ (v + 1) := by rw [← pow_add]; congr 1; omega
  have part : u / 2 ^ k < 2 ^ (v + 1 - k) := by rwa [Nat.div_lt_iff_lt_mul (Nat.two_pow_pos k), powers]
  have one : 1 ≤ 2 ^ k := Nat.one_le_two_pow
  split
  · next top =>
    rw [if_pos (decide_eq_true top)]
    have divided : ((u : Int) - 2 ^ (v + 1)) / 2 ^ k =
        ((2 ^ (v + 1 - k) * (2 ^ k - 1) + u / 2 ^ k : Nat) : Int) + 2 ^ (v + 1) * (-1) := by
      have : (2 : Int) ^ (v + 1) = 2 ^ (v + 1 - k) * 2 ^ k := by exact_mod_cast powers.symm
      rw [this, Int.sub_mul_ediv_right _ _ (by positivity)]
      push_cast [one]
      ring
    have fits : 2 ^ (v + 1 - k) * (2 ^ k - 1) + u / 2 ^ k < 2 ^ (v + 1) := by
      rw [← powers, Nat.mul_sub, Nat.mul_one]
      have := Nat.le_mul_of_pos_right (2 ^ (v + 1 - k)) one
      omega
    rw [divided, wrapNat, Int.add_mul_emod_self_left]
    exact (wrapNat_natCast (v + 1) _).trans (Nat.mod_eq_of_lt fits)
  · next low =>
    rw [if_neg (mt of_decide_eq_true low), Nat.mul_zero, Nat.zero_add]
    have : (u : Int) / 2 ^ k = ((u / 2 ^ k : Nat) : Int) := by push_cast; rfl
    rw [this, wrapNat_natCast]
    exact Nat.mod_eq_of_lt ((Nat.div_le_self _ _).trans_lt hu)

/-- Its bits. -/
theorem shifted_bits {w : Nat} (hw : 0 < w) {kind : Nat} (hk : kind < 3) (a n : Nat) :
    shifted kind w (a % 2 ^ w) n < 2 ^ w ∧ ∀ i, i < w → (shifted kind w (a % 2 ^ w) n).testBit i =
      if kind = 0 then decide (n ≤ i) && a.testBit (i - n)
      else if kind = 1 then decide (i + n < w) && a.testBit (i + n) else a.testBit (min (i + n) (w - 1)) := by
  have uLt : a % 2 ^ w < 2 ^ w := Nat.mod_lt _ (Nat.two_pow_pos w)
  have uBit (j : Nat) : (a % 2 ^ w).testBit j = (decide (j < w) && a.testBit j) := Nat.testBit_mod_two_pow a w j
  obtain rfl | rfl | rfl : kind = 0 ∨ kind = 1 ∨ kind = 2 := by omega
  · rw [shifted_left]
    refine ⟨Nat.mod_lt _ (Nat.two_pow_pos w), fun i hi => ?_⟩
    rw [Nat.testBit_mod_two_pow, Nat.testBit_mul_two_pow, uBit]
    by_cases some_ : n ≤ i
    · simp [hi, some_, show i - n < w by omega]
    · simp [some_]
  · rw [shifted_right uLt]
    refine ⟨(Nat.div_le_self _ _).trans_lt uLt, fun i hi => ?_⟩
    rw [Nat.testBit_div_two_pow, uBit]
    rfl
  · refine ⟨wrapNat_lt _ _, fun i hi => ?_⟩
    rw [shifted_arith hw uLt]
    have powers : 2 ^ (w - min n w) * 2 ^ min n w = 2 ^ w := by rw [← pow_add]; congr 1; omega
    have part : a % 2 ^ w / 2 ^ min n w < 2 ^ (w - min n w) := by rwa [Nat.div_lt_iff_lt_mul (Nat.two_pow_pos _), powers]
    rw [Nat.testBit_two_pow_mul_add _ part, if_neg (show ¬(2 = 0) by decide), if_neg (show ¬(2 = 1) by decide)]
    by_cases below : i < w - min n w
    · rw [if_pos below, Nat.testBit_div_two_pow, uBit, min_eq_left (show n ≤ w by omega), min_eq_left (show i + n ≤ w - 1 by omega)]
      simp [show i + n < w by omega]
    · rw [if_neg below, min_eq_right (show w - 1 ≤ i + n by omega), uBit, decide_eq_true (show w - 1 < w by omega), Bool.true_and]
      cases a.testBit (w - 1) with
      | true => rw [if_pos rfl, Nat.testBit_two_pow_sub_one]; simp; omega
      | false => rw [if_neg Bool.false_ne_true, Nat.zero_testBit]

/-- 07 R154, R155. -/
theorem numberBits : NumberBits := by
  refine ⟨fun e he kind a n hk => ?_, fun w v => ⟨clzNat_spec w v, popcNat_eq w v⟩⟩
  have width : 0 < efBits e ∧ efBits e ≤ 64 := by revert e; decide
  obtain ⟨small, bits⟩ := shifted_bits width.1 hk a.toNat n
  intro w r
  rw [show r = _ from laneShift_eq kind e a n]
  by_cases raw : e = 10
  · -- All 64 bits are the result's.
    subst raw
    rw [if_pos rfl]
    refine ⟨rfl, fun i hi => ?_, fun i hi hi' => absurd hi' (not_lt.2 hi)⟩
    have hi' : i < 64 := hi
    rw [BitVec.getLsbD_ofNat, decide_eq_true hi', Bool.true_and, bits i hi]
    simp only [BitVec.testBit_toNat]
    rfl
  · rw [if_neg raw]
    have range : 1 ≤ e ∧ e ≤ 6 := by simp only [List.mem_cons, List.not_mem_nil, or_false] at he; omega
    have written := intWrite_bits range.1 range.2 small
    refine ⟨rfl, fun i hi => ?_, fun i hi _ => ?_⟩
    · rw [written, if_pos hi, bits i hi]
      simp only [BitVec.testBit_toNat]
      rfl
    · have top : w - 1 < w := by have := width.1; omega
      rw [written, written, if_neg (not_lt.2 hi), if_pos top]

end Sys2Proof.Machine
end

section
/-! What the bits of a format read as, and their order (06 R133, R138; 07 R158, R159). -/

namespace Sys2Proof.Machine

variable {f : FFmt} {ftz : Bool} {b : Nat}

/-- The bits below the sign, as they are read: those of a flushed subnormal are zero (06 R138). -/
def FFmt.pattern (f : FFmt) (ftz : Bool) (b : Nat) : Nat :=
  if ftz = true ∧ b % f.signBit < 2 ^ f.p then 0 else b % f.signBit

theorem signBit_eq (f : FFmt) : f.signBit = 2 ^ f.p * 2 ^ f.k := by rw [FFmt.signBit, pow_add, mul_comm]
theorem signBit_pos (f : FFmt) : 0 < f.signBit := Nat.two_pow_pos _

/-- The fields of a datum's bits. -/
theorem read_fields (f : FFmt) (hb : b < 2 * f.signBit) :
    (b / f.signBit % 2 = 1 ↔ f.signBit ≤ b) ∧ b / 2 ^ f.p % 2 ^ f.k = b % f.signBit / 2 ^ f.p ∧ b % 2 ^ f.p = b % f.signBit % 2 ^ f.p := by
  refine ⟨?_, ?_, ?_⟩
  · have less : b / f.signBit < 2 := (Nat.div_lt_iff_lt_mul (signBit_pos f)).2 hb
    have one : 1 ≤ b / f.signBit ↔ f.signBit ≤ b := Nat.one_le_div_iff (signBit_pos f)
    generalize b / f.signBit = q at less one ⊢
    omega
  · rw [signBit_eq, Nat.mod_mul_right_div_self]
  · rw [signBit_eq, Nat.mod_mul_right_mod]

/-- The field of all ones is that of infinity and of the NaNs. -/
theorem field_max_iff {m : Nat} (hm : m < f.signBit) : m / 2 ^ f.p = 2 ^ f.k - 1 ↔ f.inf ≤ m := by
  have pos := Nat.two_pow_pos f.p
  have small : m / 2 ^ f.p < 2 ^ f.k := by rwa [Nat.div_lt_iff_lt_mul pos, mul_comm, ← signBit_eq]
  rw [FFmt.inf, ← Nat.le_div_iff_mul_le pos]
  omega

theorem mod_eq_zero_of_inf (f : FFmt) : f.inf % 2 ^ f.p = 0 := Nat.mul_mod_left _ _

/-- A subnormal or a zero. -/
theorem read_small (std : f.Standard) (hb : b < 2 * f.signBit) (small : b % f.signBit < 2 ^ f.p) :
    f.read ftz b = .num (decide (f.signBit ≤ b)) (if ftz then 0 else b % f.signBit) (f.emin - f.p) := by
  obtain ⟨sign, field, fraction⟩ := read_fields f hb
  have notMax : ¬ f.inf ≤ b % f.signBit := by have := inf_pos std; rw [pow_succ] at this; omega
  rw [← field_max_iff (Nat.mod_lt _ (signBit_pos f))] at notMax
  unfold FFmt.read
  simp only [sign, field, fraction]
  rw [if_neg notMax, if_pos (Nat.div_eq_of_lt small), Nat.mod_eq_of_lt small]

/-- A normal number. -/
theorem read_normal (hb : b < 2 * f.signBit) (normal : 2 ^ f.p ≤ b % f.signBit) (finite : b % f.signBit < f.inf) :
    f.read ftz b = .num (decide (f.signBit ≤ b)) (2 ^ f.p + b % f.signBit % 2 ^ f.p)
      (((b % f.signBit / 2 ^ f.p : Nat) : Int) - f.bias - f.p) := by
  obtain ⟨sign, field, fraction⟩ := read_fields f hb
  have notMax := mt (field_max_iff (Nat.mod_lt b (signBit_pos f))).1 (not_le.2 finite)
  have notSmall : b % f.signBit / 2 ^ f.p ≠ 0 := (Nat.div_pos normal (Nat.two_pow_pos _)).ne'
  unfold FFmt.read
  simp only [sign, field, fraction, if_neg notMax, if_neg notSmall]

theorem read_inf (hb : b < 2 * f.signBit) (inf : b % f.signBit = f.inf) :
    f.read ftz b = .inf (decide (f.signBit ≤ b)) := by
  obtain ⟨sign, field, fraction⟩ := read_fields f hb
  have max := (field_max_iff (Nat.mod_lt b (signBit_pos f))).2 inf.ge
  unfold FFmt.read
  simp only [sign, field, fraction]
  rw [if_pos max, inf, if_pos (mod_eq_zero_of_inf f)]

theorem read_nan (hb : b < 2 * f.signBit) (nan : f.inf < b % f.signBit) :
    f.read ftz b = if b % f.signBit % 2 ^ f.p < 2 ^ (f.p - 1) then .snan else .qnan := by
  obtain ⟨-, field, fraction⟩ := read_fields f hb
  have max := (field_max_iff (Nat.mod_lt b (signBit_pos f))).2 nan.le
  have some_ : b % f.signBit % 2 ^ f.p ≠ 0 := by
    intro zero
    have split := Nat.div_add_mod' (b % f.signBit) (2 ^ f.p)
    rw [max, zero] at split
    exact nan.ne split
  unfold FFmt.read
  simp only [field, fraction, if_pos max, if_neg some_]
  by_cases high : 2 ^ (f.p - 1) ≤ b % f.signBit % 2 ^ f.p
  · rw [if_pos high, if_neg (not_lt.2 high)]
  · rw [if_neg high, if_pos (not_le.1 high)]

theorem magnitude_zero (f : FFmt) : f.magnitude 0 = 0 := by
  rw [FFmt.magnitude, if_pos (Nat.two_pow_pos _)]
  simp

/-- A finite datum is its sign and the magnitude of its pattern. -/
theorem read_finite (std : f.Standard) (ftz : Bool) (hb : b < 2 * f.signBit) (finite : b % f.signBit < f.inf) :
    ∃ g e, f.read ftz b = .num (decide (f.signBit ≤ b)) g e ∧
      (f.read ftz b).rat = (if f.signBit ≤ b then -1 else 1) * f.magnitude (f.pattern ftz b) := by
  by_cases small : b % f.signBit < 2 ^ f.p
  · refine ⟨_, _, read_small std hb small, ?_⟩
    rw [read_small std hb small]
    cases ftz with
    | false => simp [FVal.rat, FFmt.pattern, FFmt.magnitude, small]
    | true => simp [FVal.rat, FFmt.pattern, small, magnitude_zero]
  · refine ⟨_, _, read_normal hb (not_lt.1 small) finite, ?_⟩
    rw [read_normal hb (not_lt.1 small) finite]
    simp only [FVal.rat, FFmt.pattern, FFmt.magnitude, small, and_false, if_false, decide_eq_true_eq, mul_assoc]

/-- 06 Table 6-2, R133, R138. -/
theorem numberReads : NumberReads := by
  refine ⟨by decide, fun f hf b hb => ?_⟩
  have std := standard_of_mem hf
  intro neg m
  refine ⟨fun finite => ?_, fun inf ftz => read_inf hb inf, fun nan ftz => read_nan hb nan, fun small => ?_, fun normal => ?_⟩
  · obtain ⟨g, e, eq, value⟩ := read_finite std false hb finite
    refine ⟨g, e, eq, ?_⟩
    simpa [FFmt.pattern, neg] using value
  · exact ⟨_, read_small std hb small⟩
  · rcases lt_trichotomy m f.inf with finite | inf | nan
    · rw [read_normal hb normal finite, read_normal hb normal finite]
    · rw [read_inf hb inf, read_inf hb inf]
    · rw [read_nan hb nan, read_nan hb nan]

-- Order -----------------------------------------------------------------------------------------------------------------

theorem magnitude_strictMono (f : FFmt) : StrictMono f.magnitude := fun _ _ h => Rat.cast_lt.1 (value_strictMono f h)

/-- Signed magnitudes are ordered as signed patterns are. -/
theorem signed_lt_iff {g : Nat → ℚ} (mono : StrictMono g) (zero : g 0 = 0) (s t : Prop) [Decidable s] [Decidable t] (a b : Nat) :
    ((if s then -1 else 1) * g a < (if t then -1 else 1) * g b ↔ (if s then -(a : Int) else a) < if t then -(b : Int) else b) ∧
    ((if s then -1 else 1) * g a = (if t then -1 else 1) * g b ↔ (if s then -(a : Int) else a) = if t then -(b : Int) else b) := by
  have nonneg (c : Nat) : 0 ≤ g c := zero ▸ mono.monotone (Nat.zero_le c)
  have pos (c : Nat) : 0 < g c ↔ 0 < c := zero ▸ mono.lt_iff_lt
  have isZero (c : Nat) : g c = 0 ↔ c = 0 := zero ▸ mono.injective.eq_iff
  have lt (c d : Nat) : g c < g d ↔ c < d := mono.lt_iff_lt
  have eq (c d : Nat) : g c = g d ↔ c = d := mono.injective.eq_iff
  have ha := nonneg a
  have hb := nonneg b
  by_cases hs : s <;> by_cases ht : t <;> simp only [hs, ht, if_true, if_false]
  · constructor
    · rw [neg_one_mul, neg_one_mul, neg_lt_neg_iff, lt]
      omega
    · rw [neg_one_mul, neg_one_mul, neg_inj, eq]
      omega
  · constructor
    · have : -1 * g a < 1 * g b ↔ 0 < g a ∨ 0 < g b := by
        constructor
        · intro h
          by_contra no
          obtain ⟨h1, h2⟩ := not_or.1 no
          linarith
        · rintro (h | h) <;> linarith
      rw [this, pos, pos]
      omega
    · have : -1 * g a = 1 * g b ↔ g a = 0 ∧ g b = 0 := ⟨fun h => ⟨by linarith, by linarith⟩, fun h => by rw [h.1, h.2]; simp⟩
      rw [this, isZero, isZero]
      omega
  · constructor
    · refine iff_of_false (by linarith) (by omega)
    · have : 1 * g a = -1 * g b ↔ g a = 0 ∧ g b = 0 := ⟨fun h => ⟨by linarith, by linarith⟩, fun h => by rw [h.1, h.2]; simp⟩
      rw [this, isZero, isZero]
      omega
  · constructor
    · rw [one_mul, one_mul, lt]
      omega
    · rw [one_mul, one_mul, eq]
      omega

theorem flushBits_eq (f : FFmt) (ftz : Bool) (hb : b < 2 * f.signBit) :
    f.flushBits ftz b = if ftz = true ∧ b % f.signBit < 2 ^ f.p then b / f.signBit * f.signBit else b := by
  obtain ⟨-, field, -⟩ := read_fields f hb
  have small : b % f.signBit / 2 ^ f.p = 0 ↔ b % f.signBit < 2 ^ f.p := by
    rw [Nat.div_eq_zero_iff, or_iff_right (Nat.two_pow_pos _).ne']
  unfold FFmt.flushBits
  simp only [Nat.mod_eq_of_lt hb, field, small]

/-- The flushed bits are the sign and the pattern. -/
theorem flushBits_split (f : FFmt) (ftz : Bool) (hb : b < 2 * f.signBit) :
    f.flushBits ftz b = b / f.signBit * f.signBit + f.pattern ftz b := by
  rw [flushBits_eq f ftz hb, FFmt.pattern]
  split
  · rfl
  · exact (Nat.div_add_mod' b f.signBit).symm

theorem pattern_lt (f : FFmt) (ftz : Bool) (b : Nat) : f.pattern ftz b < f.signBit := by
  unfold FFmt.pattern
  split
  · exact signBit_pos f
  · exact Nat.mod_lt _ (signBit_pos f)

/-- Flushing keeps the sign. -/
theorem flushBits_sign (f : FFmt) (ftz : Bool) (hb : b < 2 * f.signBit) :
    f.flushBits ftz b / f.signBit % 2 = 1 ↔ f.signBit ≤ b := by
  rw [flushBits_split f ftz hb, Nat.add_comm, Nat.add_mul_div_right _ _ (signBit_pos f), Nat.div_eq_of_lt (pattern_lt f ftz b), Nat.zero_add]
  exact (read_fields f hb).1

theorem key_flushBits (f : FFmt) (ftz : Bool) (hb : b < 2 * f.signBit) :
    f.key (f.flushBits ftz b) = if f.signBit ≤ b then -(f.pattern ftz b : Int) else f.pattern ftz b := by
  have low : f.flushBits ftz b % f.signBit = f.pattern ftz b := by
    rw [flushBits_split f ftz hb, Nat.add_comm, Nat.add_mul_mod_self_right, Nat.mod_eq_of_lt (pattern_lt f ftz b)]
  unfold FFmt.key
  simp only [low, flushBits_sign f ftz hb]

theorem pattern_of_inf (std : f.Standard) (inf : b % f.signBit = f.inf) : f.pattern ftz b = f.inf := by
  have := inf_pos std
  rw [pow_succ] at this
  rw [FFmt.pattern, if_neg (by omega), inf]

theorem pattern_lt_inf (std : f.Standard) (finite : b % f.signBit < f.inf) : f.pattern ftz b < f.inf := by
  have := inf_pos std
  unfold FFmt.pattern
  split <;> omega

/-- What is no NaN is finite or an infinity. -/
theorem not_nan_cases (hb : b < 2 * f.signBit) (notNan : (f.read ftz b).isNan = false) :
    b % f.signBit < f.inf ∨ b % f.signBit = f.inf := by
  rcases lt_trichotomy (b % f.signBit) f.inf with finite | inf | nan
  · exact .inl finite
  · exact .inr inf
  · rw [read_nan hb nan] at notNan
    split at notNan <;> exact Bool.noConfusion notNan

/-- The order of two data is that of their keys. -/
theorem below_iff (std : f.Standard) (ftz : Bool) {a b : Nat} (ha : a < 2 * f.signBit) (hb : b < 2 * f.signBit)
    (na : (f.read ftz a).isNan = false) (nb : (f.read ftz b).isNan = false) :
    ((f.read ftz a).Below (f.read ftz b) ↔ f.key (f.flushBits ftz a) < f.key (f.flushBits ftz b)) ∧
    ((f.read ftz a).Same (f.read ftz b) ↔ f.key (f.flushBits ftz a) = f.key (f.flushBits ftz b)) := by
  rw [key_flushBits f ftz ha, key_flushBits f ftz hb]
  have infPos : 0 < f.inf := (Nat.zero_le _).trans_lt (inf_pos std)
  rcases not_nan_cases ha na with fa | ia <;> rcases not_nan_cases hb nb with fb | ib
  · obtain ⟨m, e, readA, ratA⟩ := read_finite std ftz ha fa
    obtain ⟨n, g, readB, ratB⟩ := read_finite std ftz hb fb
    obtain ⟨less, same⟩ := signed_lt_iff (magnitude_strictMono f) (magnitude_zero f) (f.signBit ≤ a) (f.signBit ≤ b)
      (f.pattern ftz a) (f.pattern ftz b)
    rw [← ratA, ← ratB] at less same
    rw [readA, readB] at less same ⊢
    exact ⟨less, same⟩
  · obtain ⟨m, e, readA, -⟩ := read_finite std ftz ha fa
    have patternA := pattern_lt_inf (ftz := ftz) std fa
    rw [readA, read_inf hb ib, pattern_of_inf std ib]
    refine ⟨?_, iff_of_false (fun same => same) (by split_ifs <;> omega)⟩
    simp only [FVal.Below, decide_eq_false_iff_not]
    split_ifs <;> omega
  · obtain ⟨n, g, readB, -⟩ := read_finite std ftz hb fb
    have patternB := pattern_lt_inf (ftz := ftz) std fb
    rw [readB, read_inf ha ia, pattern_of_inf std ia]
    refine ⟨?_, iff_of_false (fun same => same) (by split_ifs <;> omega)⟩
    simp only [FVal.Below, decide_eq_true_eq]
    split_ifs <;> omega
  · rw [read_inf ha ia, read_inf hb ib, pattern_of_inf std ia, pattern_of_inf std ib]
    simp only [FVal.Below, FVal.Same, decide_eq_true_eq, decide_eq_false_iff_not, decide_eq_decide]
    constructor <;> split_ifs <;> omega

theorem nan_cases {x : FVal} (nan : x.isNan = true) : x = .qnan ∨ x = .snan := by
  cases x with
  | num | inf => exact Bool.noConfusion nan
  | qnan => exact .inl rfl
  | snan => exact .inr rfl

theorem num_or_inf {x : FVal} (notNan : x.isNan = false) : (∃ s m e, x = .num s m e) ∨ ∃ s, x = .inf s := by
  cases x with
  | num s m e => exact .inl ⟨s, m, e, rfl⟩
  | inf s => exact .inr ⟨s, rfl⟩
  | qnan | snan => exact Bool.noConfusion notNan

/-- A NaN is neither below nor the same as anything. -/
theorem nan_unordered {x y : FVal} (nan : (x.isNan || y.isNan) = true) : ¬ x.Below y ∧ ¬ x.Same y := by
  rcases (Bool.or_eq_true _ _).mp nan with nan | nan
  · rcases nan_cases nan with rfl | rfl <;> exact ⟨fun h => h, fun h => h⟩
  · rcases nan_cases nan with rfl | rfl <;> cases x <;> exact ⟨fun h => h, fun h => h⟩

theorem not_snan {x : FVal} (notNan : x.isNan = false) : x ≠ .snan := fun h => by rw [h] at notNan; exact Bool.noConfusion notNan

/-- The conditions of VFCMP on the keys of two data that are no NaN. -/
def keyTest (cc : Nat) (p q : Int) : Bool :=
  match cc with
  | 0 => p = q
  | 1 => p ≠ q
  | 2 => p < q
  | 3 => p ≤ q
  | 4 => false
  | _ => true

theorem cmp_ordered (f : FFmt) (cc : Nat) (ftz : Bool) {a b : Nat} (ordered : ((f.read ftz a).isNan || (f.read ftz b).isNan) = false) :
    f.cmp cc ftz a b = ⟨if keyTest cc (f.key (f.flushBits ftz a)) (f.key (f.flushBits ftz b)) then 1 else 0, 0⟩ :=
  if_neg (by rw [ordered]; exact Bool.false_ne_true)

theorem cmp_nan (f : FFmt) (cc : Nat) (ftz : Bool) {a b : Nat} (nan : ((f.read ftz a).isNan || (f.read ftz b).isNan) = true) :
    f.cmp cc ftz a b = ⟨if cc = 1 ∨ cc = 4 then 1 else 0,
      if (f.read ftz a = .snan || f.read ftz b = .snan) || cc = 2 || cc = 3 then flagNV else 0⟩ := if_pos nan

theorem bit_zero_or_one (p : Prop) [Decidable p] : (if p then 1 else 0 : BitVec 64) = 0 ∨ (if p then 1 else 0 : BitVec 64) = 1 := by
  split
  · exact .inr rfl
  · exact .inl rfl

/-- 07 R158. -/
theorem numberCompares : NumberCompares := by
  intro f hf cc ftz a b hcc ha hb x y r nan
  have std := standard_of_mem hf
  cases isNan : nan with
  | true =>
    obtain ⟨notBelow, notSame⟩ := nan_unordered isNan
    rw [show r = _ from cmp_nan f cc ftz isNan]
    refine ⟨bit_zero_or_one _, ?_, by simp [or_assoc, x, y]⟩
    interval_cases cc <;> simp [notBelow, notSame]
  | false =>
    obtain ⟨nx, ny⟩ := Bool.or_eq_false_iff.1 isNan
    obtain ⟨less, same⟩ := below_iff std ftz ha hb nx ny
    rw [show r = _ from cmp_ordered f cc ftz isNan, less, same]
    refine ⟨bit_zero_or_one _, ?_, by simp [not_snan nx, not_snan ny]⟩
    interval_cases cc <;> simp [keyTest]
    omega

-- The lesser and the greater ----------------------------------------------------------------------------------------------

/-- Of two data that are no NaN, one comes out as it was read. -/
theorem minMax_num (f : FFmt) (max ftz : Bool) {a b : Nat} (na : (f.read ftz a).isNan = false) (nb : (f.read ftz b).isNan = false) :
    f.minMax max ftz a b = ⟨BitVec.ofNat 64 (if f.lessZ (f.flushBits ftz a) (f.flushBits ftz b) = max then f.flushBits ftz b
      else f.flushBits ftz a), 0⟩ := by
  unfold FFmt.minMax
  rcases num_or_inf na with ⟨_, _, _, readA⟩ | ⟨_, readA⟩ <;> rcases num_or_inf nb with ⟨_, _, _, readB⟩ | ⟨_, readB⟩ <;> rw [readA, readB]

theorem minMax_snan (f : FFmt) (max ftz : Bool) {a b : Nat} (h : f.read ftz a = .snan ∨ f.read ftz b = .snan) :
    f.minMax max ftz a b = ⟨f.nanOf, flagNV⟩ := by
  unfold FFmt.minMax
  rcases h with h | h <;> rw [h]
  · rfl
  · cases f.read ftz a <;> rfl

theorem minMax_qnan_left (f : FFmt) (max ftz : Bool) {a b : Nat} (h : f.read ftz a = .qnan) (nb : (f.read ftz b).isNan = false) :
    f.minMax max ftz a b = ⟨BitVec.ofNat 64 (f.flushBits ftz b), 0⟩ := by
  unfold FFmt.minMax
  rcases num_or_inf nb with ⟨_, _, _, readB⟩ | ⟨_, readB⟩ <;> rw [h, readB]

theorem minMax_qnan_right (f : FFmt) (max ftz : Bool) {a b : Nat} (h : f.read ftz b = .qnan) (na : (f.read ftz a).isNan = false) :
    f.minMax max ftz a b = ⟨BitVec.ofNat 64 (f.flushBits ftz a), 0⟩ := by
  unfold FFmt.minMax
  rcases num_or_inf na with ⟨_, _, _, readA⟩ | ⟨_, readA⟩ <;> rw [readA, h]

theorem minMax_qnans (f : FFmt) (max ftz : Bool) {a b : Nat} (ha : f.read ftz a = .qnan) (hb : f.read ftz b = .qnan) :
    f.minMax max ftz a b = ⟨f.nanOf, 0⟩ := by
  unfold FFmt.minMax
  rw [ha, hb]
  rfl

/-- Data of one key are the same bits, or the two zeros. -/
theorem zeros_of_key_eq (f : FFmt) (ftz : Bool) {a b : Nat} (ha : a < 2 * f.signBit) (hb : b < 2 * f.signBit)
    (same : f.key (f.flushBits ftz a) = f.key (f.flushBits ftz b)) (differ : f.flushBits ftz a ≠ f.flushBits ftz b) :
    (f.flushBits ftz a = f.signBit ∧ f.flushBits ftz b = 0) ∨ (f.flushBits ftz a = 0 ∧ f.flushBits ftz b = f.signBit) := by
  have side {c : Nat} (hc : c < 2 * f.signBit) : c / f.signBit = if f.signBit ≤ c then 1 else 0 := by
    split
    · next h => exact Nat.div_eq_of_lt_le (by omega) (by omega)
    · next h => exact Nat.div_eq_of_lt (not_le.1 h)
  rw [key_flushBits f ftz ha, key_flushBits f ftz hb] at same
  rw [flushBits_split f ftz ha, flushBits_split f ftz hb, side ha, side hb] at differ ⊢
  split_ifs at same differ ⊢ <;> omega

theorem lessZ_eq (f : FFmt) (ftz : Bool) {a b : Nat} (ha : a < 2 * f.signBit) (hb : b < 2 * f.signBit) :
    f.lessZ (f.flushBits ftz a) (f.flushBits ftz b) = (decide (f.key (f.flushBits ftz a) < f.key (f.flushBits ftz b)) ||
      (decide (f.key (f.flushBits ftz a) = f.key (f.flushBits ftz b)) && decide (f.signBit ≤ a) && decide (¬ f.signBit ≤ b))) := by
  have notNeg : f.flushBits ftz b / f.signBit % 2 = 0 ↔ ¬ f.signBit ≤ b := by
    rw [← flushBits_sign f ftz hb]
    omega
  unfold FFmt.lessZ
  simp only [flushBits_sign f ftz ha, notNeg]

/-- 07 R159. -/
theorem minMax_extremes (std : f.Standard) (ftz max : Bool) {a b : Nat} (ha : a < 2 * f.signBit) (hb : b < 2 * f.signBit)
    (na : (f.read ftz a).isNan = false) (nb : (f.read ftz b).isNan = false) :
    ((f.read ftz a).Below (f.read ftz b) → f.minMax max ftz a b = ⟨BitVec.ofNat 64 (f.flushBits ftz (if max then b else a)), 0⟩) ∧
    ((f.read ftz b).Below (f.read ftz a) → f.minMax max ftz a b = ⟨BitVec.ofNat 64 (f.flushBits ftz (if max then a else b)), 0⟩) ∧
    ((f.read ftz a).Same (f.read ftz b) → f.flushBits ftz a = f.flushBits ftz b →
      f.minMax max ftz a b = ⟨BitVec.ofNat 64 (f.flushBits ftz a), 0⟩) ∧
    ((f.read ftz a).Same (f.read ftz b) → f.flushBits ftz a ≠ f.flushBits ftz b → f.minMax max ftz a b = ⟨f.zeroOf (!max), 0⟩) := by
  obtain ⟨less, same⟩ := below_iff std ftz ha hb na nb
  obtain ⟨more, -⟩ := below_iff std ftz hb ha nb na
  rw [minMax_num f max ftz na nb, less, same, more, lessZ_eq f ftz ha hb]
  refine ⟨fun h => ?_, fun h => ?_, fun _ bits => by simp [bits], fun h differ => ?_⟩
  · cases max <;> simp [h]
  · have notLess : ¬ f.key (f.flushBits ftz a) < f.key (f.flushBits ftz b) := h.le.not_gt
    have notSame : ¬ f.key (f.flushBits ftz a) = f.key (f.flushBits ftz b) := h.ne'
    cases max <;> simp [notLess, notSame]
  · have signA := flushBits_sign f ftz ha
    have signB := flushBits_sign f ftz hb
    have one : f.signBit / f.signBit % 2 = 1 := by rw [Nat.div_self (signBit_pos f)]
    have bySign : (decide (f.key (f.flushBits ftz a) < f.key (f.flushBits ftz b)) ||
        (decide (f.key (f.flushBits ftz a) = f.key (f.flushBits ftz b)) && decide (f.signBit ≤ a) && decide (¬ f.signBit ≤ b))) =
        (decide (f.signBit ≤ a) && decide (¬ f.signBit ≤ b)) := by simp [h]
    rw [bySign]
    rcases zeros_of_key_eq f ftz ha hb h differ with ⟨bitsA, bitsB⟩ | ⟨bitsA, bitsB⟩
    · rw [bitsA] at signA
      rw [bitsB] at signB
      have negA := signA.1 one
      have posB : ¬ f.signBit ≤ b := fun h => by simpa using signB.2 h
      cases max <;> simp [negA, posB, bitsA, bitsB, FFmt.zeroOf]
    · rw [bitsA] at signA
      rw [bitsB] at signB
      have negB := signB.1 one
      have posA : ¬ f.signBit ≤ a := fun h => by simpa using signA.2 h
      cases max <;> simp [negB, posA, bitsA, bitsB, FFmt.zeroOf]

/-- Class bits (07 Table 7-5), of the bits below the sign. -/
theorem classBits_spec (std : f.Standard) {b : Nat} (hb : b < 2 * f.signBit) :
    (f.classBits b).toNat = 2 ^ (
      if b % f.signBit = f.inf then (if decide (f.signBit ≤ b) then 0 else 7)
      else if f.inf < b % f.signBit then (if b % f.signBit % 2 ^ f.p < 2 ^ (f.p - 1) then 8 else 9)
      else if b % f.signBit = 0 then (if decide (f.signBit ≤ b) then 3 else 4)
      else if b % f.signBit < 2 ^ f.p then (if decide (f.signBit ≤ b) then 2 else 5)
      else if decide (f.signBit ≤ b) then 1 else 6) := by
  obtain ⟨-, field, -⟩ := read_fields f hb
  have sub : b / 2 ^ f.p % 2 ^ f.k = 0 ↔ b % f.signBit < 2 ^ f.p := by
    rw [field, Nat.div_eq_zero_iff, or_iff_right (Nat.two_pow_pos _).ne']
  have pos := Nat.two_pow_pos f.p
  unfold FFmt.classBits
  simp only [sub]
  rcases lt_trichotomy (b % f.signBit) f.inf with finite | inf | nan
  · rw [if_neg finite.ne, if_neg finite.not_gt]
    by_cases small : b % f.signBit < 2 ^ f.p
    · rw [read_small std hb small]
      by_cases zero : b % f.signBit = 0 <;> cases decide (f.signBit ≤ b) <;> simp [zero, small]
    · have notZero : b % f.signBit ≠ 0 := by omega
      rw [read_normal hb (not_lt.1 small) finite]
      cases decide (f.signBit ≤ b) <;> simp [notZero, small]
  · rw [read_inf hb inf, if_pos inf]
    cases decide (f.signBit ≤ b) <;> simp
  · rw [read_nan hb nan, if_neg nan.ne', if_pos nan]
    by_cases low : b % f.signBit % 2 ^ f.p < 2 ^ (f.p - 1)
    · rw [if_pos low, if_pos low]
      rfl
    · rw [if_neg low, if_neg low]
      rfl

/-- 07 R159. -/
theorem numberExtremes : NumberExtremes := by
  refine ⟨fun f hf ftz a b ha hb => ?_, fun f hf b hb => classBits_spec (standard_of_mem hf) hb⟩
  intro x y flush out max r
  have flushed {c : Nat} (hc : c < 2 * f.signBit) : out c = ⟨BitVec.ofNat 64 (f.flushBits ftz c), 0⟩ := by
    rw [flushBits_eq f ftz hc]
  refine ⟨minMax_snan f max ftz, minMax_qnans f max ftz, fun h nb => ?_, fun h na => ?_, fun na nb => ?_⟩
  · rw [flushed hb]
    exact minMax_qnan_left f max ftz h nb
  · rw [flushed ha]
    exact minMax_qnan_right f max ftz h na
  · obtain ⟨less, more, same, zeros⟩ := minMax_extremes (standard_of_mem hf) ftz max ha hb na nb
    have either (c d : Nat) : (if max = true then c else d) < 2 * f.signBit ↔ if max = true then c < 2 * f.signBit else d < 2 * f.signBit := by
      cases max <;> rfl
    rw [flushed ((either b a).2 (by split <;> assumption)), flushed ((either a b).2 (by split <;> assumption)), flushed ha,
      show flush a = f.flushBits ftz a from (flushBits_eq f ftz ha).symm, show flush b = f.flushBits ftz b from (flushBits_eq f ftz hb).symm]
    exact ⟨less, more, same, zeros⟩

end Sys2Proof.Machine
end

section
/-! Conversions (06 R139; 07 R161): numbers rounded to integers. -/

namespace Sys2Proof.Machine

variable {f : FFmt} {mode : BitVec 2} {ftz s : Bool}

theorem floor_of_down {y : ℝ} {n : Nat} (h : RoundsNat .down y n) : ⌊y⌋ = n :=
  Int.floor_eq_iff.2 ⟨by exact_mod_cast h.1, by exact_mod_cast h.2⟩

theorem ceil_of_up {y : ℝ} {n : Nat} (h : RoundsNat .up y n) : ⌈y⌉ = n :=
  Int.ceil_eq_iff.2 ⟨by exact_mod_cast h.1, by exact_mod_cast h.2⟩

/-- To nearest: the distance from the rounded number is that of the magnitudes. -/
theorem intRounds_nearest {x : ℚ} {y : ℝ} {n : Nat} (hx : (x : ℝ) = (if s then -1 else 1) * y) (h : RoundsNat .nearest y n) :
    IntRounds 0 x (if s then -(n : Int) else n) := by
  obtain ⟨low, high⟩ := h
  have distance : ((|x - (if s then -(n : Int) else n : Int)| : ℚ) : ℝ) = |y - n| := by
    rw [Rat.cast_abs, Rat.cast_sub, hx, Rat.cast_intCast]
    cases s with
    | false => simp
    | true =>
      rw [← abs_neg (y - n)]
      congr 1
      simp only [if_true]
      push_cast
      ring
  change |x - (if s then -(n : Int) else n : Int)| ≤ 1 / 2 ∧ (|x - (if s then -(n : Int) else n : Int)| = 1 / 2 → _)
  rw [← Rat.cast_le (K := ℝ), ← Rat.cast_inj (α := ℝ), distance]
  push_cast
  have lowEq : 2 * (n : ℝ) - 1 ≤ 2 * y := low.elim le_of_lt fun h => h.1.le
  have highEq : 2 * y ≤ 2 * (n : ℝ) + 1 := high.elim le_of_lt fun h => h.1.le
  refine ⟨abs_le.2 ⟨by linarith, by linarith⟩, fun tie => ?_⟩
  have even : n % 2 = 0 := by
    rcases (abs_eq (by norm_num)).1 tie with above | below
    · exact (high.resolve_left (by linarith)).2
    · exact (low.resolve_left (by linarith)).2
  split <;> omega

/-- Towards zero: the floor of the magnitude. -/
theorem intRounds_toward {x : ℚ} {y : ℝ} {n : Nat} (hx : (x : ℝ) = (if s then -1 else 1) * y) (hy : 0 ≤ y) (h : RoundsNat .down y n) :
    IntRounds 1 x (if s then -(n : Int) else n) := by
  have floor := floor_of_down h
  change _ = if 0 ≤ x then ⌊x⌋ else ⌈x⌉
  have sign : 0 ≤ x ↔ 0 ≤ (x : ℝ) := Rat.cast_nonneg.symm
  cases s with
  | false =>
    rw [if_pos (sign.2 (by rw [hx]; simpa using hy)), ← Rat.floor_cast (α := ℝ), hx]
    simp [floor]
  | true =>
    rcases hy.eq_or_lt with zero | pos
    · subst zero
      obtain rfl : x = 0 := Rat.cast_eq_zero.1 (hx.trans (mul_zero _))
      simpa using floor.symm
    · rw [if_neg (mt sign.1 (by rw [hx]; simpa using pos)), ← Rat.ceil_cast (α := ℝ), hx]
      simp [floor, Int.ceil_neg]

/-- A magnitude rounded to a natural, with its sign: the number rounded to an integer. -/
theorem intRounds_of {x : ℚ} {y : ℝ} {n : Nat} (hx : (x : ℝ) = (if s then -1 else 1) * y) (hy : 0 ≤ y)
    (h : RoundsNat (direction mode s) y n) : IntRounds mode x (if s then -(n : Int) else n) := by
  rcases mode_cases mode with rfl | rfl | rfl | rfl
  · exact intRounds_nearest hx h
  · exact intRounds_toward hx hy h
  · change _ = ⌊x⌋
    rw [← Rat.floor_cast (α := ℝ), hx]
    cases s with
    | false => simp [floor_of_down h]
    | true => simp [Int.floor_neg, ceil_of_up h]
  · change _ = ⌈x⌉
    rw [← Rat.ceil_cast (α := ℝ), hx]
    cases s with
    | false => simp [ceil_of_up h]
    | true => simp [Int.ceil_neg, floor_of_down h]

/-- A datum's magnitude rounded by a shift, with its sign. -/
theorem roundShift_intRounds (mode : BitVec 2) (s : Bool) (m : Nat) (g : Int) {x : ℚ} (hx : x = (if s then -1 else 1) * (m : ℚ) * 2 ^ g) :
    let r := roundShift mode s m (-g); let v : Int := if s then -(r.1 : Int) else r.1
    IntRounds mode x v ∧ (r.2 = true ↔ (v : ℚ) ≠ x) := by
  intro r v
  obtain ⟨nat, changed⟩ := roundShift_spec mode s m (-g)
  rw [neg_neg] at nat changed
  have cast : (x : ℝ) = (if s then -1 else 1) * ((m : ℝ) * 2 ^ g) := by
    rw [hx]
    cases s <;> push_cast <;> simp
  refine ⟨intRounds_of cast (by positivity) nat, changed.trans (not_congr ?_)⟩
  rw [← Rat.cast_inj (α := ℝ), cast]
  cases s <;> simp [v, r]

/-- 06 R139; 07 R161. -/
theorem numberConversions : NumberConversions := by
  refine ⟨fun f hf mode ftz => ⟨fun x => ?_, fun s m e => ⟨fun hm => ofVal_rounded (standard_of_mem hf) mode ftz s hm e, ?_⟩,
    fun _ => rfl, rfl, rfl⟩, fun e mode lo hi => ⟨fun s m g => ?_, fun _ => rfl, rfl, rfl⟩⟩
  · have round : f.ofInt mode ftz x = f.ofVal mode ftz (.num (decide (x < 0)) x.natAbs 0) := rfl
    refine ⟨fun hx => ?_, ?_⟩
    · have rounded := ofVal_rounded (standard_of_mem hf) mode ftz (decide (x < 0)) (Int.natAbs_ne_zero.2 hx) 0
      rw [rat_of_int, zpow_zero, mul_one, Rat.cast_intCast] at rounded
      exact rounded
    · rintro rfl
      rfl
  · rintro rfl
    rfl
  · obtain ⟨rounds, changed⟩ := roundShift_intRounds mode s m g (x := (FVal.num s m g).rat) rfl
    refine ⟨_, rounds, ?_⟩
    have unfolded : floatToInt e mode (.num s m g) = (let r := roundShift mode s m (-g); let v : Int := if s then -(r.1 : Int) else r.1
      if v < intMin e then ⟨intWrite e (intMin e), flagNV⟩
      else if intMax e < v then ⟨intWrite e (intMax e), flagNV⟩
      else ⟨intWrite e v, if r.2 then flagNX else 0⟩) := rfl
    intro r
    rw [show r = _ from unfolded]
    generalize hv : (if s = true then -((roundShift mode s m (-g)).1 : Int) else (roundShift mode s m (-g)).1) = v at changed ⊢
    have order := (intBounds lo hi)
    refine ⟨fun low high => ?_, fun less => by simp only [hv, if_pos less], fun more => ?_⟩
    · simp only [hv, if_neg (not_lt.2 low), if_neg (not_lt.2 high)]
      by_cases lost : (roundShift mode s m (-g)).2 = true
      · rw [if_pos lost, if_neg (changed.1 lost)]
      · rw [if_neg lost, if_pos (not_not.1 (mt changed.2 lost))]
    · simp only [hv, if_neg (show ¬ v < intMin e by omega), if_pos more]

end Sys2Proof.Machine
end

section
/-! Blocks of one exponent (06 R144, R146, R147): the block's exponent, its mantissas, and an element read back. -/

namespace Sys2Proof.Machine

variable {f : FFmt} {xs : List FVal} {x : FVal}

-- The exponent ------------------------------------------------------------------------------------------------------------

/-- The exponent of a datum that is not zero. -/
theorem exp_spec {a : Int} (h : x.exp = some a) : (2 : ℚ) ^ a ≤ |x.rat| ∧ |x.rat| < 2 ^ (a + 1) := by
  rcases x with ⟨s, _ | m, e⟩ | s | _ | _
  case num.succ =>
    obtain rfl := Option.some.inj h
    obtain ⟨low, high⟩ := magnitude_bounds (Nat.succ_ne_zero m) e
    have size : |(FVal.num s (m + 1) e).rat| = ((m + 1 : Nat) : ℚ) * 2 ^ e := by
      have pos : (0 : ℚ) ≤ ((m + 1 : Nat) : ℚ) * 2 ^ e := by positivity
      cases s <;> simp only [FVal.rat, if_true, Bool.false_eq_true, if_false, one_mul, neg_mul, abs_neg, abs_of_nonneg pos]
    rw [size]
    rw [← Rat.cast_le (K := ℝ), ← Rat.cast_lt (K := ℝ)]
    push_cast
    exact_mod_cast And.intro low high
  all_goals exact absurd h.symm (Option.some_ne_none a)

theorem exp_eq_none (finite : x.finite = true) : x.exp = none ↔ x.rat = 0 := by
  rcases x with ⟨s, _ | m, e⟩ | s | _ | _
  · exact iff_of_true rfl (rat_num_eq_zero.2 rfl)
  · exact iff_of_false (Option.some_ne_none _) (mt rat_num_eq_zero.1 (Nat.succ_ne_zero m))
  all_goals exact Bool.noConfusion finite

/-- The greater of two exponents, either of them possibly absent. -/
def laterExp (a : Option Int) (x : FVal) : Option Int :=
  match x.exp, a with
  | none, a => a
  | some e, none => some e
  | some e, some b => some (max e b)

/-- The greatest of the exponents present, with one to begin with. -/
theorem foldl_laterExp (xs : List FVal) (a : Option Int) :
    (xs.foldl laterExp a = none ↔ a = none ∧ ∀ x ∈ xs, x.exp = none) ∧
    ∀ c, xs.foldl laterExp a = some c →
      (a = some c ∨ ∃ x ∈ xs, x.exp = some c) ∧ (∀ b, a = some b → b ≤ c) ∧ ∀ x ∈ xs, ∀ e, x.exp = some e → e ≤ c := by
  induction xs generalizing a with
  | nil => exact ⟨by simp, fun c h => ⟨.inl h, fun b hb => (Option.some.inj (hb.symm.trans h)).le, fun x hx => absurd hx List.not_mem_nil⟩⟩
  | cons x xs ih =>
    obtain ⟨none_, some_⟩ := ih (laterExp a x)
    rw [List.foldl_cons]
    have step : laterExp a x = none ↔ a = none ∧ x.exp = none := by
      unfold laterExp
      cases x.exp <;> cases a <;> simp
    refine ⟨by rw [none_, step, List.forall_mem_cons, and_assoc], fun c hc => ?_⟩
    obtain ⟨found, above, all⟩ := some_ c hc
    have here (e : Int) (he : x.exp = some e) : e ≤ c := by
      cases a with
      | none => exact above e (by unfold laterExp; rw [he])
      | some b => exact (le_max_left e b).trans (above _ (by unfold laterExp; rw [he]))
    have start (b : Int) (hb : a = some b) : b ≤ c := by
      subst hb
      cases he : x.exp with
      | none => exact above b (by unfold laterExp; rw [he])
      | some e => exact (le_max_right e b).trans (above _ (by unfold laterExp; rw [he]))
    refine ⟨?_, start, fun y hy e he => ?_⟩
    · rcases found with new | ⟨y, hy, he⟩
      · unfold laterExp at new
        cases he : x.exp with
        | none =>
          rw [he] at new
          exact .inl new
        | some e =>
          rw [he] at new
          cases a with
          | none => exact .inr ⟨x, List.mem_cons_self, he.trans new⟩
          | some b =>
            have new : some (max e b) = some c := new
            rcases max_choice e b with m | m
            · exact .inr ⟨x, List.mem_cons_self, by rw [he, ← new, m]⟩
            · exact .inl (by rw [← new, m])
      · exact .inr ⟨y, List.mem_cons_of_mem x hy, he⟩
    · rcases List.mem_cons.1 hy with rfl | later
      · exact here e he
      · exact all y later e he

theorem maxExp_eq (xs : List FVal) : maxExp xs = xs.foldl laterExp none := rfl

theorem maxExp_none (finite : xs.all FVal.finite = true) : maxExp xs = none ↔ ∀ x ∈ xs, x.rat = 0 := by
  rw [maxExp_eq, (foldl_laterExp xs none).1, and_iff_right rfl]
  exact forall₂_congr fun x hx => exp_eq_none (List.all_eq_true.1 finite x hx)

theorem maxExp_some {a : Int} (h : maxExp xs = some a) :
    (∃ x ∈ xs, x.exp = some a) ∧ ∀ x ∈ xs, ∀ e, x.exp = some e → e ≤ a := by
  obtain ⟨found, -, all⟩ := (foldl_laterExp xs none).2 a h
  exact ⟨found.resolve_left fun h => Option.some_ne_none a h.symm, all⟩

-- The mantissas -----------------------------------------------------------------------------------------------------------

/-- A mantissa of n bits, and whether it differs from the element. -/
def mantissaOf (n : Nat) (E : Int) (x : FVal) : Int × Bool :=
  match x with
  | .num s m e =>
    let r := roundShift 0 s m (-(e + (n : Int) - 2 - (E - 127)))
    let lim : Nat := 2 ^ (n - 1) - 1
    let q : Nat := min r.1 lim
    ((if s then -(q : Int) else (q : Int)), r.2 || decide (lim < r.1))
  | _ => ((0 : Int), false)

theorem mantissaOf_spec (n : Nat) (E : Int) (finite : x.finite = true) :
    let t := x.rat * (2 : ℚ) ^ ((n : Int) - 2 - (E - 127)); let top : Int := 2 ^ (n - 1) - 1; let q := mantissaOf n E x
    (∃ k, IntRounds 0 t k ∧ q.1 = min (max k (-top)) top) ∧ (q.2 = true ↔ (q.1 : ℚ) ≠ t) := by
  match x, finite with
  | .num s m e, _ =>
    intro t top q
    have ht : t = (if s then -1 else 1) * (m : ℚ) * 2 ^ (e + (n : Int) - 2 - (E - 127)) := by
      rw [show e + (n : Int) - 2 - (E - 127) = e + ((n : Int) - 2 - (E - 127)) by ring, zpow_add₀ two_ne_zero]
      simp only [t, FVal.rat]
      ring
    obtain ⟨rounds, changed⟩ := roundShift_intRounds 0 s m (e + (n : Int) - 2 - (E - 127)) ht
    have hq : q = ((if s then -((min (roundShift 0 s m (-(e + (n : Int) - 2 - (E - 127)))).1 (2 ^ (n - 1) - 1) : Nat) : Int)
          else ((min (roundShift 0 s m (-(e + (n : Int) - 2 - (E - 127)))).1 (2 ^ (n - 1) - 1) : Nat) : Int)),
        (roundShift 0 s m (-(e + (n : Int) - 2 - (E - 127)))).2 ||
          decide (2 ^ (n - 1) - 1 < (roundShift 0 s m (-(e + (n : Int) - 2 - (E - 127)))).1)) := rfl
    have lim : ((2 ^ (n - 1) - 1 : Nat) : Int) = top := by
      have : 1 ≤ 2 ^ (n - 1) := Nat.one_le_two_pow
      push_cast [this]
      rfl
    generalize roundShift 0 s m (-(e + (n : Int) - 2 - (E - 127))) = r at *
    generalize 2 ^ (n - 1) - 1 = l at *
    -- The mantissa is the rounded number, clamped.
    have clamped : q.1 = min (max (if s = true then -(r.1 : Int) else r.1) (-top)) top := by
      rw [hq, ← lim]
      cases s <;> simp
      omega
    refine ⟨⟨_, rounds, clamped⟩, ?_⟩
    obtain ⟨near, -⟩ := (rounds : |t - (if s = true then -(r.1 : Int) else r.1 : Int)| ≤ 1 / 2 ∧ _)
    have flag : q.2 = true ↔ r.2 = true ∨ l < r.1 := by rw [hq]; simp
    have cut : l < r.1 ↔ q.1 ≠ if s = true then -(r.1 : Int) else r.1 := by
      rw [clamped, ← lim]
      cases s <;> simp
      omega
    rw [flag, cut]
    generalize (if s = true then -(r.1 : Int) else r.1 : Int) = v at *
    by_cases same : (v : ℚ) = t
    · rw [changed, ← same]
      simp
    · refine iff_of_true (.inl (changed.2 same)) fun whole => same ?_
      -- An integer that near to the rounded number is that number.
      have : q.1 = v := by
        rw [← whole, ← Int.cast_sub, ← Int.cast_abs] at near
        have less : ((|q.1 - v| : Int) : ℚ) < (1 : Int) := near.trans_lt (by norm_num)
        have := Int.abs_lt_one_iff.1 (Int.cast_lt.1 less)
        omega
      rw [← this, whole]

/-- bfpq, with its parts named. -/
theorem bfpq_eq (xs : List FVal) (n : Nat) : bfpq xs n =
    if xs.any (fun x => !x.finite) = true then
      (255, xs.map (fun _ => 0), if xs.any (fun x => !x.finite && decide (x ≠ .qnan)) then flagNV else 0)
    else
      match maxExp xs with
      | none => (0, xs.map (fun _ => 0), 0)
      | some a =>
        let E := max (a + 127) 1
        let ms := xs.map (mantissaOf n E)
        (if ms.all (fun x => x.1 = 0) then 0 else E.toNat, ms.map (·.1), if ms.any (·.2) then flagNX else 0) := by
  have special : (fun x : FVal => x.isNan || (match x with | .inf _ => true | _ => false)) = fun x => !x.finite := by
    funext x
    cases x <;> rfl
  have signalled : (fun x : FVal => decide (x = .snan) || (match x with | .inf _ => true | _ => false)) =
      fun x => !x.finite && decide (x ≠ .qnan) := by
    funext x
    cases x <;> simp [FVal.finite]
  rw [← special, ← signalled]
  rfl

theorem any_not_finite_iff (xs : List FVal) : xs.any (fun x => !x.finite) = true ↔ ¬ xs.all FVal.finite = true := by
  rw [List.all_eq_not_any_not]
  simp

theorem listAt_map {α β : Type} (l : List α) (g : α → β) {i : Nat} (hi : i < l.length) (d : α) (e : β) :
    listAt (l.map g) i e = g (listAt l i d) := by
  simp [listAt, hi]

theorem listAt_mem {α : Type} {l : List α} {i : Nat} (hi : i < l.length) (d : α) : listAt l i d ∈ l := by
  simp [listAt, hi]

/-- An entry of a list of integers read as rational numbers. -/
theorem listAt_cast (l : List Int) {i : Nat} (hi : i < l.length) :
    listAt (l >>= fun a => pure (a : ℚ)) i 0 = ((listAt l i 0 : Int) : ℚ) := by
  rw [bind_pure_comp]
  exact listAt_map l _ hi 0 0

/-- Quantising data that are finite and not all zero (06 R146). -/
theorem bfpq_finite {n : Nat} (finite : xs.all FVal.finite = true) (some_ : ∃ x ∈ xs, x.rat ≠ 0) :
    let q := bfpq xs n; let top : Int := 2 ^ (n - 1) - 1
    ∃ E : Int, 1 ≤ E ∧ (∀ x ∈ xs, |x.rat| < (2 : ℚ) ^ (E - 126)) ∧
      (E = 1 ∨ ∃ x ∈ xs, (2 : ℚ) ^ (E - 127) ≤ |x.rat|) ∧ q.2.1.length = xs.length ∧
      (∀ i, i < xs.length → let t := (listAt xs i .qnan).rat * (2 : ℚ) ^ ((n : Int) - 2 - (E - 127))
        ∃ k, IntRounds 0 t k ∧ listAt q.2.1 i 0 = min (max k (-top)) top) ∧
      q.1 = (if ∀ m ∈ q.2.1, m = 0 then 0 else E.toNat) ∧
      q.2.2 = if ∃ i, i < xs.length ∧
        (listAt q.2.1 i 0 : ℚ) ≠ (listAt xs i .qnan).rat * (2 : ℚ) ^ ((n : Int) - 2 - (E - 127)) then flagNX else 0 := by
  have each := List.all_eq_true.1 finite
  obtain ⟨a, ha⟩ : ∃ a, maxExp xs = some a := Option.ne_none_iff_exists'.1 fun none_ => by
    obtain ⟨x, hx, notZero⟩ := some_
    exact notZero ((maxExp_none finite).1 none_ x hx)
  obtain ⟨⟨y, hy, greatest⟩, all⟩ := maxExp_some ha
  have eq : bfpq xs n = (if (xs.map (mantissaOf n (max (a + 127) 1))).all (fun x => x.1 = 0) then 0 else (max (a + 127) 1).toNat,
      (xs.map (mantissaOf n (max (a + 127) 1))).map (·.1),
      if (xs.map (mantissaOf n (max (a + 127) 1))).any (·.2) then flagNX else 0) := by
    rw [bfpq_eq, if_neg (mt (any_not_finite_iff xs).1 (not_not.2 finite)), ha]
  rw [eq]
  generalize hE : max (a + 127) 1 = E
  have at_ (i : Nat) (hi : i < xs.length) :
      listAt ((xs.map (mantissaOf n E)).map (·.1)) i 0 = (mantissaOf n E (listAt xs i .qnan)).1 := by
    rw [List.map_map, listAt_map _ _ hi .qnan]
    rfl
  have cast (i : Nat) (hi : i < xs.length) := (listAt_cast ((xs.map (mantissaOf n E)).map (·.1)) (by simpa using hi)).trans
    (congrArg (Int.cast (R := ℚ)) (at_ i hi))
  refine ⟨E, by omega, fun x hx => ?_, ?_, by simp, fun i hi => ?_, ?_, ?_⟩
  · by_cases zero : x.rat = 0
    · rw [zero, abs_zero]
      positivity
    · obtain ⟨e, he⟩ := Option.ne_none_iff_exists'.1 (mt (exp_eq_none (each x hx)).1 zero)
      refine (exp_spec he).2.trans_le (zpow_le_zpow_right₀ one_le_two ?_)
      have := all x hx e he
      omega
  · rcases le_total (a + 127) 1 with low | high
    · exact .inl (by omega)
    · refine .inr ⟨y, hy, ?_⟩
      rw [show E - 127 = a by omega]
      exact (exp_spec greatest).1
  · rw [at_ i hi]
    exact (mantissaOf_spec n E (each _ (listAt_mem hi _))).1
  · simp only [List.all_eq_true, List.mem_map, decide_eq_true_eq]
    refine if_congr ?_ rfl rfl
    simp
  · refine if_congr ?_ rfl rfl
    simp only [List.any_eq_true, List.mem_map]
    constructor
    · rintro ⟨_, ⟨x, hx, rfl⟩, changed⟩
      obtain ⟨i, hi, rfl⟩ := List.mem_iff_getElem.1 hx
      refine ⟨i, hi, ?_⟩
      have here : listAt xs i .qnan = xs[i] := by simp [listAt, hi]
      rw [cast i hi, here]
      exact (mantissaOf_spec n E (each _ hx)).2.1 changed
    · rintro ⟨i, hi, changed⟩
      rw [cast i hi] at changed
      exact ⟨_, ⟨_, listAt_mem hi _, rfl⟩, (mantissaOf_spec n E (each _ (listAt_mem hi _))).2.2 changed⟩

theorem bfpd_finite {f : FFmt} {mode : BitVec 2} {ftz : Bool} {E : Nat} (lo : 1 ≤ E) (hi : E ≤ 254) (m : Int) (n : Nat) :
    f.bfpd mode ftz E m n = f.ofVal mode ftz (.num (decide (m < 0)) m.natAbs ((E : Int) - 127 - ((n : Int) - 2))) := by
  rw [FFmt.bfpd, bfpVal, if_neg (by omega), if_neg (by omega)]

/-- 06 R146, R147. -/
theorem numberBlocks : NumberBlocks := by
  refine ⟨fun xs n _ _ => ⟨fun special => ?_, fun finite zeros => ?_, bfpq_finite⟩, fun f hf mode ftz E n m _ _ => ⟨?_, ?_, ?_, ?_⟩⟩
  · rw [bfpq_eq, if_pos special]
    exact ⟨rfl, rfl, rfl⟩
  · rw [bfpq_eq, if_neg (mt (any_not_finite_iff xs).1 (not_not.2 finite)), (maxExp_none finite).2 zeros]
    exact ⟨rfl, rfl, rfl⟩
  · rintro rfl
    rfl
  · rintro rfl
    rfl
  · intro lo hi hm
    have rounded := ofVal_rounded (standard_of_mem hf) mode ftz (decide (m < 0)) (Int.natAbs_ne_zero.2 hm)
      ((E : Int) - 127 - ((n : Int) - 2))
    rw [rat_of_int, ← bfpd_finite lo hi] at rounded
    exact rounded
  · rintro lo hi rfl
    exact bfpd_finite lo hi 0 n

end Sys2Proof.Machine
end

section
/-! Reductions and scans over the active lanes (07 R165, R166). -/

namespace Sys2Proof.Machine

-- Folds over the lanes --------------------------------------------------------------------------------------------------------

/-- A fold that keeps one of two values each time ends with one that stands in the relation to all. -/
theorem foldl_choice {g : Int → Int → Int} {r : Int → Int → Prop} (choice : ∀ a b, g a b = a ∨ g a b = b)
    (refl : ∀ a, r a a) (trans : ∀ a b c, r a b → r b c → r a c) (left : ∀ a b, r (g a b) a) (right : ∀ a b, r (g a b) b)
    (v : Nat → Int) (us : List Nat) (z : Int) :
    let w := us.foldl (fun a m => g a (v m)) z
    (w = z ∨ ∃ k ∈ us, w = v k) ∧ r w z ∧ ∀ j ∈ us, r w (v j) := by
  induction us generalizing z with
  | nil => exact ⟨.inl rfl, refl z, fun j hj => absurd hj List.not_mem_nil⟩
  | cons m us ih =>
    obtain ⟨found, start, all⟩ := ih (g z (v m))
    refine ⟨?_, trans _ _ _ start (left z (v m)), fun j hj => ?_⟩
    · rcases found with same | ⟨k, hk, eq⟩
      · rcases choice z (v m) with h | h
        · exact .inl (same.trans h)
        · exact .inr ⟨m, List.mem_cons_self, same.trans h⟩
      · exact .inr ⟨k, List.mem_cons_of_mem m hk, eq⟩
    · rcases List.mem_cons.1 hj with rfl | later
      · exact trans _ _ _ start (right z (v j))
      · exact all j later

theorem foldl_min (v : Nat → Int) {us : List Nat} {l : Nat} (hl : l ∈ us) :
    ∃ k ∈ us, us.foldl (fun a m => min a (v m)) (v l) = v k ∧ ∀ j ∈ us, v k ≤ v j := by
  obtain ⟨found, -, all⟩ := foldl_choice (g := min) (r := (· ≤ ·)) (fun a b => min_choice a b) le_refl (fun _ _ _ => le_trans) min_le_left
    min_le_right v us (v l)
  rcases found with same | ⟨k, hk, eq⟩
  · exact ⟨l, hl, same, fun j hj => same ▸ all j hj⟩
  · exact ⟨k, hk, eq, fun j hj => eq ▸ all j hj⟩

theorem foldl_max (v : Nat → Int) {us : List Nat} {l : Nat} (hl : l ∈ us) :
    ∃ k ∈ us, us.foldl (fun a m => max a (v m)) (v l) = v k ∧ ∀ j ∈ us, v j ≤ v k := by
  obtain ⟨found, -, all⟩ := foldl_choice (g := max) (r := (· ≥ ·)) (fun a b => max_choice a b) le_refl (fun _ _ _ => ge_trans) le_max_left
    le_max_right v us (v l)
  rcases found with same | ⟨k, hk, eq⟩
  · exact ⟨l, hl, same, fun j hj => same ▸ all j hj⟩
  · exact ⟨k, hk, eq, fun j hj => eq ▸ all j hj⟩

/-- A fold of bits stays within their width. -/
theorem foldl_lt {g : Nat → Nat → Nat} {w : Nat} (closed : ∀ a b, a < 2 ^ w → b < 2 ^ w → g a b < 2 ^ w) {raw : Nat → Nat}
    (hraw : ∀ m, raw m < 2 ^ w) (us : List Nat) {z : Nat} (hz : z < 2 ^ w) : us.foldl (fun a m => g a (raw m)) z < 2 ^ w := by
  induction us generalizing z with
  | nil => exact hz
  | cons m us ih => exact ih (closed _ _ hz (hraw m))

theorem foldl_and_testBit (raw : Nat → Nat) (us : List Nat) (z i : Nat) :
    (us.foldl (fun a m => a &&& raw m) z).testBit i = (z.testBit i && us.all (fun m => (raw m).testBit i)) := by
  induction us generalizing z with
  | nil => simp
  | cons m us ih => rw [List.foldl_cons, ih, Nat.testBit_and, List.all_cons, Bool.and_assoc]

theorem foldl_or_testBit (raw : Nat → Nat) (us : List Nat) (z i : Nat) :
    (us.foldl (fun a m => a ||| raw m) z).testBit i = (z.testBit i || us.any (fun m => (raw m).testBit i)) := by
  induction us generalizing z with
  | nil => simp
  | cons m us ih => rw [List.foldl_cons, ih, Nat.testBit_or, List.any_cons, Bool.or_assoc]

theorem foldl_xor_testBit (raw : Nat → Nat) (us : List Nat) (z i : Nat) :
    (us.foldl (fun a m => a ^^^ raw m) z).testBit i =
      (z.testBit i ^^ decide ((us.filter (fun m => (raw m).testBit i)).length % 2 = 1)) := by
  induction us generalizing z with
  | nil => simp
  | cons m us ih =>
    rw [List.foldl_cons, ih, Nat.testBit_xor, List.filter_cons]
    cases (raw m).testBit i with
    | false => simp
    | true =>
      rw [if_pos rfl, List.length_cons, Bool.xor_assoc, Bool.true_xor]
      congr 1
      rw [← decide_not]
      exact decide_eq_decide.2 (by omega)

-- Integer reductions ------------------------------------------------------------------------------------------------------------

section
variable {x : Squad} {f : LaneForm} {e : Nat} {scan : Bool} {ls : List Nat}

/-- The format's bits of a lane. -/
def laneBits (x : Squad) (f : LaneForm) (e l : Nat) : Nat := (x.opnd f.va l false).toNat % 2 ^ efBits e

theorem laneBits_lt (x : Squad) (f : LaneForm) (e l : Nat) : laneBits x f e l < 2 ^ efBits e := Nat.mod_lt _ (Nat.two_pow_pos _)

theorem laneBits_testBit (x : Squad) (f : LaneForm) {e i : Nat} (h : i < efBits e) :
    (fun l => (laneBits x f e l).testBit i) = fun l => (x.opnd f.va l false).getLsbD i := by
  funext l
  rw [laneBits, Nat.testBit_mod_two_pow, decide_eq_true h, Bool.true_and]
  rfl

/-- What an integer reduction has of lane l, us being the lanes up to it. -/
def intOut (x : Squad) (f : LaneForm) (e : Nat) (us : List Nat) (l : Nat) : LaneRes :=
  match f.mod.arg.toNat % 8 with
  | 0 => x.fit f e (us.map (x.intA f e)).sum
  | 1 => intRes e (us.foldl (fun a m => min a (x.intA f e m)) (x.intA f e l))
  | 2 => intRes e (us.foldl (fun a m => max a (x.intA f e m)) (x.intA f e l))
  | 3 => intRes e (us.foldl (fun a m => a &&& laneBits x f e m) (laneBits x f e l) : Nat)
  | 4 => intRes e (us.foldl (fun a m => a ||| laneBits x f e m) 0 : Nat)
  | _ => intRes e (us.foldl (fun a m => a ^^^ laneBits x f e m) 0 : Nat)

theorem reduceOuts_int (lo : 1 ≤ e) (hi : e ≤ 6) (x : Squad) (f : LaneForm) (scan : Bool) (ls : List Nat) :
    reduceOuts x f e scan ls = ls.map (fun l => (l, intOut x f e (ls.filter (fun m => m ≤ l)) l)) := by
  have int : efInt e = true := by simp [efInt, lo, hi]
  exact if_pos int

/-- The bits of an integer reduction by AND, OR or XOR. -/
theorem intOut_bits (x : Squad) (f : LaneForm) (e : Nat) {us : List Nat} {l : Nat} (hl : l ∈ us) (lo : 3 ≤ f.mod.arg.toNat % 8)
    (hi : f.mod.arg.toNat % 8 ≤ 5) : (intOut x f e us l).flags = 0 ∧
    ∃ w : Nat, w < 2 ^ efBits e ∧ (intOut x f e us l).v = intWrite e w ∧ ∀ i, i < efBits e →
      let on := fun (k : Nat) => (x.opnd f.va k false).getLsbD i
      w.testBit i = (if f.mod.arg.toNat % 8 = 3 then us.all on else if f.mod.arg.toNat % 8 = 4 then us.any on
        else decide ((us.filter on).length % 2 = 1)) := by
  have zero : 0 < 2 ^ efBits e := Nat.two_pow_pos _
  obtain op | op | op : f.mod.arg.toNat % 8 = 3 ∨ f.mod.arg.toNat % 8 = 4 ∨ f.mod.arg.toNat % 8 = 5 := by omega
  · have value : intOut x f e us l =
        intRes e (us.foldl (fun a m => a &&& laneBits x f e m) (laneBits x f e l) : Nat) := by simp only [intOut, op]
    rw [value, op]
    refine ⟨rfl, us.foldl (fun a m => a &&& laneBits x f e m) (laneBits x f e l), foldl_lt (g := (· &&& ·))
      (fun a b ha _ => Nat.and_le_left.trans_lt ha) (laneBits_lt x f e) us (laneBits_lt x f e l), rfl, fun i hi => ?_⟩
    rw [foldl_and_testBit, congrFun (laneBits_testBit x f hi) l, laneBits_testBit x f hi]
    change _ = us.all (fun m => (x.opnd f.va m false).getLsbD i)
    have here : us.all (fun m => (x.opnd f.va m false).getLsbD i) = true → (x.opnd f.va l false).getLsbD i = true :=
      fun all => List.all_eq_true.1 all l hl
    revert here
    cases us.all (fun m => (x.opnd f.va m false).getLsbD i) <;> simp
  · have value : intOut x f e us l = intRes e (us.foldl (fun a m => a ||| laneBits x f e m) 0 : Nat) := by simp only [intOut, op]
    rw [value, op]
    refine ⟨rfl, us.foldl (fun a m => a ||| laneBits x f e m) 0, foldl_lt (g := (· ||| ·))
      (fun a b => Nat.or_lt_two_pow) (laneBits_lt x f e) us zero, rfl, fun i hi => ?_⟩
    rw [foldl_or_testBit, laneBits_testBit x f hi, Nat.zero_testBit, Bool.false_or]
    rfl
  · have value : intOut x f e us l = intRes e (us.foldl (fun a m => a ^^^ laneBits x f e m) 0 : Nat) := by simp only [intOut, op]
    rw [value, op]
    refine ⟨rfl, us.foldl (fun a m => a ^^^ laneBits x f e m) 0, foldl_lt (g := (· ^^^ ·))
      (fun a b => Nat.xor_lt_two_pow) (laneBits_lt x f e) us zero, rfl, fun i hi => ?_⟩
    rw [foldl_xor_testBit, laneBits_testBit x f hi, Nat.zero_testBit, Bool.false_xor]
    rfl

end

-- Running combinations ------------------------------------------------------------------------------------------------------------

theorem scanFold_map_fst (step : Nat → Nat → LaneRes) (ls : List Nat) (t : Nat) : (scanFold step ls t).map (·.1) = ls := by
  induction ls generalizing t with
  | nil => rfl
  | cons l rest ih => exact congrArg (l :: ·) (ih _)

/-- Each running value comes from the one before it and its own lane. -/
theorem scanFold_listAt (step : Nat → Nat → LaneRes) (a : Nat) (t : LaneRes) (rest : List Nat) {i : Nat} (hi : i < rest.length) :
    (listAt ((a, t) :: scanFold step rest t.v.toNat) (i + 1) (0, {})).2 =
      step (listAt ((a, t) :: scanFold step rest t.v.toNat) i (0, {})).2.v.toNat (listAt (a :: rest) (i + 1) 0) := by
  induction rest generalizing a t i with
  | nil => exact absurd hi (Nat.not_lt_zero i)
  | cons l rest ih =>
    cases i with
    | zero => rfl
    | succ j => exact ih l (step t.v.toNat l) (Nat.lt_of_succ_lt_succ hi)

end Sys2Proof.Machine
end

section
/-! Grouped floating sums (07 R165), and what VRED and VSCAN combine. -/

namespace Sys2Proof.Machine

-- Groups of four lanes ----------------------------------------------------------------------------------------------------------

/-- Lanes in ascending order are those of a group and then those of later groups. -/
theorem filter_groups {ls : List Nat} (sorted : ls.Pairwise (· < ·)) (g : Nat) (p : Nat → Bool) :
    ls.filter (fun l => decide (g ≤ l / 4) && p l) =
      ls.filter (fun l => decide (l / 4 = g) && p l) ++ ls.filter (fun l => decide (g + 1 ≤ l / 4) && p l) := by
  induction ls with
  | nil => rfl
  | cons a rest ih =>
    obtain ⟨first, sorted⟩ := List.pairwise_cons.1 sorted
    have split := ih sorted
    rcases lt_trichotomy (a / 4) g with before | here | after
    · simp [split, before.ne, not_le.2 before, show ¬ g < a / 4 by omega]
    · simp only [List.filter_cons, here, le_refl, decide_true, Bool.true_and, split, show ¬ g + 1 ≤ g by omega, decide_false, Bool.false_and,
        Bool.false_eq_true, if_false]
      split <;> rfl
    · -- No later lane lies in the group.
      have none_ : rest.filter (fun l => decide (l / 4 = g) && p l) = [] := by
        refine List.filter_eq_nil_iff.2 fun l hl => ?_
        have := first l hl
        simp only [show ¬ l / 4 = g by omega, decide_false, Bool.false_and, Bool.false_eq_true, not_false_eq_true]
      rw [none_, List.nil_append] at split
      simp only [List.filter_cons, split, none_, after.ne', decide_false, Bool.false_and, Bool.false_eq_true, if_false, List.nil_append,
        show g ≤ a / 4 from after.le, show g + 1 ≤ a / 4 from after, decide_true, Bool.true_and]

/-- The last of lanes in ascending order is the one with no later lane. -/
theorem drop_last_eq_filter {h : List Nat} (sorted : h.Pairwise (· < ·)) :
    h.drop (h.length - 1) = h.filter (fun l => !(h.any (fun k => decide (l < k)))) := by
  induction h with
  | nil => rfl
  | cons a rest ih =>
    obtain ⟨first, sorted⟩ := List.pairwise_cons.1 sorted
    cases rest with
    | nil => simp
    | cons b rest =>
      have notLast : (a :: b :: rest).any (fun k => decide (a < k)) = true :=
        List.any_eq_true.2 ⟨b, by simp, decide_eq_true (first b List.mem_cons_self)⟩
      have later : ∀ l ∈ b :: rest, (!((a :: b :: rest).any (fun k => decide (l < k)))) = !((b :: rest).any (fun k => decide (l < k))) := by
        intro l hl
        rw [List.any_cons, decide_eq_false (not_lt.2 (first l hl).le), Bool.false_or]
      rw [List.filter_cons, notLast, List.filter_congr later, ← ih sorted]
      simp

-- The grouped fold --------------------------------------------------------------------------------------------------------------

section
variable {f : FFmt} {mode : BitVec 2} {ftz scan : Bool} {val : Nat → FVal} {ls : List Nat}

/-- The running value that stands before a lane's group: what was written last, or t where nothing was. -/
def carried (f : FFmt) (t : List FVal) (before : List (Nat × LaneRes)) : List FVal :=
  match before.reverse with
  | [] => t
  | p :: _ => [f.read false p.2.v.toNat]

/-- What lane l of a group would be written, t standing before the group. -/
def groupOut (f : FFmt) (mode : BitVec 2) (ftz : Bool) (val : Nat → FVal) (t : List FVal) (here : List Nat) (l : Nat) : LaneRes :=
  f.sum mode ftz (t ++ (here.filter (fun m => m ≤ l)).map val)

/-- What is written of a group. -/
def groupWritten (f : FFmt) (mode : BitVec 2) (ftz scan : Bool) (val : Nat → FVal) (t : List FVal) (here : List Nat) : List (Nat × LaneRes) :=
  (if scan then here else here.drop (here.length - 1)).map (fun l => (l, groupOut f mode ftz val t here l))

theorem groupedFold_succ (f : FFmt) (mode : BitVec 2) (ftz scan : Bool) (val : Nat → FVal) (ls : List Nat) (n g : Nat) (t : List FVal) :
    groupedFold f mode ftz scan val ls (n + 1) g t =
      groupWritten f mode ftz scan val t (ls.filter (fun l => l / 4 = g)) ++
        groupedFold f mode ftz scan val ls n (g + 1) (carried f t (groupWritten f mode ftz scan val t (ls.filter (fun l => l / 4 = g)))) := by
  have last (here : List Nat) : carried f t (groupWritten f mode ftz scan val t here) =
      match here.reverse with | [] => t | l :: _ => [f.read false (groupOut f mode ftz val t here l).v.toNat] := by
    rcases List.eq_nil_or_concat here with rfl | ⟨init, l, rfl⟩
    · cases scan <;> rfl
    · cases scan <;> simp [carried, groupWritten]
  rw [last]
  rfl

theorem groupWritten_mem {t : List FVal} {here : List Nat} {o : Nat × LaneRes}
    (h : o ∈ groupWritten f mode ftz scan val t here) : o.1 ∈ here ∧ o.2 = groupOut f mode ftz val t here o.1 := by
  obtain ⟨l, hl, rfl⟩ := List.mem_map.1 h
  refine ⟨?_, rfl⟩
  cases scan with
  | true => exact hl
  | false => exact List.mem_of_mem_drop hl

theorem groupWritten_lanes {t : List FVal} {here : List Nat} (sorted : here.Pairwise (· < ·)) :
    (groupWritten f mode ftz scan val t here).map (·.1) =
      here.filter (fun l => scan || !(here.any (fun k => decide (l < k)))) := by
  unfold groupWritten
  rw [List.map_map]
  cases scan with
  | true => simp [Function.comp_def]
  | false =>
    rw [if_neg Bool.false_ne_true, drop_last_eq_filter sorted]
    simp [Function.comp_def]

theorem mem_group {g l : Nat} (h : l ∈ ls.filter (fun l => decide (l / 4 = g))) : l / 4 = g :=
  of_decide_eq_true (List.mem_filter.1 h).2

/-- Every lane that the grouped fold writes lies in one of its groups. -/
theorem groupedFold_group {n g : Nat} {t : List FVal} {o : Nat × LaneRes} (h : o ∈ groupedFold f mode ftz scan val ls n g t) :
    g ≤ o.1 / 4 := by
  induction n generalizing g t with
  | zero => exact absurd h List.not_mem_nil
  | succ n ih =>
    rw [groupedFold_succ, List.mem_append] at h
    rcases h with here | later
    · exact (mem_group (groupWritten_mem here).1).ge
    · exact (Nat.le_succ g).trans (ih later)

/-- What comes before is what was written last. -/
theorem carried_append (f : FFmt) (t : List FVal) (before after : List (Nat × LaneRes)) :
    carried f t (before ++ after) = carried f (carried f t before) after := by
  unfold carried
  rw [List.reverse_append]
  cases after.reverse <;> rfl

/-- Each lane written: the sum of the running value before its group and of the group's lanes up to it. -/
theorem groupedFold_value {n g : Nat} {t : List FVal} {o : Nat × LaneRes} (h : o ∈ groupedFold f mode ftz scan val ls n g t) :
    o.2 = groupOut f mode ftz val
      (carried f t ((groupedFold f mode ftz scan val ls n g t).filter (fun p => decide (p.1 / 4 < o.1 / 4))))
      (ls.filter (fun l => decide (l / 4 = o.1 / 4))) o.1 := by
  induction n generalizing g t with
  | zero => exact absurd h List.not_mem_nil
  | succ n ih =>
    rw [groupedFold_succ, List.mem_append] at h
    rw [groupedFold_succ, List.filter_append]
    rcases h with here | later
    · -- Nothing of this group or of a later one comes before.
      obtain ⟨lane, value⟩ := groupWritten_mem here
      have group := mem_group lane
      rw [List.filter_eq_nil_iff.2 fun p hp => by simp [mem_group (groupWritten_mem hp).1, group],
        List.filter_eq_nil_iff.2 fun p hp => by have := groupedFold_group hp; simp only [decide_eq_true_eq]; omega, value, group]
      rfl
    · have after := groupedFold_group later
      rw [List.filter_eq_self.2 fun p hp => by
        have := mem_group (groupWritten_mem hp).1
        exact decide_eq_true (by omega), carried_append]
      exact ih later

/-- The lanes written: those of the groups, or the last active lane of each. -/
theorem groupedFold_lanes (sorted : ls.Pairwise (· < ·)) (n g : Nat) (t : List FVal) :
    (groupedFold f mode ftz scan val ls n g t).map (·.1) = ls.filter (fun l => decide (g ≤ l / 4) && (decide (l / 4 < g + n) &&
      (scan || !(ls.any (fun k => decide (l < k) && decide (k / 4 = l / 4)))))) := by
  induction n generalizing g t with
  | zero =>
    symm
    refine List.filter_eq_nil_iff.2 fun l _ => ?_
    by_cases h : g ≤ l / 4 <;> simp [h]
  | succ n ih =>
    rw [groupedFold_succ, List.map_append, ih, groupWritten_lanes (sorted.filter _), filter_groups sorted g, List.filter_filter]
    congr 1
    · refine List.filter_congr fun l _ => ?_
      by_cases here : l / 4 = g
      · have any : (ls.filter (fun l => decide (l / 4 = g))).any (fun k => decide (l < k)) =
            ls.any (fun k => decide (l < k) && decide (k / 4 = l / 4)) := by
          rw [List.any_filter, here]
          simp only [Bool.and_comm]
        simp [here, any]
      · simp [here]
    · refine List.filter_congr fun l _ => ?_
      rw [show g + 1 + n = g + (n + 1) by ring]

end

-- VRED and VSCAN ----------------------------------------------------------------------------------------------------------------

section
variable {x : Squad} {f : LaneForm} {e : Nat}

/-- The first running value of a floating reduction that is not grouped. -/
def firstOut (x : Squad) (f : LaneForm) (e a : Nat) : LaneRes :=
  match x.fval f.va e a with
  | .snan => ⟨(ffmt e).nanOf, flagNV⟩
  | .qnan => ⟨(ffmt e).nanOf, 0⟩
  | _ => ⟨BitVec.ofNat 64 ((ffmt e).flushBits x.ftz (x.fbits f.va e a)), 0⟩

/-- The step of a floating reduction that is not grouped. -/
def nextOut (x : Squad) (f : LaneForm) (e t l : Nat) : LaneRes :=
  if f.mod.arg.toNat % 8 = 0 then (ffmt e).sum (x.mode f) x.ftz [(ffmt e).read false t, x.fval f.va e l]
  else (ffmt e).minMax (f.mod.arg.toNat % 8 = 2) x.ftz t (x.fbits f.va e l)

theorem minMax_self (x : Squad) (f : LaneForm) (e a : Nat) (max : Bool) :
    (ffmt e).minMax max x.ftz (x.fbits f.va e a) (x.fbits f.va e a) = firstOut x f e a := by
  have read : x.fval f.va e a = (ffmt e).read x.ftz (x.fbits f.va e a) := rfl
  unfold firstOut
  cases h : x.fval f.va e a with
  | snan => exact minMax_snan _ max _ (.inl (read ▸ h))
  | qnan => exact minMax_qnans _ max _ (read ▸ h) (read ▸ h)
  | num | inf =>
    have notNan : ((ffmt e).read x.ftz (x.fbits f.va e a)).isNan = false := by rw [← read, h]; rfl
    rw [minMax_num _ max _ notNan notNan, ite_self]

theorem not_efInt (lo : 7 ≤ e) : ¬ efInt e = true := by
  simp [efInt]
  omega

/-- A floating reduction that is not grouped. -/
theorem reduceOuts_running (lo : 7 ≤ e) (x : Squad) (f : LaneForm) (scan : Bool) (ordered : f.mod.arg.toNat % 8 = 0 → fmtACC x.fmt = false)
    (a : Nat) (rest : List Nat) : reduceOuts x f e scan (a :: rest) =
      (a, firstOut x f e a) :: scanFold (nextOut x f e) rest (firstOut x f e a).v.toNat := by
  unfold reduceOuts
  simp only [if_neg (not_efInt lo)]
  by_cases sum : f.mod.arg.toNat % 8 = 0
  · have step : nextOut x f e = fun t l => (ffmt e).sum (x.mode f) x.ftz [(ffmt e).read false t, x.fval f.va e l] := by
      funext t l
      exact if_pos sum
    have first : firstOut x f e a = (match x.fval f.va e a with
        | .qnan => ⟨BitVec.ofNat 64 (ffmt e).nan, 0⟩
        | .snan => (ffmt e).invalid
        | _ => bits (BitVec.ofNat 64 ((ffmt e).flushBits x.ftz (x.fbits f.va e a)))) := by
      unfold firstOut
      cases x.fval f.va e a <;> rfl
    rw [if_pos sum, ordered sum, first, step]
    rfl
  · have step : nextOut x f e = fun t l => (ffmt e).minMax (f.mod.arg.toNat % 8 = 2) x.ftz t (x.fbits f.va e l) := by
      funext t l
      exact if_neg sum
    rw [if_neg sum, minMax_self, step]

/-- A grouped floating sum. -/
theorem reduceOuts_grouped (lo : 7 ≤ e) (x : Squad) (f : LaneForm) (scan : Bool) (sum : f.mod.arg.toNat % 8 = 0) (grouped : fmtACC x.fmt = true)
    (ls : List Nat) : reduceOuts x f e scan ls = groupedFold (ffmt e) (x.mode f) x.ftz scan (x.fval f.va e) ls 8 0 [] := by
  unfold reduceOuts
  simp only [if_neg (not_efInt lo), sum, grouped, if_true]
  cases ls with
  | nil =>
    have none_ (n g : Nat) (t : List FVal) : groupedFold (ffmt e) (x.mode f) x.ftz scan (x.fval f.va e) [] n g t = [] := by
      refine List.eq_nil_of_map_eq_nil (f := (·.1)) ?_
      rw [groupedFold_lanes List.Pairwise.nil]
      rfl
    exact (none_ 8 0 []).symm
  | cons a rest => rfl

/-- 07 R165, R166. -/
theorem numberReductions : NumberReductions := by
  intro x f e scan ls sorted few outs op upTo
  refine ⟨fun lo hi => ?_, fun lo hi => ⟨fun hop ordered => ?_, fun sum grouped => ?_⟩⟩
  · have eq : outs = ls.map (fun l => (l, intOut x f e (upTo l) l)) := reduceOuts_int lo hi x f scan ls
    rw [eq]
    refine ⟨by simp [Function.comp_def], fun o ho => ?_⟩
    obtain ⟨l, hl, rfl⟩ := List.mem_map.1 ho
    have mem : l ∈ upTo l := List.mem_filter.2 ⟨hl, decide_eq_true le_rfl⟩
    refine ⟨fun h => ?_, fun h => ?_, fun h => ?_, intOut_bits x f e mem⟩
    · simp only [intOut, show f.mod.arg.toNat % 8 = 0 from h]
    · obtain ⟨k, hk, least, all⟩ := foldl_min (x.intA f e) mem
      refine ⟨k, hk, ?_, all⟩
      simp only [intOut, show f.mod.arg.toNat % 8 = 1 from h, least]
      rfl
    · obtain ⟨k, hk, greatest, all⟩ := foldl_max (x.intA f e) mem
      refine ⟨k, hk, ?_, all⟩
      simp only [intOut, show f.mod.arg.toNat % 8 = 2 from h, greatest]
      rfl
  · cases ls with
    | nil =>
      have eq : outs = [] := if_neg (not_efInt lo)
      rw [eq]
      exact ⟨rfl, fun i hi => absurd hi (Nat.not_lt_zero _), fun a rest h => absurd h.symm (List.cons_ne_nil a rest)⟩
    | cons a rest =>
      have eq : outs = _ := reduceOuts_running lo x f scan ordered a rest
      rw [eq]
      refine ⟨congrArg (a :: ·) (scanFold_map_fst _ rest _), fun i hi => ?_, fun b tail h => ?_⟩
      · exact scanFold_listAt (nextOut x f e) a (firstOut x f e a) rest (Nat.lt_of_succ_lt_succ hi)
      · obtain ⟨rfl, rfl⟩ := List.cons.inj h
        rfl
  · have eq : outs = _ := reduceOuts_grouped lo x f scan sum grouped ls
    refine ⟨?_, fun o ho => ?_⟩
    · rw [eq, groupedFold_lanes sorted]
      refine List.filter_congr fun l hl => ?_
      have := few l hl
      rw [decide_eq_true (Nat.zero_le _), decide_eq_true (show l / 4 < 0 + 8 by omega), Bool.true_and, Bool.true_and]
    · rw [eq] at ho
      have value := groupedFold_value ho
      rw [← eq] at value
      rw [value]
      have lanes : (ls.filter (fun l => decide (l / 4 = o.1 / 4))).filter (fun m => decide (m ≤ o.1)) =
          (upTo o.1).filter (fun k => decide (k / 4 = o.1 / 4)) := List.filter_comm _ _ _
      unfold groupOut
      rw [lanes]
      rfl

end

end Sys2Proof.Machine
end

section
/-! Powers of two and logarithms (07 R160): the fixed-point fractions that are rounded lie where R160's exact results lie. -/

namespace Sys2Proof.Machine

variable {f : FFmt} {mode : BitVec 2} {ftz : Bool}

-- The fixed-point fractions -------------------------------------------------------------------------------------------------

/-- Terms of the exponential series after the first at most halve. -/
theorem expSum_le {t : Nat} (ht : t ≤ 2 ^ fixBits) (n j term : Nat) : expSum n (j + 1) t term ≤ 2 * term := by
  induction n generalizing j term with
  | zero => exact Nat.le_mul_of_pos_left _ two_pos
  | succ n ih =>
    have next : term * t / 2 ^ fixBits / (j + 1 + 1) ≤ term / 2 := by
      calc term * t / 2 ^ fixBits / (j + 1 + 1) ≤ term / (j + 1 + 1) :=
            Nat.div_le_div_right (Nat.div_le_of_le_mul (by rw [mul_comm]; exact Nat.mul_le_mul_right _ ht))
        _ ≤ term / 2 := Nat.div_le_div_left (by omega) two_pos
    have rest := ih (j + 1) (term * t / 2 ^ fixBits / (j + 1 + 1))
    rw [expSum]
    omega

/-- The fraction of a power of two lies between one and three. -/
theorem expSum_bounds {t : Nat} (ht : t ≤ 2 ^ fixBits) (n : Nat) :
    2 ^ fixBits ≤ expSum (n + 1) 0 t (2 ^ fixBits) ∧ expSum (n + 1) 0 t (2 ^ fixBits) ≤ 3 * 2 ^ fixBits := by
  have next : 2 ^ fixBits * t / 2 ^ fixBits / (0 + 1) ≤ 2 ^ fixBits := by
    rw [Nat.zero_add, Nat.div_one, Nat.mul_div_cancel_left _ (Nat.two_pow_pos _)]
    exact ht
  have rest := expSum_le ht n 0 (2 ^ fixBits * t / 2 ^ fixBits / (0 + 1))
  rw [expSum]
  omega

theorem atanhSum_mono {z z' zz zz' : Nat} (hz : z ≤ z') (hzz : zz ≤ zz') (n j : Nat) : atanhSum n j z zz ≤ atanhSum n j z' zz' := by
  induction n generalizing j z z' with
  | zero => exact le_rfl
  | succ n ih =>
    exact Nat.add_le_add (Nat.div_le_div_right hz) (ih (Nat.div_le_div_right (Nat.mul_le_mul hz hzz)) (j + 1))

/-- A greater argument's logarithm is greater by twice the difference at least. -/
theorem lnRatio_mono {z d z' : Nat} (h : z + d ≤ z') : lnRatio z + 2 * d ≤ lnRatio z' := by
  have le : z ≤ z' := (Nat.le_add_right z d).trans h
  have squares : z * z / 2 ^ fixBits ≤ z' * z' / 2 ^ fixBits := Nat.div_le_div_right (Nat.mul_le_mul le le)
  have rest := atanhSum_mono (Nat.div_le_div_right (c := 2 ^ fixBits) (Nat.mul_le_mul le squares)) squares 89 1
  have first (y : Nat) : atanhSum 90 0 y (y * y / 2 ^ fixBits) =
      y + atanhSum 89 1 (y * (y * y / 2 ^ fixBits) / 2 ^ fixBits) (y * y / 2 ^ fixBits) := by
    change y / 1 + _ = _
    rw [Nat.div_one]
  unfold lnRatio
  rw [first, first]
  omega

theorem lnTwo_lt : lnTwo < 2 ^ fixBits := by decide

theorem lnTwo_pos : 0 < lnTwo := by decide

/-- The argument of the logarithm of (1 + u / 2^l): neither near zero nor near a third. -/
theorem ratio_bounds {l u : Nat} (hl : l < 64) (pos : 0 < u) (less : u < 2 ^ l) :
    2 ^ 184 ≤ u * 2 ^ fixBits / (2 ^ l + u + 2 ^ l) ∧ u * 2 ^ fixBits / (2 ^ l + u + 2 ^ l) + 2 ^ 184 ≤ 2 ^ fixBits / 3 := by
  have few : 2 ^ l ≤ 2 ^ 63 := Nat.pow_le_pow_right two_pos (by omega)
  have denominator : 0 < 2 ^ l + u + 2 ^ l := by omega
  generalize 2 ^ l = A at *
  have wide : (2 : Nat) ^ fixBits = 2 ^ 192 * 2 ^ 64 := by decide
  constructor
  · rw [Nat.le_div_iff_mul_le denominator, wide]
    nlinarith
  · rw [Nat.le_div_iff_mul_le three_pos]
    have quotient := Nat.div_mul_le_self (u * 2 ^ fixBits) (A + u + A)
    generalize u * 2 ^ fixBits / (A + u + A) = z at *
    refine Nat.le_of_mul_le_mul_right ?_ denominator
    rw [wide] at *
    obtain ⟨v, rfl⟩ : ∃ v, A = u + 1 + v := ⟨A - u - 1, by omega⟩
    nlinarith

/-- The fraction of a logarithm that is no integer lies inside its unit, and not near an end. -/
theorem log_fraction_bounds {l u : Nat} (hl : l < 64) (pos : 0 < u) (less : u < 2 ^ l) :
    let Q := lnRatio (u * 2 ^ fixBits / (2 ^ l + u + 2 ^ l)) * 2 ^ fixBits / lnTwo
    2 ^ 184 ≤ Q ∧ Q + 2 ^ 184 ≤ 2 ^ fixBits := by
  obtain ⟨low, high⟩ := ratio_bounds hl pos less
  obtain ⟨z, hz⟩ : ∃ z, u * 2 ^ fixBits / (2 ^ l + u + 2 ^ l) = z := ⟨_, rfl⟩
  rw [hz] at low high ⊢
  have above : lnRatio 0 + 2 * 2 ^ 184 ≤ lnRatio z := lnRatio_mono (by omega)
  have below : lnRatio z + 2 * 2 ^ 184 ≤ lnTwo := lnRatio_mono high
  have scale := lnTwo_lt
  have positive := lnTwo_pos
  intro Q
  have product := Nat.div_mul_le_self (lnRatio z * 2 ^ fixBits) lnTwo
  change Q * lnTwo ≤ _ at product
  constructor
  · rw [Nat.le_div_iff_mul_le positive]
    exact Nat.mul_le_mul ((Nat.le_mul_of_pos_left _ two_pos).trans ((Nat.le_add_left _ _).trans above)) scale.le
  · refine Nat.le_of_mul_le_mul_right ?_ positive
    generalize lnTwo = T at *
    generalize (2 : Nat) ^ fixBits = F at *
    generalize lnRatio z = R at *
    generalize (2 : Nat) ^ 184 = K at *
    nlinarith

end Sys2Proof.Machine
end

section
/-! Powers of two and logarithms (07 R160): VFEXP2 and VFLOG2 round once, and an inexact result lies where the exact one does. -/

namespace Sys2Proof.Machine

variable {f : FFmt} {mode : BitVec 2} {ftz : Bool} {s : Bool} {m : Nat} {e : Int}

/-- A magnitude at least as fine as the fixed point has more bits than any format. -/
theorem fine_of_le {S : Nat} (std : f.Standard) (large : 2 ^ 184 ≤ S) : 2 ^ (f.p + 2) ≤ S :=
  (Nat.pow_le_pow_right two_pos (by have := std.fraction_le; omega)).trans large

-- Powers of two -------------------------------------------------------------------------------------------------------------

theorem round_power (std : f.Standard) (mode : BitVec 2) (ftz : Bool) (i : Int) :
    f.Rounded mode ftz ((2 : ℝ) ^ i) (f.round mode ftz false 1 i) := by
  simpa using round_rounded std mode ftz false one_ne_zero i

/-- A fraction from one to three, times a power of two. -/
theorem round_fraction (std : f.Standard) (mode : BitVec 2) (ftz : Bool) {S : Nat} (i : Int) (low : 2 ^ fixBits ≤ S)
    (high : S ≤ 3 * 2 ^ fixBits) :
    let r := f.round mode ftz false (sticky S true) (i - fixBits - 1)
    r.flags.getLsbD 0 = true ∧ ∃ y : ℝ, (2 : ℝ) ^ i < y ∧ y < (2 : ℝ) ^ (i + 2) ∧ f.Rounded mode ftz y r := by
  obtain ⟨rounded, inexact⟩ := round_sticky_inexact std mode ftz false (i - fixBits - 1)
    (fine_of_le std ((Nat.pow_le_pow_right two_pos (by decide)).trans low))
  refine ⟨inexact, _, ?_, ?_, rounded⟩
  all_goals
    have split : (2 : ℝ) ^ i = ((2 * 2 ^ fixBits : Nat) : ℝ) * 2 ^ (i - fixBits - 1) := by
      rw [← pow_succ', Nat.cast_pow, Nat.cast_ofNat, ← zpow_natCast, ← zpow_add₀ two_ne_zero]
      congr 1
      push_cast
      ring
    have unit : (0 : ℝ) < 2 ^ (i - (fixBits : Int) - 1) := zpow_pos two_pos _
    have pos := Nat.two_pow_pos fixBits
  · rw [split]
    simp only [Bool.false_eq_true, if_false, one_mul]
    exact mul_lt_mul_of_pos_right (by exact_mod_cast (by omega : 2 * 2 ^ fixBits < 2 * S + 1)) unit
  · rw [zpow_add₀ two_ne_zero, split, mul_right_comm]
    simp only [Bool.false_eq_true, if_false, one_mul]
    refine mul_lt_mul_of_pos_right ?_ unit
    have : 2 * S + 1 < 2 * 2 ^ fixBits * 4 := by omega
    calc ((2 * S + 1 : Nat) : ℝ) < ((2 * 2 ^ fixBits * 4 : Nat) : ℝ) := by exact_mod_cast this
      _ = ((2 * 2 ^ fixBits : Nat) : ℝ) * 2 ^ (2 : Int) := by push_cast; norm_num

/-- The argument of a power of two is its floor and a fraction below one. -/
theorem rat_eq_floor_add (s : Bool) (m : Nat) (e : Int) :
    let d := (-(min e 0)).toNat; let x := FVal.scaled (.num s m e) (min e 0)
    (FVal.num s m e).rat = ((x / 2 ^ d : Int) : ℚ) + ((x % 2 ^ d).toNat : ℚ) / 2 ^ d ∧ (x % 2 ^ d).toNat < 2 ^ d := by
  intro d x
  have scaled : (x : ℚ) * 2 ^ (min e 0) = (FVal.num s m e).rat :=
    scaled_mul rfl fun _ _ _ same => by cases same; exact min_le_left _ _
  have lowest : (2 : ℚ) ^ (min e 0) = (2 ^ d)⁻¹ := by
    rw [← zpow_natCast, ← zpow_neg]
    congr 1
    omega
  have unit : (0 : Int) < 2 ^ d := by positivity
  have part := Int.emod_nonneg x unit.ne'
  have below := Int.emod_lt_of_pos x unit
  have divided : ((2 ^ d * (x / 2 ^ d) + (x % 2 ^ d).toNat : Int) : ℚ) = x := by
    rw [Int.toNat_of_nonneg part, Int.mul_ediv_add_emod]
  push_cast at divided
  constructor
  · rw [← scaled, ← divided, lowest]
    field_simp
  · zify
    rwa [Int.toNat_of_nonneg part]

/-- The magnitudes from 4,096 on are told by the place of the leading bit. -/
theorem large_iff (hm : m ≠ 0) : 12 ≤ (Nat.log2 m : Int) + e ↔ 4096 ≤ |(FVal.num s m e).rat| := by
  have real : 4096 ≤ |(FVal.num s m e).rat| ↔ (2 : ℝ) ^ (12 : Int) ≤ m * 2 ^ e := by
    rw [← Rat.cast_le (K := ℝ), Rat.cast_abs, rat_num, abs_signed s (magnitude_pos hm e)]
    norm_num
  obtain ⟨low, high⟩ := magnitude_bounds hm e
  rw [real]
  constructor
  · exact fun large => (two_zpow_le.2 large).trans low
  · intro large
    have := two_zpow_lt.1 (large.trans_lt high)
    omega

theorem rat_neg_iff (hm : m ≠ 0) : (FVal.num s m e).rat < 0 ↔ s = true := by
  rw [← Rat.cast_lt_zero (K := ℝ), rat_num, ← sign_iff (magnitude_pos hm e)]

theorem exp2_large (f : FFmt) (mode : BitVec 2) (ftz : Bool) (hm : m ≠ 0) (large : 12 ≤ (Nat.log2 m : Int) + e) :
    f.exp2 mode ftz (.num s m e) = f.round mode ftz false 1 (if s then -4096 else 4096) := by
  simp only [FFmt.exp2, if_neg hm, if_pos large]

/-- The arms of FFmt.exp2 below the large magnitudes, by the argument's floor and fraction. -/
theorem exp2_small (f : FFmt) (mode : BitVec 2) (ftz : Bool) (hm : m ≠ 0) (small : ¬12 ≤ (Nat.log2 m : Int) + e) :
    let d := (-(min e 0)).toNat; let x := FVal.scaled (.num s m e) (min e 0); let i := x / 2 ^ d; let r := (x % 2 ^ d).toNat
    f.exp2 mode ftz (.num s m e) = if r = 0 then f.round mode ftz false 1 i
      else f.round mode ftz false (sticky (expSum 80 0 (r * lnTwo / 2 ^ d) (2 ^ fixBits)) true) (i - fixBits - 1) := by
  simp only [FFmt.exp2, if_neg hm, if_neg small]

/-- 07 R160: VFEXP2 below the magnitude 4,096. -/
theorem exp2_small_spec (std : f.Standard) (mode : BitVec 2) (ftz : Bool) (hm : m ≠ 0) (small : ¬12 ≤ (Nat.log2 m : Int) + e) :
    let x := (FVal.num s m e).rat; let r := f.exp2 mode ftz (.num s m e)
    (∀ n : Int, x = n → f.Rounded mode ftz ((2 : ℝ) ^ n) r) ∧
    ((∀ n : Int, x ≠ n) → r.flags.getLsbD 0 = true ∧
      ∃ y : ℝ, (2 : ℝ) ^ ⌊x⌋ < y ∧ y < (2 : ℝ) ^ (⌊x⌋ + 2) ∧ f.Rounded mode ftz y r) := by
  intro x r
  obtain ⟨argument, below⟩ := rat_eq_floor_add s m e
  have arms : r = _ := exp2_small f mode ftz hm small
  rw [arms]
  change x = _ at argument
  generalize (-(min e 0)).toNat = d at *
  generalize FVal.scaled (.num s m e) (min e 0) = u at *
  generalize (u % 2 ^ d).toNat = part at *
  generalize u / 2 ^ d = i at *
  have unit : (0 : ℚ) < 2 ^ d := by positivity
  have less : (part : ℚ) / 2 ^ d < 1 := (div_lt_one unit).2 (by exact_mod_cast below)
  have floor : ⌊x⌋ = i := by
    rw [argument, Int.floor_intCast_add, add_eq_left, Int.floor_eq_zero_iff]
    exact ⟨by positivity, less⟩
  by_cases whole : part = 0
  · rw [if_pos whole]
    have integer : x = i := by rw [argument, whole]; simp
    refine ⟨fun n same => ?_, fun none_ => absurd integer (none_ i)⟩
    rw [← Int.cast_injective (α := ℚ) (integer.symm.trans same)]
    exact round_power std mode ftz i
  · rw [if_neg whole, floor]
    refine ⟨fun n same => absurd ?_ whole, fun _ => ?_⟩
    · rw [same, Int.floor_intCast] at floor
      rw [same, floor, left_eq_add, div_eq_zero_iff, or_iff_left unit.ne'] at argument
      exact_mod_cast argument
    · have scale : part * lnTwo / 2 ^ d ≤ 2 ^ fixBits := by
        refine (Nat.div_le_of_le_mul ?_).trans lnTwo_lt.le
        exact Nat.mul_le_mul_right _ below.le
      obtain ⟨low, high⟩ := expSum_bounds scale 79
      exact round_fraction std mode ftz i low high

/-- 07 R160: VFEXP2 of a finite datum. -/
theorem exp2_spec (std : f.Standard) (mode : BitVec 2) (ftz : Bool) (s : Bool) (m : Nat) (e : Int) :
    let x := (FVal.num s m e).rat; let r := f.exp2 mode ftz (.num s m e)
    (|x| < 4096 → ∀ n : Int, x = n → f.Rounded mode ftz ((2 : ℝ) ^ n) r) ∧
    (|x| < 4096 → (∀ n : Int, x ≠ n) → r.flags.getLsbD 0 = true ∧
      ∃ y : ℝ, (2 : ℝ) ^ ⌊x⌋ < y ∧ y < (2 : ℝ) ^ (⌊x⌋ + 2) ∧ f.Rounded mode ftz y r) ∧
    (4096 ≤ |x| → f.Rounded mode ftz ((2 : ℝ) ^ (if x < 0 then (-4096 : Int) else 4096)) r) := by
  intro x r
  by_cases hm : m = 0
  · have zero : x = 0 := rat_num_eq_zero.2 hm
    have one : r = f.round mode ftz false 1 0 := by
      change f.exp2 mode ftz _ = _
      simp only [FFmt.exp2, if_pos hm]
    rw [zero, one]
    refine ⟨fun _ n same => ?_, fun _ none_ => absurd Int.cast_zero.symm (none_ 0), fun large => ?_⟩
    · rw [Int.cast_eq_zero.1 same.symm]
      exact round_power std mode ftz 0
    · norm_num at large
  by_cases large : 12 ≤ (Nat.log2 m : Int) + e
  · have reached : 4096 ≤ |x| := (large_iff hm).1 large
    refine ⟨fun less => absurd reached less.not_ge, fun less => absurd reached less.not_ge, fun _ => ?_⟩
    rw [if_congr (rat_neg_iff hm) rfl rfl, show r = _ from exp2_large f mode ftz hm large]
    exact round_power std mode ftz _
  · obtain ⟨whole, broken⟩ := exp2_small_spec (s := s) std mode ftz hm large
    exact ⟨fun _ => whole, fun _ => broken, fun reached => absurd ((large_iff hm).2 reached) large⟩

-- Logarithms ----------------------------------------------------------------------------------------------------------------

/-- The arms of FFmt.log2 for a datum above zero, by its leading bit's place. -/
theorem log2_pos (f : FFmt) (mode : BitVec 2) (ftz : Bool) (hm : m ≠ 0) (e : Int) :
    let l := Nat.log2 m; let E := (l : Int) + e
    f.log2 mode ftz (.num false m e) = if m = 2 ^ l then f.round mode ftz (E < 0) E.natAbs 0
      else
        let t : Int := E * 2 ^ fixBits + (lnRatio ((m - 2 ^ l) * 2 ^ fixBits / (m + 2 ^ l)) * 2 ^ fixBits / lnTwo : Nat)
        f.round mode ftz (t < 0) (sticky t.natAbs true) (-(fixBits : Int) - 1) := by
  simp only [FFmt.log2, if_neg hm, Bool.false_eq_true, if_false]

theorem round_int (std : f.Standard) (mode : BitVec 2) (ftz : Bool) {n : Int} (hn : n ≠ 0) :
    f.Rounded mode ftz (n : ℝ) (f.round mode ftz (n < 0) n.natAbs 0) := by
  have rounded := ofVal_rounded std mode ftz (decide (n < 0)) (Int.natAbs_ne_zero.2 hn) 0
  rw [rat_of_int, zpow_zero, mul_one, Rat.cast_intCast] at rounded
  exact rounded

/-- An integer and a fraction of F, with the bit for the rest below them, lie inside the unit above the integer. -/
theorem signed_between {E F Q : Int} (low : 1 ≤ Q) (high : Q + 1 ≤ F) :
    let t := E * F + Q; let v : Int := (if t < 0 then -1 else 1) * (2 * t.natAbs + 1 : Nat)
    E * (2 * F) < v ∧ v < (E + 1) * (2 * F) := by
  intro t v
  have value : v = 2 * t + 1 ∨ v = 2 * t - 1 := by
    change (if t < 0 then -1 else 1) * ((2 * t.natAbs + 1 : Nat) : Int) = 2 * t + 1 ∨
      (if t < 0 then -1 else 1) * ((2 * t.natAbs + 1 : Nat) : Int) = 2 * t - 1
    by_cases neg : t < 0
    · rw [if_pos neg]; omega
    · rw [if_neg neg]; omega
  have twice : E * (2 * F) = 2 * (E * F) := by ring
  have next : (E + 1) * (2 * F) = 2 * (E * F) + 2 * F := by ring
  have sum : t = E * F + Q := rfl
  clear_value v t
  omega

/-- Away from its ends a unit's numbers are not near zero. -/
theorem natAbs_large {E F : Int} {Q K : Nat} (low : K ≤ Q) (high : (Q + K : Nat) ≤ F) : K ≤ (E * F + Q).natAbs := by
  rcases lt_or_ge E 0 with neg | nonneg
  · have : E * F ≤ -1 * F := Int.mul_le_mul_of_nonneg_right (by omega) (by omega)
    omega
  · have : 0 ≤ E * F := mul_nonneg nonneg (by omega)
    omega

/-- A logarithm that is no integer, rounded, lies between the two integers next to it. -/
theorem round_log (std : f.Standard) (mode : BitVec 2) (ftz : Bool) (E : Int) {Q : Nat} (low : 2 ^ 184 ≤ Q)
    (high : Q + 2 ^ 184 ≤ 2 ^ fixBits) :
    let t : Int := E * 2 ^ fixBits + Q; let r := f.round mode ftz (t < 0) (sticky t.natAbs true) (-(fixBits : Int) - 1)
    r.flags.getLsbD 0 = true ∧ ∃ y : ℝ, E < y ∧ y < E + 1 ∧ f.Rounded mode ftz y r := by
  intro t
  have large : 2 ^ 184 ≤ t.natAbs := natAbs_large low (by exact_mod_cast high)
  obtain ⟨rounded, inexact⟩ := round_sticky_inexact std mode ftz (decide (t < 0)) (-(fixBits : Int) - 1) (fine_of_le std large)
  have one := Nat.two_pow_pos 184
  obtain ⟨above, below⟩ := signed_between (E := E) (F := 2 ^ fixBits) (Q := Q) (by exact_mod_cast one.trans_le low)
    (by exact_mod_cast (Nat.add_le_add_left one Q).trans high)
  obtain ⟨v, signed⟩ : ∃ v : Int, (if t < 0 then -1 else 1) * ((2 * t.natAbs + 1 : Nat) : Int) = v := ⟨_, rfl⟩
  rw [signed] at above below
  refine ⟨inexact, _, ?_, ?_, rounded⟩
  all_goals
    have unit : (0 : ℝ) < 2 * 2 ^ fixBits := by positivity
    have scale : (2 : ℝ) ^ (-(fixBits : Int) - 1) = (2 * 2 ^ fixBits)⁻¹ := by
      rw [zpow_sub_one₀ two_ne_zero, zpow_neg, zpow_natCast, mul_inv, mul_comm]
    have cast : (if decide (t < 0) = true then (-1 : ℝ) else 1) = ((if t < 0 then -1 else 1 : Int) : ℝ) := by
      by_cases neg : t < 0 <;> simp [neg]
    rw [scale, cast, ← mul_assoc, ← div_eq_mul_inv, ← Int.cast_natCast (2 * t.natAbs + 1), ← Int.cast_mul, signed]
  · rw [lt_div_iff₀ unit]
    exact_mod_cast above
  · rw [div_lt_iff₀ unit]
    exact_mod_cast below

/-- A number above zero that is no power of two lies between two of them. -/
theorem rat_between (hm : m ≠ 0) (notPower : m ≠ 2 ^ Nat.log2 m) (e : Int) :
    (2 : ℚ) ^ ((Nat.log2 m : Int) + e) < (FVal.num false m e).rat ∧
    (FVal.num false m e).rat < (2 : ℚ) ^ ((Nat.log2 m : Int) + e + 1) := by
  have unit : (0 : ℚ) < 2 ^ e := zpow_pos two_pos _
  have value : (FVal.num false m e).rat = m * 2 ^ e := by simp [FVal.rat]
  rw [value, add_right_comm, zpow_add₀ two_ne_zero, zpow_add₀ two_ne_zero, ← Nat.cast_succ, zpow_natCast, zpow_natCast]
  exact ⟨mul_lt_mul_of_pos_right (by exact_mod_cast lt_of_le_of_ne (Nat.log2_self_le hm) notPower.symm) unit,
    mul_lt_mul_of_pos_right (by exact_mod_cast Nat.lt_log2_self) unit⟩

/-- 07 R160: VFLOG2 of a datum above zero. -/
theorem log2_spec (std : f.Standard) (mode : BitVec 2) (ftz : Bool) (hm : 0 < m) (wide : m < 2 ^ 64) (e : Int) :
    let x := (FVal.num false m e).rat; let r := f.log2 mode ftz (.num false m e)
    (∀ n : Int, x = (2 : ℚ) ^ n → (n ≠ 0 → f.Rounded mode ftz (n : ℝ) r) ∧ (n = 0 → r = ⟨f.zeroOf false, 0⟩)) ∧
    ((∀ n : Int, x ≠ (2 : ℚ) ^ n) → r.flags.getLsbD 0 = true ∧
      ∃ (n : Int) (y : ℝ), (2 : ℚ) ^ n < x ∧ x < (2 : ℚ) ^ (n + 1) ∧ n < y ∧ y < n + 1 ∧ f.Rounded mode ftz y r) := by
  intro x r
  have arms : r = _ := log2_pos f mode ftz hm.ne' e
  by_cases power : m = 2 ^ Nat.log2 m
  · have exact_ : x = 2 ^ ((Nat.log2 m : Int) + e) := by
      change (FVal.num false m e).rat = _
      rw [zpow_add₀ two_ne_zero, zpow_natCast, FVal.rat]
      simp only [Bool.false_eq_true, if_false, one_mul]
      congr 1
      exact_mod_cast power
    rw [arms, if_pos power]
    refine ⟨fun n same => ?_, fun none_ => absurd exact_ (none_ _)⟩
    rw [zpow_right_injective₀ two_pos (by norm_num) (exact_.symm.trans same)]
    exact ⟨round_int std mode ftz, fun zero => by rw [zero]; rfl⟩
  · obtain ⟨above, below⟩ := rat_between hm.ne' power e
    rw [arms, if_neg power]
    refine ⟨fun n same => ?_, fun _ => ?_⟩
    · change x < _ at below
      change _ < x at above
      rw [same, zpow_lt_zpow_iff_right₀ one_lt_two] at above below
      omega
    · have fits : Nat.log2 m < 64 := (Nat.log2_lt hm.ne').2 wide
      have least := Nat.log2_self_le hm.ne'
      have most : m < 2 ^ (Nat.log2 m + 1) := Nat.lt_log2_self
      have rest : 2 ^ Nat.log2 m + (m - 2 ^ Nat.log2 m) = m := Nat.add_sub_cancel' least
      obtain ⟨low, high⟩ := log_fraction_bounds (u := m - 2 ^ Nat.log2 m) fits (by omega) (by omega)
      rw [rest] at low high
      obtain ⟨inexact, y, greater, less, rounded⟩ := round_log std mode ftz (Nat.log2 m + e) low high
      exact ⟨inexact, _, y, above, below, by exact_mod_cast greater, by exact_mod_cast less, rounded⟩

theorem numberPowers : NumberPowers := by
  refine ⟨fun f hf mode ftz => ?_, by decide, by decide⟩
  have std := standard_of_mem hf
  refine ⟨rfl, rfl, rfl, rfl, rfl, rfl, rfl, rfl, fun s e => ?_, fun m e hm => ?_, exp2_spec std mode ftz,
    fun m e hm wide => log2_spec std mode ftz hm wide e⟩
  · simp only [FFmt.log2, if_true, ofVal_inf, LaneRes.or_of_none]
  · simp only [FFmt.log2, if_neg hm, if_true]
    rfl

end Sys2Proof.Machine
end

section
/-! O28: integers fitted to a format, and the numbers of the lane words. -/

namespace Sys2Proof.Machine

/-- Settles O28: integers by their order and their residues, and every number's clause by one rounding of the exact magnitude. -/
theorem integerFit : Obligations.IntegerFit :=
  ⟨fun _ sat x lo hi => fitInt_spec sat x lo hi, numberReads, numberSums, numberProducts, numberQuotients, numberConversions,
    numberCompares, numberBlocks, numberReductions, numberExtremes, numberBits, numberPowers⟩

end Sys2Proof.Machine
end

section
/-! The lanes of a lane word: masks put together lane by lane, the results of its active lanes, and what writing them leaves in each
cell (07 R151). -/

namespace Sys2Proof.Machine

-- Masks and results by lane -------------------------------------------------------------------------------------------------------

/-- The bits of a sum of powers of two. -/
theorem testBit_sum_two_pow (p : Nat → Bool) (w : Nat) :
    ((List.range w).map (fun l => if p l then 2 ^ l else 0)).sum < 2 ^ w ∧
      ∀ i, i < w → ((List.range w).map (fun l => if p l then 2 ^ l else 0)).sum.testBit i = p i := by
  induction w with
  | zero => exact ⟨Nat.one_pos, fun i hi => absurd hi (Nat.not_lt_zero i)⟩
  | succ w ih =>
    obtain ⟨small, bits⟩ := ih
    have split : ((List.range (w + 1)).map (fun l => if p l then 2 ^ l else 0)).sum =
        2 ^ w * (p w).toNat + ((List.range w).map (fun l => if p l then 2 ^ l else 0)).sum := by
      rw [List.range_succ, List.map_append, List.sum_append, Nat.add_comm]
      cases h : p w <;> simp [h]
    rw [split]
    refine ⟨?_, fun i hi => ?_⟩
    · have := Bool.toNat_le (p w)
      have := Nat.mul_le_mul_left (2 ^ w) this
      omega
    · rw [Nat.testBit_two_pow_mul_add _ small]
      split
      · next low => exact bits i low
      · have top : i = w := by omega
        rw [top, Nat.sub_self]
        cases p w <;> rfl

theorem bitAt_sum_two_pow (p : Nat → Bool) {l : Nat} (hl : l < 32) :
    bitAt (BitVec.ofNat 32 ((lanes32.map (fun l => if p l then 2 ^ l else 0)).sum)) l = p l := by
  rw [bitAt, BitVec.getLsbD_ofNat, decide_eq_true hl, Bool.true_and, (testBit_sum_two_pow p 32).2 l hl]

theorem any_lanes_congr {p q : Nat → Bool} (h : ∀ l, l < 32 → p l = q l) : lanes32.any p = lanes32.any q := by
  rw [Bool.eq_iff_iff, List.any_eq_true, List.any_eq_true]
  exact exists_congr fun l => and_congr_right fun hl => by rw [h l (List.mem_range.1 hl)]

theorem listAt_lanes {α : Type} (g : Nat → α) (d : α) {l : Nat} (hl : l < 32) : listAt (lanes32.map g) l d = g l := by
  simp [listAt, hl]

/-- An active lane's result is its own. -/
theorem listAt_activeRes {act : BitVec 32} {l : Nat} (hl : l < 32) (on : bitAt act l = true) (g : Nat → LaneRes) :
    listAt (activeRes act g) l {} = g l := by
  rw [activeRes, listAt_lanes _ _ hl, if_pos on]

/-- Some flag of a result is enabled (06 R142). -/
theorem traps_iff (r : LaneRes) (te : BitVec 5) : r.traps te = true ↔ slice r.flags 0 5 &&& te ≠ 0 := by
  have bits : slice r.flags 0 5 &&& te = 0 ↔ ∀ i, i < 5 → (r.flags.getLsbD i && te.getLsbD i) = false := by
    refine ⟨fun h i hi => ?_, fun h => BitVec.eq_of_getLsbD_eq fun i hi => ?_⟩
    · have := congrArg (fun v => v.getLsbD i) h
      simpa [hi] using this
    · simpa [hi] using h i hi
  rw [ne_eq, bits, LaneRes.traps, List.any_eq_true]
  simp [Bool.and_comm, and_left_comm]

theorem bitAt_trapLanes (act : BitVec 32) (te : BitVec 5) (res : List LaneRes) {l : Nat} (hl : l < 32) :
    bitAt (trapLanes act te res) l = (bitAt act l && (listAt res l {}).traps te) := by
  have same : trapLanes act te res =
      BitVec.ofNat 32 ((lanes32.map (fun l => if bitAt act l && (listAt res l {}).traps te then 2 ^ l else 0)).sum) := by
    simp only [trapLanes, Bool.and_eq_true, traps_iff]
  rw [same, bitAt_sum_two_pow (fun l => bitAt act l && (listAt res l {}).traps te) hl]

-- Writing lanes ----------------------------------------------------------------------------------------------------------------

/-- A vector register's lane has a cell of its own number within the register. -/
theorem vcell_mod (x : Squad) (r : Nat) {l : Nat} (hl : l < 32) : x.vcell r l % 32 = l := by
  unfold Squad.vcell
  omega

/-- The two registers of a pair have different cells. -/
theorem vcell_pair_ne (x : Squad) (hv : 1 < x.vws) (r l : Nat) : x.vcell r l ≠ x.vcell (r + 1) l := by
  unfold Squad.vcell
  intro same
  have next : (64 * x.vwb + r + 1) % x.vws ≠ (64 * x.vwb + r) % x.vws := mod_ne_of_lt (by omega) (by omega)
  rw [← Nat.add_assoc] at same
  omega

/-- What a result put into a lane leaves in each cell. -/
theorem cellGet_putV (x : Squad) (r l : Nat) (pair : Bool) (v : BitVec 64) (c : Nat) :
    cellGet (x.put (x.dstV r l pair) v).vregs c =
      if pair = true ∧ c = x.vcell (r + 1) l then (v >>> 32).setWidth 32
      else if c = x.vcell r l then v.setWidth 32 else cellGet x.vregs c := by
  rw [(putsValue_put x (x.dstV r l pair) v).2 c]
  cases pair <;> simp [Squad.dstV]

/-- A result put into a lane leaves the cells of the other lanes. -/
theorem cellGet_putV_ne (x : Squad) (r : Nat) {l : Nat} (pair : Bool) (v : BitVec 64) {c : Nat} (hl : l < 32) (hc : c % 32 ≠ l) :
    cellGet (x.put (x.dstV r l pair) v).vregs c = cellGet x.vregs c := by
  have other (k : Nat) : c ≠ x.vcell k l := fun e => hc (by rw [e, vcell_mod x k hl])
  rw [cellGet_putV, if_neg (fun h => other (r + 1) h.2), if_neg (other r)]

/-- Writing lanes leaves in a cell what its own lane's result puts there. -/
theorem cellGet_writeLanesOf {ls : List Nat} (nodup : ls.Nodup) (small : ∀ l ∈ ls, l < 32) (x : Squad) (mask : BitVec 32) (r : Nat)
    (pair : Bool) (res : List LaneRes) (c : Nat) :
    cellGet (x.writeLanesOf ls mask r pair res).vregs c =
      if c % 32 ∈ ls ∧ bitAt mask (c % 32) = true then
        cellGet (x.put (x.dstV r (c % 32) pair) (listAt res (c % 32) {}).v).vregs c
      else cellGet x.vregs c := by
  induction ls generalizing x with
  | nil => simp [Squad.writeLanesOf]
  | cons l rest ih =>
    obtain ⟨fresh, nodup⟩ := List.nodup_cons.1 nodup
    obtain ⟨hl, small⟩ := List.forall_mem_cons.1 small
    have step : x.writeLanesOf (l :: rest) mask r pair res =
        (if bitAt mask l then x.put (x.dstV r l pair) (listAt res l {}).v else x).writeLanesOf rest mask r pair res := rfl
    rw [step, ih nodup small]
    by_cases on : bitAt mask l = true
    · rw [if_pos on]
      by_cases here : c % 32 = l
      · simp [here, fresh, on]
      · have stays := cellGet_putV_ne x r pair (listAt res l {}).v hl here
        generalize hy : x.put (x.dstV r l pair) (listAt res l {}).v = y at stays
        have window (k m : Nat) : y.vcell k m = x.vcell k m := by rw [← hy]; cases pair <;> rfl
        rw [cellGet_putV y, cellGet_putV x, window, window, stays]
        simp [here]
    · rw [if_neg on]
      by_cases here : c % 32 = l
      · simp [here, fresh, on]
      · simp [here]

theorem cellGet_writeLanes (x : Squad) (mask : BitVec 32) (r : Nat) (pair : Bool) (res : List LaneRes) (c : Nat) :
    cellGet (x.writeLanes mask r pair res).vregs c =
      if bitAt mask (c % 32) = true then cellGet (x.put (x.dstV r (c % 32) pair) (listAt res (c % 32) {}).v).vregs c
      else cellGet x.vregs c := by
  rw [writeLanes_eq_of, cellGet_writeLanesOf List.nodup_range (fun l hl => List.mem_range.1 hl)]
  simp [Nat.mod_lt]

/-- The cells of a written lane. -/
theorem cellGet_writeLanes_on (x : Squad) {mask : BitVec 32} (r k : Nat) (pair : Bool) (res : List LaneRes) {l : Nat} (hl : l < 32)
    (on : bitAt mask l = true) :
    cellGet (x.writeLanes mask r pair res).vregs (x.vcell k l) =
      cellGet (x.put (x.dstV r l pair) (listAt res l {}).v).vregs (x.vcell k l) := by
  rw [cellGet_writeLanes, vcell_mod x k hl, if_pos on]

/-- The two halves of a value. -/
theorem halves_append (v : BitVec 64) : (v >>> 32).setWidth 32 ++ v.setWidth 32 = v := by
  refine BitVec.eq_of_getLsbD_eq fun i hi => ?_
  rw [BitVec.getLsbD_append]
  split
  · next low => simp [low]
  · next high =>
    have place : 32 + (i - 32) = i := by omega
    simp [place]
    omega

/-- A squad with res written to the lanes of ok, and their flags merged. -/
theorem wroteLanes {x y : Squad} {ok : BitVec 32} {r : Nat} {pair : Bool} {res : List LaneRes} {on : Nat → Bool} {g : Nat → LaneRes}
    (cells : y.vregs = (x.writeLanes ok r pair res).vregs) (base : y.vwb = x.vwb) (size : y.vws = x.vws)
    (flags : y.fflags = x.fflags ||| orFlags ok res) (lanes : ∀ l, l < 32 → bitAt ok l = on l)
    (gives : ∀ l, l < 32 → on l = true → listAt res l {} = g l) : WroteLanes x y on r pair g := by
  have window (k l : Nat) : y.vcell k l = x.vcell k l := by simp only [Squad.vcell, base, size]
  refine ⟨fun l hl hon => ?_, fun c others => ?_, fun i hi => ?_⟩
  · have reads (k : Nat) : y.readV k l = cellGet (x.put (x.dstV r l pair) (g l).v).vregs (x.vcell k l) := by
      rw [Squad.readV, window, cells, cellGet_writeLanes_on x r k pair res hl ((lanes l hl).trans hon), gives l hl hon]
    refine ⟨fun single => ?_, fun double wide => ?_⟩
    · rw [reads, cellGet_putV, single]
      simp
    · have apart := vcell_pair_ne x (by omega) r l
      rw [Squad.readVP, reads, reads, cellGet_putV, cellGet_putV]
      simp [double, apart, halves_append]
  · rw [cells, cellGet_writeLanes]
    by_cases hon : bitAt ok (c % 32) = true
    · have hl : c % 32 < 32 := Nat.mod_lt _ (by decide)
      obtain ⟨low, high⟩ := others _ hl ((lanes _ hl).symm.trans hon)
      rw [if_pos hon, cellGet_putV, if_neg (fun h => high h.1 h.2), if_neg low]
    · rw [if_neg hon]
  · rw [flags, BitVec.getLsbD_or, orFlags_bit]
    congr 1
    refine any_lanes_congr fun l hl => ?_
    rw [lanes l hl]
    by_cases hon : on l = true
    · rw [gives l hl hon]
    · simp [hon]

end Sys2Proof.Machine
end

section
/-! How a lane word ends (02 R46, R47; 06 R140, R142): it goes on past its lane word, or traps with the lanes that raise an enabled
flag. -/

namespace Sys2Proof.Machine

-- Going on ---------------------------------------------------------------------------------------------------------------------

/-- Going on moves the fields of the lane stream and no others. -/
theorem laneAdvance_frame (x : Squad) (m : Bool) : x.laneAdvance m = x.withLaneOf (x.laneAdvance m) := by
  cases hl : x.lane with
  | none => simp only [Squad.laneAdvance, hl, Squad.withLaneOf]
  | some r =>
    by_cases last : r.left ≤ 1
    · rw [laneAdvance_last x m r hl last]; rfl
    · rw [laneAdvance_more x m r hl (by omega)]; rfl

/-- Where a squad stands after its lane word. -/
theorem laneGoes_laneAdvance (x : Squad) (m : Bool) : LaneGoes x (x.laneAdvance m) m := by
  cases hl : x.lane with
  | none => simp [LaneGoes, Squad.laneAdvance, hl]
  | some r =>
    unfold LaneGoes
    rw [hl]
    by_cases last : r.left ≤ 1
    · rw [laneAdvance_last x m r hl last]
      refine ⟨rfl, rfl, rfl, fun k h more => ?_, fun k h _ => ?_⟩
      · cases h; omega
      · cases h; exact ⟨rfl, rfl, rfl, rfl⟩
    · rw [laneAdvance_more x m r hl (by omega)]
      refine ⟨rfl, rfl, rfl, fun k h _ => ?_, fun k h less => ?_⟩
      · cases h; exact ⟨rfl, rfl, rfl, rfl⟩
      · cases h; omega

theorem laneMarker_eq (op : LaneOp) (f : LaneForm) (x : Squad) : laneMarker op f x = markerOf op f x := rfl

-- Trapping ---------------------------------------------------------------------------------------------------------------------

/-- The reconvergence stack's entries are of the squads' handlers and segments. -/
theorem entriesInUse_setSq {s : State} {x : Squad} (handler : x.handler = s.sq.handler) (seg : x.seg = s.sq.seg) (b : Nat) :
    (s.setSq x).entriesInUse b = s.entriesInUse b := by
  have squad (q : Nat) : ((s.setSq x).squad q).handler = (s.squad q).handler ∧ ((s.setSq x).squad q).seg = (s.squad q).seg := by
    by_cases h : q = s.actor
    · subst h
      exact ⟨(congrArg Squad.handler (sq_setSq s x)).trans handler, (congrArg Squad.seg (sq_setSq s x)).trans seg⟩
    · rw [squad_setSq_ne s x q h]
      exact ⟨rfl, rfl⟩
  unfold State.entriesInUse
  simp only [squad]
  rfl

/-- What a lane word may write of its squad's record before it traps. -/
def LaneRegsOnly (x y : Squad) : Prop := y = { x with vregs := y.vregs, masks := y.masks, fflags := y.fflags }

theorem laneRegsOnly_refl (x : Squad) : LaneRegsOnly x x := rfl

/-- Such writes do not change where the squad goes on. -/
theorem LaneRegsOnly.laneGoes {x y z : Squad} {m : Bool} (only : LaneRegsOnly x y) (goes : LaneGoes y z m) : LaneGoes x z m := by
  unfold LaneRegsOnly at only
  rw [only] at goes
  exact goes

theorem canTrap_setSq {s : State} (can : CanTrap s) {x : Squad} (only : LaneRegsOnly s.sq x) : CanTrap (s.setSq x) := by
  unfold LaneRegsOnly at only
  have entries := entriesInUse_setSq (s := s) (x := x) (by rw [only]) (by rw [only])
  unfold CanTrap
  rw [sq_setSq, setSq_actor, entries, only]
  exact can

theorem lanesLeft_eq (x : Squad) : LaneRun.count x.lane = x.lanesLeft := by
  unfold Squad.lanesLeft
  cases x.lane <;> rfl

theorem wm_eq_firstMask (x : Squad) (mk : BitVec 4) : x.wm mk = x.firstMask mk := by
  unfold Squad.wm Squad.firstMask
  cases x.replay with
  | none => exact active_eq_runs x mk
  | some r => rfl

/-- The trap of the lanes of tlm, mid being the record they leave: entered with the flags they raised as TVAL. -/
theorem floatTrap_raise {s : State} (can : CanTrap s) {mid : Squad} (only : LaneRegsOnly s.sq mid) {f : LaneForm}
    {trap : Nat → Bool} {g : Nat → LaneRes} {tlm : BitVec 32} {fl : BitVec 6}
    (lanes : ∀ l, l < 32 → bitAt tlm l = (bitAt (s.sq.runs f.m) l && trap l))
    (flags : ∀ i, fl.getLsbD i = lanes32.any (fun l => bitAt tlm l && (g l).flags.getLsbD i)) (tdst : BitVec 64) :
    FloatTrap s ((s.setSq mid).raise s.actor (s.sq.laneTrap f.m 0x08 tlm ((slice fl 0 5).setWidth 64) tdst)) mid f tdst trap g := by
  refine ⟨tlm, (slice fl 0 5).setWidth 64, lanes, fun i => ?_, ?_⟩
  · rw [← flags]
    by_cases low : i < 5
    · simp [low]
      omega
    · simp [low]
  · have took := raise_took (canTrap_setSq can only) (s.sq.laneTrap f.m 0x08 tlm ((slice fl 0 5).setWidth 64) tdst)
      (by rw [sq_setSq, only]; rfl) (by rw [sq_setSq, only]; rfl) rfl
    rw [← lanesLeft_eq, ← wm_eq_firstMask]
    exact took

-- Lanes and their results --------------------------------------------------------------------------------------------------------

/-- The list holds the result of each active lane. -/
def LanesGive (act : BitVec 32) (res : List LaneRes) (g : Nat → LaneRes) : Prop :=
  ∀ l, l < 32 → bitAt act l = true → listAt res l {} = g l

theorem lanesGive_activeRes (act : BitVec 32) (g : Nat → LaneRes) : LanesGive act (activeRes act g) g :=
  fun _ hl on => listAt_activeRes hl on g

section
variable {act : BitVec 32} {res : List LaneRes} {g : Nat → LaneRes} (gives : LanesGive act res g) (te : BitVec 5)
include gives

/-- The lanes that trap. -/
theorem LanesGive.bitAt_trapLanes {l : Nat} (hl : l < 32) :
    bitAt (trapLanes act te res) l = (bitAt act l && (g l).traps te) := by
  rw [Machine.bitAt_trapLanes act te res hl]
  by_cases on : bitAt act l = true
  · rw [gives l hl on]
  · simp [on]

/-- The active lanes that do not. -/
theorem LanesGive.bitAt_untrapped {l : Nat} (hl : l < 32) :
    bitAt (act &&& ~~~(trapLanes act te res)) l = (bitAt act l && !(g l).traps te) := by
  have trap := gives.bitAt_trapLanes te hl
  simp only [bitAt] at trap ⊢
  rw [BitVec.getLsbD_and, BitVec.getLsbD_not, trap, decide_eq_true hl]
  cases act.getLsbD l <;> simp

theorem LanesGive.trapLanes_ne_zero_iff :
    trapLanes act te res ≠ 0 ↔ ∃ l, l < 32 ∧ bitAt act l = true ∧ (g l).traps te = true := by
  rw [mask_ne_zero_iff]
  refine exists_congr fun l => and_congr_right fun hl => ?_
  rw [← Bool.and_eq_true, ← gives.bitAt_trapLanes te hl]

/-- The flags of some of the active lanes. -/
theorem LanesGive.orFlags_bit {mask : BitVec 32} (within : ∀ l, l < 32 → bitAt mask l = true → bitAt act l = true) (i : Nat) :
    (orFlags mask res).getLsbD i = lanes32.any (fun l => bitAt mask l && (g l).flags.getLsbD i) := by
  rw [Machine.orFlags_bit]
  refine any_lanes_congr fun l hl => ?_
  by_cases on : bitAt mask l = true
  · rw [gives l hl (within l hl on)]
  · simp [on]

/-- Where every lane raises the same flags, all active lanes trap or none does. -/
theorem LanesGive.trapLanes_whole {fl : BitVec 6} (same : ∀ l, (g l).flags = fl) (some_ : trapLanes act te res ≠ 0) :
    trapLanes act te res = act := by
  obtain ⟨k, -, -, raised⟩ := (gives.trapLanes_ne_zero_iff te).1 some_
  refine BitVec.eq_of_getLsbD_eq fun l hl => ?_
  have all : (g l).traps te = true := by rwa [LaneRes.traps, same l, ← same k]
  have trap := gives.bitAt_trapLanes te hl
  rwa [all, Bool.and_true] at trap

end

end Sys2Proof.Machine
end

section
/-! Words of fixed latency that write lanes (07 R151, R152). -/

namespace Sys2Proof.Machine

/-- x with the lanes of ok of vector register r written and their flags merged. -/
def Squad.laneEnd (x : Squad) (ok : BitVec 32) (r : Nat) (pair : Bool) (res : List LaneRes) : Squad :=
  { x with vregs := (x.writeLanes ok r pair res).vregs, fflags := x.fflags ||| orFlags ok res }

theorem laneEnd_only (x : Squad) (ok : BitVec 32) (r : Nat) (pair : Bool) (res : List LaneRes) :
    LaneRegsOnly x (x.laneEnd ok r pair res) := rfl

theorem laneEnd_eq (x : Squad) (ok : BitVec 32) (r : Nat) (pair : Bool) (res : List LaneRes) :
    { x.writeLanes ok r pair res with fflags := (x.writeLanes ok r pair res).fflags ||| orFlags ok res } =
      x.laneEnd ok r pair res := by
  rw [writeLanes_frame]
  rfl

section
variable {s : State} {f : LaneForm} {res : List LaneRes} (op : LaneOp) (e : Nat) (whole : Bool)

/-- No active lane traps: all of them are written and the squad goes on. -/
theorem laneFinish_goes (none_ : trapLanes (s.sq.runs f.m) (fmtTE s.sq.fmt) res = 0) :
    s.laneFinish op f e whole res =
      s.setSq ((s.sq.laneEnd (s.sq.runs f.m) f.vd.vreg (lanePairs op e).1 res).laneAdvance (markerOf op f s.sq)) := by
  have all : s.sq.runs f.m &&& ~~~(0 : BitVec 32) = s.sq.runs f.m := BitVec.and_allOnes
  unfold State.laneFinish
  simp only [active_eq_runs, none_, ne_eq, not_true_eq_false, and_false, if_false, if_true, all, laneEnd_eq, laneMarker_eq]

/-- Some active lanes trap: the others are written first. -/
theorem laneFinish_traps {t : BitVec 32} (trapped : trapLanes (s.sq.runs f.m) (fmtTE s.sq.fmt) res = t) (some_ : t ≠ 0)
    (all : whole = true → t = s.sq.runs f.m) :
    s.laneFinish op f e whole res =
      (s.setSq (s.sq.laneEnd (s.sq.runs f.m &&& ~~~t) f.vd.vreg (lanePairs op e).1 res)).raise s.actor
        (s.sq.laneTrap f.m 0x08 t ((slice (orFlags t res) 0 5).setWidth 64) (laneTdst op f e)) := by
  have lanes : (if whole = true ∧ t ≠ 0 then s.sq.runs f.m else t) = t := by
    split
    · next h => exact (all h.1).symm
    · rfl
  unfold State.laneFinish
  simp only [active_eq_runs, trapped, lanes, laneEnd_eq]
  rw [if_neg some_, State.trapL, sq_setSq]
  rfl

end

section
variable {s : State} {f : LaneForm} {res : List LaneRes} {g : Nat → LaneRes}

/-- What a squad that has written its active lanes, and goes on, differs in. -/
theorem laneWrites_laneEnd (gives : LanesGive (s.sq.runs f.m) res g) (pair m : Bool) :
    LaneWrites s (s.setSq ((s.sq.laneEnd (s.sq.runs f.m) f.vd.vreg pair res).laneAdvance m)) f pair m g := by
  unfold LaneWrites
  rw [sq_setSq]
  have moves := laneAdvance_frame (s.sq.laneEnd (s.sq.runs f.m) f.vd.vreg pair res) m
  have goes := (laneEnd_only s.sq (s.sq.runs f.m) f.vd.vreg pair res).laneGoes (laneGoes_laneAdvance _ m)
  generalize (s.sq.laneEnd (s.sq.runs f.m) f.vd.vreg pair res).laneAdvance m = y at moves goes ⊢
  have cells : y.vregs = (s.sq.writeLanes (s.sq.runs f.m) f.vd.vreg pair res).vregs := by rw [moves]; rfl
  have flags : y.fflags = s.sq.fflags ||| orFlags (s.sq.runs f.m) res := by rw [moves]; rfl
  refine ⟨wroteLanes cells (by rw [moves]; rfl) (by rw [moves]; rfl) flags (fun _ _ => rfl) gives, goes, ?_, onlySquad_setSq s y⟩
  rw [cells, flags]
  exact moves

/-- A squad whose untrapped lanes are written, and which then traps. -/
theorem laneTook_laneEnd (can : CanTrap s) (gives : LanesGive (s.sq.runs f.m) res g) (pair : Bool) (tdst : BitVec 64) :
    let t := trapLanes (s.sq.runs f.m) (fmtTE s.sq.fmt) res
    LaneTook s ((s.setSq (s.sq.laneEnd (s.sq.runs f.m &&& ~~~t) f.vd.vreg pair res)).raise s.actor
      (s.sq.laneTrap f.m 0x08 t ((slice (orFlags t res) 0 5).setWidth 64) tdst)) f pair tdst
      (fun l => (g l).traps (fmtTE s.sq.fmt)) g := by
  intro t
  have within : ∀ l, l < 32 → bitAt t l = true → bitAt (s.sq.runs f.m) l = true := fun l hl trapped =>
    (Bool.and_eq_true_iff.1 ((gives.bitAt_trapLanes _ hl).symm.trans trapped)).1
  refine ⟨s.sq.laneEnd (s.sq.runs f.m &&& ~~~t) f.vd.vreg pair res, ?_, rfl,
    floatTrap_raise can (laneEnd_only ..) (fun l hl => gives.bitAt_trapLanes _ hl) (fun i => gives.orFlags_bit within i) tdst⟩
  exact wroteLanes rfl rfl rfl rfl (fun l hl => gives.bitAt_untrapped _ hl)
    (fun l hl on => gives l hl (Bool.and_eq_true_iff.1 on).1)

/-- A word that ends by writing its lanes completes with their results; one that raises its flags over the whole squad gives every
lane the same flags. -/
theorem laneFinish_completes {i : Instr} {op : LaneOp} {e : Nat} {whole : Bool} (run : exec i s = .next (s.laneFinish op f e whole res))
    (gives : LanesGive (s.sq.runs f.m) res g) (same : whole = true → ∃ fl, ∀ l, (g l).flags = fl) : LaneCompletes s i op f e g := by
  have trapped := gives.trapLanes_ne_zero_iff (fmtTE s.sq.fmt)
  refine ⟨fun none_ => ?_, fun some_ can => ?_⟩
  · have zero : trapLanes (s.sq.runs f.m) (fmtTE s.sq.fmt) res = 0 := not_not.1 (mt trapped.1 none_)
    exact ⟨_, run.trans (congrArg _ (laneFinish_goes op e whole zero)), laneWrites_laneEnd gives _ _⟩
  · have whole_ : whole = true → trapLanes (s.sq.runs f.m) (fmtTE s.sq.fmt) res = s.sq.runs f.m := fun h => by
      obtain ⟨fl, same⟩ := same h
      exact gives.trapLanes_whole _ same (trapped.2 some_)
    exact ⟨_, run.trans (congrArg _ (laneFinish_traps op e whole rfl (trapped.2 some_) whole_)), laneTook_laneEnd can gives _ _⟩

end

end Sys2Proof.Machine
end

section
/-! The rows of the lane words: each word is its shared operation with what its row gives in a lane. -/

namespace Sys2Proof.Machine

/-- A row of a table of lane words: opcode, instruction, and what it gives in a lane. -/
abbrev LaneRow := LaneOp × (LaneForm → Instr) × (Squad → LaneForm → Nat → Nat → LaneRes)

/-- A row's word, its checks passed, runs as the shared operation with what the row gives. -/
def RunsAs (shared : State → LaneOp → LaneForm → (Squad → Nat → Nat → LaneRes) → Res) (row : LaneRow) : Prop :=
  ∀ (s : State) (f : LaneForm), LaneOk s row.1 f → exec (row.2.1 f) s = shared s row.1 f (fun x e => row.2.2 x f e)

/-- The low byte of an operand is that of its low 32 bits. -/
theorem opnd_low (x : Squad) (o : Opnd) (l : Nat) (wide : Bool) : (x.opnd o l wide).toNat % 256 = (x.opnd o l false).toNat % 256 := by
  cases wide with
  | false => rfl
  | true =>
    cases o with
    | vec r =>
      have low := (x.readV r.toNat l).isLt
      simp only [Squad.opnd, Squad.readVP, if_true, Bool.false_eq_true, if_false, BitVec.toNat_append, BitVec.toNat_setWidth]
      rw [← Nat.shiftLeft_add_eq_or_of_lt low, Nat.shiftLeft_eq]
      omega
    | sca r => simp [Squad.opnd]
    | msk r => rfl
    | unused => rfl

/-- The format of a word that moves elements is one of Table 2-5. -/
theorem laneEf_pos {s : State} {op : LaneOp} {f : LaneForm} (ok : LaneOk s op f) (elem : (laneShape op).use ≠ .absent) :
    1 ≤ laneEf op f s.sq.fmt := by
  obtain ⟨-, legal⟩ := ok
  have legal := legal.resolve_left elem
  by_contra zero
  rw [laneFormatOk, efs_reserved op (.inl (by omega))] at legal
  exact absurd legal (by simp)

theorem moved_eq {e : Nat} (he : 1 ≤ e) (a : BitVec 64) : moved e a = movedRes e a := by
  by_cases int : e ≤ 6
  · simp [moved, movedRes, efInt, he, int, show e ≠ 10 by omega, show ¬ 7 ≤ e by omega]
  · simp [moved, movedRes, efInt, bits, int, show 7 ≤ e by omega]

/-- An elementwise word, its checks passed, ends by writing its active lanes. -/
theorem laneWord_ok {s : State} {op : LaneOp} {f : LaneForm} (ok : LaneOk s op f) (g : Squad → Nat → Nat → LaneRes) :
    let e := laneEf op f s.sq.fmt
    s.laneWord op f g = .next (s.laneFinish op f e false (activeRes (s.sq.runs f.m) (g s.sq e))) := by
  intro e
  rw [State.laneWord, laneIssue_ok s op f _ ok.1 ok.2, active_eq_runs]

/-- A shift's count is the low byte of vb. -/
theorem laneWord_shift (s : State) (op : LaneOp) (f : LaneForm) (kind : Nat) :
    s.laneWord op f (fun x e l => laneShift kind e (x.rawA f e l) (x.count f e l)) =
      s.laneWord op f (fun x e l => laneShift kind e (x.rawA f e l) ((x.opnd f.vb l false).toNat % 256)) := by
  simp only [Squad.count, Squad.rawB, opnd_low]

/-- A word that moves elements of a legal format. -/
theorem laneWord_moved {s : State} {op : LaneOp} {f : LaneForm} (ok : LaneOk s op f) (elem : (laneShape op).use ≠ .absent)
    (a : Squad → Nat → Nat → BitVec 64) :
    s.laneWord op f (fun x e l => moved e (a x e l)) = s.laneWord op f (fun x e l => movedRes e (a x e l)) := by
  rw [laneWord_ok ok, laneWord_ok ok]
  simp only [moved_eq (laneEf_pos ok elem)]

/-- Each row's word is `State.laneWord` of its opcode, and what the row gives is what the word computes: to the letter but for VNEG's
sign, the shifts' count and the formats of VSHFL and VROT. -/
theorem elementRows_run : ∀ e ∈ elementRows ++ [(0x73, .vpack, packRes), (0x74, .vunpk, unpackRes)], RunsAs State.laneWord e := by
  simp only [elementRows, List.cons_append, List.nil_append, List.forall_mem_cons, List.not_mem_nil, false_implies, implies_true,
    and_true]
  refine ⟨?_, ?_, ?_, ?_, ?_, ?_, ?_, ?_, ?vneg, ?_, ?_, ?_, ?_, ?_, ?_, ?_, ?_, ?vshl, ?vshr, ?vsar, ?_, ?_, ?_, ?_,
    ?_, ?_, ?_, ?_, ?_, ?_, ?_, ?_, ?_, ?_, ?_, ?_, ?_, ?vshfl, ?vrot, ?_, ?_⟩
  case vneg =>
    intro s f _
    simp only [Int.zero_sub]
    rfl
  case vshl => exact fun s f _ => laneWord_shift s 0x24 f 0
  case vshr => exact fun s f _ => laneWord_shift s 0x25 f 1
  case vsar => exact fun s f _ => laneWord_shift s 0x26 f 2
  case vshfl => exact fun s f ok => laneWord_moved ok (by decide) (fun x e l => x.rawA f e ((x.opnd f.vb l false).toNat % 32))
  case vrot => exact fun s f ok => laneWord_moved ok (by decide) (fun x e l => x.rawA f e ((l + f.mod.arg.toNat) % 32))
  all_goals exact fun _ _ _ => rfl

/-- Settles O24: a row is the shared operation with its own results, and that operation ends by writing them. -/
theorem elementwiseWords : Obligations.ElementwiseWords := by
  intro row member s f ok _ ef
  have run := (elementRows_run row member s f ok).trans (laneWord_ok ok _)
  exact laneFinish_completes run (lanesGive_activeRes _ _) (fun h => absurd h (by decide))

end Sys2Proof.Machine
end

section
/-! Compares (07 R156 to R158). -/

namespace Sys2Proof.Machine

/-- The mask that a compare leaves: 1 for an active lane whose result is true, 0 for an inactive one, the old bit where the lane traps. -/
def comparedMask (act t old : BitVec 32) (res : List LaneRes) : BitVec 32 :=
  (BitVec.ofNat 32 ((lanes32.map (fun l => if (listAt res l {}).v = 1 then 2 ^ l else 0)).sum) &&& (act &&& ~~~t)) ||| (old &&& t)

/-- x with mask register d set by a compare, and the flags of the lanes that do not trap merged. -/
def Squad.compareEnd (x : Squad) (act t : BitVec 32) (d : BitVec 4) (res : List LaneRes) : Squad :=
  { x with masks := (x.writeM d (comparedMask act t (x.readM d) res)).masks, fflags := x.fflags ||| orFlags (act &&& ~~~t) res }

theorem compareEnd_only (x : Squad) (act t : BitVec 32) (d : BitVec 4) (res : List LaneRes) : LaneRegsOnly x (x.compareEnd act t d res) :=
  rfl

theorem bitAt_comparedMask {act t : BitVec 32} {res : List LaneRes} {g : Nat → LaneRes} {trap : Nat → Bool}
    (gives : LanesGive act res g) (lanes : ∀ l, l < 32 → bitAt t l = (bitAt act l && trap l)) (old : BitVec 32) {l : Nat} (hl : l < 32) :
    bitAt (comparedMask act t old res) l = (bitAt act l && (if trap l then bitAt old l else (g l).v = 1)) := by
  have truth := bitAt_sum_two_pow (fun l => decide ((listAt res l {}).v = 1)) hl
  have trapped := lanes l hl
  simp only [decide_eq_true_eq, bitAt] at truth trapped ⊢
  rw [comparedMask, BitVec.getLsbD_or, BitVec.getLsbD_and, BitVec.getLsbD_and, BitVec.getLsbD_and, BitVec.getLsbD_not, truth, trapped,
    decide_eq_true hl]
  cases on : act.getLsbD l with
  | false => simp
  | true =>
    rw [gives l hl on]
    cases trap l <;> simp

/-- A compare, its checks passed, ends by setting its mask register. -/
theorem laneCompare_ok {s : State} {op : LaneOp} {f : LaneForm} (ok : LaneOk s op f) (g : Squad → Nat → Nat → LaneRes) :
    let e := laneEf op f s.sq.fmt
    s.laneCompare op f g = .next (s.maskFinish op f e (activeRes (s.sq.runs f.m) (g s.sq e))) := by
  intro e
  rw [State.laneCompare, laneIssue_ok s op f _ ok.1 ok.2, active_eq_runs]

section
variable {s : State} {f : LaneForm} {d : BitVec 4} {res : List LaneRes} (hd : f.vd = .msk d) (op : LaneOp) (e : Nat)
include hd

theorem maskFinish_goes (none_ : trapLanes (s.sq.runs f.m) (fmtTE s.sq.fmt) res = 0) :
    s.maskFinish op f e res = s.setSq ((s.sq.compareEnd (s.sq.runs f.m) 0 d res).laneAdvance (markerOf op f s.sq)) := by
  have reg : f.vd.mreg = d := by rw [hd]; rfl
  unfold State.maskFinish
  simp only [active_eq_runs, none_, if_true, laneMarker_eq, reg]
  rfl

theorem maskFinish_traps {t : BitVec 32} (trapped : trapLanes (s.sq.runs f.m) (fmtTE s.sq.fmt) res = t) (some_ : t ≠ 0) :
    s.maskFinish op f e res = (s.setSq (s.sq.compareEnd (s.sq.runs f.m) t d res)).raise s.actor
      (s.sq.laneTrap f.m 0x08 t ((slice (orFlags t res) 0 5).setWidth 64) (laneTdst op f e)) := by
  have reg : f.vd.mreg = d := by rw [hd]; rfl
  unfold State.maskFinish
  simp only [active_eq_runs, trapped, if_neg some_, reg]
  rfl

end

section
variable {s : State} {f : LaneForm} {res : List LaneRes} {g : Nat → LaneRes}

/-- What a squad that has set its mask register, and goes on, differs in. -/
theorem maskWrites_compareEnd (gives : LanesGive (s.sq.runs f.m) res g) (d : BitVec 4) (m : Bool) :
    MaskWrites s (s.setSq ((s.sq.compareEnd (s.sq.runs f.m) 0 d res).laneAdvance m)) d
      (comparedMask (s.sq.runs f.m) 0 (s.sq.readM d) res)
      (fun i => lanes32.any (fun l => bitAt (s.sq.runs f.m) l && (g l).flags.getLsbD i)) m := by
  have all : s.sq.runs f.m &&& ~~~(0 : BitVec 32) = s.sq.runs f.m := BitVec.and_allOnes
  unfold MaskWrites
  rw [sq_setSq]
  have moves := laneAdvance_frame (s.sq.compareEnd (s.sq.runs f.m) 0 d res) m
  have goes := (compareEnd_only s.sq (s.sq.runs f.m) 0 d res).laneGoes (laneGoes_laneAdvance _ m)
  generalize (s.sq.compareEnd (s.sq.runs f.m) 0 d res).laneAdvance m = y at moves goes ⊢
  have cells : y.masks = (s.sq.writeM d (comparedMask (s.sq.runs f.m) 0 (s.sq.readM d) res)).masks := by rw [moves]; rfl
  have flags : y.fflags = s.sq.fflags ||| orFlags (s.sq.runs f.m &&& ~~~0) res := by rw [moves]; rfl
  have reads (n : BitVec 4) : y.readM n = (s.sq.writeM d (comparedMask (s.sq.runs f.m) 0 (s.sq.readM d) res)).readM n := by
    rw [Squad.readM, cells]; rfl
  refine ⟨?_, fun n hn => ?_, fun i _ => ?_, goes, ?_, onlySquad_setSq s y⟩
  · rw [reads, readM_writeM_same]
  · rw [reads, readM_writeM_ne _ _ _ _ hn]
  · rw [flags, all, BitVec.getLsbD_or, gives.orFlags_bit (fun _ _ on => on)]
  · rw [cells, flags]
    exact moves

end

theorem truth_decide (p : Prop) [Decidable p] : truth p = ⟨if p then 1 else 0, 0⟩ := by
  by_cases h : p <;> simp [truth, h]

/-- A comparison of integers gives 1 or 0 and no flag. -/
theorem runsAs_truth {op : LaneOp} {c : LaneForm → Instr} {p : Squad → LaneForm → Nat → Nat → Prop}
    [∀ x f e l, Decidable (p x f e l)] (run : ∀ s f, exec (c f) s = s.laneCompare op f (fun x e l => truth (p x f e l))) :
    RunsAs State.laneCompare (op, c, fun x f e l => ⟨if p x f e l then 1 else 0, 0⟩) := fun s f _ => by
  simpa only [truth_decide] using run s f

theorem vcmpNe_runs : RunsAs State.laneCompare (0x31, .vcmpNe, fun x f e l => ⟨if x.intA f e l = x.intB f e l then 0 else 1, 0⟩) := by
  have unequal (a b : Int) : (⟨if a ≠ b then 1 else 0, 0⟩ : LaneRes) = ⟨if a = b then 0 else 1, 0⟩ := by rw [ite_not]
  intro s f ok
  have run := runsAs_truth (op := 0x31) (c := .vcmpNe) (p := fun x f e l => x.intA f e l ≠ x.intB f e l) (fun _ _ => rfl) s f ok
  simpa only [unequal] using run

theorem compareRows_run : ∀ e ∈ compareRows, RunsAs State.laneCompare e := by
  unfold compareRows
  refine List.forall_mem_cons.2 ⟨runsAs_truth fun _ _ => rfl, List.forall_mem_cons.2 ⟨vcmpNe_runs, ?_⟩⟩
  simp only [List.forall_mem_cons, List.not_mem_nil, false_implies, implies_true, and_true]
  exact ⟨runsAs_truth fun _ _ => rfl, runsAs_truth fun _ _ => rfl, runsAs_truth fun _ _ => rfl, runsAs_truth fun _ _ => rfl,
    runsAs_truth fun _ _ => rfl, runsAs_truth fun _ _ => rfl, runsAs_truth fun _ _ => rfl, runsAs_truth fun _ _ => rfl,
    fun _ _ _ => rfl, fun _ _ _ => rfl, fun _ _ _ => rfl, fun _ _ _ => rfl, fun _ _ _ => rfl, fun _ _ _ => rfl⟩

/-- Settles O25: the bits of the mask are those of the active lanes that do not trap, beside the old bits of those that do. -/
theorem compareWords : Obligations.CompareWords := by
  intro row member s f d hd ok _ res on trap
  have run := (compareRows_run row member s f ok).trans (laneCompare_ok ok _)
  have gives : LanesGive (s.sq.runs f.m) (activeRes (s.sq.runs f.m) res) res := lanesGive_activeRes _ _
  have trapped := gives.trapLanes_ne_zero_iff (fmtTE s.sq.fmt)
  refine ⟨fun none_ => ?_, fun some_ can => ?_⟩
  · have zero := not_not.1 (mt trapped.1 none_)
    refine ⟨_, _, run.trans (congrArg _ (maskFinish_goes hd _ _ zero)), maskWrites_compareEnd gives d _, fun l hl => ?_⟩
    exact bitAt_comparedMask gives (trap := fun _ => false) (fun l _ => by simp) _ hl
  · have lanes : ∀ l, l < 32 → _ := fun l hl => gives.bitAt_trapLanes (fmtTE s.sq.fmt) hl
    have untrapped : ∀ l, l < 32 → _ := fun l hl => gives.bitAt_untrapped (fmtTE s.sq.fmt) hl
    refine ⟨_, _, run.trans (congrArg _ (maskFinish_traps hd _ _ rfl (trapped.2 some_))),
      floatTrap_raise can (compareEnd_only ..) lanes (gives.orFlags_bit fun l hl h => ?_) _, fun l hl => ?_,
      fun n hn => ?_, fun i _ => ?_, rfl⟩
    · exact (Bool.and_eq_true_iff.1 ((lanes l hl).symm.trans h)).1
    · exact (congrArg (bitAt · l) (readM_writeM_same ..)).trans (bitAt_comparedMask gives lanes _ hl)
    · exact readM_writeM_ne _ _ _ _ hn
    · refine (BitVec.getLsbD_or ..).trans (congrArg _ ?_)
      rw [gives.orFlags_bit (fun l hl h => (Bool.and_eq_true_iff.1 ((untrapped l hl).symm.trans h)).1)]
      exact any_lanes_congr fun l hl => by rw [untrapped l hl]

end Sys2Proof.Machine
end

section
/-! The long words: one result outstanding for each active lane (07 R160; 02 R45). -/

namespace Sys2Proof.Machine

/-- The results that a long word leaves outstanding. -/
abbrev longResults (x : Squad) (f : LaneForm) (g : Nat → LaneRes) : List (OutKind × Option Nat) :=
  (lanesOn (x.runs f.m)).map (fun l => (.value (.vreg (x.vcell f.vd.vreg l)) (g l).v, none))

section
variable {s : State} {op : LaneOp} {f : LaneForm} (ok : LaneOk s op f) (g : Squad → Nat → Nat → LaneRes)
include ok

/-- While FMT.TE enables a flag, a long word ends as an elementwise word does. -/
theorem laneLong_enabled (enabled : fmtTE s.sq.fmt ≠ 0) :
    let e := laneEf op f s.sq.fmt
    s.laneLong op f g = .next (s.laneFinish op f e false (activeRes (s.sq.runs f.m) (g s.sq e))) := by
  intro e
  rw [State.laneLong, laneIssue_ok s op f _ ok.1 ok.2, active_eq_runs]
  exact if_pos enabled

/-- With no flag enabled it leaves its results outstanding and goes on. -/
theorem laneLong_plain (plain : fmtTE s.sq.fmt = 0) :
    let r := g s.sq (laneEf op f s.sq.fmt)
    let u := s.issue .ordinary 0 (orFlags (s.sq.runs f.m) (activeRes (s.sq.runs f.m) r)) (longResults s.sq f r)
    s.laneLong op f g = .next (u.setSq (u.sq.laneAdvance (f.s = 1))) := by
  intro r u
  have kinds : (activeLanes (s.sq.runs f.m)).map (fun l => (OutKind.value (s.sq.dstV f.vd.vreg l false)
      (listAt (activeRes (s.sq.runs f.m) r) l {}).v, (none : Option Nat))) = longResults s.sq f r := by
    refine List.map_congr_left fun l hl => ?_
    obtain ⟨hl, on⟩ := (mem_activeLanes _ l).1 hl
    rw [listAt_activeRes hl on]
    rfl
  rw [State.laneLong, laneIssue_ok s op f _ ok.1 ok.2, active_eq_runs]
  dsimp only
  rw [if_neg (not_not.2 plain), kinds]

end

/-- A squad that has results outstanding for a word, and goes on. -/
theorem laneLeaves_issue (s : State) (ks : List (OutKind × Option Nat)) {fl : BitVec 6} {flags : Nat → Bool}
    (hfl : ∀ i, i < 6 → fl.getLsbD i = flags i) (ord : AccOrd) (scope : Nat) (tdst : BitVec 64) (m : Bool) :
    let u := s.issue ord scope fl ks tdst
    LaneLeaves s (u.setSq (u.sq.laneAdvance m)) m ord scope ks flags tdst := by
  intro u
  have actor : u.actor = s.actor := rfl
  have record : u.sq = { s.sq with out := s.sq.out ++ ks.flatMap (fun k => k.1.halves.map (s.outst ord scope fl tdst k.2)) } :=
    sq_issue s ord scope fl ks tdst
  unfold LaneLeaves
  rw [sq_setSq, record]
  generalize hx : ({ s.sq with out := s.sq.out ++ ks.flatMap (fun k => k.1.halves.map (s.outst ord scope fl tdst k.2)) } : Squad) = x
  have moves := laneAdvance_frame x m
  have goes := laneGoes_laneAdvance x m
  have out : (x.laneAdvance m).out = s.sq.out ++ ks.flatMap (fun k => k.1.halves.map (s.outst ord scope fl tdst k.2)) := by
    rw [moves, ← hx]; rfl
  refine ⟨⟨fl, hfl, out⟩, ?_, ?_, rfl, fun q hq => ?_, fun _ => rfl⟩
  · subst hx; exact goes
  · rw [out]; subst hx; exact moves
  · exact (squad_setSq_ne u _ q hq).trans (squad_setSq_ne s _ q hq)

theorem longRows_run : ∀ e ∈ longRows, RunsAs State.laneLong e := by
  simp only [longRows, List.forall_mem_cons, List.not_mem_nil, false_implies, implies_true, and_true]
  exact ⟨fun _ _ _ => rfl, fun _ _ _ => rfl, fun _ _ _ => rfl, fun _ _ _ => rfl, fun _ _ _ => rfl, fun _ _ _ => rfl,
    fun _ _ _ => rfl, fun _ _ _ => rfl⟩

/-- Settles O26: with no flag enabled by what issuing the results leaves, else as an elementwise word. -/
theorem longWords : Obligations.LongWords := by
  intro row member s f ok _ ef res
  have run := longRows_run row member s f ok
  have gives : LanesGive (s.sq.runs f.m) (activeRes (s.sq.runs f.m) res) res := lanesGive_activeRes _ _
  refine ⟨fun plain => ⟨_, run.trans (laneLong_plain ok _ plain), ?_⟩, fun enabled => ?_⟩
  · exact laneLeaves_issue s _ (fun i _ => gives.orFlags_bit (fun _ _ on => on) i) _ _ _ _
  · exact laneFinish_completes (run.trans (laneLong_enabled ok _ enabled)) gives (fun h => absurd h (by decide))

end Sys2Proof.Machine
end

section
/-! The words that combine the active lanes of a squad (07 R152, R163, R165, R166): their flags are the whole squad's. -/

namespace Sys2Proof.Machine

theorem activeLanes_eq (act : BitVec 32) : activeLanes act = lanesOn act := rfl

/-- A reduction, its checks passed, ends by writing the active lanes with the squad's flags. -/
theorem laneReduce_ok {s : State} {op : LaneOp} {f : LaneForm} (ok : LaneOk s op f) (scan : Bool) :
    ∃ res, s.laneReduce op f scan = .next (s.laneFinish op f (laneEf op f s.sq.fmt) true res) ∧
      LanesGive (s.sq.runs f.m) res (reduceRes s.sq f (laneEf op f s.sq.fmt) scan) := by
  rw [State.laneReduce, laneIssue_ok s op f _ ok.1 ok.2, active_eq_runs]
  refine ⟨_, rfl, fun l hl _ => ?_⟩
  rw [List.map_map, listAt_lanes _ _ hl]
  cases scan with
  | false => rfl
  | true =>
    simp only [Function.comp_apply, reduceRes, activeLanes_eq, if_true]
    congr 1
    cases List.find? _ (reduceOuts s.sq f (laneEf op f s.sq.fmt) true (lanesOn (s.sq.runs f.m))) <;> rfl

theorem reduce_completes {s : State} {op : LaneOp} {f : LaneForm} {i : Instr} {scan : Bool} (ok : LaneOk s op f)
    (run : exec i s = s.laneReduce op f scan) :
    LaneCompletes s i op f (laneEf op f s.sq.fmt) (reduceRes s.sq f (laneEf op f s.sq.fmt) scan) := by
  obtain ⟨res, ends, gives⟩ := laneReduce_ok ok scan
  exact laneFinish_completes (run.trans ends) gives (fun _ => ⟨_, fun _ => rfl⟩)

-- VBFPQ (07 R163) --------------------------------------------------------------------------------------------------------------

/-- The block of a squad's active lanes: its exponent, its mantissas and the flags. -/
abbrev squadBlock (x : Squad) (f : LaneForm) : Nat × List Int × BitVec 6 :=
  bfpq (lanes32.map (fun l => if bitAt (x.runs f.m) l then x.fval f.va (laneEf 0x71 f x.fmt) l else .num false 0 0))
    (f.mod.arg.toNat % 16)

/-- What VBFPQ writes to lane j: a plane of the mantissas, or the exponent. -/
abbrev blockLane (q : Nat × List Int × BitVec 6) (n j : Nat) : Nat := if j < n then plane q.2.1 j else if j = 31 then q.1 else 0

/-- x with the block written to the lanes of a mask of vd and its flags merged; VBFPQ's mask is that of every lane. -/
def Squad.blockEnd (x : Squad) (mask : BitVec 32) (f : LaneForm) : Squad :=
  { x with
    vregs := (x.writeLanes mask f.vd.vreg false
      (lanes32.map (fun j => bits (BitVec.ofNat 64 (blockLane (squadBlock x f) (f.mod.arg.toNat % 16) j))))).vregs
    fflags := x.fflags ||| (squadBlock x f).2.2 }

theorem blockEnd_only (x : Squad) (mask : BitVec 32) (f : LaneForm) : LaneRegsOnly x (x.blockEnd mask f) := rfl

section
variable {s : State} {f : LaneForm} (ok : LaneOk s 0x71 f)
include ok

/-- With no lane active, VBFPQ goes on. -/
theorem exec_vbfpq_idle (idle : s.sq.runs f.m = 0) :
    exec (.vbfpq f) s = .next (s.setSq (s.sq.laneAdvance (markerOf 0x71 f s.sq))) := by
  change execVbfpq f s = _
  rw [execVbfpq, laneIssue_ok s _ f _ ok.1 ok.2, active_eq_runs]
  exact if_pos idle

/-- Where the block raises an enabled flag, VBFPQ traps in every active lane. -/
theorem exec_vbfpq_traps (some_ : s.sq.runs f.m ≠ 0) (raised : slice (squadBlock s.sq f).2.2 0 5 &&& fmtTE s.sq.fmt ≠ 0) :
    exec (.vbfpq f) s = .next (s.trapL f.m 0x08 (s.sq.runs f.m) ((slice (squadBlock s.sq f).2.2 0 5).setWidth 64)
      (laneTdst 0x71 f (laneEf 0x71 f s.sq.fmt))) := by
  change execVbfpq f s = _
  rw [execVbfpq, laneIssue_ok s _ f _ ok.1 ok.2, active_eq_runs]
  exact (if_neg some_).trans (if_pos raised)

/-- Else it writes the block. -/
theorem exec_vbfpq_writes (some_ : s.sq.runs f.m ≠ 0) (quiet : ¬ slice (squadBlock s.sq f).2.2 0 5 &&& fmtTE s.sq.fmt ≠ 0) :
    exec (.vbfpq f) s = .next (s.setSq ((s.sq.blockEnd 0xFFFFFFFF f).laneAdvance (markerOf 0x71 f s.sq))) := by
  change execVbfpq f s = _
  rw [execVbfpq, laneIssue_ok s _ f _ ok.1 ok.2, active_eq_runs]
  refine (if_neg some_).trans ((if_neg quiet).trans ?_)
  dsimp only
  rw [writeLanes_frame]
  rfl

end

/-- A trap is taken alike where the squad's own record was written back. -/
theorem raise_setSq_self (s : State) (t : TrapInfo) : (s.setSq s.sq).raise s.actor t = s.raise s.actor t := by
  have record : (s.setSq s.sq).squad s.actor = s.squad s.actor := sq_setSq s s.sq
  have again (x : Squad) : (s.setSq s.sq).setSquad s.actor x = s.setSquad s.actor x := setSquad_setSquad s _ _ x
  unfold State.raise
  simp only [record, again]

/-- What a squad that has written its block, and goes on, differs in. -/
theorem blockEnd_writes (s : State) (f : LaneForm) (m : Bool) {mask : BitVec 32} (every : ∀ l, l < 32 → bitAt mask l = true) :
    let t := s.setSq ((s.sq.blockEnd mask f).laneAdvance m)
    let q := squadBlock s.sq f
    OnlySquad s t ∧ LaneGoes s.sq t.sq m ∧
      (∀ j, j < 32 → t.sq.readV f.vd.vreg j = BitVec.ofNat 32 (blockLane q (f.mod.arg.toNat % 16) j)) ∧
      (∀ c, (∀ l, l < 32 → c ≠ s.sq.vcell f.vd.vreg l) → cellGet t.sq.vregs c = cellGet s.sq.vregs c) ∧
      t.sq = { s.sq.withLaneOf t.sq with vregs := t.sq.vregs, fflags := s.sq.fflags ||| q.2.2 } := by
  intro t q
  have record : t.sq = (s.sq.blockEnd mask f).laneAdvance m := sq_setSq s _
  have moves := laneAdvance_frame (s.sq.blockEnd mask f) m
  have goes := (blockEnd_only s.sq mask f).laneGoes (laneGoes_laneAdvance _ m)
  rw [← record] at moves goes
  generalize t.sq = y at moves goes ⊢
  let res := fun j => bits (BitVec.ofNat 64 (blockLane q (f.mod.arg.toNat % 16) j))
  have cells : y.vregs = (s.sq.writeLanes mask f.vd.vreg false (lanes32.map res)).vregs := by rw [moves]; rfl
  obtain ⟨written, kept, -⟩ := wroteLanes (x := s.sq)
    (y := { y with fflags := s.sq.fflags ||| orFlags mask (lanes32.map res) }) (on := fun _ => true) (g := res) cells
    (by rw [moves]; rfl) (by rw [moves]; rfl) rfl every (fun l hl _ => listAt_lanes res {} hl)
  refine ⟨onlySquad_setSq s _, goes, fun j hj => ?_,
    fun c other => kept c fun l hl _ => ⟨other l hl, fun h => absurd h (by decide)⟩, ?_⟩
  · refine ((written j hj rfl).1 rfl).trans ?_
    exact BitVec.eq_of_toNat_eq (by simp [res, bits])
  · rw [cells]
    exact moves

theorem someTraps_block (x : Squad) (f : LaneForm) (fl : BitVec 6) :
    SomeTraps x f (fun _ => (⟨0, fl⟩ : LaneRes).traps (fmtTE x.fmt)) ↔ x.runs f.m ≠ 0 ∧ slice fl 0 5 &&& fmtTE x.fmt ≠ 0 := by
  rw [mask_ne_zero_iff, ← traps_iff ⟨0, fl⟩]
  exact ⟨fun ⟨l, hl, on, raised⟩ => ⟨⟨l, hl, on⟩, raised⟩, fun ⟨⟨l, hl, on⟩, raised⟩ => ⟨l, hl, on, raised⟩⟩

/-- Every active lane takes the block's trap. -/
theorem floatTrap_block {s : State} (can : CanTrap s) (f : LaneForm) (fl : BitVec 6) (tdst : BitVec 64)
    (some_ : s.sq.runs f.m ≠ 0) (raised : slice fl 0 5 &&& fmtTE s.sq.fmt ≠ 0) :
    FloatTrap s (s.trapL f.m 0x08 (s.sq.runs f.m) ((slice fl 0 5).setWidth 64) tdst) s.sq f tdst
      (fun _ => (⟨0, fl⟩ : LaneRes).traps (fmtTE s.sq.fmt)) (fun _ => ⟨0, fl⟩) := by
  rw [State.trapL, ← raise_setSq_self]
  have all := (traps_iff ⟨0, fl⟩ _).2 raised
  obtain ⟨k, hk, on⟩ := (mask_ne_zero_iff _).1 some_
  refine floatTrap_raise can (laneRegsOnly_refl _) (fun l _ => by rw [all, Bool.and_true]) (fun i => ?_) tdst
  rw [Bool.eq_iff_iff, List.any_eq_true]
  refine ⟨fun h => ⟨k, List.mem_range.2 hk, Bool.and_eq_true_iff.2 ⟨on, h⟩⟩, fun ⟨l, _, h⟩ => (Bool.and_eq_true_iff.1 h).2⟩

/-- Settles O29: the reductions as words whose lanes all carry the squad's flags, VBFPQ by its three ends. -/
theorem wholeSquadWords : Obligations.WholeSquadWords := by
  intro s f _
  refine ⟨fun ok => reduce_completes ok rfl, fun ok => reduce_completes ok rfl, fun ok => ?_⟩
  intro n e q res trap
  have trapped : SomeTraps s.sq f trap ↔ _ := someTraps_block s.sq f q.2.2
  refine ⟨fun idle => ⟨_, exec_vbfpq_idle ok idle, ?_⟩, fun some_ none_ => ?_, fun traps can => ?_⟩
  · rw [sq_setSq]
    exact ⟨onlySquad_setSq _ _, laneGoes_laneAdvance _ _, laneAdvance_frame _ _⟩
  · have quiet := fun raised => none_ (trapped.2 ⟨some_, raised⟩)
    exact ⟨_, exec_vbfpq_writes ok some_ quiet, blockEnd_writes s f _ ((mask_eq_allOnes_iff _).1 rfl)⟩
  · obtain ⟨some_, raised⟩ := trapped.1 traps
    exact ⟨_, exec_vbfpq_traps ok some_ raised, floatTrap_block can f _ _ some_ raised⟩

end Sys2Proof.Machine
end

section
/-! The mask logic words (08 R169) and VIMM (07 R155). -/

namespace Sys2Proof.Machine

-- Mask logic ---------------------------------------------------------------------------------------------------------------------

/-- A squad whose mask register d holds v, and which goes on. -/
theorem maskWrites_writeM (s : State) (d : BitVec 4) (v : BitVec 32) (m : Bool) :
    MaskWrites s (s.setSq ((s.sq.writeM d v).laneAdvance m)) d v (fun _ => false) m := by
  have only : LaneRegsOnly s.sq (s.sq.writeM d v) := rfl
  have moves := laneAdvance_frame (s.sq.writeM d v) m
  have goes := only.laneGoes (laneGoes_laneAdvance _ m)
  unfold MaskWrites
  rw [sq_setSq]
  generalize (s.sq.writeM d v).laneAdvance m = y at moves goes ⊢
  have reads (n : BitVec 4) : y.readM n = (s.sq.writeM d v).readM n := by rw [moves]; rfl
  have flags : y.fflags = s.sq.fflags := by rw [moves]; rfl
  have cells : y.masks = (s.sq.writeM d v).masks := by rw [moves]; rfl
  refine ⟨(reads d).trans (readM_writeM_same ..), fun n hn => (reads n).trans (readM_writeM_ne _ _ _ _ hn), fun i _ => ?_, goes, ?_,
    onlySquad_setSq s y⟩
  · rw [flags, Bool.or_false]
  · rw [cells, flags]
    exact moves

/-- A mask logic word sets its register to the value it gives. -/
theorem maskLogic_writes {s : State} {f : LaneForm} {d : BitVec 4} (hd : f.vd = .msk d) {i : Instr} {v : BitVec 32}
    (run : exec i s = s.maskLogic f v) :
    ∃ t, exec i s = .next t ∧ MaskWrites s t d v (fun _ => false) (f.s = 1) := by
  have reg : f.vd.mreg = d := by rw [hd]; rfl
  rw [State.maskLogic, reg] at run
  exact ⟨_, run, maskWrites_writeM s d v _⟩

/-- The value each mask logic word gives, bit by bit. -/
theorem maskRows_run : ∀ e ∈ maskRows, ∀ (s : State) (f : LaneForm), ∃ v, exec (e.1 f) s = s.maskLogic f v ∧
    ∀ l, l < 32 → v.getLsbD l = e.2 ((s.sq.readM f.va.mreg).getLsbD l) ((s.sq.readM f.vb.mreg).getLsbD l) := by
  simp only [maskRows, List.forall_mem_cons, List.not_mem_nil, false_implies, implies_true, and_true]
  refine ⟨fun s f => ⟨_, rfl, fun l _ => ?_⟩, fun s f => ⟨_, rfl, fun l _ => ?_⟩, fun s f => ⟨_, rfl, fun l _ => ?_⟩,
    fun s f => ⟨_, rfl, fun l hl => ?_⟩, fun s f => ⟨_, rfl, fun l hl => ?_⟩⟩
  · exact BitVec.getLsbD_and
  · exact BitVec.getLsbD_or
  · exact BitVec.getLsbD_xor
  · simp [hl]
  · simp [hl]

-- VIMM ---------------------------------------------------------------------------------------------------------------------------

/-- VIMM's immediate as an element of format e. -/
def immElem (e : Nat) (imm : BitVec 32) : BitVec 64 :=
  if e = 10 then imm.signExtend 64
  else if efInt e then intWrite e (intRead e (imm.setWidth 64))
  else BitVec.ofNat 64 (imm.toNat % 2 ^ efBits e)

/-- A datum read and written back in one integer format is its low bits, extended. -/
theorem intWrite_intRead (e : Nat) (a : BitVec 64) :
    intWrite e (intRead e a) = intWrite e (a.toNat % 2 ^ efBits e : Nat) := by
  have same : wrapNat (efBits e) (intRead e a) = wrapNat (efBits e) (a.toNat % 2 ^ efBits e : Nat) := by
    unfold wrapNat intRead
    dsimp only
    split
    · push_cast
      rw [Int.sub_emod_right]
    · rfl
  unfold intWrite
  rw [same]

/-- The bits of an integer immediate: its low ones, then those that extend it. -/
theorem immElem_bits {e : Nat} (lo : 1 ≤ e) (hi : e ≤ 6) (imm : BitVec 32) (i : Nat) : (immElem e imm).getLsbD i =
    if i < efBits e then imm.getLsbD i else decide (i < 32) && efSigned e && imm.getLsbD (efBits e - 1) := by
  have int : efInt e = true := by interval_cases e <;> rfl
  have width : 1 ≤ efBits e ∧ efBits e ≤ 32 := by obtain ⟨-, h | h | h⟩ := intFormat_cases lo hi <;> omega
  have low (i : Nat) (h : i < efBits e) : ((imm.setWidth 64).toNat % 2 ^ efBits e).testBit i = imm.getLsbD i := by
    have inside : i < 64 := by omega
    simp [Nat.testBit_mod_two_pow, -BitVec.toNat_setWidth, BitVec.testBit_toNat, h, inside]
  rw [immElem, if_neg (by omega), if_pos int, intWrite_intRead, intWrite_bits lo hi (Nat.mod_lt _ (Nat.two_pow_pos _)),
    low (efBits e - 1) (by omega)]
  split
  · next h => exact low i h
  · rfl

/-- A signed immediate narrower than a lane register is extended by its sign. -/
theorem immElem_signed {e : Nat} (lo : 1 ≤ e) (hi : e ≤ 3) (imm : BitVec 32) :
    immElem e imm = ((imm.setWidth (efBits e)).signExtend 32).setWidth 64 := by
  have width : 1 ≤ efBits e ∧ efBits e ≤ 32 := by obtain ⟨-, h | h | h⟩ := intFormat_cases lo (by omega) <;> omega
  refine BitVec.eq_of_getLsbD_eq fun i hi64 => ?_
  rw [immElem_bits lo (by omega)]
  by_cases inside : i < efBits e
  · have below : i < 32 := by omega
    rw [BitVec.getLsbD_setWidth, BitVec.getLsbD_signExtend, BitVec.getLsbD_setWidth]
    simp [inside, hi64, below]
  · have sign : efSigned e = true := decide_eq_true hi
    have positive : 0 < efBits e := width.1
    simp [BitVec.getLsbD_signExtend, BitVec.msb_eq_getLsbD_last, inside, hi64, positive, sign]

/-- An unsigned one by zeros. -/
theorem immElem_unsigned {e : Nat} (lo : 4 ≤ e) (hi : e ≤ 6) (imm : BitVec 32) :
    immElem e imm = (imm.setWidth (efBits e)).setWidth 64 := by
  refine BitVec.eq_of_getLsbD_eq fun i hi64 => ?_
  have sign : efSigned e = false := decide_eq_false (by omega)
  rw [immElem_bits (by omega) hi, sign]
  by_cases inside : i < efBits e <;> simp [inside, hi64]

/-- An immediate of a floating-point format narrower than a pair is its low bits. -/
theorem immElem_float {e : Nat} (lo : 7 ≤ e) (hi : e ≤ 9) (imm : BitVec 32) : immElem e imm = (imm.setWidth (efBits e)).setWidth 64 := by
  have float : efInt e = false := by interval_cases e <;> rfl
  have width : efBits e ≤ 64 := by interval_cases e <;> decide
  rw [immElem, if_neg (by omega), float, if_neg Bool.false_ne_true]
  refine BitVec.eq_of_toNat_eq ?_
  rw [BitVec.toNat_ofNat, BitVec.toNat_setWidth, BitVec.toNat_setWidth]

/-- The immediate by the code of its format. -/
theorem immElem_of_format (e : Nat) (imm : BitVec 32) : let v := immElem e imm
    (e = 10 → v = imm.signExtend 64) ∧ (e = 3 ∨ e = 6 ∨ e = 9 → v = imm.setWidth 64) ∧
      (e = 1 → v = ((imm.setWidth 8).signExtend 32).setWidth 64) ∧ (e = 2 → v = ((imm.setWidth 16).signExtend 32).setWidth 64) ∧
      (e = 4 → v = (imm.setWidth 8).setWidth 64) ∧ (e = 5 ∨ e = 7 ∨ e = 8 → v = (imm.setWidth 16).setWidth 64) := by
  have whole : (imm.setWidth 32).setWidth 64 = imm.setWidth 64 := by rw [BitVec.setWidth_eq]
  refine ⟨fun h => if_pos h, ?_, ?_, ?_, ?_, ?_⟩
  · rintro (rfl | rfl | rfl)
    · exact (immElem_signed (by decide) (by decide) imm).trans ((congrArg _ (BitVec.signExtend_eq _)).trans whole)
    · exact (immElem_unsigned (by decide) (by decide) imm).trans whole
    · exact (immElem_float (by decide) (by decide) imm).trans whole
  · rintro rfl; exact immElem_signed (by decide) (by decide) imm
  · rintro rfl; exact immElem_signed (by decide) (by decide) imm
  · rintro rfl; exact immElem_unsigned (by decide) (by decide) imm
  · rintro (rfl | rfl | rfl)
    · exact immElem_unsigned (by decide) (by decide) imm
    · exact immElem_float (by decide) (by decide) imm
    · exact immElem_float (by decide) (by decide) imm

/-- VIMM's fields as the lane word they stand for. -/
abbrev vimmForm (m : BitVec 1) (mk : BitVec 4) (vd : BitVec 11) (ef : BitVec 4) : LaneForm :=
  ⟨m, mk, .vec vd, .unused, .unused, .unused, ⟨ef, 0, 0, 0, 0, 0⟩⟩

/-- VIMM, its register below VWS and its format legal, ends by writing its immediate to the active lanes. -/
theorem exec_vimm {s : State} {vd : BitVec 11} (low : vd.toNat < s.sq.vws) (ok : vimmOk s.sq.fmt vd = true) (m : BitVec 1)
    (mk : BitVec 4) (imm : BitVec 32) :
    let e := (fmtEF s.sq.fmt).toNat
    exec (.vimm m mk vd imm) s = .next (s.laneFinish 0x27 (vimmForm m mk vd (fmtEF s.sq.fmt)) e false
      (activeRes (s.sq.runs mk) (fun _ => ⟨immElem e imm, 0⟩))) := by
  intro e
  change execVimm m mk vd imm s = _
  simp only [execVimm, if_neg (Nat.not_le.2 low), ok, if_false, Bool.true_eq_false, active_eq_runs]
  rfl

theorem vimmOk_of_format {fmt : BitVec 14} {vd : BitVec 11} (lo : 1 ≤ (fmtEF fmt).toNat) (hi : (fmtEF fmt).toNat ≤ 10)
    (even : (fmtEF fmt).toNat = 10 → vd.toNat % 2 = 0) : vimmOk fmt vd = true := by
  have odd : bitAt vd 0 = decide (vd.toNat % 2 = 1) := by rw [bitAt, ← BitVec.testBit_toNat, Nat.testBit_zero]
  unfold vimmOk
  simp only [odd, decide_eq_true_eq, Bool.not_eq_true', decide_eq_false_iff_not]
  omega

/-- Results that raise no flag trap no lane. -/
theorem trapLanes_of_no_flags {act : BitVec 32} {res : List LaneRes} {g : Nat → LaneRes} (gives : LanesGive act res g)
    (none_ : ∀ l, (g l).flags = 0) (te : BitVec 5) : trapLanes act te res = 0 := by
  refine not_not.1 (mt (gives.trapLanes_ne_zero_iff te).1 fun ⟨l, _, _, raised⟩ => ?_)
  rw [traps_iff, none_ l] at raised
  exact raised BitVec.zero_and

/-- Settles O27: the five mask logic words are one shared end; VIMM's elements by the width and sign of FMT.EF. -/
theorem maskLogicAndImmediate : Obligations.MaskLogicAndImmediate := by
  refine ⟨fun row member s f d hd _ => ?_, ?_⟩
  · obtain ⟨v, run, bits⟩ := maskRows_run row member s f
    obtain ⟨t, run, writes⟩ := maskLogic_writes hd run
    exact ⟨t, v, run, writes, bits⟩
  · intro s m mk vd imm low _ e lo hi even
    have gives : LanesGive (s.sq.runs mk) (activeRes (s.sq.runs mk) (fun _ => ⟨immElem e imm, 0⟩)) (fun _ => ⟨immElem e imm, 0⟩) :=
      lanesGive_activeRes _ _
    have none_ := trapLanes_of_no_flags gives (fun _ => rfl) (fmtTE s.sq.fmt)
    have marker : markerOf 0x27 (vimmForm m mk vd (fmtEF s.sq.fmt)) s.sq = decide (m = 1) := by simp [markerOf]
    refine ⟨_, immElem e imm, (exec_vimm low (vimmOk_of_format lo hi even) m mk imm).trans
      (congrArg _ (laneFinish_goes (f := vimmForm m mk vd (fmtEF s.sq.fmt)) 0x27 e false none_)), ?_, immElem_of_format e imm⟩
    rw [marker]
    exact laneWrites_laneEnd (f := vimmForm m mk vd (fmtEF s.sq.fmt)) gives (decide (e = 10)) (decide (m = 1))

end Sys2Proof.Machine
end

section
/-! The words of major 0x09 that write a scalar register (08 R169, R170; 02 R48). -/

namespace Sys2Proof.Machine

/-- Such a word leaves its value outstanding for sd and parks. -/
theorem laneScalar_leaves {s : State} {f : LaneForm} {i : Instr} {v : BitVec 64} (run : exec i s = s.laneScalar f v) :
    ∃ t, exec i s = .next t ∧
      LaneLeaves s t true .ordinary 0 [(.value (s.sq.dstS f.vd.sreg) v, none)] (fun _ => false) 0x1800 :=
  ⟨_, run, laneLeaves_issue s _ (fun _ _ => BitVec.getLsbD_zero) _ _ _ _⟩

/-- The lanes of a mask of the first 32 numbers are counted in 64 bits. -/
theorem popc_toNat (m : BitVec 32) : (BitVec.ofNat 64 (popcNat 32 m.toNat)).toNat = (lanesOn m).length := by
  have few : (lanesOn m).length ≤ 32 := (List.length_filter_le ..).trans_eq List.length_range
  have count : popcNat 32 m.toNat = (lanesOn m).length := popcNat_eq 32 m.toNat
  rw [count, BitVec.toNat_ofNat, Nat.mod_eq_of_lt (by omega)]

/-- The lowest lane of a mask, 32 when it has none. -/
theorem ctz_toNat (m : BitVec 32) :
    (BitVec.ofNat 64 (ctzNat 32 m.toNat)).toNat = (List.range 32).findIdx (fun l => bitAt m l) := by
  obtain ⟨most, below, at_⟩ := ctzNat_spec 32 m.toNat
  rw [BitVec.toNat_ofNat, Nat.mod_eq_of_lt (by omega)]
  symm
  rcases Nat.lt_or_eq_of_le most with some_ | none_
  · refine (List.findIdx_eq (by simpa using some_)).2 ⟨?_, fun j hj => ?_⟩
    · rw [List.getElem_range]
      exact at_ some_
    · rw [List.getElem_range]
      exact below j hj
  · rw [none_]
    refine (List.findIdx_eq_length_of_false fun l hl => ?_).trans List.length_range
    exact below l (by rw [none_]; exact List.mem_range.1 hl)

-- VOTE ---------------------------------------------------------------------------------------------------------------------------

/-- The LANEID that an operation picks of some lanes', -1 where there is none. -/
def pickId (pick : Nat → Nat → Nat) (ids : List Nat) : BitVec 64 :=
  match ids with
  | [] => -1
  | i :: rest => BitVec.ofNat 64 (rest.foldl pick i)

/-- What VOTE's operation k gives of the lanes of a among those of act. -/
def voteValue (x : Squad) (a act : BitVec 32) (k : Nat) : BitVec 64 :=
  match k with
  | 0 => aluSet (a ≠ 0)
  | 1 => aluSet (a = act)
  | 2 => aluSet (a = 0 ∨ a = act)
  | 3 => BitVec.ofNat 64 (popcNat 32 a.toNat)
  | 4 => pickId min (x.ids a)
  | _ => pickId max (x.ids a)

theorem exec_vote (s : State) (f : LaneForm) : exec (.vote f) s =
    s.laneScalar f (voteValue s.sq (s.sq.runs f.m &&& s.sq.readM f.va.mreg) (s.sq.runs f.m) (f.mod.arg.toNat % 8)) := by
  rw [← active_eq_runs]
  rfl

theorem ids_eq_nil_iff (x : Squad) (a : BitVec 32) : x.ids a = [] ↔ a = 0 := by
  rw [mask_eq_zero_iff, Squad.ids, List.map_eq_nil_iff, lanesOn, List.filter_eq_nil_iff]
  exact forall_congr' fun l => by rw [List.mem_range, Bool.not_eq_true]

/-- A LANEID that is picked of some lanes' is the value itself, having 32 bits. -/
theorem pickId_toNat {pick : Nat → Nat → Nat} {x : Squad} {a : BitVec 32} {i : Nat} {rest : List Nat} (h : x.ids a = i :: rest)
    (among : rest.foldl pick i ∈ x.ids a) : (pickId pick (x.ids a)).toNat = rest.foldl pick i := by
  have small : rest.foldl pick i < 2 ^ 32 := by
    obtain ⟨l, _, hl⟩ := List.mem_map.1 among
    exact hl ▸ BitVec.isLt _
  rw [h, pickId, BitVec.toNat_ofNat, Nat.mod_eq_of_lt (by omega)]

theorem pickId_none {pick : Nat → Nat → Nat} {x : Squad} {a : BitVec 32} (none_ : a = 0) : pickId pick (x.ids a) = -1 := by
  rw [(ids_eq_nil_iff x a).2 none_]
  rfl

theorem pickId_min {x : Squad} {a : BitVec 32} (some_ : a ≠ 0) :
    (pickId min (x.ids a)).toNat ∈ x.ids a ∧ ∀ i ∈ x.ids a, (pickId min (x.ids a)).toNat ≤ i := by
  obtain ⟨i, rest, h⟩ := List.exists_cons_of_ne_nil (mt (ids_eq_nil_iff x a).1 some_)
  have least := List.min?_eq_some_iff.1 (h ▸ List.min?_cons' : (x.ids a).min? = some (rest.foldl min i))
  rw [pickId_toNat h least.1]
  exact least

theorem pickId_max {x : Squad} {a : BitVec 32} (some_ : a ≠ 0) :
    (pickId max (x.ids a)).toNat ∈ x.ids a ∧ ∀ i ∈ x.ids a, i ≤ (pickId max (x.ids a)).toNat := by
  obtain ⟨i, rest, h⟩ := List.exists_cons_of_ne_nil (mt (ids_eq_nil_iff x a).1 some_)
  have greatest := List.max?_eq_some_iff.1 (h ▸ List.max?_cons' : (x.ids a).max? = some (rest.foldl max i))
  rw [pickId_toNat h greatest.1]
  exact greatest

-- The other words ------------------------------------------------------------------------------------------------------------------

theorem exec_ballotLane (s : State) (f : LaneForm) :
    exec (.ballotLane f) s = s.laneScalar f ((s.sq.runs f.m &&& s.sq.readM f.va.mreg).setWidth 64) := by
  rw [← active_eq_runs]
  rfl

theorem exec_ballotId (s : State) (f : LaneForm) : exec (.ballotId f) s = s.laneScalar f (BitVec.ofNat 64
    (((List.range 64).map (fun i => if (s.sq.ids (s.sq.runs f.m &&& s.sq.readM f.va.mreg)).contains
      ((s.sq.readS f.vb.sreg).toNat + i) then 2 ^ i else 0)).sum)) := by
  rw [← active_eq_runs]
  rfl

/-- The value of each of these words, as its row says it. -/
theorem voteRows_run : ∀ e ∈ voteRows, ∀ (s : State) (f : LaneForm), e.2.1 f → ∃ v, exec (e.1 f) s = s.laneScalar f v ∧
    e.2.2 s.sq f (s.sq.runs f.m &&& s.sq.readM f.va.mreg) (s.sq.runs f.m) v := by
  have vote {k : Nat} (s : State) (f : LaneForm) (op : f.mod.arg.toNat % 8 = k) : exec (.vote f) s =
      s.laneScalar f (voteValue s.sq (s.sq.runs f.m &&& s.sq.readM f.va.mreg) (s.sq.runs f.m) k) := op ▸ exec_vote s f
  simp only [voteRows, List.forall_mem_cons, List.not_mem_nil, false_implies, implies_true, and_true]
  refine ⟨fun s f op => ⟨_, vote s f op, ?_⟩, fun s f op => ⟨_, vote s f op, aluSet_eq _⟩, fun s f op => ⟨_, vote s f op, aluSet_eq _⟩,
    fun s f op => ⟨_, vote s f op, popc_toNat _⟩, fun s f op => ⟨_, vote s f op, pickId_none, pickId_min⟩,
    fun s f op => ⟨_, vote s f op, pickId_none, pickId_max⟩, fun s f _ => ⟨_, exec_ballotLane s f, rfl⟩,
    fun s f _ => ⟨_, exec_ballotId s f, fun i hi => ?_⟩, fun s f _ => ⟨_, rfl, popc_toNat _⟩, fun s f _ => ⟨_, rfl, ctz_toNat _⟩⟩
  · exact (aluSet_eq _).trans (ite_not ..)
  · rw [BitVec.getLsbD_ofNat, decide_eq_true hi, Bool.true_and, (testBit_sum_two_pow _ 64).2 i hi]

/-- Settles O30: each word's value by its row, and one shared end. -/
theorem voteWords : Obligations.VoteWords := by
  intro row member s f op _
  obtain ⟨v, run, value⟩ := voteRows_run row member s f op
  obtain ⟨t, run, leaves⟩ := laneScalar_leaves run
  exact ⟨t, v, run, value, leaves⟩

end Sys2Proof.Machine
end

section
/-! The divergence words (08 R172, R173): arriving at the collective, and taking effect at once within a handler (08 R183). -/

namespace Sys2Proof.Machine

/-- The squad waiting at the divergence word w, its region ended. -/
def Squad.waitsAt (x : Squad) (w : BitVec 96) : Squad := { x with region := none, run := .diverge w }

/-- A divergence word that passes its checks, nothing outstanding: in a handler its own effect, else the arrival. -/
theorem divArrive_ok {s : State} {op : LaneOp} {f : LaneForm} (ok : LaneOk s op f) (room : divL f ≤ s.sq.vws) (quiet : s.sq.out = [])
    (own : State → Res) : s.divArrive op f own = if s.sq.handler.isSome then own s else
      .next ((s.setSq (s.sq.waitsAt (encodeForm op f))).checkAbsent (blockOfSquad s.actor)) := by
  rw [State.divArrive, laneIssue_ok s op f _ ok.1 ok.2, if_neg (Nat.not_lt.2 room), if_neg (not_not.2 quiet)]
  rfl

/-- The words of a block whose squads are all present wait on, whoever is still to come. -/
theorem checkAbsent_of_present {s : State} {b : Nat} (present : ∀ q ∈ s.squadsOf b, (s.squad q).absent = false) : s.checkAbsent b = s := by
  refine if_neg fun ⟨_, some_, all⟩ => some_ (List.filter_eq_self.2 fun q hq => ?_)
  have at_ := List.all_eq_true.1 all q hq
  rw [present q (List.mem_filter.1 hq).1, Bool.or_false, List.contains_iff_mem] at at_
  exact (List.mem_filter.1 at_).2

/-- A squad that arrives, all squads of its block being present, waits at its word. -/
theorem arrival_waits {s : State} (w : BitVec 96)
    (present : (s.squadsOf (blockOfSquad s.actor)).all (fun q => !(s.squad q).absent) = true) :
    (s.setSq (s.sq.waitsAt w)).checkAbsent (blockOfSquad s.actor) = s.setSq (s.sq.waitsAt w) := by
  refine checkAbsent_of_present fun q hq => ?_
  by_cases own : q = s.actor
  · subst own
    exact congrArg Squad.absent (sq_setSq s _)
  · rw [squad_setSq_ne s _ q own]
    simpa using List.all_eq_true.1 present q hq

/-- The constructor of each divergence word, and what it does in a handler. -/
theorem divergeRows_run : ∀ e ∈ divergeRows, ∀ (s : State) (f : LaneForm), ∃ own, exec (e.2 f) s = s.divArrive e.1 f own := by
  simp only [divergeRows, List.forall_mem_cons, List.not_mem_nil, false_implies, implies_true, and_true]
  exact ⟨fun _ f => ⟨State.ownDivb f, rfl⟩, fun _ f => ⟨State.ownElseb f, rfl⟩, fun _ f => ⟨State.ownRecv f, rfl⟩,
    fun _ _ => ⟨fun u => .next (u.divDouble 3), rfl⟩⟩

-- In a handler (08 R183) -----------------------------------------------------------------------------------------------------------

section
variable {s : State} {op : LaneOp} {f : LaneForm} {k : Marker} (inHandler : s.sq.handler = some k) (quiet : s.sq.out = [])
include inHandler quiet

theorem divArrive_in_handler (ok : LaneOk s op f) (room : divL f ≤ s.sq.vws) (own : State → Res) : s.divArrive op f own = own s := by
  rw [divArrive_ok ok room quiet, inHandler]
  rfl

theorem exec_divb_in_handler (ok : LaneOk s 0xA0 f) (none_ : divL f = 0) (free : s.entriesInUse (blockOfSquad s.actor) ≠ 32) :
    exec (.divb f) s = .next (s.setSq ({ s.sq.writeM 0 (s.sq.readM 0 &&& s.sq.readM f.va.mreg) with
      seg := ⟨s.sq.readM 0, s.sq.readM 0 &&& ~~~(s.sq.readM f.va.mreg), s.sq.fmt, false⟩ :: s.sq.seg }.laneAdvance (f.s = 1))) := by
  refine (divArrive_in_handler inHandler quiet ok (none_ ▸ Nat.zero_le _) (State.ownDivb f)).trans ?_
  exact (if_neg (not_not.2 none_)).trans (if_neg free)

theorem exec_elseb_in_handler {x : HandlerEntry} {rest : List HandlerEntry} (top : s.sq.seg = x :: rest) (first : x.els = false)
    (ok : LaneOk s 0xA1 f) (room : divL f ≤ s.sq.vws) : exec (.elseb f) s =
      .next (s.setSq ({ s.sq.writeM 0 x.f with seg := { x with els := true } :: rest, fmt := x.fmt }.laneAdvance (f.s = 1))) := by
  refine (divArrive_in_handler inHandler quiet ok room (State.ownElseb f)).trans ?_
  unfold State.ownElseb
  simp only [top, first, Bool.false_eq_true, if_false]

theorem exec_recv_in_handler {x : HandlerEntry} {rest : List HandlerEntry} (top : s.sq.seg = x :: rest)
    (ok : LaneOk s 0xA2 f) (room : divL f ≤ s.sq.vws) : exec (.recv f) s =
      .next (s.setSq ({ s.sq.writeM 0 x.e with seg := rest, fmt := x.fmt }.laneAdvance (f.s = 1))) := by
  refine (divArrive_in_handler inHandler quiet ok room (State.ownRecv f)).trans ?_
  unfold State.ownRecv
  simp only [top]

end

/-- A squad whose m0, segment and FMT are written, and which goes on. -/
theorem goes_with_entry (s : State) (v : BitVec 32) (seg : List HandlerEntry) (fmt : BitVec 14) (m : Bool) :
    let t := s.setSq ({ s.sq.writeM 0 v with seg := seg, fmt := fmt }.laneAdvance m)
    OnlySquad s t ∧ LaneGoes s.sq t.sq m ∧ t.sq.readM 0 = v ∧ t.sq.fmt = fmt ∧ t.sq.seg = seg := by
  intro t
  have record : t.sq = ({ s.sq.writeM 0 v with seg := seg, fmt := fmt }.laneAdvance m) := sq_setSq s _
  have goes := laneGoes_laneAdvance { s.sq.writeM 0 v with seg := seg, fmt := fmt } m
  have moves := laneAdvance_frame { s.sq.writeM 0 v with seg := seg, fmt := fmt } m
  rw [← record] at goes moves
  refine ⟨onlySquad_setSq s _, goes, ?_, ?_, ?_⟩
  · rw [moves]
    exact readM_writeM_same s.sq 0 v
  · rw [moves]; rfl
  · rw [moves]; rfl

/-- Settles O32: arriving by the check of the block's squads, and within a handler by the squad's own entries. -/
theorem divergenceWords : Obligations.DivergenceWords := by
  refine ⟨fun row member s f ok room quiet outside present => ?_, fun s f k inHandler quiet _ => ⟨?_, ?_, ?_⟩⟩
  · obtain ⟨own, run⟩ := divergeRows_run row member s f
    rw [divArrive_ok ok room quiet, outside, arrival_waits _ present] at run
    exact ⟨_, run, onlySquad_setSq s _, sq_setSq s _⟩
  · intro ok none_ free
    obtain ⟨only, goes, mask, -, seg⟩ := goes_with_entry s _ _ s.sq.fmt (f.s = 1)
    exact ⟨_, exec_divb_in_handler inHandler quiet ok none_ free, only, goes, mask, seg⟩
  · intro x rest top first ok room
    obtain ⟨only, goes, mask, fmt, seg⟩ := goes_with_entry s x.f ({ x with els := true } :: rest) x.fmt (f.s = 1)
    exact ⟨_, exec_elseb_in_handler inHandler quiet top first ok room, only, goes, mask, fmt, seg⟩
  · intro x rest top ok room
    obtain ⟨only, goes, mask, fmt, seg⟩ := goes_with_entry s x.e rest x.fmt (f.s = 1)
    exact ⟨_, exec_recv_in_handler inHandler quiet top ok room, only, goes, mask, fmt, seg⟩

end Sys2Proof.Machine
end

section
/-! What a lane carries, and putting it at a position (08 R174, R179). -/

namespace Sys2Proof.Machine

-- Cells written one after another --------------------------------------------------------------------------------------------------

/-- Each key's cell rewritten by its own rule. -/
def cellsEach {w : Nat} (key : Nat → Nat) (g : Nat → BitVec w → BitVec w) (ks : List Nat) (c : Cells w) : Cells w :=
  ks.foldl (fun m k => cellPut m (key k) (g k (cellGet m (key k)))) c

section
variable {w : Nat} {key : Nat → Nat} {g : Nat → BitVec w → BitVec w} {ks : List Nat}

theorem cellGet_cellsEach_ne {i : Nat} (other : i ∉ ks.map key) (c : Cells w) : cellGet (cellsEach key g ks c) i = cellGet c i := by
  induction ks generalizing c with
  | nil => rfl
  | cons k rest ih =>
    obtain ⟨now, later⟩ := List.ne_and_not_mem_of_not_mem_cons other
    exact (ih later _).trans (cellGet_cellPut_ne _ _ _ _ now)

theorem cellGet_cellsEach {k : Nat} (once : (ks.map key).Nodup) (hk : k ∈ ks) (c : Cells w) :
    cellGet (cellsEach key g ks c) (key k) = g k (cellGet c (key k)) := by
  induction ks generalizing c with
  | nil => cases hk
  | cons j rest ih =>
    obtain ⟨fresh, once⟩ := List.nodup_cons.1 once
    rcases List.mem_cons.1 hk with rfl | later
    · exact (cellGet_cellsEach_ne fresh _).trans (cellGet_cellPut_same ..)
    · have apart : key k ≠ key j := fun e => fresh (e ▸ List.mem_map_of_mem later)
      refine (ih once later _).trans ?_
      rw [cellGet_cellPut_ne _ _ _ _ apart]

end

theorem succ_range_nodup (n : Nat) : ((List.range n).map (· + 1)).Nodup := List.nodup_range.map fun _ _ => Nat.succ.inj

theorem mem_succ_range {n i : Nat} : i ∈ (List.range n).map (· + 1) ↔ 1 ≤ i ∧ i ≤ n := by
  simp only [List.mem_map, List.mem_range]
  exact ⟨fun ⟨k, hk, e⟩ => by omega, fun h => ⟨i - 1, by omega, by omega⟩⟩

-- Taking a lane --------------------------------------------------------------------------------------------------------------------

/-- A bit of a mask collected from the powers of two of some numbers. -/
theorem bitAt_collect {w : Nat} (p : Nat → Bool) (ks : List Nat) (b : BitVec w) {i : Nat} (hi : i < w) :
    bitAt (ks.foldl (fun b k => if p k then b ||| BitVec.ofNat w (2 ^ (k + 1)) else b) b) i =
      (bitAt b i || ks.any (fun k => p k && decide (k + 1 = i))) := by
  induction ks generalizing b with
  | nil => simp
  | cons k rest ih =>
    have power : (BitVec.ofNat w (2 ^ (k + 1))).getLsbD i = decide (k + 1 = i) := by
      rw [BitVec.getLsbD_ofNat, decide_eq_true hi, Bool.true_and, Nat.testBit_two_pow]
    rw [List.foldl_cons, ih, List.any_cons]
    cases p k with
    | false => simp
    | true => simp only [if_true, bitAt, BitVec.getLsbD_or, power, Bool.true_and, Bool.or_assoc]

theorem bitAt_takeLane (x : Squad) (q l n : Nat) {i : Nat} (lo : 1 ≤ i) (hi : i < 16) :
    bitAt (x.takeLane q l n).bits i = bitAt (cellGet x.masks i) l := by
  refine (bitAt_collect (fun k => bitAt (cellGet x.masks (k + 1)) l) (List.range 15) 0#16 hi).trans ?_
  have place : i - 1 + 1 = i := by omega
  rw [bitAt, BitVec.getLsbD_zero, Bool.false_or, Bool.eq_iff_iff]
  simp only [List.any_eq_true, List.mem_range, Bool.and_eq_true, decide_eq_true_eq]
  exact ⟨fun ⟨k, _, on, e⟩ => e ▸ on, fun on => ⟨i - 1, by omega, place.symm ▸ on, place⟩⟩

theorem cellGet_takeLane (x : Squad) (q l : Nat) {n r : Nat} (hr : r < n) : cellGet (x.takeLane q l n).regs r = x.readV r l :=
  cellGet_cellsEach (key := id) (g := fun r _ => x.readV r l) (by simpa using List.nodup_range) (List.mem_range.2 hr) []

/-- A lane's place holds what the lane carried from another, as it was taken. -/
theorem carriesHeld_takeLane (x : Squad) (q l : Nat) (y : Squad) (k n : Nat) : CarriesHeld (x.takeLane q l n) y k n ↔ Carries x l y k n := by
  refine and_congr Iff.rfl (and_congr (forall_congr' fun i => ?_) (forall_congr' fun r => ?_))
  · exact forall_congr' fun lo => forall_congr' fun hi => by rw [bitAt_takeLane x q l n lo hi]
  · exact forall_congr' fun hr => by rw [cellGet_takeLane x q l hr]

theorem carries_refl (x : Squad) (l n : Nat) : Carries x l x l n := ⟨rfl, fun _ _ _ => rfl, fun _ _ => rfl⟩

theorem carriesHeld_trans {h : HeldLane} {x y : Squad} {l k n : Nat} (a : CarriesHeld h x l n) (b : Carries x l y k n) :
    CarriesHeld h y k n :=
  ⟨b.1.trans a.1, fun i lo hi => (b.2.1 i lo hi).trans (a.2.1 i lo hi), fun r hr => (b.2.2 r hr).trans (a.2.2 r hr)⟩

theorem carries_trans {x y z : Squad} {l k m n : Nat} (a : Carries x l y k n) (b : Carries y k z m n) : Carries x l z m n :=
  (carriesHeld_takeLane x 0 l z m n).1 (carriesHeld_trans ((carriesHeld_takeLane x 0 l y k n).2 a) b)

-- Putting a lane -------------------------------------------------------------------------------------------------------------------

/-- Bit l of a mask set to b. -/
def withBit (v : BitVec 32) (l : Nat) (b : Bool) : BitVec 32 :=
  if b then v ||| BitVec.ofNat 32 (2 ^ l) else v &&& ~~~(BitVec.ofNat 32 (2 ^ l))

theorem bitAt_withBit (v : BitVec 32) (l : Nat) (b : Bool) {k : Nat} (hk : k < 32) :
    bitAt (withBit v l b) k = if k = l then b else bitAt v k := by
  have power : (BitVec.ofNat 32 (2 ^ l)).getLsbD k = decide (k = l) := by
    rw [BitVec.getLsbD_ofNat, decide_eq_true hk, Bool.true_and, Nat.testBit_two_pow]
    exact decide_eq_decide.2 eq_comm
  unfold withBit
  cases b with
  | false =>
    simp only [Bool.false_eq_true, if_false, bitAt, BitVec.getLsbD_and, BitVec.getLsbD_not, power, decide_eq_true hk, Bool.true_and]
    by_cases h : k = l <;> simp [h]
  | true =>
    simp only [if_true, bitAt, BitVec.getLsbD_or, power]
    by_cases h : k = l <;> simp [h]

/-- The mask registers with a lane's bits put at position l. -/
def putBits (h : HeldLane) (l : Nat) (m : Cells 32) : Cells 32 :=
  cellsEach (· + 1) (fun k v => withBit v l (bitAt h.bits (k + 1))) (List.range 15) m

theorem foldl_writeV (x : Squad) (l : Nat) (g : Nat → BitVec 32) (rs : List Nat) :
    rs.foldl (fun z r => z.writeV r l (g r)) x =
      { x with vregs := cellsEach (fun r => x.vcell r l) (fun r _ => g r) rs x.vregs } := by
  induction rs generalizing x with
  | nil => rfl
  | cons r rest ih => exact ih (x.writeV r l (g r))

theorem putLane_eq (x : Squad) (h : HeldLane) (l n : Nat) : x.putLane h l n = { x with
    laneids := cellPut x.laneids l h.id
    masks := putBits h l x.masks
    vregs := cellsEach (fun r => x.vcell r l) (fun r _ => cellGet h.regs r) (List.range n) x.vregs } := by
  unfold Squad.putLane
  rw [foldl_writeV]
  rfl

theorem laneids_putLane (x : Squad) (h : HeldLane) (l n : Nat) : (x.putLane h l n).laneids = cellPut x.laneids l h.id := by
  rw [putLane_eq]

theorem masks_putLane (x : Squad) (h : HeldLane) (l n : Nat) : (x.putLane h l n).masks = putBits h l x.masks := by rw [putLane_eq]

theorem readV_putLane (x : Squad) (h : HeldLane) (l n r k : Nat) : (x.putLane h l n).readV r k =
    cellGet (cellsEach (fun r => x.vcell r l) (fun r _ => cellGet h.regs r) (List.range n) x.vregs) (x.vcell r k) := by
  rw [putLane_eq]
  rfl

/-- A lane's bits of m1 to m15 are put at its position alone. -/
theorem bitAt_putBits (h : HeldLane) (l : Nat) (m : Cells 32) {i k : Nat} (lo : 1 ≤ i) (hi : i < 16) (hk : k < 32) :
    bitAt (cellGet (putBits h l m) i) k = if k = l then bitAt h.bits i else bitAt (cellGet m i) k := by
  obtain ⟨j, rfl⟩ : ∃ j, i = j + 1 := ⟨i - 1, by omega⟩
  rw [putBits, cellGet_cellsEach (succ_range_nodup 15) (List.mem_range.2 (by omega)), bitAt_withBit _ _ _ hk]

/-- The position holds what the lane carries. -/
theorem carriesHeld_putLane {x : Squad} (h : HeldLane) {l n : Nat} (hl : l < 32) (room : n ≤ x.vws) :
    CarriesHeld h (x.putLane h l n) l n := by
  refine ⟨?_, fun i lo hi => ?_, fun r hr => ?_⟩
  · rw [laneids_putLane, cellGet_cellPut_same]
  · rw [masks_putLane, bitAt_putBits h l _ lo hi hl, if_pos rfl]
  · have once : ((List.range n).map (fun r => x.vcell r l)).Nodup := List.nodup_range.map_on fun a ha b hb e =>
      (vcell_inj x a b l l ((List.mem_range.1 ha).trans_le room) ((List.mem_range.1 hb).trans_le room) hl hl e).1
    rw [readV_putLane, cellGet_cellsEach once (List.mem_range.2 hr)]

/-- Every other position holds what it held. -/
theorem carries_putLane_ne (x : Squad) (h : HeldLane) {l k : Nat} (hl : l < 32) (hk : k < 32) (apart : k ≠ l) (n m : Nat) :
    Carries x k (x.putLane h l n) k m := by
  refine ⟨?_, fun i lo hi => ?_, fun r _ => ?_⟩
  · rw [laneids_putLane, cellGet_cellPut_ne _ _ _ _ apart]
  · rw [masks_putLane, bitAt_putBits h l _ lo hi hk, if_neg apart]
  · rw [readV_putLane, cellGet_cellsEach_ne fun among => ?_]
    · rfl
    · obtain ⟨a, _, e⟩ := List.mem_map.1 among
      have lanes := congrArg (· % 32) e
      simp only [vcell_mod x a hl, vcell_mod x r hk] at lanes
      exact apart lanes.symm

end Sys2Proof.Machine
end

section
/-! Records of squads changed one after another, and what rearranging lanes may change of them (08 R174, R179). -/

namespace Sys2Proof.Machine

-- Each record once -----------------------------------------------------------------------------------------------------------------

/-- The squads that a list names changed in turn, each entry changing the record of its own squad. -/
def State.eachSquad {α : Type} (t : State) (key : α → Nat) (g : α → Squad → Squad) (as : List α) : State :=
  as.foldl (fun s a => s.setSquad (key a) (g a (s.squad (key a)))) t

section
variable {α : Type} {key : α → Nat} {g : α → Squad → Squad} {as : List α}

theorem eachSquad_cons (t : State) (a : α) : t.eachSquad key g (a :: as) =
    (t.setSquad (key a) (g a (t.squad (key a)))).eachSquad key g as := rfl

theorem eachSquad_frame (t : State) : t.eachSquad key g as = { t with squads := (t.eachSquad key g as).squads } := by
  induction as generalizing t with
  | nil => rfl
  | cons a rest ih =>
    rw [eachSquad_cons]
    exact (ih _).trans rfl

theorem squad_eachSquad_ne {q : Nat} (other : q ∉ as.map key) (t : State) : (t.eachSquad key g as).squad q = t.squad q := by
  induction as generalizing t with
  | nil => rfl
  | cons a rest ih =>
    obtain ⟨now, later⟩ := List.ne_and_not_mem_of_not_mem_cons other
    exact (ih later _).trans (squad_setSquad_ne _ _ _ _ now)

theorem squad_eachSquad {a : α} (once : (as.map key).Nodup) (ha : a ∈ as) (t : State) :
    (t.eachSquad key g as).squad (key a) = g a (t.squad (key a)) := by
  induction as generalizing t with
  | nil => cases ha
  | cons b rest ih =>
    obtain ⟨fresh, once⟩ := List.nodup_cons.1 once
    rw [eachSquad_cons]
    rcases List.mem_cons.1 ha with rfl | later
    · exact (squad_eachSquad_ne fresh _).trans (squad_setSquad_same ..)
    · have apart : key a ≠ key b := fun e => fresh (e ▸ List.mem_map_of_mem later)
      rw [ih once later, squad_setSquad_ne _ _ _ _ apart]

/-- What every change keeps of a record, any number of them keep. -/
theorem eachSquad_rel {R : Squad → Squad → Prop} (refl : ∀ x, R x x) (trans : ∀ x y z, R x y → R y z → R x z)
    (each : ∀ a ∈ as, ∀ x, R x (g a x)) (t : State) (q : Nat) : R (t.squad q) ((t.eachSquad key g as).squad q) := by
  induction as generalizing t with
  | nil => exact refl _
  | cons a rest ih =>
    rw [eachSquad_cons]
    refine trans _ _ _ ?_ (ih (fun b hb => each b (List.mem_cons_of_mem _ hb)) _)
    by_cases own : q = key a
    · subst own
      rw [squad_setSquad_same]
      exact each a List.mem_cons_self _
    · rw [squad_setSquad_ne _ _ _ _ own]
      exact refl _

end

-- What rearranging changes ---------------------------------------------------------------------------------------------------------

/-- Of a squad's record only what a divergence word moves differs: its masks, LANEIDs, vector registers, occupied positions, scalar
registers and FMT. -/
def LaneStateOnly (x y : Squad) : Prop :=
  y = { x with masks := y.masks, laneids := y.laneids, vregs := y.vregs, lanes := y.lanes, sregs := y.sregs, fmt := y.fmt }

theorem laneStateOnly_refl (x : Squad) : LaneStateOnly x x := rfl

theorem laneStateOnly_trans (x y z : Squad) (h : LaneStateOnly x y) (k : LaneStateOnly y z) : LaneStateOnly x z := by
  unfold LaneStateOnly at h k ⊢
  rw [h] at k
  exact k

theorem laneStateOnly_putLane (x : Squad) (h : HeldLane) (l n : Nat) : LaneStateOnly x (x.putLane h l n) := by
  rw [putLane_eq]
  rfl

theorem laneStateOnly_writeM (x : Squad) (d : BitVec 4) (v : BitVec 32) : LaneStateOnly x (x.writeM d v) := rfl

theorem LaneStateOnly.vws {x y : Squad} (h : LaneStateOnly x y) : y.vws = x.vws := by rw [h]
theorem LaneStateOnly.swb {x y : Squad} (h : LaneStateOnly x y) : y.swb = x.swb := by rw [h]

/-- Nor where the squad goes on. -/
theorem LaneStateOnly.laneGoes {x y z : Squad} {m : Bool} (only : LaneStateOnly x y) (goes : LaneGoes { y with run := .running } z m) :
    LaneGoes { x with run := .running } z m := by
  unfold LaneStateOnly at only
  rw [only] at goes
  exact goes

/-- Between s and t lanes and scalar registers of the squads qs moved, and nothing else of the machine. -/
def Rearranged (qs : List Nat) (s t : State) : Prop :=
  t = { s with squads := t.squads } ∧ (∀ p, p ∉ qs → t.squad p = s.squad p) ∧ ∀ q, LaneStateOnly (s.squad q) (t.squad q)

theorem Rearranged.record {qs : List Nat} {s t : State} (h : Rearranged qs s t) (q : Nat) : LaneStateOnly (s.squad q) (t.squad q) := h.2.2 q

theorem rearranged_refl (qs : List Nat) (s : State) : Rearranged qs s s := ⟨rfl, fun _ _ => rfl, fun _ => laneStateOnly_refl _⟩

theorem rearranged_trans {qs : List Nat} {s t u : State} (h : Rearranged qs s t) (k : Rearranged qs t u) : Rearranged qs s u := by
  obtain ⟨frame, others, records⟩ := h
  obtain ⟨frame', others', records'⟩ := k
  refine ⟨?_, fun p hp => (others' p hp).trans (others p hp), fun q => laneStateOnly_trans _ _ _ (records q) (records' q)⟩
  rw [frame] at frame'
  exact frame'

theorem rearranged_eachSquad {α : Type} {qs : List Nat} {key : α → Nat} {g : α → Squad → Squad} {as : List α}
    (among : ∀ a ∈ as, key a ∈ qs) (each : ∀ a ∈ as, ∀ x, LaneStateOnly x (g a x)) (t : State) :
    Rearranged qs t (t.eachSquad key g as) := by
  refine ⟨eachSquad_frame t, fun p hp => squad_eachSquad_ne (fun h => ?_) t, eachSquad_rel laneStateOnly_refl laneStateOnly_trans each t⟩
  obtain ⟨a, ha, rfl⟩ := List.mem_map.1 h
  exact hp (among a ha)

-- Lanes put at positions -----------------------------------------------------------------------------------------------------------

/-- Lanes put at positions, in turn. -/
def State.putAll (t : State) (zs : List (HeldLane × (Nat × Nat))) (n : Nat) : State :=
  t.eachSquad (fun z => z.2.1) (fun z x => x.putLane z.1 z.2.2 n) zs

section
variable {t : State} {zs : List (HeldLane × (Nat × Nat))} {n : Nat}

theorem rearranged_putAll {qs : List Nat} (among : ∀ z ∈ zs, z.2.1 ∈ qs) : Rearranged qs t (t.putAll zs n) :=
  rearranged_eachSquad among (fun z _ x => laneStateOnly_putLane x z.1 z.2.2 n) t

/-- Registers, FMT and occupied positions stay. -/
theorem putAll_keeps (q : Nat) : ((t.putAll zs n).squad q).sregs = (t.squad q).sregs ∧ ((t.putAll zs n).squad q).fmt = (t.squad q).fmt ∧
    ((t.putAll zs n).squad q).lanes = (t.squad q).lanes :=
  eachSquad_rel (R := fun x y => y.sregs = x.sregs ∧ y.fmt = x.fmt ∧ y.lanes = x.lanes) (fun _ => ⟨rfl, rfl, rfl⟩)
    (fun _ _ _ h k => ⟨k.1.trans h.1, k.2.1.trans h.2.1, k.2.2.trans h.2.2⟩)
    (fun z _ x => by rw [putLane_eq]; exact ⟨rfl, rfl, rfl⟩) t q

variable (small : ∀ z ∈ zs, z.2.2 < 32)
include small

/-- A position that none is put at holds what it held. -/
theorem carries_putAll_ne {p : Nat × Nat} (other : p ∉ zs.map (·.2)) (hp : p.2 < 32) (m : Nat) :
    Carries (t.squad p.1) p.2 ((t.putAll zs n).squad p.1) p.2 m := by
  induction zs generalizing t with
  | nil => exact carries_refl ..
  | cons z rest ih =>
    obtain ⟨now, later⟩ := List.ne_and_not_mem_of_not_mem_cons other
    refine carries_trans (y := (t.setSquad z.2.1 ((t.squad z.2.1).putLane z.1 z.2.2 n)).squad p.1) ?_
      (ih (fun y hy => small y (List.mem_cons_of_mem _ hy)) later)
    by_cases own : p.1 = z.2.1
    · rw [own, squad_setSquad_same]
      exact carries_putLane_ne _ _ (small z List.mem_cons_self) hp (fun e => now (Prod.ext own e)) n m
    · rw [squad_setSquad_ne _ _ _ _ own]
      exact carries_refl ..

/-- Put at positions of their own, all lanes are there. -/
theorem carriesHeld_putAll (apart : (zs.map (·.2)).Nodup) (room : ∀ z ∈ zs, n ≤ (t.squad z.2.1).vws) {z : HeldLane × (Nat × Nat)}
    (hz : z ∈ zs) : CarriesHeld z.1 ((t.putAll zs n).squad z.2.1) z.2.2 n := by
  induction zs generalizing t with
  | nil => cases hz
  | cons y rest ih =>
    obtain ⟨fresh, apart⟩ := List.nodup_cons.1 apart
    have smaller : ∀ z ∈ rest, z.2.2 < 32 := fun z hz => small z (List.mem_cons_of_mem _ hz)
    have only : Rearranged [y.2.1] t (t.putAll [y] n) := rearranged_putAll fun z hz => by
      rw [List.mem_singleton.1 hz]; exact List.mem_singleton_self _
    rcases List.mem_cons.1 hz with rfl | later
    · refine carriesHeld_trans (x := (t.putAll [z] n).squad z.2.1) ?_ (carries_putAll_ne smaller fresh (small z List.mem_cons_self) n)
      exact (squad_setSquad_same t z.2.1 _).symm ▸ carriesHeld_putLane z.1 (small z List.mem_cons_self) (room z List.mem_cons_self)
    · exact ih smaller apart (fun z hz => (only.record z.2.1).vws ▸ room z (List.mem_cons_of_mem _ hz)) later

end

end Sys2Proof.Machine
end

section
/-! Positions of participants, and packing lanes into the first of them (08 R174). -/

namespace Sys2Proof.Machine

-- Lanes of masks -------------------------------------------------------------------------------------------------------------------

theorem getElem?_listAt {α : Type} {l : List α} {i : Nat} (hi : i < l.length) (d : α) : l[i]? = some (listAt l i d) := by
  rw [listAt, List.getElem?_eq_getElem hi, Option.getD_some]

theorem mem_lanesIn {ms : List (Nat × BitVec 32)} {p : Nat × Nat} :
    p ∈ lanesIn ms ↔ ∃ m ∈ ms, m.1 = p.1 ∧ p.2 < 32 ∧ bitAt m.2 p.2 = true := by
  simp only [lanesIn, List.mem_flatMap, List.mem_map, lanesOn, List.mem_filter, List.mem_range]
  exact exists_congr fun m => and_congr_right fun _ =>
    ⟨fun ⟨l, h, e⟩ => by rw [← e]; exact ⟨rfl, h⟩, fun ⟨e, h⟩ => ⟨p.2, h, Prod.ext e rfl⟩⟩

theorem lanesIn_nodup {ms : List (Nat × BitVec 32)} (once : (ms.map (·.1)).Nodup) : (lanesIn ms).Nodup := by
  refine List.nodup_flatMap.2 ⟨fun m _ => ?_, ?_⟩
  · exact (List.nodup_range.filter _).map fun _ _ e => congrArg Prod.snd e
  · refine (List.pairwise_map.1 once).imp fun {a b} apart p ha hb => ?_
    obtain ⟨_, _, rfl⟩ := List.mem_map.1 ha
    obtain ⟨_, _, e⟩ := List.mem_map.1 hb
    exact apart (congrArg Prod.fst e).symm

theorem length_lanesIn_le (ms : List (Nat × BitVec 32)) : (lanesIn ms).length ≤ 32 * ms.length := by
  induction ms with
  | nil => exact le_refl _
  | cons m rest ih =>
    have few : (lanesOn m.2).length ≤ 32 := (List.length_filter_le ..).trans_eq List.length_range
    have split : lanesIn (m :: rest) = (lanesOn m.2).map (fun l => (m.1, l)) ++ lanesIn rest := rfl
    rw [split, List.length_append, List.length_map, List.length_cons]
    omega

/-- A lane of some masks is one of their squads'. -/
theorem of_mem_lanesIn {ms : List (Nat × BitVec 32)} {qs : List Nat} (squads : ms.map (·.1) = qs) {p : Nat × Nat} (hp : p ∈ lanesIn ms) :
    p.1 ∈ qs ∧ p.2 < 32 := by
  obtain ⟨m, hm, e, hl, -⟩ := mem_lanesIn.1 hp
  exact ⟨squads ▸ e ▸ List.mem_map_of_mem hm, hl⟩

theorem length_lanesIn_of {ms : List (Nat × BitVec 32)} {qs : List Nat} (squads : ms.map (·.1) = qs) :
    (lanesIn ms).length ≤ 32 * qs.length := by
  rw [← squads, List.length_map]
  exact length_lanesIn_le ms

-- Positions ------------------------------------------------------------------------------------------------------------------------

theorem positionsOf_eq (qs : List Nat) (k : Nat) : positionsOf qs k = (List.range k).map (posOf qs) := rfl

theorem posOf_mem {qs : List Nat} {i : Nat} (hi : i < 32 * qs.length) : (posOf qs i).1 ∈ qs ∧ (posOf qs i).2 < 32 :=
  ⟨listAt_mem (by omega) 0, Nat.mod_lt _ (by decide)⟩

theorem positionsOf_nodup {qs : List Nat} (once : qs.Nodup) {k : Nat} (fits : k ≤ 32 * qs.length) : (positionsOf qs k).Nodup := by
  refine List.nodup_range.map_on fun a ha b hb e => ?_
  have ha := List.mem_range.1 ha
  have hb := List.mem_range.1 hb
  have squads := (getElem?_listAt (l := qs) (i := a / 32) (by omega) 0).trans
    ((congrArg (some ∘ Prod.fst) e).trans (getElem?_listAt (l := qs) (i := b / 32) (by omega) 0).symm)
  have lanes : a % 32 = b % 32 := congrArg Prod.snd e
  have same : a / 32 = b / 32 := (List.getElem?_inj (by omega) once).1 squads
  omega

theorem of_mem_positionsOf {qs : List Nat} {k : Nat} (fits : k ≤ 32 * qs.length) {p : Nat × Nat} (hp : p ∈ positionsOf qs k) :
    p.1 ∈ qs ∧ p.2 < 32 := by
  obtain ⟨i, hi, rfl⟩ := List.mem_map.1 hp
  exact posOf_mem ((List.mem_range.1 hi).trans_le fits)

-- Numbering ------------------------------------------------------------------------------------------------------------------------

theorem numbered_snd {α : Type} (as : List α) : (numbered as).map (·.2) = as := List.map_snd_zip (by simp)

theorem numbered_mem {α : Type} {as : List α} {i : Nat} (hi : i < as.length) (d : α) : (i, listAt as i d) ∈ numbered as := by
  refine List.mem_of_getElem? (i := i) ?_
  rw [numbered, List.getElem?_zip_eq_some]
  exact ⟨by simp [hi], getElem?_listAt hi d⟩

-- Packing --------------------------------------------------------------------------------------------------------------------------

theorem bitAt_packedMask (k i : Nat) {l : Nat} (hl : l < 32) : bitAt (packedMask k i) l = decide (32 * i + l < k) := by
  rw [packedMask, bitAt, BitVec.getLsbD_ofNat, decide_eq_true hl, Bool.true_and, Nat.testBit_two_pow_sub_one]
  exact decide_eq_decide.2 (by omega)

/-- Participant i's record with k lanes packed (08 R174). -/
def packedRecord (k : Nat) (a : Nat × Nat) (y : Squad) : Squad :=
  { y with masks := cellPut y.masks 0 (packedMask k a.1), lanes := packedMask k a.1 }

theorem laneStateOnly_packedRecord (k : Nat) (a : Nat × Nat) (y : Squad) : LaneStateOnly y (packedRecord k a y) := rfl

theorem packLanes_eq (t : State) (qs : List Nat) (hs : List HeldLane) (n : Nat) : t.packLanes qs hs n =
    (t.putAll (hs.zip (positionsOf qs hs.length)) n).eachSquad (·.2) (packedRecord hs.length) (numbered qs) := rfl

theorem carries_packedRecord (k : Nat) (a : Nat × Nat) (y : Squad) (l n : Nat) : Carries y l (packedRecord k a y) l n := by
  refine ⟨rfl, fun i lo _ => ?_, fun _ _ => rfl⟩
  exact congrArg (bitAt · l) (cellGet_cellPut_ne _ _ _ _ (by omega))

section
variable {t : State} {qs : List Nat} {hs : List HeldLane} {n : Nat}

theorem carries_packed (q l : Nat) :
    Carries ((t.putAll (hs.zip (positionsOf qs hs.length)) n).squad q) l ((t.packLanes qs hs n).squad q) l n :=
  eachSquad_rel (R := fun x y => Carries x l y l n) (fun _ => carries_refl ..) (fun _ _ _ h k => carries_trans h k)
    (fun a _ x => carries_packedRecord hs.length a x l n) _ q

theorem packLanes_keeps (q : Nat) :
    ((t.packLanes qs hs n).squad q).sregs = (t.squad q).sregs ∧ ((t.packLanes qs hs n).squad q).fmt = (t.squad q).fmt := by
  obtain ⟨sregs, fmt, -⟩ := putAll_keeps (t := t) (zs := hs.zip (positionsOf qs hs.length)) (n := n) q
  have packs := eachSquad_rel (key := fun a : Nat × Nat => a.2) (g := packedRecord hs.length) (as := numbered qs)
    (R := fun x y => y.sregs = x.sregs ∧ y.fmt = x.fmt) (fun _ => ⟨rfl, rfl⟩)
    (fun _ _ _ h k => ⟨k.1.trans h.1, k.2.trans h.2⟩) (fun _ _ _ => ⟨rfl, rfl⟩)
    (t.putAll (hs.zip (positionsOf qs hs.length)) n) q
  exact ⟨packs.1.trans sregs, packs.2.trans fmt⟩

/-- The packed positions run, and no others. -/
theorem runsFirst_packLanes (once : qs.Nodup) : RunsFirst (t.packLanes qs hs n) qs hs.length := by
  intro j hj l hl
  have record := squad_eachSquad (g := packedRecord hs.length) (by rwa [numbered_snd]) (numbered_mem hj 0)
    (t.putAll (hs.zip (positionsOf qs hs.length)) n)
  rw [← packLanes_eq] at record
  rw [record, ← bitAt_packedMask _ _ hl]
  exact ⟨congrArg (bitAt · l) (cellGet_cellPut_same ..), rfl⟩

variable (fits : hs.length ≤ 32 * qs.length)
include fits

theorem of_mem_packed {z : HeldLane × (Nat × Nat)} (hz : z ∈ hs.zip (positionsOf qs hs.length)) : z.2.1 ∈ qs ∧ z.2.2 < 32 :=
  of_mem_positionsOf fits (List.of_mem_zip hz).2

theorem rearranged_packLanes : Rearranged qs t (t.packLanes qs hs n) := by
  rw [packLanes_eq]
  refine rearranged_trans (rearranged_putAll fun z hz => (of_mem_packed fits hz).1)
    (rearranged_eachSquad (fun a ha => (List.of_mem_zip ha).2) (fun _ _ _ => laneStateOnly_packedRecord ..) _)

/-- Lane i of those packed stands at position i. -/
theorem carriesHeld_packLanes (once : qs.Nodup) (room : ∀ q ∈ qs, n ≤ (t.squad q).vws) {i : Nat} {h : HeldLane} (hi : hs[i]? = some h) :
    CarriesHeld h ((t.packLanes qs hs n).squad (posOf qs i).1) (posOf qs i).2 n := by
  have inside : i < hs.length := (List.getElem?_eq_some_iff.1 hi).1
  have among : (h, posOf qs i) ∈ hs.zip (positionsOf qs hs.length) := by
    refine List.mem_of_getElem? (i := i) (List.getElem?_zip_eq_some.2 ⟨hi, ?_⟩)
    rw [positionsOf_eq, List.getElem?_map, List.getElem?_range inside]
    rfl
  have apart : ((hs.zip (positionsOf qs hs.length)).map (·.2)).Nodup := by
    rw [List.map_snd_zip (by simp [positionsOf_eq])]
    exact positionsOf_nodup once fits
  exact carriesHeld_trans (carriesHeld_putAll (fun z hz => (of_mem_packed fits hz).2) apart
    (fun z hz => room _ (of_mem_packed fits hz).1) among) (carries_packed _ _)

end

theorem getElem?_takeLanes (t : State) (ls : List (Nat × Nat)) (n : Nat) {i : Nat} (hi : i < ls.length) :
    (t.takeLanes ls n)[i]? = some ((t.squad (listAt ls i (0, 0)).1).takeLane (listAt ls i (0, 0)).1 (listAt ls i (0, 0)).2 n) := by
  rw [State.takeLanes, List.getElem?_map, getElem?_listAt hi (0, 0)]
  rfl

theorem length_takeLanes (t : State) (ls : List (Nat × Nat)) (n : Nat) : (t.takeLanes ls n).length = ls.length := List.length_map _

/-- Lanes taken from where they stand and packed. -/
theorem carries_packLanes {s t : State} {qs : List Nat} {ls : List (Nat × Nat)} {n : Nat} (once : qs.Nodup)
    (fits : ls.length ≤ 32 * qs.length) (room : ∀ q ∈ qs, n ≤ (t.squad q).vws) {i : Nat} (hi : i < ls.length) :
    let p := listAt ls i (0, 0); let z := posOf qs i
    Carries (s.squad p.1) p.2 ((t.packLanes qs (s.takeLanes ls n) n).squad z.1) z.2 n :=
  (carriesHeld_takeLane ..).1 (carriesHeld_packLanes ((length_takeLanes ..).trans_le fits) once room (getElem?_takeLanes s ls n hi))

end Sys2Proof.Machine
end

section
/-! The collective takes effect (08 R172, R173, R177, R181): which word it is, what is checked, and the participants going on. -/

namespace Sys2Proof.Machine

-- Going on -------------------------------------------------------------------------------------------------------------------------

/-- A participant past its divergence word. -/
def Squad.pastWord (x : Squad) (m : Bool) : Squad := { x with run := .running }.laneAdvance m

theorem pastWord_frame (x : Squad) (m : Bool) : x.pastWord m = x.withLaneOf (x.pastWord m) := laneAdvance_frame { x with run := .running } m

theorem laneGoes_pastWord (x : Squad) (m : Bool) : LaneGoes { x with run := .running } (x.pastWord m) m := laneGoes_laneAdvance _ m

theorem syncAll_frame (s : State) (ps : List Party) : s.syncAll ps = s.setHist (s.syncAll ps).hist := by
  have learned (ks : List Seen) (t : State) : ps.foldl (fun t p => t.learn p ks) t = t.setHist (ps.foldl (fun t p => t.learn p ks) t).hist := by
    induction ps generalizing t with
    | nil => rfl
    | cons p rest ih => exact ih (t.learn p ks)
  exact learned _ s

theorem squad_syncAll (s : State) (ps : List Party) (q : Nat) : (s.syncAll ps).squad q = s.squad q := by
  rw [syncAll_frame]
  rfl

theorem resumeAll_eq (s : State) (qs : List Nat) (m : BitVec 1) : s.resumeAll qs m =
    (s.syncAll (qs.map .squad)).eachSquad id (fun _ x => x.pastWord (m = 1)) qs := rfl

/-- Going on moves no register, mask or lane. -/
def MovedOn (x y : Squad) : Prop := y = x.withLaneOf y

theorem movedOn_resumeAll (s : State) (qs : List Nat) (m : BitVec 1) (q : Nat) : MovedOn (s.squad q) ((s.resumeAll qs m).squad q) := by
  rw [resumeAll_eq, ← squad_syncAll s (qs.map .squad) q]
  refine eachSquad_rel (R := MovedOn) (fun _ => rfl) (fun x y z h k => ?_) (fun _ _ x => pastWord_frame x _) _ q
  unfold MovedOn at h k ⊢
  rw [h] at k
  exact k

theorem squad_resumeAll {qs : List Nat} (once : qs.Nodup) {q : Nat} (hq : q ∈ qs) (s : State) (m : BitVec 1) :
    (s.resumeAll qs m).squad q = (s.squad q).pastWord (m = 1) := by
  rw [resumeAll_eq, ← squad_syncAll s (qs.map .squad) q]
  exact squad_eachSquad (key := id) (by simpa using once) hq _

theorem squad_resumeAll_ne {qs : List Nat} {q : Nat} (hq : q ∉ qs) (s : State) (m : BitVec 1) :
    (s.resumeAll qs m).squad q = s.squad q := by
  rw [resumeAll_eq, ← squad_syncAll s (qs.map .squad) q]
  exact squad_eachSquad_ne (key := id) (by simpa using hq) _

theorem resumeAll_frame (s : State) (qs : List Nat) (m : BitVec 1) : s.resumeAll qs m =
    { s with squads := (s.resumeAll qs m).squads, hist := (s.resumeAll qs m).hist } := by
  have frame := eachSquad_frame (key := id) (g := fun _ x => x.pastWord (m = 1)) (as := qs) (s.syncAll (qs.map .squad))
  rw [← resumeAll_eq, syncAll_frame] at frame
  rw [frame]
  rfl

section
variable {x y : Squad} (h : MovedOn x y)
include h

theorem MovedOn.readM (k : BitVec 4) : y.readM k = x.readM k := by rw [h]; rfl
theorem MovedOn.fmt : y.fmt = x.fmt := by rw [h]; rfl
theorem MovedOn.sregs : y.sregs = x.sregs := by rw [h]; rfl
theorem MovedOn.swb : y.swb = x.swb := by rw [h]; rfl
theorem MovedOn.lanes : y.lanes = x.lanes := by rw [h]; rfl
theorem MovedOn.carries (l n : Nat) : Carries x l y l n := by rw [h]; exact carries_refl ..

/-- Such a record differs as one whose lanes were rearranged does. -/
theorem MovedOn.moved {z : Squad} (k : LaneStateOnly z x) : y = { z.withLaneOf y with
    masks := y.masks, laneids := y.laneids, vregs := y.vregs, lanes := y.lanes, sregs := y.sregs, fmt := y.fmt } := by
  have masks : y.masks = x.masks := by rw [h]; rfl
  have laneids : y.laneids = x.laneids := by rw [h]; rfl
  have vregs : y.vregs = x.vregs := by rw [h]; rfl
  unfold LaneStateOnly at k
  unfold MovedOn at h
  rw [masks, laneids, vregs, MovedOn.lanes h, MovedOn.sregs h, MovedOn.fmt h]
  rw [k] at h
  exact h

end

-- The end of a collective word -----------------------------------------------------------------------------------------------------

/-- The block's stack written, and the participants going on. -/
def State.collective (u : State) (b : Nat) (st : List Construct) (qs : List Nat) (m : BitVec 1) : State := (u.setStack b st).resumeAll qs m

section
variable {s u : State} (b : Nat) (st : List Construct) {qs : List Nat} (m : BitVec 1)

theorem movedOn_collective (q : Nat) : MovedOn (u.squad q) ((u.collective b st qs m).squad q) := movedOn_resumeAll _ qs m q

theorem stack_collective : ((u.collective b st qs m).block b).stack = st := by
  have frame := congrArg (fun t => (t.block b).stack) (resumeAll_frame (u.setStack b st) qs m)
  refine frame.trans ?_
  exact congrArg Block.stack (block_setBlock_same u b _)

theorem runsFirst_collective {n : Nat} (h : RunsFirst u qs n) : RunsFirst (u.collective b st qs m) qs n := by
  intro j hj l hl
  have moved := movedOn_collective (u := u) b st (qs := qs) m (listAt qs j 0)
  rw [moved.readM, moved.lanes]
  exact h j hj l hl

/-- Every participant went on, its lanes rearranged. -/
theorem allGo_collective (h : Rearranged qs s u) (once : qs.Nodup) (f : LaneForm) : AllGo s (u.collective b st qs f.s) qs f := by
  obtain ⟨frame, others, records⟩ := h
  refine ⟨fun a => ?_, fun p hp => ?_, fun q hq => ⟨?_, ?_⟩⟩
  · rw [State.collective, resumeAll_frame, frame]
    rfl
  · exact (squad_resumeAll_ne hp _ _).trans (others p hp)
  · rw [State.collective, squad_resumeAll once hq]
    exact (records q).laneGoes (laneGoes_pastWord (u.squad q) _)
  · exact (movedOn_collective b st f.s q).moved (records q)

end

-- Which word it is -----------------------------------------------------------------------------------------------------------------

theorem squadsOf_nodup (s : State) (b : Nat) : (s.squadsOf b).Nodup := by
  refine List.nodup_range.map fun i j e => ?_
  simp only [squadKey] at e
  omega

theorem unexited_nodup (s : State) (b : Nat) : (s.unexited b).Nodup := (squadsOf_nodup s b).filter _

/-- The effect of the word that a block's participants wait at. -/
def State.collectiveWord (s : State) (b : Nat) (qs : List Nat) (word : Except BadEncoding Instr) : Res :=
  match word with
  | .ok (.divb f) => .next (s.divb b qs f)
  | .ok (.elseb f) => .next (s.elseb b qs f)
  | .ok (.recv f) => .next (s.recv b qs f)
  | .ok (.regrp f) => .next (s.regrp b qs f)
  | _ => .next s

section
variable {s : State} {b : Nat} {op : LaneOp} {f : LaneForm} {qs : List Nat} (wait : AllWait s b op f qs)
include wait

theorem AllWait.nodup : qs.Nodup := wait.1 ▸ unexited_nodup s b

/-- All participants having arrived, at one word and one lane PC, the block's collective is that word. -/
theorem AllWait.divWord : s.divWord b = some (encodeForm op f, true) := by
  obtain ⟨participants, some_, -, pc, all⟩ := wait
  obtain ⟨q, rest, rfl⟩ := List.exists_cons_of_ne_nil some_
  have here (p : Nat) (hp : p ∈ q :: rest) : ((s.squad p).run, (s.squad p).lpc) = (.diverge (encodeForm op f), pc) :=
    have ⟨run, lpc, _⟩ := all p hp
    Prod.ext run lpc
  have waiting : s.diverging b = q :: rest := by
    rw [State.diverging, participants, List.filter_eq_self]
    intro p hp
    rw [(all p hp).1]
  have same : (rest.map (fun p => ((s.squad p).run, (s.squad p).lpc))).all
      (fun x => decide (x = (RunState.diverge (encodeForm op f), pc))) = true :=
    List.all_eq_true.2 fun x hx => by
      obtain ⟨p, hp, rfl⟩ := List.mem_map.1 hx
      exact decide_eq_true (here p (List.mem_cons_of_mem _ hp))
  unfold State.divWord
  simp only [participants, List.map_cons, here q List.mem_cons_self, waiting, if_true, same]

/-- A collective whose participants have all come takes the effect of its word. -/
theorem AllWait.exec : exec (.divergenceCollectiveComplete b) s = s.collectiveWord b qs (decodeLane (encodeForm op f)) := by
  have found := wait.divWord
  obtain ⟨participants, -, runs, -⟩ := wait
  change execDivergenceCollectiveComplete b s = _
  unfold execDivergenceCollectiveComplete
  simp only [participants, found, runs, Bool.true_eq_false, if_false]
  rfl

end

theorem decodeLane_encodeForm {i : Instr} {op : LaneOp} {f : LaneForm} (form : i.lane? = some (op, f)) (legal : i.wf = true) :
    decodeLane (encodeForm op f) = .ok i := decodeLane_encodeLane legal (encodeLane_of_lane? form)

section
variable {s : State} {b : Nat} {f : LaneForm} {qs : List Nat}

theorem exec_divb_complete (wait : AllWait s b 0xA0 f qs) (legal : (Instr.divb f).wf = true) :
    exec (.divergenceCollectiveComplete b) s = .next (s.divb b qs f) :=
  wait.exec.trans (congrArg (s.collectiveWord b qs) (decodeLane_encodeForm rfl legal))

theorem exec_elseb_complete (wait : AllWait s b 0xA1 f qs) (legal : (Instr.elseb f).wf = true) :
    exec (.divergenceCollectiveComplete b) s = .next (s.elseb b qs f) :=
  wait.exec.trans (congrArg (s.collectiveWord b qs) (decodeLane_encodeForm rfl legal))

theorem exec_recv_complete (wait : AllWait s b 0xA2 f qs) (legal : (Instr.recv f).wf = true) :
    exec (.divergenceCollectiveComplete b) s = .next (s.recv b qs f) :=
  wait.exec.trans (congrArg (s.collectiveWord b qs) (decodeLane_encodeForm rfl legal))

theorem exec_regrp_complete (wait : AllWait s b 0xA3 f qs) (legal : (Instr.regrp f).wf = true) :
    exec (.divergenceCollectiveComplete b) s = .next (s.regrp b qs f) :=
  wait.exec.trans (congrArg (s.collectiveWord b qs) (decodeLane_encodeForm rfl legal))

end

-- check_uniform (08 R177) ----------------------------------------------------------------------------------------------------------

/-- Some participant's register s(16 + i) is not the first one's. -/
def State.differsAt (s : State) (qs : List Nat) (i : Nat) : Bool :=
  qs.any (fun q => (s.squad q).readS (BitVec.ofNat 6 (16 + i)) ≠ (s.squad (qs.headD 0)).readS (BitVec.ofNat 6 (16 + i)))

theorem differsAt_eq_false_iff {s : State} {qs : List Nat} {i : Nat} : s.differsAt qs i = false ↔
    ∀ q ∈ qs, (s.squad q).readS (BitVec.ofNat 6 (16 + i)) = (s.squad (qs.headD 0)).readS (BitVec.ofNat 6 (16 + i)) := by
  simp [State.differsAt]

theorem uniform_iff {s : State} {qs : List Nat} {n : Nat} : Uniform s qs n ↔
    (∀ q ∈ qs, (s.squad q).fmt = (s.squad (qs.headD 0)).fmt) ∧ ∀ i, i < n → s.differsAt qs i = false := by
  simp only [differsAt_eq_false_iff]
  exact ⟨fun h => ⟨fun q hq => (h q hq).1, fun i hi q hq => (h q hq).2 i hi⟩, fun ⟨fmt, regs⟩ q hq => ⟨fmt q hq, fun i hi => regs i hi q hq⟩⟩

theorem uniform_none {s : State} {qs : List Nat} {n : Nat} (same : Uniform s qs n) : s.uniform qs n = none := by
  obtain ⟨fmt, regs⟩ := uniform_iff.1 same
  have registers : (List.range n).find? (s.differsAt qs) = none :=
    List.find?_eq_none.2 fun i hi => by rw [regs i (List.mem_range.1 hi)]; exact Bool.false_ne_true
  have formats : qs.any (fun q => decide ((s.squad q).fmt ≠ (s.squad (qs.headD 0)).fmt)) = false := by simpa using fmt
  unfold State.differsAt at registers
  unfold State.uniform
  simp only [registers, formats, Bool.false_eq_true, if_false]

/-- The lowest register that differs. -/
theorem uniform_some {s : State} {qs : List Nat} {n i : Nat} (hi : i < n) (below : ∀ k, k < i → Uniform s qs (k + 1)) (fmt : Uniform s qs 0)
    (differs : ¬ Uniform s qs (i + 1)) : s.uniform qs n = some (16 + i) := by
  have agree (k : Nat) (hk : k < i) : s.differsAt qs k = false := (uniform_iff.1 (below k hk)).2 k k.lt_succ_self
  have here : s.differsAt qs i = true := by
    refine Bool.of_not_eq_false fun same => differs (uniform_iff.2 ⟨(uniform_iff.1 fmt).1, fun k hk => ?_⟩)
    rcases Nat.lt_succ_iff_lt_or_eq.1 hk with low | rfl
    · exact agree k low
    · exact same
  have registers : (List.range n).find? (s.differsAt qs) = some i :=
    List.find?_range_eq_some.2 ⟨here, List.mem_range.2 hi, fun k hk => by rw [agree k hk]; rfl⟩
  unfold State.differsAt at registers
  unfold State.uniform
  simp only [registers]

end Sys2Proof.Machine
end

section
/-! The lanes of a construct (08 R176, R177): the path's scalar registers given to all, and every lane back at its own position. -/

namespace Sys2Proof.Machine

-- broadcast_scalars (08 R177) ------------------------------------------------------------------------------------------------------

/-- Only the scalar registers differ. -/
def ScalarsOnly (x y : Squad) : Prop := y = { x with sregs := y.sregs }

theorem scalarsOnly_trans (x y z : Squad) (h : ScalarsOnly x y) (k : ScalarsOnly y z) : ScalarsOnly x z := by
  unfold ScalarsOnly at h k ⊢
  rw [h] at k
  exact k

theorem ScalarsOnly.laneState {x y : Squad} (h : ScalarsOnly x y) : LaneStateOnly x y := by
  unfold ScalarsOnly at h
  rw [h]
  rfl

theorem ScalarsOnly.carries {x y : Squad} (h : ScalarsOnly x y) (l n : Nat) : Carries x l y l n := by
  rw [h]
  exact carries_refl ..

/-- x with s16 to s(15 + n) those of lead. -/
def Squad.scalarsOf (x lead : Squad) (n : Nat) : Squad :=
  (List.range n).foldl (fun y i => y.writeS (BitVec.ofNat 6 (16 + i)) (lead.readS (BitVec.ofNat 6 (16 + i)))) x

theorem scalarsOf_succ (x lead : Squad) (n : Nat) : x.scalarsOf lead (n + 1) =
    (x.scalarsOf lead n).writeS (BitVec.ofNat 6 (16 + n)) (lead.readS (BitVec.ofNat 6 (16 + n))) := by
  rw [Squad.scalarsOf, List.range_succ, List.foldl_append]
  rfl

theorem scalarsOnly_scalarsOf (x lead : Squad) (n : Nat) : ScalarsOnly x (x.scalarsOf lead n) := by
  induction n with
  | zero => rfl
  | succ n ih =>
    rw [scalarsOf_succ]
    exact scalarsOnly_trans _ _ _ ih (writeS_eq ..)

theorem readS_scalarsOf (x lead : Squad) {n : Nat} (hn : n ≤ 48) (r : BitVec 6) :
    (x.scalarsOf lead n).readS r = if 16 ≤ r.toNat ∧ r.toNat < 16 + n then lead.readS r else x.readS r := by
  induction n with
  | zero => exact (if_neg (by omega)).symm
  | succ n ih =>
    have number : (BitVec.ofNat 6 (16 + n)).toNat = 16 + n := Nat.mod_eq_of_lt (by omega)
    rw [scalarsOf_succ]
    by_cases here : r = BitVec.ofNat 6 (16 + n)
    · subst here
      have named : BitVec.ofNat 6 (16 + n) ≠ 0 := fun e => absurd ((congrArg BitVec.toNat e).symm.trans number) (by simp; omega)
      rw [readS_writeS_same, if_neg named, number, if_pos (by omega)]
    · have apart : r.toNat ≠ 16 + n := fun e => here (BitVec.eq_of_toNat_eq (e.trans number.symm))
      rw [readS_writeS_ne _ _ _ _ here, ih (by omega)]
      exact if_congr (by omega) rfl rfl

theorem numbered_map_range {α : Type} (n : Nat) (g : Nat → α) : numbered ((List.range n).map g) = (List.range n).map (fun i => (i, g i)) := by
  have same := List.zip_map' (f := (id : Nat → Nat)) (g := g) (l := List.range n)
  rw [List.map_id] at same
  rw [numbered, List.length_map, List.length_range, same]
  rfl

theorem broadcast_eq {t : State} {c : Construct} (live : c.l ≠ 0) : t.broadcast c = if c.onPath = [] then t else
    t.eachSquad id (fun _ x => x.scalarsOf (t.squad (c.squads.headD 0)) c.s) c.squads := by
  have copies (lead x : Squad) : (numbered ((List.range c.s).map fun i => lead.readS (BitVec.ofNat 6 (16 + i)))).foldl
      (fun x v => x.writeS (BitVec.ofNat 6 (16 + v.1)) v.2) x = x.scalarsOf lead c.s := by
    rw [numbered_map_range, List.foldl_map]
    rfl
  have lanes : lanesOf c.path = c.onPath := rfl
  unfold State.broadcast
  simp only [copies, live, false_or, lanes, List.isEmpty_iff]
  rfl

theorem broadcast_alike {t : State} {c : Construct} (alike : c.l = 0) : t.broadcast c = t := if_pos (Or.inl alike)

theorem scalarsOnly_broadcast {t : State} {c : Construct} (live : c.l ≠ 0) (q : Nat) : ScalarsOnly (t.squad q) ((t.broadcast c).squad q) := by
  rw [broadcast_eq live]
  split
  · rfl
  · exact eachSquad_rel (R := ScalarsOnly) (fun _ => rfl) scalarsOnly_trans (fun _ _ x => scalarsOnly_scalarsOf x _ _) t q

theorem rearranged_broadcast {t : State} {c : Construct} (live : c.l ≠ 0) : Rearranged c.squads t (t.broadcast c) := by
  rw [broadcast_eq live]
  split
  · exact rearranged_refl ..
  · exact rearranged_eachSquad (fun _ hq => hq) (fun _ _ x => (scalarsOnly_scalarsOf x _ _).laneState) t

theorem broadcast_spec {s : State} {c : Construct} {qs : List Nat} (once : qs.Nodup) (good : GoodConstruct s c qs) :
    Broadcast s (s.broadcast c) c qs := by
  obtain ⟨live, squads, -, few, -⟩ := good
  have squads : c.squads = qs := squads
  intro q hq r
  rw [broadcast_eq live]
  split
  · next none_ => rw [if_neg fun h => h.2.2 none_]
  · next some_ =>
    rw [squads]
    have record := squad_eachSquad (key := id) (g := fun _ x => x.scalarsOf (s.squad (qs.headD 0)) c.s) (by simpa using once) hq s
    rw [id] at record
    rw [record, readS_scalarsOf _ _ few]
    exact if_congr (by simp [some_]) rfl rfl

/-- Registers that stay as broadcast_scalars left them. -/
theorem broadcast_kept {s u t : State} {c : Construct} {qs : List Nat} (h : Broadcast s u c qs) (cells : ∀ q, (t.squad q).sregs = (u.squad q).sregs)
    (window : ∀ q, (t.squad q).swb = (u.squad q).swb) : Broadcast s t c qs :=
  fun q hq r => (readS_congr (cells q) (window q) r).trans (h q hq r)

-- Every lane back (08 R176) --------------------------------------------------------------------------------------------------------

/-- A held lane with the position it stood at. -/
def HeldLane.home (h : HeldLane) : HeldLane × (Nat × Nat) := (h, (h.sq, h.l))

/-- The lanes of the path back from the first positions. -/
def State.pathBack (t : State) (c : Construct) : State :=
  t.putAll ((t.takeLanes (positionsOf c.squads c.onPath.length) c.l).zip c.onPath) c.l

/-- A squad's record with its occupied positions written. -/
def occupies (a : Nat × BitVec 32) (x : Squad) : Squad := { x with lanes := a.2 }

theorem laneStateOnly_occupies (a : Nat × BitVec 32) (x : Squad) : LaneStateOnly x (occupies a x) := rfl

/-- Those held aside back too. -/
def State.lanesBack (t : State) (c : Construct) : State := (t.pathBack c).putAll (c.held.map HeldLane.home) c.l

theorem returnLanes_eq (t : State) (c : Construct) : t.returnLanes c =
    (t.lanesBack c).eachSquad (·.1) occupies c.lanes := by
  unfold State.lanesBack State.putAll State.eachSquad
  rw [List.foldl_map]
  rfl

/-- The occupied positions alone are written last. -/
theorem returnLanes_last (u : State) (c : Construct) (q : Nat) :
    (u.returnLanes c).squad q = { (u.lanesBack c).squad q with lanes := ((u.returnLanes c).squad q).lanes } := by
  rw [returnLanes_eq]
  refine eachSquad_rel (R := fun x y => y = { x with lanes := y.lanes }) (fun _ => rfl) (fun x y z h k => ?_) (fun _ _ _ => rfl) _ q
  rw [h] at k
  exact k

theorem returnLanes_keeps (u : State) (c : Construct) (q : Nat) :
    ((u.returnLanes c).squad q).sregs = (u.squad q).sregs ∧ ((u.returnLanes c).squad q).fmt = (u.squad q).fmt := by
  obtain ⟨sregs, fmt, -⟩ := putAll_keeps (t := u) (zs := (u.takeLanes (positionsOf c.squads c.onPath.length) c.l).zip c.onPath) (n := c.l) q
  obtain ⟨sregs', fmt', -⟩ := putAll_keeps (t := u.pathBack c) (zs := c.held.map HeldLane.home) (n := c.l) q
  rw [returnLanes_last u c]
  exact ⟨sregs'.trans sregs, fmt'.trans fmt⟩

theorem onPath_squads {s : State} {c : Construct} {qs : List Nat} (good : GoodConstruct s c qs) {p : Nat × Nat} (hp : p ∈ c.onPath) :
    p.1 ∈ qs ∧ p.2 < 32 := by
  obtain ⟨-, squads, -⟩ := good
  refine of_mem_lanesIn ?_ hp
  rw [List.map_map]
  exact squads

section
variable {s u : State} {c : Construct} {qs : List Nat} (good : GoodConstruct s c qs)
include good

theorem of_mem_pathBack {z : HeldLane × (Nat × Nat)} (hz : z ∈ (u.takeLanes (positionsOf c.squads c.onPath.length) c.l).zip c.onPath) :
    z.2.1 ∈ qs ∧ z.2.2 < 32 := onPath_squads good (List.of_mem_zip hz).2

theorem of_mem_homes {z : HeldLane × (Nat × Nat)} (hz : z ∈ c.held.map HeldLane.home) : z.2.1 ∈ qs ∧ z.2.2 < 32 := by
  obtain ⟨-, -, -, -, -, held, -⟩ := good
  obtain ⟨h, hh, rfl⟩ := List.mem_map.1 hz
  exact held h hh

theorem rearranged_pathBack : Rearranged qs u (u.pathBack c) := rearranged_putAll fun _ hz => (of_mem_pathBack good hz).1

theorem rearranged_lanesBack : Rearranged qs u (u.lanesBack c) :=
  rearranged_trans (rearranged_pathBack good) (rearranged_putAll fun _ hz => (of_mem_homes good hz).1)

theorem rearranged_returnLanes : Rearranged qs u (u.returnLanes c) := by
  rw [returnLanes_eq]
  refine rearranged_trans (rearranged_lanesBack good) (rearranged_eachSquad (fun a ha => ?_) (fun _ _ _ => laneStateOnly_occupies ..) _)
  obtain ⟨-, -, lanes, -⟩ := good
  exact lanes ▸ List.mem_map_of_mem ha

theorem lanes_returnLanes (once : qs.Nodup) {m : Nat × BitVec 32} (hm : m ∈ c.lanes) : ((u.returnLanes c).squad m.1).lanes = m.2 := by
  obtain ⟨-, -, lanes, -⟩ := good
  have written := squad_eachSquad (g := occupies) (lanes.symm ▸ once) hm (u.lanesBack c)
  rw [← returnLanes_eq] at written
  rw [written]
  rfl

variable (room : ∀ q ∈ qs, c.l ≤ (u.squad q).vws)
include room

/-- Each lane held aside stands at its own position again. -/
theorem carriesHeld_returnLanes {h : HeldLane} (hh : h ∈ c.held) : CarriesHeld h ((u.returnLanes c).squad h.sq) h.l c.l := by
  have homes : (c.held.map HeldLane.home).map (·.2) = c.held.map (fun h => (h.sq, h.l)) := List.map_map
  have apart : ((c.held.map HeldLane.home).map (·.2)).Nodup := by
    obtain ⟨-, -, -, -, -, -, apart⟩ := good
    obtain ⟨-, held, -⟩ := List.nodup_append.1 apart
    exact homes ▸ held
  have back := carriesHeld_putAll (t := u.pathBack c) (n := c.l) (fun z hz => (of_mem_homes good hz).2) apart
    (fun z hz => ((rearranged_pathBack (u := u) good).record z.2.1).vws.symm ▸ room _ (of_mem_homes good hz).1) (List.mem_map_of_mem hh)
  rw [returnLanes_last]
  exact back

/-- Each lane of the path stands at its own position again. -/
theorem carries_returnLanes {i : Nat} (hi : i < c.onPath.length) : let p := listAt c.onPath i (0, 0); let z := posOf qs i
    Carries (u.squad z.1) z.2 ((u.returnLanes c).squad p.1) p.2 c.l := by
  intro p z
  have hp : p ∈ c.onPath := listAt_mem hi (0, 0)
  obtain ⟨-, squads, -, -, -, -, apart⟩ := id good
  have squads : c.squads = qs := squads
  obtain ⟨pathApart, -, disjoint⟩ := List.nodup_append.1 apart
  have taken : (positionsOf c.squads c.onPath.length).length = c.onPath.length := by simp [positionsOf_eq]
  have at_ : listAt (positionsOf c.squads c.onPath.length) i (0, 0) = z := by
    simp [positionsOf_eq, listAt, hi, squads, z]
  have among : ((u.squad z.1).takeLane z.1 z.2 c.l, p) ∈ (u.takeLanes (positionsOf c.squads c.onPath.length) c.l).zip c.onPath := by
    refine List.mem_of_getElem? (i := i) (List.getElem?_zip_eq_some.2 ⟨?_, getElem?_listAt hi (0, 0)⟩)
    rw [getElem?_takeLanes _ _ _ (taken.symm ▸ hi), at_]
  have positions : ((u.takeLanes (positionsOf c.squads c.onPath.length) c.l).zip c.onPath).map (·.2) = c.onPath :=
    List.map_snd_zip (by rw [length_takeLanes, taken])
  have back : Carries (u.squad z.1) z.2 ((u.pathBack c).squad p.1) p.2 c.l := (carriesHeld_takeLane ..).1
    (carriesHeld_putAll (fun z hz => (of_mem_pathBack good hz).2) (positions.symm ▸ pathApart)
      (fun z hz => room _ (of_mem_pathBack good hz).1) among)
  have other : p ∉ (c.held.map HeldLane.home).map (·.2) := fun h => by
    rw [List.map_map] at h
    exact disjoint p hp p h rfl
  rw [returnLanes_last]
  exact carries_trans back (carries_putAll_ne (fun z hz => (of_mem_homes good hz).2) other (onPath_squads good hp).2 c.l)

end

end Sys2Proof.Machine
end

section
/-! DIVB with an empty live set and with one (08 R174, R175). -/

namespace Sys2Proof.Machine

-- Records written with a mask and FMT ----------------------------------------------------------------------------------------------

/-- A record with m0 and FMT written. -/
def Squad.onMask (x : Squad) (v : BitVec 32) (fmt : BitVec 14) : Squad := { x.writeM 0 v with fmt := fmt }

theorem laneStateOnly_onMask (x : Squad) (v : BitVec 32) (fmt : BitVec 14) : LaneStateOnly x (x.onMask v fmt) := rfl

theorem carries_onMask (x : Squad) (v : BitVec 32) (fmt : BitVec 14) (l n : Nat) : Carries x l (x.onMask v fmt) l n := by
  refine ⟨rfl, fun i lo _ => ?_, fun _ _ => rfl⟩
  exact congrArg (bitAt · l) (cellGet_cellPut_ne _ _ _ _ (Nat.ne_of_gt lo))

/-- A participant with m0 and FMT written that went on differs in them, and in what a word that goes on moves. -/
theorem movedOn_onMask {x y : Squad} {v : BitVec 32} {fmt : BitVec 14} (h : MovedOn (x.onMask v fmt) y) :
    y.readM 0 = v ∧ y.fmt = fmt ∧ (∀ k, k ≠ 0 → y.readM k = x.readM k) ∧ y = { x.withLaneOf y with masks := y.masks, fmt := y.fmt } := by
  refine ⟨(h.readM 0).trans (readM_writeM_same x 0 v), h.fmt, fun k hk => (h.readM k).trans (readM_writeM_ne x 0 k v hk), ?_⟩
  have masks : y.masks = (x.onMask v fmt).masks := by rw [h]; rfl
  rw [masks, h.fmt]
  exact h

/-- Each squad that a list of parts names with m0 and FMT written. -/
def State.onMasks (t : State) {α : Type} (key : α → Nat) (v : α → BitVec 32) (fmt : α → BitVec 14) (as : List α) : State :=
  t.eachSquad key (fun a x => x.onMask (v a) (fmt a)) as

theorem rearranged_onMasks {α : Type} {key : α → Nat} {as : List α} {qs : List Nat} (squads : as.map key = qs) (t : State)
    (v : α → BitVec 32) (fmt : α → BitVec 14) : Rearranged qs t (t.onMasks key v fmt as) :=
  rearranged_eachSquad (fun _ ha => squads ▸ List.mem_map_of_mem ha) (fun _ _ _ => laneStateOnly_onMask ..) t

-- DIVB (08 R175) -------------------------------------------------------------------------------------------------------------------

/-- The construct that DIVB opens, no lane held aside yet. -/
def divConstruct (s : State) (qs : List Nat) (f : LaneForm) : Construct :=
  ⟨qs.map (partOf s f.va.mreg), divL f, divS f, false, [], qs.map (fun q => (q, (s.squad q).lanes))⟩

/-- The lanes of E and mN of each participant. -/
abbrev divPath (s : State) (qs : List Nat) (f : LaneForm) : List (Nat × BitVec 32) :=
  qs.map (fun q => (q, (s.squad q).readM 0 &&& (s.squad q).readM f.va.mreg))

theorem mask_and_not_and_not (e m : BitVec 32) : e &&& ~~~(e &&& ~~~m) = e &&& m := by
  refine BitVec.eq_of_getLsbD_eq fun i hi => ?_
  simp only [BitVec.getLsbD_and, BitVec.getLsbD_not, decide_eq_true hi, Bool.true_and]
  cases e.getLsbD i <;> cases m.getLsbD i <;> rfl

theorem path_divConstruct (s : State) (qs : List Nat) (f : LaneForm) : (divConstruct s qs f).path = divPath s qs f := by
  rw [Construct.path, divConstruct, List.map_map]
  exact List.map_congr_left fun q _ => Prod.ext rfl (mask_and_not_and_not ..)

theorem squads_divConstruct (s : State) (qs : List Nat) (f : LaneForm) : (divConstruct s qs f).squads = qs := by
  rw [Construct.squads, divConstruct, List.map_map]
  exact List.map_id qs

theorem divPath_squads (s : State) (qs : List Nat) (f : LaneForm) : (divPath s qs f).map (·.1) = qs := by
  rw [List.map_map]
  exact List.map_id qs

section
variable {s : State} {b : Nat} {qs : List Nat} {f : LaneForm} (free : s.entriesInUse b ≠ 32)
include free

theorem divb_alike (alike : divL f = 0) : s.divb b qs f =
    (s.eachSquad (·.1) (fun p x => x.writeM 0 p.2) (divPath s qs f)).collective b (divConstruct s qs f :: (s.block b).stack) qs f.s := by
  rw [← path_divConstruct]
  unfold State.divb
  rw [if_neg free]
  simp only [alike, if_true]
  unfold divConstruct
  rw [alike]
  rfl

theorem divb_live (live : divL f ≠ 0) (same : s.uniform qs (divS f) = none) :
    let r := s.placeLanes (divConstruct s qs f) (divPath s qs f)
    s.divb b qs f = r.1.collective b ({ divConstruct s qs f with held := r.2 } :: (s.block b).stack) qs f.s := by
  intro r
  have placed : r = s.placeLanes (divConstruct s qs f) (divConstruct s qs f).path := by rw [path_divConstruct]
  rw [placed]
  unfold State.divb
  rw [if_neg free]
  simp only [live, if_false, same]
  rfl

theorem divb_differs (live : divL f ≠ 0) {d : Nat} (differs : s.uniform qs (divS f) = some d) : s.divb b qs f = s.divFaults qs 4 d := by
  unfold State.divb
  rw [if_neg free]
  simp only [live, if_false, differs]

end

section
variable {s : State} {b : Nat} {qs : List Nat} {f : LaneForm} (wait : AllWait s b 0xA0 f qs) (legal : (Instr.divb f).wf = true)
  (free : s.entriesInUse b ≠ 32)
include wait legal free

theorem divb_alike_completes (alike : divL f = 0) : ∃ t c, exec (.divergenceCollectiveComplete b) s = .next t ∧ AllGo s t qs f ∧
    (t.block b).stack = c :: (s.block b).stack ∧ c.els = false ∧ c.l = 0 ∧ c.parts = qs.map (partOf s f.va.mreg) ∧
    ∀ q ∈ qs, let x := s.squad q; let y := t.squad q
      y.readM 0 = x.readM 0 &&& x.readM f.va.mreg ∧ (∀ k, k ≠ 0 → y.readM k = x.readM k) ∧ y = { x.withLaneOf y with masks := y.masks } := by
  have once := wait.nodup
  have squads := divPath_squads s qs f
  have masks : Rearranged qs s (s.eachSquad (·.1) (fun p x => x.writeM 0 p.2) (divPath s qs f)) :=
    rearranged_eachSquad (fun _ ha => squads ▸ List.mem_map_of_mem ha) (fun _ _ _ => laneStateOnly_writeM ..) s
  refine ⟨_, divConstruct s qs f, (exec_divb_complete wait legal).trans (congrArg _ (divb_alike free alike)),
    allGo_collective _ _ masks once f, stack_collective .., rfl, alike, rfl, fun q hq => ?_⟩
  have record := squad_eachSquad (g := fun p x => x.writeM 0 p.2) (squads.symm ▸ once)
    (List.mem_map_of_mem hq : (q, (s.squad q).readM 0 &&& (s.squad q).readM f.va.mreg) ∈ divPath s qs f) s
  have moved := movedOn_collective (u := s.eachSquad (·.1) (fun p x => x.writeM 0 p.2) (divPath s qs f)) b
    (divConstruct s qs f :: (s.block b).stack) (qs := qs) f.s q
  rw [record] at moved
  obtain ⟨mask, fmt, others, rest⟩ := movedOn_onMask (fmt := (s.squad q).fmt) moved
  rw [fmt] at rest
  exact ⟨mask, others, rest⟩

theorem divb_live_completes (live : divL f ≠ 0) (room : ∀ q ∈ qs, divL f ≤ (s.squad q).vws) (same : Uniform s qs (divS f)) :
    let path := lanesIn (divPath s qs f)
    ∃ t c, exec (.divergenceCollectiveComplete b) s = .next t ∧ AllGo s t qs f ∧ (t.block b).stack = c :: (s.block b).stack ∧
      c.els = false ∧ c.l = divL f ∧ c.s = divS f ∧ c.parts = qs.map (partOf s f.va.mreg) ∧ RunsFirst t qs path.length ∧
      (∀ i, i < path.length → let p := listAt path i (0, 0); let z := posOf qs i
        Carries (s.squad p.1) p.2 (t.squad z.1) z.2 (divL f)) ∧
      c.held = ((lanesIn (qs.map (fun q => (q, (s.squad q).lanes)))).filter (fun p => !path.contains p)).map
        (fun p => (s.squad p.1).takeLane p.1 p.2 (divL f)) ∧
      ∀ q ∈ qs, (t.squad q).sregs = (s.squad q).sregs ∧ (t.squad q).fmt = (s.squad q).fmt := by
  intro path
  have once := wait.nodup
  have fits : path.length ≤ 32 * qs.length := length_lanesIn_of (divPath_squads s qs f)
  have packed : (s.placeLanes (divConstruct s qs f) (divPath s qs f)).1 = s.packLanes qs (s.takeLanes path (divL f)) (divL f) := by
    conv_rhs => rw [← squads_divConstruct s qs f]
    rfl
  have length := length_takeLanes s path (divL f)
  have run := (exec_divb_complete wait legal).trans (congrArg _ (divb_live free live (uniform_none same)))
  rw [packed] at run
  refine ⟨_, _, run, allGo_collective _ _ (rearranged_packLanes (length.trans_le fits)) once f, stack_collective .., rfl, rfl, rfl, rfl, ?_,
    fun i hi => ?_, rfl, fun q _ => ?_⟩
  · exact runsFirst_collective _ _ _ (length ▸ runsFirst_packLanes once)
  · exact carries_trans (carries_packLanes once fits room hi) ((movedOn_collective ..).carries ..)
  · obtain ⟨sregs, fmt⟩ := packLanes_keeps (t := s) (qs := qs) (hs := s.takeLanes path (divL f)) (n := divL f) q
    have moved := movedOn_collective (u := s.packLanes qs (s.takeLanes path (divL f)) (divL f)) b
      ({ divConstruct s qs f with held := (s.placeLanes (divConstruct s qs f) (divPath s qs f)).2 } :: (s.block b).stack) (qs := qs) f.s q
    exact ⟨moved.sregs.trans sregs, moved.fmt.trans fmt⟩

end

end Sys2Proof.Machine
end

section
/-! ELSEB with an empty live set and with one (08 R176, R177). -/

namespace Sys2Proof.Machine

-- FMT of the parts -----------------------------------------------------------------------------------------------------------------

/-- A record with FMT brought back. -/
def Part.gives (p : Part) (x : Squad) : Squad := { x with fmt := p.fmt }

/-- FMT of each part brought back. -/
def State.formats (t : State) (c : Construct) : State := t.eachSquad (·.sq) Part.gives c.parts

theorem laneStateOnly_gives (p : Part) (x : Squad) : LaneStateOnly x (p.gives x) := rfl

section
variable {t : State} {c : Construct} {qs : List Nat}

theorem rearranged_formats (squads : c.parts.map (·.sq) = qs) : Rearranged qs t (t.formats c) :=
  rearranged_eachSquad (fun _ hp => squads ▸ List.mem_map_of_mem hp) (fun _ _ _ => laneStateOnly_gives ..) t

/-- Nothing else of any record is written. -/
theorem formats_keeps (q : Nat) : (t.formats c).squad q = { t.squad q with fmt := ((t.formats c).squad q).fmt } :=
  eachSquad_rel (R := fun x y => y = { x with fmt := y.fmt }) (fun _ => rfl)
    (fun x y z h k => by rw [h] at k; exact k) (fun _ _ _ => rfl) t q

theorem fmt_formats (squads : c.parts.map (·.sq) = qs) (once : qs.Nodup) {p : Part} (hp : p ∈ c.parts) :
    (t.formats c).squad p.sq = p.gives (t.squad p.sq) := squad_eachSquad (squads ▸ once) hp t

theorem carries_formats (q l n : Nat) : Carries (t.squad q) l ((t.formats c).squad q) l n := by
  rw [formats_keeps]
  exact carries_refl ..

theorem runsFirst_formats {n : Nat} (h : RunsFirst t qs n) : RunsFirst (t.formats c) qs n := by
  intro j hj l hl
  rw [formats_keeps]
  exact h j hj l hl

end

-- ELSEB ----------------------------------------------------------------------------------------------------------------------------

theorem others_squads {c : Construct} {qs : List Nat} (squads : c.parts.map (·.sq) = qs) : c.others.map (·.1) = qs := by
  rw [Construct.others, List.map_map]
  exact squads

section
variable {s : State} {b : Nat} {qs : List Nat} {f : LaneForm} {c : Construct} {rest : List Construct}

theorem elseb_alike (top : (s.block b).stack = c :: rest) (first : c.els = false) (alike : c.l = 0) : s.elseb b qs f =
    ((s.eachSquad (·.1) (fun p x => x.writeM 0 p.2) c.others).formats c).collective b
      ({ c with els := true, held := [] } :: rest) qs f.s := by
  unfold State.elseb
  simp only [top, first, Bool.false_eq_true, if_false, broadcast_alike alike, alike, if_true]
  rfl

theorem elseb_live (top : (s.block b).stack = c :: rest) (first : c.els = false) (live : c.l ≠ 0) :
    let r := ((s.broadcast c).returnLanes c).placeLanes c c.others
    s.elseb b qs f = (r.1.formats c).collective b ({ c with els := true, held := r.2 } :: rest) qs f.s := by
  unfold State.elseb
  simp only [top, first, Bool.false_eq_true, if_false, live]
  rfl

variable (wait : AllWait s b 0xA1 f qs) (legal : (Instr.elseb f).wf = true) (top : (s.block b).stack = c :: rest) (first : c.els = false)
include wait legal top first

theorem elseb_alike_completes (alike : c.l = 0) (squads : c.parts.map (·.sq) = qs) :
    ∃ t, exec (.divergenceCollectiveComplete b) s = .next t ∧ AllGo s t qs f ∧
      (t.block b).stack = { c with els := true, held := [] } :: rest ∧
      ∀ p ∈ c.parts, let x := s.squad p.sq; let y := t.squad p.sq
        y.readM 0 = p.f ∧ y.fmt = p.fmt ∧ (∀ k, k ≠ 0 → y.readM k = x.readM k) ∧
        y = { x.withLaneOf y with masks := y.masks, fmt := y.fmt } := by
  have once := wait.nodup
  have others := others_squads squads
  have masks : Rearranged qs s (s.eachSquad (·.1) (fun p x => x.writeM 0 p.2) c.others) :=
    rearranged_eachSquad (fun _ ha => others ▸ List.mem_map_of_mem ha) (fun _ _ _ => laneStateOnly_writeM ..) s
  refine ⟨_, (exec_elseb_complete wait legal).trans (congrArg _ (elseb_alike top first alike)),
    allGo_collective _ _ (rearranged_trans masks (rearranged_formats squads)) once f, stack_collective .., fun p hp => ?_⟩
  have mask : (s.eachSquad (·.1) (fun p x => x.writeM 0 p.2) c.others).squad p.sq = (s.squad p.sq).writeM 0 p.f :=
    squad_eachSquad (g := fun p x => x.writeM 0 p.2) (others.symm ▸ once) (List.mem_map_of_mem hp : (p.sq, p.f) ∈ c.others) s
  have record := fmt_formats (t := s.eachSquad (·.1) (fun p x => x.writeM 0 p.2) c.others) squads once hp
  have moved := movedOn_collective (u := (s.eachSquad (·.1) (fun p x => x.writeM 0 p.2) c.others).formats c) b
    ({ c with els := true, held := [] } :: rest) (qs := qs) f.s p.sq
  rw [record, mask] at moved
  exact movedOn_onMask moved

theorem elseb_live_completes (good : GoodConstruct s c qs) :
    let other := lanesIn (c.parts.map (fun p => (p.sq, p.f)))
    (∀ p ∈ other, ∃ h ∈ c.held, (h.sq, h.l) = p) →
    ∃ t k, exec (.divergenceCollectiveComplete b) s = .next t ∧ AllGo s t qs f ∧ (t.block b).stack = k :: rest ∧
      k = { c with els := true, held := k.held } ∧ RunsFirst t qs other.length ∧ Broadcast s t c qs ∧
      (∀ p ∈ c.parts, (t.squad p.sq).fmt = p.fmt) ∧
      (∀ i, i < other.length → ∀ h ∈ c.held, (h.sq, h.l) = listAt other i (0, 0) → let z := posOf qs i
        CarriesHeld h (t.squad z.1) z.2 c.l) := by
  intro other _
  have once := wait.nodup
  obtain ⟨live, squads, -, -, room, -⟩ := id good
  have named : c.squads = qs := squads
  have given : Rearranged qs s (s.broadcast c) := named ▸ rearranged_broadcast live
  have back : Rearranged qs (s.broadcast c) ((s.broadcast c).returnLanes c) := rearranged_returnLanes good
  have fits : other.length ≤ 32 * qs.length := length_lanesIn_of (others_squads squads)
  have length := length_takeLanes ((s.broadcast c).returnLanes c) other c.l
  have placed : (((s.broadcast c).returnLanes c).placeLanes c c.others).1 =
      ((s.broadcast c).returnLanes c).packLanes qs (((s.broadcast c).returnLanes c).takeLanes other c.l) c.l := by
    conv_rhs => rw [← named]
    rfl
  have run := (exec_elseb_complete wait legal).trans (congrArg _ (elseb_live top first live))
  rw [placed] at run
  have packed : Rearranged qs ((s.broadcast c).returnLanes c) (((s.broadcast c).returnLanes c).packLanes qs
      (((s.broadcast c).returnLanes c).takeLanes other c.l) c.l) := rearranged_packLanes (length.trans_le fits)
  have moved := rearranged_trans (rearranged_trans back packed) (rearranged_formats squads)
  have roomGiven : ∀ q ∈ qs, c.l ≤ ((s.broadcast c).squad q).vws := fun q hq => (given.record q).vws.symm ▸ room q hq
  have roomBack : ∀ q ∈ qs, c.l ≤ (((s.broadcast c).returnLanes c).squad q).vws := fun q hq => (back.record q).vws.symm ▸ roomGiven q hq
  refine ⟨_, _, run, allGo_collective _ _ (rearranged_trans given moved) once f, stack_collective .., rfl, ?_, ?_,
    fun p hp => ?_, fun i hi h hh at_ => ?_⟩
  · exact runsFirst_collective _ _ _ (runsFirst_formats (length ▸ runsFirst_packLanes once))
  · refine broadcast_kept (broadcast_spec once good) (fun q => ?_) (fun q => ?_)
    · rw [MovedOn.sregs (movedOn_collective ..), formats_keeps]
      exact (packLanes_keeps q).1.trans (returnLanes_keeps _ c q).1
    · exact (MovedOn.swb (movedOn_collective ..)).trans (moved.record q).swb
  · rw [MovedOn.fmt (movedOn_collective ..), fmt_formats squads once hp]
    rfl
  · have home := carriesHeld_returnLanes good roomGiven hh
    have packs := carries_packLanes (s := (s.broadcast c).returnLanes c) once fits roomBack hi
    rw [← at_] at packs
    exact carriesHeld_trans (carriesHeld_trans (carriesHeld_trans home packs) (carries_formats ..)) ((movedOn_collective ..).carries ..)

end

end Sys2Proof.Machine
end

section
/-! RECV with an empty live set and with one (08 R176, R177). -/

namespace Sys2Proof.Machine

/-- Each part's squad with m0 its E and with its FMT. -/
def State.reconverge (t : State) (c : Construct) : State := t.onMasks (·.sq) (·.e) (·.fmt) c.parts

section
variable {t : State} {c : Construct}

theorem squad_reconverge (once : (c.parts.map (·.sq)).Nodup) {p : Part} (hp : p ∈ c.parts) :
    (t.reconverge c).squad p.sq = (t.squad p.sq).onMask p.e p.fmt :=
  squad_eachSquad (key := Part.sq) (g := fun p x => x.onMask p.e p.fmt) once hp t

theorem carries_reconverge (q l n : Nat) : Carries (t.squad q) l ((t.reconverge c).squad q) l n :=
  eachSquad_rel (R := fun x y => Carries x l y l n) (fun _ => carries_refl ..) (fun _ _ _ h k => carries_trans h k)
    (fun _ _ x => carries_onMask x _ _ l n) t q

/-- Registers and occupied positions stay. -/
theorem reconverge_keeps (q : Nat) : ((t.reconverge c).squad q).sregs = (t.squad q).sregs ∧
    ((t.reconverge c).squad q).lanes = (t.squad q).lanes :=
  eachSquad_rel (g := fun (p : Part) x => x.onMask p.e p.fmt) (R := fun x y => y.sregs = x.sregs ∧ y.lanes = x.lanes) (fun _ => ⟨rfl, rfl⟩)
    (fun _ _ _ h k => ⟨k.1.trans h.1, k.2.trans h.2⟩) (fun _ _ _ => ⟨rfl, rfl⟩) t q

end

section
variable {s : State} {b : Nat} {qs : List Nat} {f : LaneForm} {c : Construct} {rest : List Construct}

theorem recv_alike (top : (s.block b).stack = c :: rest) (alike : c.l = 0) :
    s.recv b qs f = (s.reconverge c).collective b rest qs f.s := by
  unfold State.recv
  simp only [top, broadcast_alike alike, alike, if_true]
  rfl

theorem recv_live (top : (s.block b).stack = c :: rest) (live : c.l ≠ 0) :
    s.recv b qs f = (((s.broadcast c).returnLanes c).reconverge c).collective b rest qs f.s := by
  unfold State.recv
  simp only [top, live, if_false]
  rfl

variable (wait : AllWait s b 0xA2 f qs) (legal : (Instr.recv f).wf = true) (top : (s.block b).stack = c :: rest)
include wait legal top

theorem recv_alike_completes (alike : c.l = 0) (squads : c.parts.map (·.sq) = qs) :
    ∃ t, exec (.divergenceCollectiveComplete b) s = .next t ∧ AllGo s t qs f ∧ (t.block b).stack = rest ∧
      ∀ p ∈ c.parts, let x := s.squad p.sq; let y := t.squad p.sq
        y.readM 0 = p.e ∧ y.fmt = p.fmt ∧ (∀ k, k ≠ 0 → y.readM k = x.readM k) ∧
        y = { x.withLaneOf y with masks := y.masks, fmt := y.fmt } := by
  have once := wait.nodup
  refine ⟨_, (exec_recv_complete wait legal).trans (congrArg _ (recv_alike top alike)),
    allGo_collective _ _ (rearranged_onMasks squads ..) once f, stack_collective .., fun p hp => ?_⟩
  have moved := movedOn_collective (u := s.reconverge c) b rest (qs := qs) f.s p.sq
  rw [squad_reconverge (squads.symm ▸ once) hp] at moved
  exact movedOn_onMask moved

theorem recv_live_completes (good : GoodConstruct s c qs) :
    ∃ t, exec (.divergenceCollectiveComplete b) s = .next t ∧ AllGo s t qs f ∧ (t.block b).stack = rest ∧ Broadcast s t c qs ∧
      (∀ p ∈ c.parts, (t.squad p.sq).readM 0 = p.e ∧ (t.squad p.sq).fmt = p.fmt) ∧
      (∀ m ∈ c.lanes, (t.squad m.1).lanes = m.2) ∧
      (∀ i, i < c.onPath.length → let p := listAt c.onPath i (0, 0); let z := posOf qs i
        Carries (s.squad z.1) z.2 (t.squad p.1) p.2 c.l) ∧
      ∀ h ∈ c.held, CarriesHeld h (t.squad h.sq) h.l c.l := by
  have once := wait.nodup
  obtain ⟨live, squads, -, -, room, -⟩ := id good
  have named : c.squads = qs := squads
  have given : Rearranged qs s (s.broadcast c) := named ▸ rearranged_broadcast live
  have back : Rearranged qs (s.broadcast c) ((s.broadcast c).returnLanes c) := rearranged_returnLanes good
  have moved : Rearranged qs (s.broadcast c) (((s.broadcast c).returnLanes c).reconverge c) :=
    rearranged_trans back (rearranged_onMasks squads ..)
  have roomGiven : ∀ q ∈ qs, c.l ≤ ((s.broadcast c).squad q).vws := fun q hq => (given.record q).vws.symm ▸ room q hq
  have on (q : Nat) := movedOn_collective (u := ((s.broadcast c).returnLanes c).reconverge c) b rest (qs := qs) f.s q
  refine ⟨_, (exec_recv_complete wait legal).trans (congrArg _ (recv_live top live)),
    allGo_collective _ _ (rearranged_trans given moved) once f, stack_collective .., ?_, fun p hp => ?_, fun m hm => ?_,
    fun i hi => ?_, fun h hh => ?_⟩
  · exact broadcast_kept (broadcast_spec once good)
      (fun q => (on q).sregs.trans ((reconverge_keeps q).1.trans (returnLanes_keeps _ c q).1))
      (fun q => (on q).swb.trans (moved.record q).swb)
  · have here := on p.sq
    rw [squad_reconverge (squads.symm ▸ once) hp] at here
    obtain ⟨mask, fmt, -⟩ := movedOn_onMask here
    exact ⟨mask, fmt⟩
  · exact (on m.1).lanes.trans ((reconverge_keeps m.1).2.trans (lanes_returnLanes good once hm))
  · have path := carries_trans ((scalarsOnly_broadcast live _).carries _ c.l) (carries_returnLanes good roomGiven hi)
    exact carries_trans (carries_trans path (carries_reconverge ..)) ((on _).carries ..)
  · exact carriesHeld_trans (carriesHeld_trans (carriesHeld_returnLanes good roomGiven hh) (carries_reconverge ..)) ((on _).carries ..)

end

end Sys2Proof.Machine
end

section
/-! DIVB whose participants' registers differ (08 R177, R182; 16 R305): all of them take the fault. -/

namespace Sys2Proof.Machine

-- Entries of the reconvergence stack -----------------------------------------------------------------------------------------------

/-- The entries of the reconvergence stack that a squad's handler holds. -/
def Squad.entries (x : Squad) : Nat :=
  match x.handler with
  | some _ => 1 + x.seg.length
  | none => 0

theorem entriesInUse_eq (s : State) (b : Nat) :
    s.entriesInUse b = (s.block b).stack.length + ((s.squadsOf b).map (fun q => (s.squad q).entries)).sum := rfl

theorem sum_map_le_of_one {g h : Nat → Nat} {l : List Nat} {q : Nat} (once : l.Nodup) (same : ∀ p, p ≠ q → g p = h p)
    (more : g q ≤ h q + 1) : (l.map g).sum ≤ (l.map h).sum + 1 := by
  induction l with
  | nil => exact Nat.zero_le _
  | cons p rest ih =>
    obtain ⟨fresh, once⟩ := List.nodup_cons.1 once
    simp only [List.map_cons, List.sum_cons]
    by_cases own : p = q
    · subst own
      rw [List.map_congr_left fun r hr => same r fun e => fresh (e ▸ hr)]
      omega
    · have := same p own
      have := ih once
      omega

theorem squad_setSquad_self (s : State) (q p : Nat) : (s.setSquad q (s.squad q)).squad p = s.squad p := by
  by_cases own : p = q
  · rw [own, squad_setSquad_same]
  · exact squad_setSquad_ne _ _ _ _ own

/-- A handler newly entered holds one entry more. -/
theorem entriesInUse_setSquad_le {s : State} {q : Nat} {y : Squad} (one : y.entries = 1) (b : Nat) :
    (s.setSquad q y).entriesInUse b ≤ s.entriesInUse b + 1 := by
  have more := sum_map_le_of_one (g := fun p => ((s.setSquad q y).squad p).entries) (h := fun p => (s.squad p).entries)
    (squadsOf_nodup s b) (fun p hp => congrArg Squad.entries (squad_setSquad_ne s q p y hp))
    (by rw [squad_setSquad_same, one]; omega)
  rw [entriesInUse_eq, entriesInUse_eq]
  change (s.block b).stack.length + ((s.squadsOf b).map _).sum ≤ _
  omega

theorem blockOfSquad_of_mem {s : State} {b q : Nat} (hq : q ∈ s.squadsOf b) : blockOfSquad q = b := by
  obtain ⟨i, hi, rfl⟩ := List.mem_map.1 hq
  have sixteen : (s.gang (gangOfBlock b)).desc.nsquads ≤ 16 := (s.gang (gangOfBlock b)).desc.squads.isLt
  have := List.mem_range.1 hi
  simp only [blockOfSquad, squadKey]
  omega

-- Entering the handler -------------------------------------------------------------------------------------------------------------

/-- A squad's record in the handler of trap t (16 R305). -/
def Squad.entered (x : Squad) (t : TrapInfo) : Squad :=
  { x with
    region := none
    handler := some ⟨cellGet x.masks 0, x.fmt, t.lcnt, x.lpc, t.wm, t.ls, t.tile⟩
    seg := []
    lcnt := t.lcnt
    trap := { x.trap with tcause := t.tcause, tpc := t.tpc, tlpc := t.tlpc, tlm := t.tlm, tval := t.tval, tdst := t.tdst }
    masks := cellPut x.masks 0 t.wm
    fmt := x.fmt &&& 0x3E0F#14
    pc := x.trap.thandler
    lane := none
    replay := none
    latch := none
    run := .running }

/-- A squad at its divergence word with nothing outstanding, outside a handler and with one to go to. -/
def Squad.mayFault (x : Squad) : Prop := (∃ w, x.run = .diverge w) ∧ x.out = [] ∧ x.handler = none ∧ x.trap.thandler ≠ 0

/-- The trap of a squad's divergence word. -/
def Squad.divTrap (x : Squad) (sub detail : Nat) : TrapInfo := x.laneTrap 0 0x0A 0 (divTval sub detail) tdstNone

theorem tcause_divTrap (x : Squad) (sub detail : Nat) : (x.divTrap sub detail).tcause = 0x600A := by
  unfold TrapInfo.tcause
  have cause : (x.divTrap sub detail).cause = 0x0A := rfl
  have rx : (x.divTrap sub detail).rx = true := rfl
  have lw : (x.divTrap sub detail).lw = true := rfl
  have async : (x.divTrap sub detail).async = false := rfl
  rw [cause, rx, lw, async]
  decide

theorem divFault_enters {s : State} {q : Nat} (ready : (s.squad q).mayFault) (free : s.entriesInUse (blockOfSquad q) ≠ 32)
    (sub detail : Nat) : s.divFault q sub detail = s.setSquad q ((s.squad q).entered ((s.squad q).divTrap sub detail)) := by
  obtain ⟨⟨w, run⟩, out, outside, handler⟩ := ready
  have entries : (s.setSquad q (s.squad q)).entriesInUse (blockOfSquad q) = s.entriesInUse (blockOfSquad q) := by
    simp only [entriesInUse_eq, squad_setSquad_self]
    rfl
  unfold State.divFault State.raise
  simp only [run, out, if_true]
  unfold State.trapEntry
  simp only [squad_setSquad_same, outside, Option.isSome_none, Bool.false_eq_true, handler, entries, free, if_false, setSquad_setSquad]
  unfold Squad.entered Squad.divTrap
  rfl

/-- All participants enter their handlers, the stack having an entry for each. -/
theorem divFaults_enter {s : State} {b : Nat} {qs : List Nat} (once : qs.Nodup) (among : ∀ q ∈ qs, blockOfSquad q = b)
    (ready : ∀ q ∈ qs, (s.squad q).mayFault) (free : s.entriesInUse b + qs.length ≤ 32) (sub detail : Nat) :
    s.divFaults qs sub detail = s.eachSquad id (fun _ x => x.entered (x.divTrap sub detail)) qs := by
  induction qs generalizing s with
  | nil => rfl
  | cons q rest ih =>
    obtain ⟨fresh, once⟩ := List.nodup_cons.1 once
    have own := among q List.mem_cons_self
    rw [List.length_cons] at free
    have first := divFault_enters (ready q List.mem_cons_self) (by rw [own]; omega) sub detail
    have more := entriesInUse_setSquad_le (s := s) (q := q) (y := (s.squad q).entered ((s.squad q).divTrap sub detail)) rfl b
    have step : s.divFaults (q :: rest) sub detail = (s.divFault q sub detail).divFaults rest sub detail := rfl
    rw [step, first, eachSquad_cons]
    refine ih once (fun p hp => among p (List.mem_cons_of_mem _ hp)) (fun p hp => ?_) (by omega)
    have apart : p ≠ q := fun e => fresh (e ▸ hp)
    rw [squad_setSquad_ne _ _ _ _ apart]
    exact ready p (List.mem_cons_of_mem _ hp)

section
variable {s : State} {b : Nat} {qs : List Nat} {f : LaneForm} (wait : AllWait s b 0xA0 f qs) (legal : (Instr.divb f).wf = true)
  (free : s.entriesInUse b ≠ 32)
include wait legal free

theorem divb_differs_faults (live : divL f ≠ 0) (d : Nat)
    (differs : ∃ i, i < divS f ∧ d = 16 + i ∧ Uniform s qs 0 ∧ (∀ k, k < i → Uniform s qs (k + 1)) ∧ ¬ Uniform s qs (i + 1))
    (handlers : ∀ q ∈ qs, (s.squad q).handler = none ∧ (s.squad q).trap.thandler ≠ 0) (room : s.entriesInUse b + qs.length ≤ 32) :
    ∃ t, exec (.divergenceCollectiveComplete b) s = .next t ∧ ∀ q ∈ qs, let y := t.squad q
      y.handler.isSome = true ∧ y.pc = (s.squad q).trap.thandler ∧ y.trap.tcause = 0x600A ∧ y.trap.tpc = (s.squad q).pc ∧
      y.trap.tval = BitVec.ofNat 64 (d * 65536 + 4) := by
  obtain ⟨i, hi, rfl, fmt, below, here⟩ := differs
  have once := wait.nodup
  obtain ⟨participants, -, -, pc, all⟩ := id wait
  have among : ∀ q ∈ qs, blockOfSquad q = b := fun q hq =>
    blockOfSquad_of_mem (List.mem_of_mem_filter (participants.symm ▸ hq : q ∈ s.unexited b))
  have ready : ∀ q ∈ qs, (s.squad q).mayFault := fun q hq => by
    obtain ⟨run, -, -, out⟩ := all q hq
    exact ⟨⟨_, run⟩, out, handlers q hq⟩
  have run := exec_divb_complete wait legal
  rw [divb_differs free live (uniform_some hi below fmt here), divFaults_enter once among ready room] at run
  refine ⟨_, run, fun q hq => ?_⟩
  have record := squad_eachSquad (key := id) (g := fun _ x => x.entered (x.divTrap 4 (16 + i))) (by simpa using once) hq s
  rw [id] at record
  rw [record]
  exact ⟨rfl, rfl, tcause_divTrap .., rfl, rfl⟩

end

end Sys2Proof.Machine
end

section
/-! The faults of the squads that a REGRP retires pass on, and its block goes on (08 R184; 11 R239). -/

namespace Sys2Proof.Machine

/-- Of the machine only pending faults differ, those of the squads qs and those that block b's Pacer met. -/
def FaultsMoved (b : Nat) (qs : List Nat) (s t : State) : Prop :=
  t = { s with squads := t.squads, blocks := t.blocks } ∧ (∀ p, p ∉ qs → t.squad p = s.squad p) ∧
  (∀ q, t.squad q = { s.squad q with faults := (t.squad q).faults }) ∧ (t.block b).pacer.run = (s.block b).pacer.run

/-- A block that has participants left, all of them among qs and running. -/
def AllRun (b : Nat) (qs : List Nat) (s : State) : Prop := s.unexited b ≠ [] ∧ ∀ q ∈ s.unexited b, q ∈ qs ∧ (s.squad q).run = .running

section
variable {b : Nat} {qs : List Nat}

theorem faultsMoved_refl (s : State) : FaultsMoved b qs s s := ⟨rfl, fun _ _ => rfl, fun _ => rfl, rfl⟩

theorem faultsMoved_trans {s t u : State} (h : FaultsMoved b qs s t) (k : FaultsMoved b qs t u) : FaultsMoved b qs s u := by
  obtain ⟨frame, others, records, run⟩ := h
  obtain ⟨frame', others', records', run'⟩ := k
  refine ⟨?_, fun p hp => (others' p hp).trans (others p hp), fun q => ?_, run'.trans run⟩
  · rw [frame] at frame'
    exact frame'
  · have record := records' q
    rw [records q] at record
    exact record

theorem FaultsMoved.run {s t : State} (h : FaultsMoved b qs s t) (q : Nat) : (t.squad q).run = (s.squad q).run := by
  obtain ⟨-, -, records, -⟩ := h
  rw [records q]

theorem FaultsMoved.squadsOf {s t : State} (h : FaultsMoved b qs s t) (c : Nat) : t.squadsOf c = s.squadsOf c := by
  rw [h.1]
  rfl

theorem FaultsMoved.unexited {s t : State} (h : FaultsMoved b qs s t) (c : Nat) : t.unexited c = s.unexited c := by
  unfold State.unexited Squad.exited
  simp only [h.squadsOf, h.run]

theorem FaultsMoved.allRun {s t : State} (h : FaultsMoved b qs s t) (run : AllRun b qs s) : AllRun b qs t := by
  unfold AllRun
  simp only [h.unexited, h.run]
  exact run

theorem faultsMoved_setSquad {q : Nat} (hq : q ∈ qs) (s : State) (fs : List PendFault) :
    FaultsMoved b qs s (s.setSquad q { s.squad q with faults := fs }) := by
  refine ⟨rfl, fun p hp => squad_setSquad_ne _ _ _ _ fun e => hp (e ▸ hq), fun p => ?_, rfl⟩
  by_cases own : p = q
  · subst own
    rw [squad_setSquad_same]
  · rw [squad_setSquad_ne _ _ _ _ own]

theorem faultsMoved_setBlock (s : State) (fs : List TileFault) (owed : Nat) : FaultsMoved b qs s
    (s.setBlock b { s.block b with pacer := { (s.block b).pacer with faults := fs, owed := owed } }) :=
  ⟨rfl, fun _ _ => rfl, fun _ => rfl, by rw [block_setBlock_same]⟩

theorem faultsMoved_pendFault {s : State} {p : Nat} (run : AllRun b qs s) (hp : p ∈ s.unexited b) (f : PendFault) :
    FaultsMoved b qs s (s.pendFault p f) := by
  obtain ⟨among, running⟩ := run.2 p hp
  rw [pendFault_of_running running]
  exact faultsMoved_setSquad among s _

theorem faultsMoved_pendFaults {p : Nat} (fs : List PendFault) {s : State} (run : AllRun b qs s) (hp : p ∈ s.unexited b) :
    FaultsMoved b qs s (fs.foldl (fun v f => v.pendFault p f) s) := by
  induction fs generalizing s with
  | nil => exact faultsMoved_refl s
  | cons f rest ih =>
    have first := faultsMoved_pendFault run hp f
    exact faultsMoved_trans first (ih (first.allRun run) (first.unexited b ▸ hp))

/-- The faults of one squad. -/
theorem faultsMoved_passOne {s : State} {q : Nat} (run : AllRun b qs s) (hq : q ∈ qs) : FaultsMoved b qs s (s.passFaults b [q]) := by
  have taken (fs : List TileFault) (owed : Nat) := faultsMoved_trans (faultsMoved_setSquad (b := b) hq s [])
    (faultsMoved_setBlock (s.setSquad q { s.squad q with faults := [] }) fs owed)
  unfold State.passFaults
  rw [List.foldl_cons, List.foldl_nil]
  dsimp only
  split
  · exact taken _ _
  · next p _ unexited =>
    exact faultsMoved_trans (taken _ _) (faultsMoved_pendFaults _ ((taken _ _).allRun run) (unexited ▸ List.mem_cons_self))

theorem faultsMoved_passFaults {ps : List Nat} (among : ∀ q ∈ ps, q ∈ qs) {s : State} (run : AllRun b qs s) :
    FaultsMoved b qs s (s.passFaults b ps) := by
  induction ps generalizing s with
  | nil => exact faultsMoved_refl s
  | cons q rest ih =>
    have first := faultsMoved_passOne run (among q List.mem_cons_self)
    exact faultsMoved_trans first (ih (fun p hp => among p (List.mem_cons_of_mem _ hp)) (first.allRun run))

theorem faultsMoved_deliverTile {s : State} (run : AllRun b qs s) : FaultsMoved b qs s (s.deliverTile b) := by
  cases faults : (s.block b).pacer.faults with
  | nil =>
    have none_ : s.deliverTile b = s := by
      unfold State.deliverTile
      simp only [faults]
    rw [none_]
    exact faultsMoved_refl s
  | cons f rest =>
    cases found : (s.unexited b).find? (fun k => (s.squad k).handler = none) with
    | none =>
      have waits : s.deliverTile b = s := by
        obtain ⟨p, ps, unexited⟩ := List.exists_cons_of_ne_nil run.1
        rw [unexited] at found
        unfold State.deliverTile
        simp only [faults, unexited, found]
      rw [waits]
      exact faultsMoved_refl s
    | some q =>
      rw [deliverTile_of_find faults found]
      have taken := faultsMoved_setBlock (b := b) (qs := qs) s rest ((s.block b).pacer.owed + 1)
      exact faultsMoved_trans taken (faultsMoved_pendFault (taken.allRun run) (taken.unexited b ▸ List.mem_of_find?_eq_some found) _)

theorem faultsMoved_deliverTiles {s : State} (run : AllRun b qs s) : FaultsMoved b qs s (s.deliverTiles b) := by
  have each (ns : List Nat) (t : State) (run : AllRun b qs t) : FaultsMoved b qs t (ns.foldl (fun t _ => t.deliverTile b) t) := by
    induction ns generalizing t with
    | nil => exact faultsMoved_refl t
    | cons _ rest ih =>
      have first := faultsMoved_deliverTile run
      exact faultsMoved_trans first (ih _ (first.allRun run))
  exact each _ s run

/-- Squads that run or have exited wait at no barrier. -/
theorem AllRun.quiet {s : State} (run : AllRun b qs s) (pacer : ∀ k m, (s.block b).pacer.run ≠ .barrier k m) : QuietBlock s b := by
  refine ⟨fun q hq k waits => ?_, pacer⟩
  have left : q ∈ s.unexited b := List.mem_filter.2 ⟨hq, by rw [Squad.exited, waits]; rfl⟩
  have running := (run.2 q left).2
  rw [waits] at running
  cases running

theorem faultsMoved_regrp {s : State} {ps : List Nat} (run : AllRun b qs s) (among : ∀ q ∈ ps, q ∈ qs)
    (pacer : ∀ k m, (s.block b).pacer.run ≠ .barrier k m) :
    FaultsMoved b qs s (((s.passFaults b ps).deliverTiles b).barriers b) := by
  have passed := faultsMoved_passFaults among run
  have moved := faultsMoved_trans passed (faultsMoved_deliverTiles (passed.allRun run))
  obtain ⟨-, -, -, still⟩ := id moved
  rw [barriers_quiet ((moved.allRun run).quiet (by rw [still]; exact pacer))]
  exact moved

end

end Sys2Proof.Machine
end

section
/-! REGRP (08 R179, R184): each lane numbered, all packed, the participants left without one retired. -/

namespace Sys2Proof.Machine

-- Numbering ------------------------------------------------------------------------------------------------------------------------

/-- A record with the LANEID of one lane written. -/
def numberLane (a : Nat × (Nat × Nat)) (x : Squad) : Squad := { x with laneids := cellPut x.laneids a.2.2 (BitVec.ofNat 32 a.1) }

/-- Lanes numbered where they stand. -/
def State.numberLanes (t : State) (as : List (Nat × (Nat × Nat))) : State := t.eachSquad (·.2.1) numberLane as

theorem laneStateOnly_numberLane (a : Nat × (Nat × Nat)) (x : Squad) : LaneStateOnly x (numberLane a x) := rfl

section
variable {as : List (Nat × (Nat × Nat))}

/-- Only LANEIDs are written. -/
theorem numberLanes_keeps (t : State) (q : Nat) :
    (t.numberLanes as).squad q = { t.squad q with laneids := ((t.numberLanes as).squad q).laneids } :=
  eachSquad_rel (g := numberLane) (R := fun x y => y = { x with laneids := y.laneids }) (fun _ => rfl)
    (fun x y z h k => by rw [h] at k; exact k) (fun _ _ _ => rfl) t q

theorem laneids_numberLanes_ne {p : Nat × Nat} (other : p ∉ as.map (·.2)) (t : State) :
    cellGet ((t.numberLanes as).squad p.1).laneids p.2 = cellGet (t.squad p.1).laneids p.2 := by
  induction as generalizing t with
  | nil => rfl
  | cons a rest ih =>
    obtain ⟨now, later⟩ := List.ne_and_not_mem_of_not_mem_cons other
    refine (ih later _).trans ?_
    by_cases own : p.1 = a.2.1
    · rw [own, squad_setSquad_same]
      exact cellGet_cellPut_ne _ _ _ _ fun e => now (Prod.ext own e)
    · rw [squad_setSquad_ne _ _ _ _ own]

theorem laneids_numberLanes (once : (as.map (·.2)).Nodup) {a : Nat × (Nat × Nat)} (ha : a ∈ as) (t : State) :
    cellGet ((t.numberLanes as).squad a.2.1).laneids a.2.2 = BitVec.ofNat 32 a.1 := by
  induction as generalizing t with
  | nil => cases ha
  | cons b rest ih =>
    obtain ⟨fresh, once⟩ := List.nodup_cons.1 once
    rcases List.mem_cons.1 ha with rfl | later
    · refine (laneids_numberLanes_ne fresh _).trans ?_
      rw [squad_setSquad_same]
      exact cellGet_cellPut_same ..
    · exact ih once later _

end

-- Masks of empty positions ---------------------------------------------------------------------------------------------------------

/-- m1 to m15 cleared at every position that no lane occupies. -/
def Squad.clearOff (x : Squad) : Squad := { x with masks := cellsEach (· + 1) (fun _ v => v &&& x.lanes) (List.range 15) x.masks }

theorem bitAt_clearOff (x : Squad) {k : Nat} (lo : 1 ≤ k) (hk : k < 16) (l : Nat) :
    bitAt (cellGet x.clearOff.masks k) l = (bitAt (cellGet x.masks k) l && bitAt x.lanes l) := by
  obtain ⟨i, rfl⟩ := Nat.exists_eq_add_of_le' lo
  have cell : cellGet x.clearOff.masks (i + 1) = cellGet x.masks (i + 1) &&& x.lanes :=
    cellGet_cellsEach (key := (· + 1)) (g := fun _ v => v &&& x.lanes) (k := i) (succ_range_nodup 15) (List.mem_range.2 (by omega)) x.masks
  rw [cell, bitAt, BitVec.getLsbD_and]

theorem readM_zero_clearOff (x : Squad) : x.clearOff.readM 0 = x.readM 0 :=
  cellGet_cellsEach_ne (key := (· + 1)) (g := fun _ v => v &&& x.lanes) (i := 0) (ks := List.range 15)
    (fun h => absurd (mem_succ_range.1 h).1 (by decide)) x.masks

theorem carries_clearOff {x : Squad} {l : Nat} (occupied : bitAt x.lanes l = true) (n : Nat) : Carries x l x.clearOff l n :=
  ⟨rfl, fun i lo hi => by rw [bitAt_clearOff x lo hi, occupied, Bool.and_true], fun _ _ => rfl⟩

-- Retiring -------------------------------------------------------------------------------------------------------------------------

/-- A participant left without a lane. -/
def Squad.retired (x : Squad) : Squad := { x with run := .exited, fused := true, lane := none }

/-- The participants from number h on are retired. -/
def State.retireFrom (t : State) (qs : List Nat) (h : Nat) : State := t.eachSquad id (fun _ x => x.retired) (qs.drop h)

theorem squad_retireFrom {qs : List Nat} (once : qs.Nodup) {j : Nat} (hj : j < qs.length) (t : State) (h : Nat) :
    (t.retireFrom qs h).squad (listAt qs j 0) = if j < h then t.squad (listAt qs j 0) else (t.squad (listAt qs j 0)).retired := by
  have at_ : qs[j]? = some (listAt qs j 0) := getElem?_listAt hj 0
  split
  · next kept =>
    refine squad_eachSquad_ne (key := id) (fun dropped => ?_) t
    rw [List.map_id] at dropped
    obtain ⟨i, hi⟩ := List.mem_iff_getElem?.1 dropped
    rw [List.getElem?_drop] at hi
    have := (List.getElem?_inj hj once).1 (at_.trans hi.symm)
    omega
  · next gone =>
    have dropped : listAt qs j 0 ∈ qs.drop h := List.mem_of_getElem? (i := j - h) (by rw [List.getElem?_drop, Nat.add_sub_cancel' (by omega), at_])
    exact squad_eachSquad (key := id) (g := fun _ x => x.retired) (by simpa using once.sublist (List.drop_sublist h qs)) dropped t

-- The arrangement ------------------------------------------------------------------------------------------------------------------

section
variable (s : State) (qs : List Nat) (f : LaneForm)

/-- Every lane of the participants. -/
abbrev State.allLanes : List (Nat × Nat) := lanesIn (qs.map (fun q => (q, (s.squad q).readM 0)))

/-- The participants' lanes numbered. -/
def State.renumbered : State := s.numberLanes (numbered (s.allLanes qs))

/-- All lanes in the first positions. -/
def State.repacked : State :=
  (s.renumbered qs).packLanes qs ((s.renumbered qs).takeLanes (s.allLanes qs) (divL f)) (divL f)

/-- The participants past their word, the mask bits of empty positions cleared. -/
def State.cleared : State := ((s.repacked qs f).resumeAll qs f.s).eachSquad id (fun _ x => x.clearOff) qs

/-- How many participants a REGRP keeps. -/
def State.keptCount : Nat := max 1 (((s.allLanes qs).length + 31) / 32)

/-- The participants without a lane retired. -/
def State.regrouped : State := (s.cleared qs f).retireFrom qs (s.keptCount qs)

end

theorem regrp_eq {s : State} {b : Nat} {qs : List Nat} {f : LaneForm} (open_ : (s.block b).stack = []) (same : Uniform s qs (divS f)) :
    s.regrp b qs f = (((s.regrouped qs f).passFaults b (qs.drop (s.keptCount qs))).deliverTiles b).barriers b := by
  have kept : s.keptCount qs = max 1 ((((s.renumbered qs).takeLanes (s.allLanes qs) (divL f)).length + 31) / 32) := by
    rw [length_takeLanes]
    rfl
  unfold State.regrouped
  rw [kept]
  unfold State.regrp
  simp only [open_, ne_eq, not_true_eq_false, if_false, uniform_none same]
  rfl

section
variable {s : State} {qs : List Nat} {f : LaneForm}

theorem allLanes_squads : (qs.map (fun q => (q, (s.squad q).readM 0))).map (·.1) = qs := by
  rw [List.map_map]
  exact List.map_id qs

theorem rearranged_renumbered : Rearranged qs s (s.renumbered qs) :=
  rearranged_eachSquad (fun _ ha => (of_mem_lanesIn allLanes_squads (List.of_mem_zip ha).2).1) (fun _ _ _ => laneStateOnly_numberLane ..) s

theorem length_allLanes : (s.allLanes qs).length ≤ 32 * qs.length := length_lanesIn_of allLanes_squads

theorem rearranged_repacked : Rearranged qs s (s.repacked qs f) :=
  rearranged_trans rearranged_renumbered (rearranged_packLanes ((length_takeLanes ..).trans_le length_allLanes))

variable (once : qs.Nodup)
include once

theorem laneids_renumbered {i : Nat} (hi : i < (s.allLanes qs).length) : let p := listAt (s.allLanes qs) i (0, 0)
    cellGet ((s.renumbered qs).squad p.1).laneids p.2 = BitVec.ofNat 32 i := by
  have apart : ((numbered (s.allLanes qs)).map (·.2)).Nodup := by
    rw [numbered_snd]
    exact lanesIn_nodup (allLanes_squads.symm ▸ once)
  exact laneids_numberLanes apart (numbered_mem hi (0, 0)) s

theorem runsFirst_repacked : RunsFirst (s.repacked qs f) qs (s.allLanes qs).length := by
  have packed := runsFirst_packLanes (t := s.renumbered qs) (hs := (s.renumbered qs).takeLanes (s.allLanes qs) (divL f)) (n := divL f) once
  rw [length_takeLanes] at packed
  exact packed

/-- Lane i of all stands at position i, with that number. -/
theorem carries_repacked (room : ∀ q ∈ qs, divL f ≤ (s.squad q).vws) {i : Nat} (hi : i < (s.allLanes qs).length) :
    let p := listAt (s.allLanes qs) i (0, 0); let z := posOf qs i
    Carries ((s.renumbered qs).squad p.1) p.2 ((s.repacked qs f).squad z.1) z.2 (divL f) :=
  carries_packLanes once length_allLanes (fun q hq => (rearranged_renumbered.record q).vws.symm ▸ room q hq) hi

theorem squad_cleared {q : Nat} (hq : q ∈ qs) : (s.cleared qs f).squad q = (((s.repacked qs f).squad q).pastWord (f.s = 1)).clearOff := by
  have record := squad_eachSquad (key := id) (g := fun _ x => x.clearOff) (by simpa using once) hq ((s.repacked qs f).resumeAll qs f.s)
  rw [← squad_resumeAll once hq (s.repacked qs f) f.s]
  exact record

theorem movedOn_cleared {q : Nat} (hq : q ∈ qs) : ∃ y, MovedOn ((s.repacked qs f).squad q) y ∧ (s.cleared qs f).squad q = y.clearOff ∧
    LaneGoes { s.squad q with run := .running } y.clearOff (f.s = 1) :=
  ⟨_, pastWord_frame .., squad_cleared once hq, (rearranged_repacked.record q).laneGoes (laneGoes_pastWord ((s.repacked qs f).squad q) _)⟩

theorem runsFirst_cleared : RunsFirst (s.cleared qs f) qs (s.allLanes qs).length := by
  intro j hj l hl
  obtain ⟨y, moved, record, -⟩ := movedOn_cleared (s := s) (f := f) once (listAt_mem hj 0)
  obtain ⟨mask, lanes⟩ := runsFirst_repacked (s := s) (f := f) once j hj l hl
  rw [record, readM_zero_clearOff, moved.readM]
  exact ⟨mask, (congrArg (bitAt · l) moved.lanes).trans lanes⟩

end

end Sys2Proof.Machine
end

section
/-! REGRP completes (08 R184): what it leaves in every participant, kept or retired. -/

namespace Sys2Proof.Machine

/-- A squad past a word with nothing outstanding runs. -/
theorem LaneGoes.running {x y : Squad} {m : Bool} (goes : LaneGoes x y m) (run : x.run = .running) (queued : x.lane.isSome = true)
    (out : y.out = []) : y.run = .running := by
  obtain ⟨-, -, -, more, last⟩ := goes
  obtain ⟨r, lane⟩ := Option.isSome_iff_exists.1 queued
  rcases Nat.lt_or_ge 1 r.left with many | one
  · obtain ⟨-, -, -, here⟩ := more r lane many
    rw [here, if_pos out, run, ite_self]
  · obtain ⟨-, -, -, here⟩ := last r lane one
    rw [here, if_pos out, run, ite_self]

/-- Of a participant's record only what retiring and its pending faults change differs. -/
def LeftOnly (x y : Squad) : Prop := y = { x with run := y.run, fused := y.fused, lane := y.lane, faults := y.faults }

theorem LeftOnly.carries {x y : Squad} (h : LeftOnly x y) (l n : Nat) : Carries x l y l n := by
  rw [h]
  exact carries_refl ..

theorem LeftOnly.masks {x y : Squad} (h : LeftOnly x y) : y.masks = x.masks := by rw [h]

theorem LeftOnly.runsFirst {t u : State} {qs : List Nat} {n : Nat} (h : ∀ q, LeftOnly (t.squad q) (u.squad q)) (first : RunsFirst t qs n) :
    RunsFirst u qs n := by
  intro j hj l hl
  rw [h (listAt qs j 0)]
  exact first j hj l hl

/-- Only the squads' records and what has been seen differ. -/
def SquadsAndHist (s t : State) : Prop := t = { s with squads := t.squads, hist := t.hist }

theorem squadsAndHist_of {s t : State} (h : t = { s with squads := t.squads }) : SquadsAndHist s t := by
  unfold SquadsAndHist
  rw [h]

theorem squadsAndHist_trans {s t u : State} (h : SquadsAndHist s t) (k : SquadsAndHist t u) : SquadsAndHist s u := by
  unfold SquadsAndHist at h k ⊢
  rw [h] at k
  exact k

/-- Participants below the kept count are those that hold a lane, the first one always. -/
theorem lt_keptCount_iff (s : State) (qs : List Nat) (j : Nat) : j < s.keptCount qs ↔ 32 * j < max 1 (s.allLanes qs).length := by
  unfold State.keptCount
  omega

section
variable {s : State} {b : Nat} {qs : List Nat} {f : LaneForm}

theorem regrouped_frame : SquadsAndHist s (s.regrouped qs f) := by
  have packed : SquadsAndHist s (s.repacked qs f) := squadsAndHist_of (rearranged_repacked (s := s) (qs := qs) (f := f)).1
  have resumed : SquadsAndHist (s.repacked qs f) ((s.repacked qs f).resumeAll qs f.s) := resumeAll_frame _ qs f.s
  have cleared : SquadsAndHist ((s.repacked qs f).resumeAll qs f.s) (s.cleared qs f) := squadsAndHist_of (eachSquad_frame _)
  have retired : SquadsAndHist (s.cleared qs f) (s.regrouped qs f) := squadsAndHist_of (eachSquad_frame _)
  exact squadsAndHist_trans (squadsAndHist_trans (squadsAndHist_trans packed resumed) cleared) retired

theorem squad_regrouped_ne {p : Nat} (hp : p ∉ qs) : (s.regrouped qs f).squad p = s.squad p := by
  have dropped : p ∉ (qs.drop (s.keptCount qs)).map id := fun h => hp (List.mem_of_mem_drop (List.map_id _ ▸ h))
  calc (s.regrouped qs f).squad p
      _ = (s.cleared qs f).squad p := squad_eachSquad_ne dropped _
      _ = ((s.repacked qs f).resumeAll qs f.s).squad p := squad_eachSquad_ne (by simpa using hp) _
      _ = (s.repacked qs f).squad p := squad_resumeAll_ne hp _ _
      _ = s.squad p := rearranged_repacked.2.1 p hp

theorem leftOnly_regrouped (q : Nat) : LeftOnly ((s.cleared qs f).squad q) ((s.regrouped qs f).squad q) := by
  refine eachSquad_rel (key := id) (g := fun _ x => x.retired) (R := LeftOnly) (fun _ => rfl) (fun x y z h k => ?_) (fun _ _ _ => rfl) _ q
  unfold LeftOnly at h k ⊢
  rw [h] at k
  exact k

variable (wait : AllWait s b 0xA3 f qs)
include wait

/-- A kept participant went on and runs. -/
theorem kept_regrouped {j : Nat} (hj : j < qs.length) (kept : j < s.keptCount qs) : let y := (s.regrouped qs f).squad (listAt qs j 0)
    LaneGoes { s.squad (listAt qs j 0) with run := .running } y (f.s = 1) ∧ y.run = .running := by
  intro y
  have hq : listAt qs j 0 ∈ qs := listAt_mem hj 0
  obtain ⟨z, moved, cleared, goes⟩ := movedOn_cleared (s := s) (f := f) wait.nodup hq
  have record : y = z.clearOff := (squad_retireFrom wait.nodup hj _ _).trans ((if_pos kept).trans cleared)
  obtain ⟨-, -, -, pc, all⟩ := wait
  obtain ⟨-, -, queued, out⟩ := all _ hq
  have nothing : z.clearOff.out = [] := calc
    z.out = ((s.repacked qs f).squad (listAt qs j 0)).out := by rw [moved]; rfl
    _ = (s.squad (listAt qs j 0)).out := by rw [rearranged_repacked.record (listAt qs j 0)]
    _ = [] := out
  rw [record]
  exact ⟨goes, goes.running rfl queued nothing⟩

theorem retired_regrouped {j : Nat} (hj : j < qs.length) (gone : s.keptCount qs ≤ j) : let y := (s.regrouped qs f).squad (listAt qs j 0)
    y.run = .exited ∧ y.fused = true := by
  intro y
  have record : y = ((s.cleared qs f).squad (listAt qs j 0)).retired :=
    (squad_retireFrom wait.nodup hj _ _).trans (if_neg (Nat.not_lt.2 gone))
  rw [record]
  exact ⟨rfl, rfl⟩

/-- The participants left are the kept ones, and run. -/
theorem allRun_regrouped : AllRun b qs (s.regrouped qs f) := by
  obtain ⟨participants, some_, -⟩ := id wait
  have squads : (s.regrouped qs f).squadsOf b = s.squadsOf b := by
    rw [regrouped_frame]
    rfl
  refine ⟨fun none_ => ?_, fun q hq => ?_⟩
  · have first : 0 < qs.length := List.length_pos_of_ne_nil some_
    have running := (kept_regrouped wait first ((lt_keptCount_iff ..).2 (by omega))).2
    have here : listAt qs 0 0 ∈ s.unexited b := participants ▸ listAt_mem first 0
    have left : listAt qs 0 0 ∈ (s.regrouped qs f).unexited b :=
      List.mem_filter.2 ⟨squads ▸ (List.mem_filter.1 here).1, by rw [Squad.exited, running]; rfl⟩
    rw [none_] at left
    cases left
  · obtain ⟨inside, left⟩ := List.mem_filter.1 hq
    by_cases among : q ∈ qs
    · obtain ⟨j, hj, rfl⟩ := List.mem_iff_getElem.1 among
      have at_ : listAt qs j 0 = qs[j] := by rw [listAt, List.getElem?_eq_getElem hj, Option.getD_some]
      refine ⟨among, ?_⟩
      rw [← at_] at left ⊢
      rcases Nat.lt_or_ge j (s.keptCount qs) with kept | gone
      · exact (kept_regrouped wait hj kept).2
      · rw [Squad.exited, (retired_regrouped wait hj gone).1] at left
        cases left
    · rw [squad_regrouped_ne among] at left
      exact absurd (participants ▸ List.mem_filter.2 ⟨squads ▸ inside, left⟩) among

/-- Lane i of all stands at position i in the end. -/
theorem carries_cleared (room : ∀ q ∈ qs, divL f ≤ (s.squad q).vws) {i : Nat} (hi : i < (s.allLanes qs).length) :
    let p := listAt (s.allLanes qs) i (0, 0); let z := posOf qs i
    Carries ((s.renumbered qs).squad p.1) p.2 ((s.cleared qs f).squad z.1) z.2 (divL f) := by
  intro p z
  have once := wait.nodup
  have inside : i / 32 < qs.length := by have := length_allLanes (s := s) (qs := qs); omega
  obtain ⟨y, moved, record, -⟩ := movedOn_cleared (s := s) (f := f) once (listAt_mem inside 0)
  have occupied : bitAt y.lanes (i % 32) = true := by
    rw [moved.lanes, (runsFirst_repacked once (i / 32) inside (i % 32) (Nat.mod_lt _ (by decide))).2, decide_eq_true_eq]
    omega
  have last := carries_trans (moved.carries (i % 32) (divL f)) (carries_clearOff occupied _)
  rw [← record] at last
  exact carries_trans (carries_repacked once room hi) last

theorem masks_cleared {j : Nat} (hj : j < qs.length) {k l : Nat} (lo : 1 ≤ k) (hk : k < 16) (hl : l < 32)
    (empty : (s.allLanes qs).length ≤ 32 * j + l) : bitAt (cellGet ((s.cleared qs f).squad (listAt qs j 0)).masks k) l = false := by
  obtain ⟨y, moved, record, -⟩ := movedOn_cleared (s := s) (f := f) wait.nodup (listAt_mem hj 0)
  rw [record, bitAt_clearOff y lo hk, moved.lanes, (runsFirst_repacked wait.nodup j hj l hl).2, decide_eq_false (by omega), Bool.and_false]

theorem regrp_completes (legal : (Instr.regrp f).wf = true) (open_ : (s.block b).stack = []) (same : Uniform s qs (divS f))
    (room : ∀ q ∈ qs, divL f ≤ (s.squad q).vws) (pacer : ∀ k m, (s.block b).pacer.run ≠ .barrier k m) :
    let all := lanesIn (qs.map (fun q => (q, (s.squad q).readM 0)))
    ∃ t, exec (.divergenceCollectiveComplete b) s = .next t ∧ SameBytes s t ∧ (∀ p, p ∉ qs → t.squad p = s.squad p) ∧
      RunsFirst t qs all.length ∧
      (∀ i, i < all.length → let p := listAt all i (0, 0); let z := posOf qs i; let x := s.squad p.1; let y := t.squad z.1
        cellGet y.laneids z.2 = BitVec.ofNat 32 i ∧ (∀ k, 1 ≤ k → k < 16 → bitAt (cellGet y.masks k) z.2 = bitAt (cellGet x.masks k) p.2) ∧
        ∀ r, r < divL f → y.readV r z.2 = x.readV r p.2) ∧
      ∀ j, j < qs.length → let x := s.squad (listAt qs j 0); let y := t.squad (listAt qs j 0)
        (∀ k l, 1 ≤ k → k < 16 → l < 32 → all.length ≤ 32 * j + l → bitAt (cellGet y.masks k) l = false) ∧
        (32 * j < max 1 all.length → LaneGoes { x with run := .running } y (f.s = 1)) ∧
        (max 1 all.length ≤ 32 * j → y.run = .exited ∧ y.fused = true) := by
  intro all
  have still : ((s.regrouped qs f).block b).pacer.run = (s.block b).pacer.run := by
    rw [regrouped_frame]
    rfl
  have moved := faultsMoved_regrp (allRun_regrouped wait) (ps := qs.drop (s.keptCount qs)) (fun q hq => List.mem_of_mem_drop hq)
    (by rw [still]; exact pacer)
  have run := (exec_regrp_complete wait legal).trans (congrArg _ (regrp_eq open_ same))
  obtain ⟨frame, others, records, -⟩ := moved
  generalize (((s.regrouped qs f).passFaults b (qs.drop (s.keptCount qs))).deliverTiles b).barriers b = t at run frame others records
  have left (q : Nat) : LeftOnly ((s.cleared qs f).squad q) (t.squad q) := by
    have kept := leftOnly_regrouped (s := s) (qs := qs) (f := f) q
    have record := records q
    unfold LeftOnly at kept ⊢
    rw [kept] at record
    rw [record]
  refine ⟨t, run, fun a => ?_, fun p hp => (others p hp).trans (squad_regrouped_ne hp), LeftOnly.runsFirst left (runsFirst_cleared wait.nodup),
    fun i hi => ?_, fun j hj => ⟨fun k l lo hk hl empty => ?_, fun holds => ?_, fun gone => ?_⟩⟩
  · rw [frame, regrouped_frame]
    rfl
  · have number := laneids_renumbered (s := s) wait.nodup hi
    obtain ⟨ids, bits, regs⟩ := carries_trans (carries_cleared wait room hi) ((left _).carries _ _)
    refine ⟨ids.trans number, fun k lo hk => (bits k lo hk).trans ?_, fun r hr => (regs r hr).trans ?_⟩
    · rw [State.renumbered, numberLanes_keeps]
    · rw [State.renumbered, numberLanes_keeps]
      rfl
  · rw [(left _).masks]
    exact masks_cleared wait hj lo hk hl empty
  · have goes := (kept_regrouped wait hj ((lt_keptCount_iff ..).2 holds)).1
    rw [records]
    exact goes
  · have exited := retired_regrouped wait hj (Nat.not_lt.1 fun kept => Nat.not_lt.2 gone ((lt_keptCount_iff ..).1 kept))
    rw [records]
    exact exited

end

-- The statement --------------------------------------------------------------------------------------------------------------------

/-- Settles O33: each word's effect is a chain of steps over the participants' records, of which each says what it moves (`Rearranged`)
and where a lane's state stands after it (`Carries`). -/
theorem divergenceCompletes : Obligations.DivergenceCompletes := by
  intro s b qs f n go parts path
  refine ⟨fun wait legal free => ⟨fun alike => ?_, fun live room same => ?_, fun live d differs handlers room => ?_⟩,
    fun c rest wait legal top first => ⟨fun alike squads => ?_, fun good => ?_⟩,
    fun c rest wait legal top => ⟨fun alike squads => ?_, fun good => ?_⟩, fun wait legal open_ same room _ pacer => ?_⟩
  · exact divb_alike_completes wait legal free alike
  · exact divb_live_completes wait legal free live room same
  · exact divb_differs_faults wait legal free live d differs handlers room
  · exact elseb_alike_completes wait legal top first alike squads
  · exact elseb_live_completes wait legal top first good
  · exact recv_alike_completes wait legal top alike squads
  · exact recv_live_completes wait legal top good
  · exact regrp_completes wait legal open_ same room pacer

end Sys2Proof.Machine
end
